-- ==== Sys2Proof/Word.lean ====
section
/-! DEFINITION. The plainest words of the model: bytes, register words, and the names of its units' numbers. -/

namespace Sys2Proof

/-- One byte of any memory of the module. -/
abbrev Byte := BitVec 8

/-- A word of a register, a flit or an instruction, read as a number. Its width stands where it is used: every
operation that can leave the width says `% 2 ^ w` itself. -/
abbrev Word := Nat

/-- A channel number: CH0 to CH11 (R22). -/
abbrev ChanNo := Nat

/-- A lantern's grid index, 48 × row + column, below 1,536 (R30, R473). -/
abbrev GridIdx := Nat

/-- A 48-bit device address (R470). -/
abbrev Addr := Nat

/-- A tick number of the timebase (R3). -/
abbrev Tick := Nat

end Sys2Proof
end

