-- ==== Sys2Proof/Syntax.lean ====
section
/-! DEFINITION. The commands that the module takes, with their operands. Where an operand is data that the environment supplies
(what a line carries, what a check finds, what a host holds), its docstring or its command's says so. -/

namespace Sys2Proof
/-- Who issues a register access (R16, R474). -/
inductive Requester where
  | host | hostCmd | i3c | keeper | debug
  deriving DecidableEq, Repr

/-- What a hardware check of R420 finds as an operation is made: nothing, a fault it corrects, or one it cannot. The
environment names it, since no rule foretells a fault. -/
inductive Check where
  | ok | corrected | uncorrectable
  deriving DecidableEq, Repr


/-- The number under which a requester's read data, captures and holds are kept. -/
def Requester.num : Requester → Nat
  | .host => 0 | .hostCmd => 1 | .i3c => 2 | .keeper => 3 | .debug => 4

/-- A place where a shared arbiter stands (R170). -/
inductive ArbPlace where
  | bank (g b : Nat)
  | hbm (pch : Nat)
  | port (p : Nat)
  deriving DecidableEq, Repr
/-- What a keeper's start-up self-test and HBM training report (R29, R299, R408): failed lanterns, and by grid index the
failed physical cores and, by core, the failed slices; the RATE code, if the stack trained; whether each attachment works. -/
structure CalReport where
  lans   : List Nat
  cores  : List (Nat × Nat)
  slices : List (Nat × Nat × Nat)
  rate   : Option Nat
  a0     : Bool
  a1     : Bool
  deriving DecidableEq, Repr

/-- The commands of the module, one constructor per row of the opcode table. -/
inductive Instr where
  /-- A requester writes `2 ^ z` bytes to device address `a` (R4, R6, R12 to R16, R475). -/
  | registerWrite (req : Requester) (a z v : Nat)
  /-- A requester reads the low half of a 64-bit register, which captures the high half (R5). -/
  | lowHalfRead (req : Requester) (a : Nat)
  /-- A read of CO_ACC_DATA_LO, CO_ACC_DATA_HI or CO_ACC_TAG (R139). -/
  | coAccDataRead (req : Requester) (c g k part : Nat)
  /-- A private transaction of the I3C port (R464). -/
  | i3cTransaction (o : Nat) (wr : Bool) (v : Nat)
  /-- Attachment `a` of a channel fails (R28). -/
  | attachmentFailed (c a : Nat)
  /-- The outcome of a failure of the lit half's attachment (R28). -/
  | attachmentLost (c a : Nat)
  /-- A keeper access to another channel's register window (R25). -/
  | misdirectedAccess (c a : Nat)
  /-- The core's sequencer asks for its next instruction line (R92). -/
  | insnLineFetch (c g k : Nat)
  /-- NOP issues and does nothing (R92). -/
  | nop (c g k : Nat)
  /-- TASK opens a task (R93, R107). -/
  | task (c g k : Nat)
  /-- OLOAD issues into the load queue (R94, R95). -/
  | oload (c g k : Nat)
  /-- An OLOAD asks for one line (R104). -/
  | oloadLineRequest (c g k : Nat)
  /-- A returned or padding line enters the operand buffer (R104). -/
  | oloadLineWrite (c g k : Nat)
  /-- A transposing read gathers its next source line (R149). -/
  | transposeGather (c g k : Nat)
  /-- TMUL issues into the multiply queue (R96). -/
  | tmul (c g k : Nat)
  /-- A TMUL starts and is checked (R77, R101, R103, R107, R109); `chk` is what its operand buffer reads meet (R420). -/
  | tmulStart (c g k : Nat) (chk : Check)
  /-- The intersection unit examines a group of two columns (R85 to R88). -/
  | intersectGroup (c g k : Nat)
  /-- One cycle of merge mode (R89). -/
  | mergeCycle (c g k : Nat)
  /-- One cycle of gather mode (R90). -/
  | gatherCycle (c g k : Nat)
  /-- The slice stage of a TMUL begins (R103). -/
  | sliceStageBegin (c g k : Nat)
  /-- The slice of output column `col` takes pairs (R79, R88); `chk` is what its residue check finds (R420). -/
  | sliceTakePair (c g k col : Nat) (chk : Check)
  /-- The oldest accumulator write in flight of a column takes effect (R115 to R119). -/
  | accumulate (c g k col : Nat)
  /-- DRAIN issues into the drain queue (R97). -/
  | drain (c g k : Nat)
  /-- A DRAIN starts and is checked (R132, R133). -/
  | drainStart (c g k : Nat)
  /-- A row passes the drain path (R120 to R131); `chk` is what SECDED finds in the cell of column `col` (R420). -/
  | drainRowRead (c g k col : Nat) (chk : Check)
  /-- A complete line of a DRAIN is requested as a write (R126, R133). -/
  | drainLineWrite (c g k : Nat)
  /-- FENCE holds issue until the named kinds are done (R98). -/
  | fence (c g k : Nat)
  /-- END closes the task (R99). -/
  | taskEnd (c g k : Nat)
  /-- A write of 1 to CO_CTRL.CLR_CNT (R113). -/
  | coClrCnt (req : Requester) (c g k : Nat)
  /-- A write of 1 to LN_CTRL.PARK (R143). -/
  | park (req : Requester) (c g : Nat)
  /-- The pending park of a lantern is complete (R143). -/
  | parkReached (c g : Nat)
  /-- A write of 1 to LN_CTRL.RESUME (R143, R144). -/
  | lanternResume (req : Requester) (c g : Nat)
  /-- The start of the tick after RESUME (R143). -/
  | lanternUnpark (c g : Nat)
  /-- A write of 1 to LN_CTRL.CLR_CNT (R173). -/
  | lnClrCnt (req : Requester) (c g : Nat)
  /-- The lantern pipe merges and presents its accesses (R152 to R155). -/
  | lanternPipeCycle (c g : Nat)
  /-- The owner of a bank's slot moves its access (R145 to R147, R161); `chk` is what SECDED finds in word `w` (R420). -/
  | scratchpadAccessGrant (c g b w : Nat) (chk : Check)
  /-- An access to the scratchpad window of a lantern (R174). -/
  | scratchpadWindowAccess (req : Requester) (c g off z : Nat) (wr : Bool) (v : Nat)
  /-- LN_POISON_CTRL.EN is set (R157). -/
  | lnPoisonEn (req : Requester) (c g : Nat)
  /-- A write header for a bank is accepted (R159). -/
  | fabricWriteHeader (c g b : Nat)
  /-- REQ of a bank has changed to 1 (R160). -/
  | bankPdRequest (c g b : Nat)
  /-- A draining bank enters retention (R160). -/
  | bankRetention (c g b : Nat)
  /-- LN_BANK_PD_TMO passes in draining (R160). -/
  | bankPdTimeout (c g b : Nat)
  /-- REQ of a bank has changed to 0 (R162). -/
  | bankWake (c g b : Nat)
  /-- The 64th cycle after the wake request (R162). -/
  | bankAwake (c g b : Nat)
  /-- A shared arbiter decides the owner of the next slot (R163 to R170). -/
  | arbiterDecision (c : Nat) (place : ArbPlace)
  /-- The engine asks for its next instruction line (R177). -/
  | veLineFetch (c g : Nat)
  /-- A vector load or store sends one request (R184). -/
  | veMemRequest (c g : Nat)
  /-- VNOP does nothing (R182). -/
  | vnop (c g : Nat)
  /-- VTASK opens a vector task (R177, R179). -/
  | vtask (c g : Nat)
  /-- VEND closes the vector task (R177). -/
  | vend (c g : Nat)
  /-- VSETVL sets VL (R179). -/
  | vsetvl (c g : Nat)
  /-- VLD loads strided elements (R184). -/
  | vld (c g : Nat)
  /-- VST stores the active elements (R184). -/
  | vst (c g : Nat)
  /-- VLDX loads at the indices in VB (R184). -/
  | vldx (c g : Nat)
  /-- VSTX stores at the indices in VB (R184). -/
  | vstx (c g : Nat)
  /-- MLD loads a mask register (R182). -/
  | mld (c g : Nat)
  /-- MST stores a mask register (R182). -/
  | mst (c g : Nat)
  /-- TLD loads a tile register (R182). -/
  | tld (c g : Nat)
  /-- TST stores a tile register (R182). -/
  | tst (c g : Nat)
  /-- WLD loads partial elements (R202). -/
  | wld (c g : Nat)
  /-- WST stores partial elements (R202). -/
  | wst (c g : Nat)
  /-- VSLE reads second-level scale entries (R205). -/
  | vsle (c g : Nat)
  /-- VADD (R192); `chk` is what the residue check of a lane finds (R420). -/
  | vadd (c g lane : Nat) (chk : Check)
  /-- VSUB (R192, R420). -/
  | vsub (c g lane : Nat) (chk : Check)
  /-- VMUL (R192, R420). -/
  | vmul (c g lane : Nat) (chk : Check)
  /-- VFMA (R192, R420). -/
  | vfma (c g lane : Nat) (chk : Check)
  /-- VFMS (R192, R420). -/
  | vfms (c g lane : Nat) (chk : Check)
  /-- VMIN (R192). -/
  | vmin (c g : Nat)
  /-- VMAX (R192). -/
  | vmax (c g : Nat)
  /-- VABS (R193). -/
  | vabs (c g : Nat)
  /-- VNEG (R193). -/
  | vneg (c g : Nat)
  /-- VDIV (R192). -/
  | vdiv (c g : Nat)
  /-- VSQRT (R192). -/
  | vsqrt (c g : Nat)
  /-- VLDEXP (R192). -/
  | vldexp (c g : Nat)
  /-- VCVT (R193). -/
  | vcvt (c g : Nat)
  /-- VAND (R182). -/
  | vand (c g : Nat)
  /-- VOR (R182). -/
  | vor (c g : Nat)
  /-- VXOR (R182). -/
  | vxor (c g : Nat)
  /-- VSHL (R193). -/
  | vshl (c g : Nat)
  /-- VSHR (R193). -/
  | vshr (c g : Nat)
  /-- VSEL (R182). -/
  | vsel (c g : Nat)
  /-- VMOVI (R182). -/
  | vmovi (c g : Nat)
  /-- VBCAST (R182). -/
  | vbcast (c g : Nat)
  /-- VEXP (R194). -/
  | vexp (c g : Nat)
  /-- VEXP2 (R194). -/
  | vexp2 (c g : Nat)
  /-- VLOG (R194). -/
  | vlog (c g : Nat)
  /-- VLOG2 (R194). -/
  | vlog2 (c g : Nat)
  /-- VRCP (R194). -/
  | vrcp (c g : Nat)
  /-- VRSQRT (R194). -/
  | vrsqrt (c g : Nat)
  /-- VTANH (R194). -/
  | vtanh (c g : Nat)
  /-- VSIGM (R194). -/
  | vsigm (c g : Nat)
  /-- VCMP (R186). -/
  | vcmp (c g : Nat)
  /-- MLOGIC (R182). -/
  | mlogic (c g : Nat)
  /-- MPOPC (R182). -/
  | mpopc (c g : Nat)
  /-- VCOMP (R187). -/
  | vcomp (c g : Nat)
  /-- VEXPD (R188). -/
  | vexpd (c g : Nat)
  /-- VPERM (R189). -/
  | vperm (c g : Nat)
  /-- VSLIDE (R189). -/
  | vslide (c g : Nat)
  /-- VRED (R190). -/
  | vred (c g : Nat)
  /-- TRED (R191). -/
  | tred (c g : Nat)
  /-- TGET (R182). -/
  | tget (c g : Nat)
  /-- TPUT (R182). -/
  | tput (c g : Nat)
  /-- TOPV (R191). -/
  | topv (c g : Nat)
  /-- TOPT (R182). -/
  | topt (c g : Nat)
  /-- SMX (R199 to R201). -/
  | smx (c g : Nat)
  /-- RSTAT (R196). -/
  | rstat (c g : Nat)
  /-- RCOMB (R197). -/
  | rcomb (c g : Nat)
  /-- RMV (R198). -/
  | rmv (c g : Nat)
  /-- WADD (R203). -/
  | wadd (c g : Nat)
  /-- WFIN (R204). -/
  | wfin (c g : Nat)
  /-- A write of 1 to VE_CTRL.CLR_CNT (R207). -/
  | veClrCnt (req : Requester) (c g : Nat)
  /-- A write of TD_Sn_CMD.START (R214). -/
  | start (req : Requester) (c g n : Nat)
  /-- A write of TD_Sn_CMD.STOP (R237). -/
  | stop (req : Requester) (c g n : Nat)
  /-- A write of TD_Sn_CMD.RESUME (R237). -/
  | resume (req : Requester) (c g n : Nat)
  /-- A write of TD_Sn_CMD.ABORT (R237, R238). -/
  | abort (req : Requester) (c g n : Nat)
  /-- A write of TD_Sn_REARM_DST (R235). -/
  | rearm (req : Requester) (c g n dst : Nat)
  /-- A moored stream restarts with its new endpoints (R235). -/
  | streamRestart (c g n : Nat)
  /-- The tender gives this cycle's step to a stream (R229); `host` is what the host's memory returns for a step that reads
  the host window. -/
  | streamStep (c g : Nat) (host : List (BitVec 8))
  /-- LOOP (R217). -/
  | loop (c g : Nat)
  /-- ADD (R216). -/
  | add (c g : Nat)
  /-- SET (R216). -/
  | set (c g : Nat)
  /-- XFER (R230); `host` as in STREAM_STEP. -/
  | xfer (c g : Nat) (host : List (BitVec 8))
  /-- FILL (R216). -/
  | fill (c g : Nat)
  /-- SKIP (R218). -/
  | skip (c g : Nat)
  /-- END of a stream program (R224). -/
  | progEnd (c g : Nat)
  /-- One entry of a block list (R220 to R222); `host` as in STREAM_STEP. -/
  | blockListEntry (c g : Nat) (host : List (BitVec 8))
  /-- The oldest transfer of a stream retires (R231). -/
  | transferRetire (c g n : Nat)
  /-- Every issued transfer of an ending stream has retired (R224). -/
  | streamEnd (c g n : Nat)
  /-- The refill of the token buckets (R233). -/
  | tokenRefill (c g : Nat)
  /-- A tick boundary counts stalls (R239). -/
  | stallCount (c g : Nat)
  /-- STALL has reached STALL_LIM (R239). -/
  | stallLimit (c g n : Nat)
  /-- The keeper follows the chains of notified streams (R240). -/
  | waitForCheck (c : Nat)
  /-- The oldest spilled slot is copied back (R241). -/
  | spillCopyBack (c g n : Nat)
  /-- STALL has reached STALL_ERR without a cycle (R242). -/
  | streamStalled (c g n : Nat)
  /-- A write of 1 to TD_CTRL.CLR_CNT (R244). -/
  | tdClrCnt (req : Requester) (c g : Nat)
  /-- A write of LN_BPn_INC.READY_INC (R225). -/
  | bpReadyInc (req : Requester) (c g n v : Nat)
  /-- A write of LN_BPn_INC.FREE_INC (R225). -/
  | bpFreeInc (req : Requester) (c g n v : Nat)
  /-- A write of 1 to LN_BPn_CTRL.INIT (R228). -/
  | bpInit (req : Requester) (c g n : Nat)
  /-- The merge hold of a request ends (R232). -/
  | mergeHoldEnd (c g n : Nat)
  /-- A write of LN_TQ_PUSH_HI pushes the entry (R246, R248). -/
  | taskPush (req : Requester) (c g hi : Nat)
  /-- The lantern promotes one task (R249, R250). -/
  | taskPromote (c g : Nat)
  /-- The lantern binds ready tasks to free units (R251, R254). -/
  | taskBind (c g : Nat)
  /-- The completed task of a core, or of the vector engine (64), is answered (R252, R289). -/
  | taskComplete (c g k : Nat)
  /-- A write of 1 to LN_TQ_CTRL.SQUASH (R254). -/
  | squash (req : Requester) (c g : Nat)
  /-- QUEUED contexts are admitted into free slots (R288). -/
  | sequenceAdmit (c : Nat)
  /-- A write of LN_WCw_ARM (R256). -/
  | wcArm (req : Requester) (c g w head tail : Nat)
  /-- An owner claim on a counter (R257, R258, R261). -/
  | ownerClaim (c g w : Nat)
  /-- A lantern sends a steal (R259). -/
  | stealRequest (c g w : Nat)
  /-- The counter unit serves a queued steal (R257). -/
  | stealServe (c g : Nat)
  /-- The response to a steal arrives (R259). -/
  | stealResponse (c g w : Nat)
  /-- The back-off of a counter ends (R259). -/
  | stealBackoffEnd (c g w : Nat)
  /-- A completed index reaches its counter (R260, R261). -/
  | indexComplete (c g : Nat)
  /-- A write of LN_WCw_REPLAY (R261). -/
  | wcReplay (req : Requester) (c g w idx : Nat)
  /-- An FSYNC edge at time `at_` (R270 to R274). -/
  | fsyncEdge (at_ : Nat)
  /-- LOCKED sets and tick 0 begins (R274). -/
  | timebaseLock
  /-- Tick 0 begins in holdover without a lock (R274). -/
  | freerunStart (at_ : Nat)
  /-- A holdover tick of the bridge begins (R271). -/
  | holdoverTick
  /-- MISS_RUN has reached MISS_ALARM (R272). -/
  | frameClockAlarm
  /-- HOLDOVER clears (R273). -/
  | holdoverEnd
  /-- A write of 1 to TB_CTRL.CLR_CNT (R280). -/
  | tbClrCnt (req : Requester)
  /-- The bridge's tick message reaches a channel (R276, R355). -/
  | tickMessage (c : Nat)
  /-- A channel tick begins (R284). -/
  | channelTick (c : Nat)
  /-- A channel tick begins without a message (R277). -/
  | channelHoldoverTick (c : Nat)
  /-- DEBT has reached DEBT_ALARM (R290). -/
  | deadlineDebt (c n : Nat)
  /-- The keeper breaks an expired lock (R294, R296). -/
  | lockBreak (c n : Nat)
  /-- The context command NONE (R293). -/
  | ctxNone (req : Requester) (c n : Nat)
  /-- The context command ARM (R293, R409). -/
  | ctxArm (req : Requester) (c n owner arg : Nat)
  /-- The context command HOLD (R293). -/
  | ctxHold (req : Requester) (c n owner : Nat)
  /-- The context command UNHOLD (R293). -/
  | ctxUnhold (req : Requester) (c n owner : Nat)
  /-- The context command FREE (R293). -/
  | ctxFree (req : Requester) (c n owner : Nat)
  /-- The context command CLEAR_DEBT (R293). -/
  | ctxClearDebt (req : Requester) (c n owner : Nat)
  /-- The context command MARK (R285, R293). -/
  | ctxMark (req : Requester) (c n arg : Nat)
  /-- The context command ACQUIRE (R293, R294). -/
  | ctxAcquire (req : Requester) (c n owner lease : Nat)
  /-- The context command RENEW (R293). -/
  | ctxRenew (req : Requester) (c n owner lease : Nat)
  /-- The context command RELEASE (R293). -/
  | ctxRelease (req : Requester) (c n owner : Nat)
  /-- The context command REVALIDATE (R293, R296). -/
  | ctxRevalidate (req : Requester) (c n owner : Nat)
  /-- A write of 1 to CH_CTX_CTRL.CLR_CNT (R297). -/
  | chCtxClrCnt (req : Requester) (c : Nat)
  /-- A share window begins (R304, R307). -/
  | hbmWindowStart (c : Nat)
  /-- Lending begins in the window (R305). -/
  | lendingStart (c : Nat)
  /-- The share gate admits a request of a class (R304 to R306). -/
  | shareGateAdmit (c cls : Nat)
  /-- The read at place `at_` of a port's command queue completes (R311, R314); `errs` are the symbols in error, `miss` the
  pins whose second sampler differs. -/
  | hbmReadComplete (c p at_ : Nat) (errs : List (Nat × Nat)) (odecc : Bool) (miss : List Nat)
  /-- The partial write at place `at_` of a port's command queue is performed (R301, R312). -/
  | hbmReadModifyWrite (c p at_ : Nat) (errs : List (Nat × Nat)) (odecc : Bool) (miss : List Nat)
  /-- A pseudo-channel owes one more refresh (R308). -/
  | refreshDue (c p : Nat)
  /-- The owed refreshes have reached POSTPONE (R308). -/
  | refreshEmergency (c p : Nat)
  /-- A patrol scrub read (R313). -/
  | scrubRead (c line : Nat) (errs : List (Nat × Nat)) (odecc : Bool) (miss : List Nat)
  /-- A pin's read centring is examined (R314). -/
  | retrainExamine (c p pin : Nat)
  /-- A translation walk ends (R318). -/
  | xltWalk (c page : Nat)
  /-- A write of HM_XLT_INV.PAGE (R318). -/
  | xltInvPage (req : Requester) (c page : Nat)
  /-- A write of HM_XLT_INV with ALL set (R318). -/
  | xltInvAll (req : Requester) (c : Nat)
  /-- No access translated by a removed entry is outstanding (R318). -/
  | invalidateDone (c : Nat)
  /-- FAULT_TMO ticks pass without the ready signal (R319). -/
  | pageFaultTimeout (c page : Nat)
  /-- A write of 1 to HM_CTRL.CLR_CNT (R322). -/
  | hmClrCnt (req : Requester) (c : Nat)
  /-- A training frame on received lane `lane` (R325, R329); `eq` and `desk` are what the receiver has reached. -/
  | trainingFrame (c p lane : Nat) (hdr : List (BitVec 8)) (eq desk : Bool)
  /-- A training step's end condition is met (R329). -/
  | linkTrainStepDone (c p : Nat)
  /-- A training step times out (R330). -/
  | linkTrainTimeout (c p : Nat)
  /-- Ten milliseconds after a failed attempt (R330). -/
  | linkRetry (c p : Nat)
  /-- A port retrains (R341). -/
  | linkRetrain (c p : Nat)
  /-- A write of 1 to LK_CTRL.RETRAIN (R341). -/
  | lkCtrlRetrain (req : Requester) (c p : Nat)
  /-- A write of 1 to LK_CTRL.CLR_CNT (R367). -/
  | lkClrCnt (req : Requester) (c p : Nat)
  /-- A marker slot leaves (R328). -/
  | markerSend (c p : Nat)
  /-- A marker block arrives on the physical lanes (R328). -/
  | markerReceive (c p : Nat) (blocks : List (List (BitVec 8)))
  /-- Three markers in a row were not recognised (R328). -/
  | markerLockLost (c p : Nat)
  /-- A flit slot of the sender at time `now` (R345, R346). -/
  | flitSlot (c p now : Nat)
  /-- A flit arrives on the physical lanes (R336 to R340). -/
  | flitReceive (c p : Nat) (lanes : List (List (BitVec 8)))
  /-- NAK_TMO slots pass without the expected SEQ (R340). -/
  | nakTimeout (c p : Nat)
  /-- Credits have waited for 32 slots (R343). -/
  | creditTimeout (c p : Nat)
  /-- An INIT flit takes effect (R331). -/
  | init (c p : Nat)
  /-- A PING flit takes effect (R332). -/
  | ping (c p now : Nat)
  /-- A PONG flit takes effect (R332). -/
  | pong (c p now : Nat)
  /-- A CREDIT flit takes effect (R343). -/
  | credit (c p : Nat)
  /-- A ROT flit takes effect (R365). -/
  | rot (c p : Nat)
  /-- A ROT_ACK flit takes effect (R365). -/
  | rotAck (c p : Nat)
  /-- A TXEQ flit takes effect (R364). -/
  | txeq (c p : Nat)
  /-- A RETRAIN flit takes effect (R341). -/
  | retrain (c p : Nat)
  /-- A rotation enters its next phase at the named marker (R365). -/
  | rotationPhase (c p : Nat)
  /-- A lane's correction count has reached a threshold (R366). -/
  | laneRecalThreshold (c p n : Nat)
  /-- A read request is served (R349). -/
  | rdReq (c : Nat)
  /-- A write request is served (R349). -/
  | wrReq (c : Nat)
  /-- A read response arrives (R350). -/
  | rdRsp (c : Nat)
  /-- A write acknowledgement arrives (R350). -/
  | wrAck (c : Nat)
  /-- REQ_TMO passes without a response (R350). -/
  | requestTimeout (c tag : Nat)
  /-- A buoy update packet (R227). -/
  | bpUpdate (c : Nat)
  /-- A FIFO data packet (R360). -/
  | fifoData (c : Nat)
  /-- A stream-data packet lands (R227). -/
  | bpData (c : Nat)
  /-- A context-mark packet (R285, R352). -/
  | ctxMarkPacket (c : Nat)
  /-- A tick marker that has arrived at time `at_` (R279, R353). -/
  | tick (c at_ : Nat)
  /-- A fog packet (R354, R435). -/
  | fog (c : Nat)
  /-- SETTLE cycles have passed since an egress change (R358). -/
  | routeSettleEnd (c dst : Nat)
  /-- A write of 1 to LK_RT_CTRL.CLR_CNT (R368). -/
  | lkRtClrCnt (req : Requester) (c : Nat)
  /-- A write of 1 to LK_FIFOn_CTRL.CUT (R361). -/
  | cut (req : Requester) (c n : Nat)
  /-- A write of 1 to LK_FIFOn_CTRL.FLUSH (R361). -/
  | flush (req : Requester) (c n : Nat)
  /-- The level of a FIFO is evaluated (R362). -/
  | fifoLevel (c n : Nat)
  /-- PERST_N is asserted (R372). -/
  | perstAssert
  /-- PERST_N is deasserted (R407). -/
  | perstDeassert
  /-- A function level reset (R373). -/
  | functionLevelReset
  /-- The CXL link goes down (R371). -/
  | hostLinkDown
  /-- A configuration request (R374, R375, R407). -/
  | configRequest (o : Nat) (wr : Bool) (v : Nat)
  /-- A BAR0 access to the channel aperture (R375, R376). -/
  | apertureAccess (off z : Nat) (wr : Bool) (v : Nat)
  /-- A host CXL.mem read at device address `d` (R378, R379). -/
  | hdmRead (d tag : Nat) (enter : Bool)
  /-- A host CXL.mem write at device address `d` (R378). -/
  | hdmWrite (d tag : Nat) (data : List (BitVec 8)) (mask : List Bool)
  /-- BIRspI arrives, after a write-back if there is one (R379). -/
  | biRspI (c line : Nat) (wb : Option (List (BitVec 8)))
  /-- BIRspI has not arrived within TMO (R379). -/
  | biTimeout (c line : Nat)
  /-- A write of `size` bytes at an offset of the doorbell page of a ring pair: a command-ring tail (R380, R381). -/
  | crTailDoorbell (r off size v : Nat)
  /-- A completion-ring head doorbell (R380, R381). -/
  | cpHeadDoorbell (r v : Nat)
  /-- A write of 1 to HP_RINGr_CFG.EN (R381). -/
  | ringEnable (req : Requester) (r : Nat)
  /-- The bridge reads the next command entry, `entry` as the host holds it (R382). -/
  | commandFetch (r : Nat) (entry : List (BitVec 8))
  /-- The host command NOP (R383). -/
  | cmdNop (r : Nat)
  /-- The host command CTX (R383). -/
  | cmdCtx (r : Nat)
  /-- The host command PAGE_READY (R319, R383). -/
  | cmdPageReady (r : Nat)
  /-- The host command MOVE (R383): `data` is what the host range holds, `errs` the host lines that answer with an error. -/
  | cmdMove (r : Nat) (data : List (BitVec 8)) (errs : List Nat)
  /-- The host command SNAP (R383). -/
  | cmdSnap (r : Nat)
  /-- The host command REG_WRITE (R383). -/
  | cmdRegWrite (r : Nat)
  /-- The bridge writes the next completion or event entry (R384 to R386). -/
  | completionWrite (r : Nat)
  /-- The end of a tick that leaves unsignalled entries (R385). -/
  | msixCoalesceFlush (r : Nat)
  /-- A write of a vector's MSI-X table entry, or of the function mask: a mask that clears sends what is pending (R377). -/
  | msixUnmask (vec : Option Nat) (addr data : Nat) (mask : Bool)
  /-- A write of 1 to HP_CTRL.CLR_CNT (R388). -/
  | hpClrCnt (req : Requester)
  /-- The mailbox command Identify Memory Device (R370). -/
  | identifyMemoryDevice
  /-- The mailbox command Get Supported Logs (R370). -/
  | getSupportedLogs
  /-- The mailbox command Get Log (R370). -/
  | getLog
  /-- The mailbox command Get Health Info (R370). -/
  | getHealthInfo
  /-- Any other mailbox opcode (R370). -/
  | mailboxUnsupported
  /-- CXL link training completes (R370, R371): `rates` and `widths` are masks of what the host supports. -/
  | hostLinkUp (rates widths : Nat) (flit68 : Bool)
  /-- A host snoop removes a line from the device cache (R382). -/
  | deviceCacheSnoop (addr : Nat)
  /-- The SPDM request GET_VERSION (R414). -/
  | getVersion
  /-- The SPDM request GET_CAPABILITIES (R414). -/
  | getCapabilities
  /-- The SPDM request NEGOTIATE_ALGORITHMS (R414). -/
  | negotiateAlgorithms
  /-- The SPDM request GET_DIGESTS (R414). -/
  | getDigests
  /-- The SPDM request GET_CERTIFICATE for a part of the chain (R413). -/
  | getCertificate (off len : Nat)
  /-- The SPDM request CHALLENGE (R414). -/
  | challenge
  /-- The SPDM request GET_MEASUREMENTS (R414). -/
  | getMeasurements (index : Nat)
  /-- Any other SPDM request (R414). -/
  | spdmUnsupported
  /-- MOD_RESET_N is asserted (R389). -/
  | modResetAssert
  /-- MOD_RESET_N is released with the level of LIGHT_PREF (R390, R403). -/
  | modResetRelease (pref : Nat)
  /-- A half finishes its ROM self-test and PUF read (R403, R412). -/
  | romSelfTestDone (h : Nat) (pass idOk : Bool)
  /-- A half has seen no LIT frame within 20 ms (R403). -/
  | electionTimeout (h : Nat)
  /-- A frame time: every half but the silent ones sends its token frame (R401). -/
  | tokenFrameSend (silent : List Nat)
  /-- A token frame arrives from a half's line (R402). -/
  | tokenFrame (h w : Nat)
  /-- A dark half claims the light (R404). -/
  | lightTakeover (h : Nat)
  /-- The watchdog resets a silent half (R405). -/
  | halfWatchdog (h : Nat)
  /-- The lit half verifies the image of the device in turn, which may not respond (R398, R399). -/
  | imageVerify (responds : Bool)
  /-- Keeper firmware lands in a channel (R400, R406). -/
  | keeperFwLanded (c : Nat)
  /-- A channel has not reported within 30 ms (R398). -/
  | distributionTimeout (c : Nat)
  /-- A keeper reports the end of calibration (R29, R299, R408). -/
  | calibrationDone (c : Nat) (rep : CalReport)
  /-- A keeper has not reported within 600 ms (R408). -/
  | calibrationTimeout (c : Nat)
  /-- A write of 1 to MOD_RUN.GO (R409). -/
  | go (req : Requester)
  /-- The flash command READ (R415). -/
  | flashRead (req : Requester) (dev addr : Nat)
  /-- The flash command PROGRAM (R415). -/
  | flashProgram (req : Requester) (dev addr : Nat)
  /-- The flash command ERASE (R415). -/
  | flashErase (req : Requester) (dev addr : Nat)
  /-- A flash command finishes (R415). -/
  | flashCmdDone (err : Bool)
  /-- The keeper of a channel, or the lit half, takes the next record of its ring (R421, R422, R428). -/
  | keeperTakeRecord (who : Option Nat)
  /-- A health window boundary (R366, R427). -/
  | healthWindow (c : Nat)
  /-- No task of a retiring core remains open (R429). -/
  | coreRetireComplete (c g n : Nat)
  /-- A task of a retiring core is still open after the period (R429). -/
  | coreRetireTimeout (c g n : Nat)
  /-- The sequence of a channel-fatal record (R431). -/
  | channelLoss (c : Nat)
  /-- A keeper has applied the ordered placement and reports (R431). -/
  | placementResume (c : Nat)
  /-- A lockstep mismatch of the keeper (R420). -/
  | keeperFault (c : Nat)
  /-- A parity error on the channel fabric (R420). -/
  | fabricFault (c : Nat)
  /-- The steps on a module-fatal record (R434). -/
  | moduleFatal
  /-- FOG_N is sensed low (R435). -/
  | fogNLow
  /-- No FOG packet has come within 1 ms of the line (R435). -/
  | fogLineTimeout
  /-- A dump is complete (R436, R437). -/
  | dumpDone (c : Nat)
  /-- The lit half copies the next finished dump to host memory (R438). -/
  | dumpHostCopy
  /-- A write of 1 to ERR_CTRL.CLR_CNT (R439). -/
  | errClrCnt (req : Requester) (c : Nat)
  /-- A write of 1 to ERR_MOD_CTRL.CLR_CNT (R440). -/
  | errModClrCnt (req : Requester)
  /-- The sample of the supplies every 10 µs (R443): inputs in mV, and rails by channel, row and part in 0.1 mV. -/
  | supplySample (vin vaux : Nat) (rails : List (Nat × Nat × Nat × Int))
  /-- A supply has been out of limits for 100 µs (R443). -/
  | supplyFault
  /-- The lit half sets NB_CAP before a tick (R447). -/
  | neighbourVoltageCheck
  /-- Either end of the stop in which the array clock switches (R448). -/
  | clockSwitch (c : Nat)
  /-- The change of the operating point ends (R448). -/
  | opChangeDone (c : Nat)
  /-- VCORE falls more than 40 mV below its setpoint (R450). -/
  | vcoreDroop (c : Nat)
  /-- VCORE recovers (R450). -/
  | droopRecover (c : Nat)
  /-- The junction sensors are read (R451); the stack's sensor too (R308). -/
  | tempSample (c : Nat) (logic base : List Int) (stack : Int)
  /-- The end of 1 ms at or above THR_HI (R451). -/
  | thermalRaise (c : Nat)
  /-- The end of 10 ms below THR_LO (R451). -/
  | thermalLower (c : Nat)
  /-- The lit half compares the temperatures of neighbours (R452). -/
  | neighbourTempCheck
  /-- Ten samples in a row at 105 °C or more (R453). -/
  | overTemperature (c : Nat)
  /-- The averages of 1 ms: input voltage, current and power, and the power of each channel (R454). -/
  | powerCapRaise (mv ma w : Nat) (watts : List Nat)
  /-- Ten milliseconds below 95 % of both limits (R454). -/
  | powerCapLower
  /-- A write of 1 to bits of MOD_CH_OFF (R455). -/
  | channelPowerDown (req : Requester) (mask : Nat)
  /-- A write of 1 to CH_PWR_CTRL.CLR_CNT (R457). -/
  | chPwrClrCnt (req : Requester) (c : Nat)
  /-- A write of 1 to MOD_MAP_CTRL.CLR_CNT (R474). -/
  | modMapClrCnt (req : Requester)
  /-- VIN or VAUX is removed (R456). -/
  | supplyRemoved
  /-- The debug port asks for an access to a bank or a pseudo-channel (R170). -/
  | debugPortAccess (c : Nat) (place : ArbPlace) (line : Nat) (wr : Bool) (data : List (BitVec 8)) (mask : List Bool)
  deriving DecidableEq, Repr

end Sys2Proof
end

