-- ==== Sys2Proof/WellFormed.lean ====
section
/-! DEFINITION. The commands whose operands name units that the module has: a channel (R22), a lantern (R30), a core of a lantern
(R140), a bank (R145), a stream (R208), a counter (R256), a context slot (R284), a pseudo-channel (R298), a port (R323), a ring pair
(R380), a half (R401). -/

namespace Sys2Proof

/-- The place of an arbiter exists (R170). -/
def ArbPlace.ok : ArbPlace → Bool
  | .bank g b => decide (g < 1536) && decide (b < 16)
  | .hbm pch => decide (pch < 64)
  | .port p => decide (p < 3)

/-- A keeper's channel exists, or the lit half is meant (R422). -/
def optOk : Option Nat → Bool
  | some c => decide (c < 12)
  | none => true

/-- Every unit number that the command names exists. -/
def Instr.wellFormed : Instr → Bool
  | .registerWrite _ _ _ _ => true
  | .lowHalfRead _ _ => true
  | .coAccDataRead _ c g k part => decide (c < 12) && decide (g < 1536) && decide (k < 64) && decide (part < 3)
  | .i3cTransaction _ _ _ => true
  | .attachmentFailed c a => decide (c < 12) && decide (a < 2)
  | .attachmentLost c a => decide (c < 12) && decide (a < 2)
  | .misdirectedAccess c _ => decide (c < 12)
  | .insnLineFetch c g k => decide (c < 12) && decide (g < 1536) && decide (k < 64)
  | .nop c g k => decide (c < 12) && decide (g < 1536) && decide (k < 64)
  | .task c g k => decide (c < 12) && decide (g < 1536) && decide (k < 64)
  | .oload c g k => decide (c < 12) && decide (g < 1536) && decide (k < 64)
  | .oloadLineRequest c g k => decide (c < 12) && decide (g < 1536) && decide (k < 64)
  | .oloadLineWrite c g k => decide (c < 12) && decide (g < 1536) && decide (k < 64)
  | .transposeGather c g k => decide (c < 12) && decide (g < 1536) && decide (k < 64)
  | .tmul c g k => decide (c < 12) && decide (g < 1536) && decide (k < 64)
  | .tmulStart c g k _ => decide (c < 12) && decide (g < 1536) && decide (k < 64)
  | .intersectGroup c g k => decide (c < 12) && decide (g < 1536) && decide (k < 64)
  | .mergeCycle c g k => decide (c < 12) && decide (g < 1536) && decide (k < 64)
  | .gatherCycle c g k => decide (c < 12) && decide (g < 1536) && decide (k < 64)
  | .sliceStageBegin c g k => decide (c < 12) && decide (g < 1536) && decide (k < 64)
  | .sliceTakePair c g k _ _ => decide (c < 12) && decide (g < 1536) && decide (k < 64)
  | .accumulate c g k _ => decide (c < 12) && decide (g < 1536) && decide (k < 64)
  | .drain c g k => decide (c < 12) && decide (g < 1536) && decide (k < 64)
  | .drainStart c g k => decide (c < 12) && decide (g < 1536) && decide (k < 64)
  | .drainRowRead c g k _ _ => decide (c < 12) && decide (g < 1536) && decide (k < 64)
  | .drainLineWrite c g k => decide (c < 12) && decide (g < 1536) && decide (k < 64)
  | .fence c g k => decide (c < 12) && decide (g < 1536) && decide (k < 64)
  | .taskEnd c g k => decide (c < 12) && decide (g < 1536) && decide (k < 64)
  | .coClrCnt _ c g k => decide (c < 12) && decide (g < 1536) && decide (k < 64)
  | .park _ c g => decide (c < 12) && decide (g < 1536)
  | .parkReached c g => decide (c < 12) && decide (g < 1536)
  | .lanternResume _ c g => decide (c < 12) && decide (g < 1536)
  | .lanternUnpark c g => decide (c < 12) && decide (g < 1536)
  | .lnClrCnt _ c g => decide (c < 12) && decide (g < 1536)
  | .lanternPipeCycle c g => decide (c < 12) && decide (g < 1536)
  | .scratchpadAccessGrant c g b _ _ => decide (c < 12) && decide (g < 1536) && decide (b < 16)
  | .scratchpadWindowAccess _ c g _ _ _ _ => decide (c < 12) && decide (g < 1536)
  | .lnPoisonEn _ c g => decide (c < 12) && decide (g < 1536)
  | .fabricWriteHeader c g b => decide (c < 12) && decide (g < 1536) && decide (b < 16)
  | .bankPdRequest c g b => decide (c < 12) && decide (g < 1536) && decide (b < 16)
  | .bankRetention c g b => decide (c < 12) && decide (g < 1536) && decide (b < 16)
  | .bankPdTimeout c g b => decide (c < 12) && decide (g < 1536) && decide (b < 16)
  | .bankWake c g b => decide (c < 12) && decide (g < 1536) && decide (b < 16)
  | .bankAwake c g b => decide (c < 12) && decide (g < 1536) && decide (b < 16)
  | .arbiterDecision c place => decide (c < 12) && place.ok
  | .veLineFetch c g => decide (c < 12) && decide (g < 1536)
  | .veMemRequest c g => decide (c < 12) && decide (g < 1536)
  | .vnop c g => decide (c < 12) && decide (g < 1536)
  | .vtask c g => decide (c < 12) && decide (g < 1536)
  | .vend c g => decide (c < 12) && decide (g < 1536)
  | .vsetvl c g => decide (c < 12) && decide (g < 1536)
  | .vld c g => decide (c < 12) && decide (g < 1536)
  | .vst c g => decide (c < 12) && decide (g < 1536)
  | .vldx c g => decide (c < 12) && decide (g < 1536)
  | .vstx c g => decide (c < 12) && decide (g < 1536)
  | .mld c g => decide (c < 12) && decide (g < 1536)
  | .mst c g => decide (c < 12) && decide (g < 1536)
  | .tld c g => decide (c < 12) && decide (g < 1536)
  | .tst c g => decide (c < 12) && decide (g < 1536)
  | .wld c g => decide (c < 12) && decide (g < 1536)
  | .wst c g => decide (c < 12) && decide (g < 1536)
  | .vsle c g => decide (c < 12) && decide (g < 1536)
  | .vadd c g _ _ => decide (c < 12) && decide (g < 1536)
  | .vsub c g _ _ => decide (c < 12) && decide (g < 1536)
  | .vmul c g _ _ => decide (c < 12) && decide (g < 1536)
  | .vfma c g _ _ => decide (c < 12) && decide (g < 1536)
  | .vfms c g _ _ => decide (c < 12) && decide (g < 1536)
  | .vmin c g => decide (c < 12) && decide (g < 1536)
  | .vmax c g => decide (c < 12) && decide (g < 1536)
  | .vabs c g => decide (c < 12) && decide (g < 1536)
  | .vneg c g => decide (c < 12) && decide (g < 1536)
  | .vdiv c g => decide (c < 12) && decide (g < 1536)
  | .vsqrt c g => decide (c < 12) && decide (g < 1536)
  | .vldexp c g => decide (c < 12) && decide (g < 1536)
  | .vcvt c g => decide (c < 12) && decide (g < 1536)
  | .vand c g => decide (c < 12) && decide (g < 1536)
  | .vor c g => decide (c < 12) && decide (g < 1536)
  | .vxor c g => decide (c < 12) && decide (g < 1536)
  | .vshl c g => decide (c < 12) && decide (g < 1536)
  | .vshr c g => decide (c < 12) && decide (g < 1536)
  | .vsel c g => decide (c < 12) && decide (g < 1536)
  | .vmovi c g => decide (c < 12) && decide (g < 1536)
  | .vbcast c g => decide (c < 12) && decide (g < 1536)
  | .vexp c g => decide (c < 12) && decide (g < 1536)
  | .vexp2 c g => decide (c < 12) && decide (g < 1536)
  | .vlog c g => decide (c < 12) && decide (g < 1536)
  | .vlog2 c g => decide (c < 12) && decide (g < 1536)
  | .vrcp c g => decide (c < 12) && decide (g < 1536)
  | .vrsqrt c g => decide (c < 12) && decide (g < 1536)
  | .vtanh c g => decide (c < 12) && decide (g < 1536)
  | .vsigm c g => decide (c < 12) && decide (g < 1536)
  | .vcmp c g => decide (c < 12) && decide (g < 1536)
  | .mlogic c g => decide (c < 12) && decide (g < 1536)
  | .mpopc c g => decide (c < 12) && decide (g < 1536)
  | .vcomp c g => decide (c < 12) && decide (g < 1536)
  | .vexpd c g => decide (c < 12) && decide (g < 1536)
  | .vperm c g => decide (c < 12) && decide (g < 1536)
  | .vslide c g => decide (c < 12) && decide (g < 1536)
  | .vred c g => decide (c < 12) && decide (g < 1536)
  | .tred c g => decide (c < 12) && decide (g < 1536)
  | .tget c g => decide (c < 12) && decide (g < 1536)
  | .tput c g => decide (c < 12) && decide (g < 1536)
  | .topv c g => decide (c < 12) && decide (g < 1536)
  | .topt c g => decide (c < 12) && decide (g < 1536)
  | .smx c g => decide (c < 12) && decide (g < 1536)
  | .rstat c g => decide (c < 12) && decide (g < 1536)
  | .rcomb c g => decide (c < 12) && decide (g < 1536)
  | .rmv c g => decide (c < 12) && decide (g < 1536)
  | .wadd c g => decide (c < 12) && decide (g < 1536)
  | .wfin c g => decide (c < 12) && decide (g < 1536)
  | .veClrCnt _ c g => decide (c < 12) && decide (g < 1536)
  | .start _ c g n => decide (c < 12) && decide (g < 1536) && decide (n < 16)
  | .stop _ c g n => decide (c < 12) && decide (g < 1536) && decide (n < 16)
  | .resume _ c g n => decide (c < 12) && decide (g < 1536) && decide (n < 16)
  | .abort _ c g n => decide (c < 12) && decide (g < 1536) && decide (n < 16)
  | .rearm _ c g n _ => decide (c < 12) && decide (g < 1536) && decide (n < 16)
  | .streamRestart c g n => decide (c < 12) && decide (g < 1536) && decide (n < 16)
  | .streamStep c g _ => decide (c < 12) && decide (g < 1536)
  | .loop c g => decide (c < 12) && decide (g < 1536)
  | .add c g => decide (c < 12) && decide (g < 1536)
  | .set c g => decide (c < 12) && decide (g < 1536)
  | .xfer c g _ => decide (c < 12) && decide (g < 1536)
  | .fill c g => decide (c < 12) && decide (g < 1536)
  | .skip c g => decide (c < 12) && decide (g < 1536)
  | .progEnd c g => decide (c < 12) && decide (g < 1536)
  | .blockListEntry c g _ => decide (c < 12) && decide (g < 1536)
  | .transferRetire c g n => decide (c < 12) && decide (g < 1536) && decide (n < 16)
  | .streamEnd c g n => decide (c < 12) && decide (g < 1536) && decide (n < 16)
  | .tokenRefill c g => decide (c < 12) && decide (g < 1536)
  | .stallCount c g => decide (c < 12) && decide (g < 1536)
  | .stallLimit c g n => decide (c < 12) && decide (g < 1536) && decide (n < 16)
  | .waitForCheck c => decide (c < 12)
  | .spillCopyBack c g n => decide (c < 12) && decide (g < 1536) && decide (n < 16)
  | .streamStalled c g n => decide (c < 12) && decide (g < 1536) && decide (n < 16)
  | .tdClrCnt _ c g => decide (c < 12) && decide (g < 1536)
  | .bpReadyInc _ c g n _ => decide (c < 12) && decide (g < 1536) && decide (n < 32)
  | .bpFreeInc _ c g n _ => decide (c < 12) && decide (g < 1536) && decide (n < 32)
  | .bpInit _ c g n => decide (c < 12) && decide (g < 1536) && decide (n < 32)
  | .mergeHoldEnd c g n => decide (c < 12) && decide (g < 1536) && decide (n < 16)
  | .taskPush _ c g _ => decide (c < 12) && decide (g < 1536)
  | .taskPromote c g => decide (c < 12) && decide (g < 1536)
  | .taskBind c g => decide (c < 12) && decide (g < 1536)
  | .taskComplete c g k => decide (c < 12) && decide (g < 1536) && decide (k < 65)
  | .squash _ c g => decide (c < 12) && decide (g < 1536)
  | .sequenceAdmit c => decide (c < 12)
  | .wcArm _ c g w _ _ => decide (c < 12) && decide (g < 1536) && decide (w < 16)
  | .ownerClaim c g w => decide (c < 12) && decide (g < 1536) && decide (w < 16)
  | .stealRequest c g w => decide (c < 12) && decide (g < 1536) && decide (w < 16)
  | .stealServe c g => decide (c < 12) && decide (g < 1536)
  | .stealResponse c g w => decide (c < 12) && decide (g < 1536) && decide (w < 16)
  | .stealBackoffEnd c g w => decide (c < 12) && decide (g < 1536) && decide (w < 16)
  | .indexComplete c g => decide (c < 12) && decide (g < 1536)
  | .wcReplay _ c g w _ => decide (c < 12) && decide (g < 1536) && decide (w < 16)
  | .fsyncEdge _ => true
  | .timebaseLock => true
  | .freerunStart _ => true
  | .holdoverTick => true
  | .frameClockAlarm => true
  | .holdoverEnd => true
  | .tbClrCnt _ => true
  | .tickMessage c => decide (c < 12)
  | .channelTick c => decide (c < 12)
  | .channelHoldoverTick c => decide (c < 12)
  | .deadlineDebt c n => decide (c < 12) && decide (n < 1024)
  | .lockBreak c n => decide (c < 12) && decide (n < 1024)
  | .ctxNone _ c n => decide (c < 12) && decide (n < 1024)
  | .ctxArm _ c n _ _ => decide (c < 12) && decide (n < 1024)
  | .ctxHold _ c n _ => decide (c < 12) && decide (n < 1024)
  | .ctxUnhold _ c n _ => decide (c < 12) && decide (n < 1024)
  | .ctxFree _ c n _ => decide (c < 12) && decide (n < 1024)
  | .ctxClearDebt _ c n _ => decide (c < 12) && decide (n < 1024)
  | .ctxMark _ c n _ => decide (c < 12) && decide (n < 1024)
  | .ctxAcquire _ c n _ _ => decide (c < 12) && decide (n < 1024)
  | .ctxRenew _ c n _ _ => decide (c < 12) && decide (n < 1024)
  | .ctxRelease _ c n _ => decide (c < 12) && decide (n < 1024)
  | .ctxRevalidate _ c n _ => decide (c < 12) && decide (n < 1024)
  | .chCtxClrCnt _ c => decide (c < 12)
  | .hbmWindowStart c => decide (c < 12)
  | .lendingStart c => decide (c < 12)
  | .shareGateAdmit c cls => decide (c < 12) && decide (cls < 3)
  | .hbmReadComplete c p _ _ _ _ => decide (c < 12) && decide (p < 64)
  | .hbmReadModifyWrite c p _ _ _ _ => decide (c < 12) && decide (p < 64)
  | .refreshDue c p => decide (c < 12) && decide (p < 64)
  | .refreshEmergency c p => decide (c < 12) && decide (p < 64)
  | .scrubRead c line _ _ _ => decide (c < 12) && decide (line < 2 ^ 30)
  | .retrainExamine c p pin => decide (c < 12) && decide (p < 64) && decide (pin < 36)
  | .xltWalk c page => decide (c < 12) && decide (page < 98304)
  | .xltInvPage _ c _ => decide (c < 12)
  | .xltInvAll _ c => decide (c < 12)
  | .invalidateDone c => decide (c < 12)
  | .pageFaultTimeout c page => decide (c < 12) && decide (page < 98304)
  | .hmClrCnt _ c => decide (c < 12)
  | .trainingFrame c p _ _ _ _ => decide (c < 12) && decide (p < 3)
  | .linkTrainStepDone c p => decide (c < 12) && decide (p < 3)
  | .linkTrainTimeout c p => decide (c < 12) && decide (p < 3)
  | .linkRetry c p => decide (c < 12) && decide (p < 3)
  | .linkRetrain c p => decide (c < 12) && decide (p < 3)
  | .lkCtrlRetrain _ c p => decide (c < 12) && decide (p < 3)
  | .lkClrCnt _ c p => decide (c < 12) && decide (p < 3)
  | .markerSend c p => decide (c < 12) && decide (p < 3)
  | .markerReceive c p _ => decide (c < 12) && decide (p < 3)
  | .markerLockLost c p => decide (c < 12) && decide (p < 3)
  | .flitSlot c p _ => decide (c < 12) && decide (p < 3)
  | .flitReceive c p _ => decide (c < 12) && decide (p < 3)
  | .nakTimeout c p => decide (c < 12) && decide (p < 3)
  | .creditTimeout c p => decide (c < 12) && decide (p < 3)
  | .init c p => decide (c < 12) && decide (p < 3)
  | .ping c p _ => decide (c < 12) && decide (p < 3)
  | .pong c p _ => decide (c < 12) && decide (p < 3)
  | .credit c p => decide (c < 12) && decide (p < 3)
  | .rot c p => decide (c < 12) && decide (p < 3)
  | .rotAck c p => decide (c < 12) && decide (p < 3)
  | .txeq c p => decide (c < 12) && decide (p < 3)
  | .retrain c p => decide (c < 12) && decide (p < 3)
  | .rotationPhase c p => decide (c < 12) && decide (p < 3)
  | .laneRecalThreshold c p n => decide (c < 12) && decide (p < 3) && decide (n < 5)
  | .rdReq c => decide (c < 12)
  | .wrReq c => decide (c < 12)
  | .rdRsp c => decide (c < 12)
  | .wrAck c => decide (c < 12)
  | .requestTimeout c tag => decide (c < 12) && decide (tag < 1024)
  | .bpUpdate c => decide (c < 12)
  | .fifoData c => decide (c < 12)
  | .bpData c => decide (c < 12)
  | .ctxMarkPacket c => decide (c < 12)
  | .tick c _ => decide (c < 12)
  | .fog c => decide (c < 12)
  | .routeSettleEnd c _ => decide (c < 12)
  | .lkRtClrCnt _ c => decide (c < 12)
  | .cut _ c n => decide (c < 12) && decide (n < 32)
  | .flush _ c n => decide (c < 12) && decide (n < 32)
  | .fifoLevel c n => decide (c < 12) && decide (n < 32)
  | .perstAssert => true
  | .perstDeassert => true
  | .functionLevelReset => true
  | .hostLinkDown => true
  | .configRequest _ _ _ => true
  | .apertureAccess _ _ _ _ => true
  | .hdmRead d _ _ => decide (d < 0xC000000000)
  | .hdmWrite d _ _ _ => decide (d < 0xC000000000)
  | .biRspI c _ _ => decide (c < 12)
  | .biTimeout c _ => decide (c < 12)
  | .crTailDoorbell r off _ _ => decide (r < 16) && decide (off < 4096)
  | .cpHeadDoorbell r _ => decide (r < 16)
  | .ringEnable _ r => decide (r < 16)
  | .commandFetch r _ => decide (r < 16)
  | .cmdNop r => decide (r < 16)
  | .cmdCtx r => decide (r < 16)
  | .cmdPageReady r => decide (r < 16)
  | .cmdMove r _ _ => decide (r < 16)
  | .cmdSnap r => decide (r < 16)
  | .cmdRegWrite r => decide (r < 16)
  | .completionWrite r => decide (r < 16)
  | .msixCoalesceFlush r => decide (r < 16)
  | .msixUnmask _ _ _ _ => true
  | .hpClrCnt _ => true
  | .identifyMemoryDevice => true
  | .getSupportedLogs => true
  | .getLog => true
  | .getHealthInfo => true
  | .mailboxUnsupported => true
  | .hostLinkUp _ _ _ => true
  | .deviceCacheSnoop _ => true
  | .getVersion => true
  | .getCapabilities => true
  | .negotiateAlgorithms => true
  | .getDigests => true
  | .getCertificate _ _ => true
  | .challenge => true
  | .getMeasurements _ => true
  | .spdmUnsupported => true
  | .modResetAssert => true
  | .modResetRelease _ => true
  | .romSelfTestDone h _ _ => decide (h < 2)
  | .electionTimeout h => decide (h < 2)
  | .tokenFrameSend _ => true
  | .tokenFrame h _ => decide (h < 2)
  | .lightTakeover h => decide (h < 2)
  | .halfWatchdog h => decide (h < 2)
  | .imageVerify _ => true
  | .keeperFwLanded c => decide (c < 12)
  | .distributionTimeout c => decide (c < 12)
  | .calibrationDone c _ => decide (c < 12)
  | .calibrationTimeout c => decide (c < 12)
  | .go _ => true
  | .flashRead _ _ _ => true
  | .flashProgram _ _ _ => true
  | .flashErase _ _ _ => true
  | .flashCmdDone _ => true
  | .keeperTakeRecord who => optOk who
  | .healthWindow c => decide (c < 12)
  | .coreRetireComplete c g n => decide (c < 12) && decide (g < 1536) && decide (n < 60)
  | .coreRetireTimeout c g n => decide (c < 12) && decide (g < 1536) && decide (n < 60)
  | .channelLoss c => decide (c < 12)
  | .placementResume c => decide (c < 12)
  | .keeperFault c => decide (c < 12)
  | .fabricFault c => decide (c < 12)
  | .moduleFatal => true
  | .fogNLow => true
  | .fogLineTimeout => true
  | .dumpDone c => decide (c < 12)
  | .dumpHostCopy => true
  | .errClrCnt _ c => decide (c < 12)
  | .errModClrCnt _ => true
  | .supplySample _ _ _ => true
  | .supplyFault => true
  | .neighbourVoltageCheck => true
  | .clockSwitch c => decide (c < 12)
  | .opChangeDone c => decide (c < 12)
  | .vcoreDroop c => decide (c < 12)
  | .droopRecover c => decide (c < 12)
  | .tempSample c _ _ _ => decide (c < 12)
  | .thermalRaise c => decide (c < 12)
  | .thermalLower c => decide (c < 12)
  | .neighbourTempCheck => true
  | .overTemperature c => decide (c < 12)
  | .powerCapRaise _ _ _ _ => true
  | .powerCapLower => true
  | .channelPowerDown _ _ => true
  | .chPwrClrCnt _ c => decide (c < 12)
  | .modMapClrCnt _ => true
  | .supplyRemoved => true
  | .debugPortAccess c place _ _ _ _ => decide (c < 12) && place.ok

end Sys2Proof
end

