-- ==== Sys2Proof/Decode.lean ====
section
/-! DEFINITION. The command that a word of the opcode table's bits spells. No row of the table gives bits, so no word spells a
command: the commands come to the module as commands. (The instruction words that the module fetches from its own memories are
decoded where their units run them: Machine/SparseCore.lean, Machine/Vector.lean, Machine/StreamProg.lean.) -/

namespace Sys2Proof

/-- The command that the low `nbits` bits of `w` spell: none, since the table gives no row bits. -/
def decodeTableWord (_nbits _w : Nat) : Option Instr := none

end Sys2Proof
end

