-- ==== Sys2Proof/Machine/Bits.lean ====
section
/-! DEFINITION. Bit fields, sign extension, byte order, and the two containers of the state: sparse maps in sorted
form, and byte memories in the canonical form of `Host.Cell` lists. -/

namespace Sys2Proof.Machine

/-- Bits `[hi:lo]` of a word. -/
def bits (w hi lo : Nat) : Nat := (w >>> lo) % 2 ^ (hi + 1 - lo)

/-- One bit of a word, as a number. -/
def bit (w i : Nat) : Nat := (w >>> i) % 2

/-- One bit of a word, as a condition. -/
def isSet (w i : Nat) : Bool := Nat.testBit w i

/-- `w` with bits `[lo + wid - 1 : lo]` replaced by the low bits of `v`. -/
def putBits (w lo wid v : Nat) : Nat :=
  let m := 2 ^ wid
  (w >>> (lo + wid)) <<< (lo + wid) + (v % m) <<< lo + w % 2 ^ lo

/-- A Bool as a one-bit field. -/
def b2n (b : Bool) : Nat := if b then 1 else 0

/-- The two's-complement reading of the low `w` bits. -/
def sext (w v : Nat) : Int :=
  let v := v % 2 ^ w
  if v < 2 ^ (w - 1) then (v : Int) else (v : Int) - (2 ^ w : Nat)

/-- The low `w` bits of an integer, as two's complement stores them. -/
def ofInt (w : Nat) (i : Int) : Nat := (i % ((2 ^ w : Nat) : Int)).toNat

/-- A count that stops at the largest value of `w` bits. -/
def satAdd (w a b : Nat) : Nat := Nat.min (a + b) (2 ^ w - 1)

/-- `a` divided by `b`, rounded up. -/
def ceilDiv (a b : Nat) : Nat := if b = 0 then 0 else (a + b - 1) / b

/-- `a` rounded up to a multiple of `b`. -/
def alignUp (a b : Nat) : Nat := ceilDiv a b * b

/-- The number of 1 bits among the low `n` bits. -/
def popcount : Nat → Nat → Nat
  | 0, _ => 0
  | n + 1, w => w % 2 + popcount n (w / 2)

/-- The lowest set bit among the low `n` bits, counted from `i`. -/
def lowestSet : Nat → Nat → Nat → Option Nat
  | 0, _, _ => none
  | n + 1, i, w => if w % 2 = 1 then some i else lowestSet n (i + 1) (w / 2)

/-- The numbers `a, a + 1, …, a + n - 1`. -/
def rangeFrom (a : Nat) : Nat → List Nat
  | 0 => []
  | n + 1 => a :: rangeFrom (a + 1) n

/-- The numbers `0, …, n - 1`. -/
def upto (n : Nat) : List Nat := rangeFrom 0 n

/-- Little-endian bytes of the low `8 n` bits of a word (R2). -/
def toBytes : Nat → Nat → List (BitVec 8)
  | 0, _ => []
  | n + 1, w => BitVec.ofNat 8 w :: toBytes n (w / 256)

/-- The word that little-endian bytes hold (R2). -/
def ofBytes : List (BitVec 8) → Nat
  | [] => 0
  | b :: bs => b.toNat + 256 * ofBytes bs

/-- Replaces entry `i` of a list, which keeps its length. -/
def setAt {α : Type} : List α → Nat → α → List α
  | [], _, _ => []
  | _ :: xs, 0, a => a :: xs
  | x :: xs, i + 1, a => x :: setAt xs i a

/-- Applies `f` to entry `i` of a list. -/
def modAt {α : Type} : List α → Nat → (α → α) → List α
  | [], _, _ => []
  | x :: xs, 0, f => f x :: xs
  | x :: xs, i + 1, f => x :: modAt xs i f

/-- Removes entry `i` of a list. -/
def dropAt {α : Type} : List α → Nat → List α
  | [], _ => []
  | _ :: xs, 0 => xs
  | x :: xs, i + 1 => x :: dropAt xs i

/-- The least index of an entry that satisfies `p`, counted from `i`. -/
def findIdxFrom {α : Type} (p : α → Bool) : Nat → List α → Option Nat
  | _, [] => none
  | i, x :: xs => if p x then some i else findIdxFrom p (i + 1) xs

/-- The least index of an entry that satisfies `p`. -/
def findIdx {α : Type} (p : α → Bool) (xs : List α) : Option Nat := findIdxFrom p 0 xs

/-- Consecutive pieces of `n` entries; the last piece may be shorter. `fuel` bounds the number of pieces. -/
def chunksF {α : Type} (n : Nat) : Nat → List α → List (List α)
  | 0, _ => []
  | fuel + 1, xs => match xs with
    | [] => []
    | _ => xs.take n :: chunksF n fuel (xs.drop n)

/-- Consecutive pieces of `n` entries. -/
def chunks {α : Type} (n : Nat) (xs : List α) : List (List α) := chunksF n xs.length xs

/-- `n` bytes of a byte string from an offset, and the little-endian number in them (R2). -/
def slice (d : List (BitVec 8)) (o n : Nat) : List (BitVec 8) := (d.drop o).take n
def num (d : List (BitVec 8)) (o n : Nat) : Nat := ofBytes (slice d o n)

/-- A list cut or filled to exactly `n` entries. -/
def fitTo {α : Type} (n : Nat) (d : α) (xs : List α) : List α :=
  (xs.take n) ++ List.replicate (n - xs.length) d

/-! ### Sparse maps: lists of key and value pairs with strictly rising keys. -/

/-- A sparse map from numbers. -/
abbrev SMap (α : Type) := List (Nat × α)

/-- The entry of a key, if any. -/
def SMap.find {α : Type} : SMap α → Nat → Option α
  | [], _ => none
  | (k, v) :: m, i => if k = i then some v else if i < k then none else SMap.find m i

/-- The entry of a key, or the value every absent key reads as. -/
def SMap.getD {α : Type} (m : SMap α) (i : Nat) (d : α) : α :=
  match SMap.find m i with
  | some v => v
  | none => d

/-- Writes one entry and keeps the keys rising. -/
def SMap.put {α : Type} : SMap α → Nat → α → SMap α
  | [], i, a => [(i, a)]
  | (k, v) :: m, i, a =>
    if k = i then (i, a) :: m
    else if i < k then (i, a) :: (k, v) :: m
    else (k, v) :: SMap.put m i a

/-- Removes one entry. -/
def SMap.del {α : Type} : SMap α → Nat → SMap α
  | [], _ => []
  | (k, v) :: m, i => if k = i then m else if i < k then (k, v) :: m else (k, v) :: SMap.del m i

/-- Applies `f` to every value. -/
def SMap.mapV {α : Type} (m : SMap α) (f : Nat → α → α) : SMap α := m.map fun kv => (kv.1, f kv.1 kv.2)

/-- The keys in rising order. -/
def SMap.keys {α : Type} (m : SMap α) : List Nat := m.map Prod.fst

/-- The keys rise strictly. -/
def SMap.sorted {α : Type} : SMap α → Bool
  | [] => true
  | [_] => true
  | (a, _) :: (b, v) :: m => decide (a < b) && SMap.sorted ((b, v) :: m)

/-! ### Byte memories. An unlisted byte reads as 0 (DESIGN CHOICE, log entry 3). -/

/-- A byte memory in canonical form: addresses rise strictly and no listed byte is 0. -/
abbrev Mem := List (Nat × BitVec 8)

/-- What an address reads as when the memory lists nothing there (DESIGN CHOICE, log entry 3). -/
def Mem.blank : BitVec 8 := 0

/-- The byte at an address. -/
def Mem.rd : Mem → Nat → BitVec 8
  | [], _ => Mem.blank
  | (k, v) :: m, a => if k = a then v else if a < k then Mem.blank else Mem.rd m a

/-- Writes one byte and keeps the canonical form. -/
def Mem.wr : Mem → Nat → BitVec 8 → Mem
  | [], a, b => if b = Mem.blank then [] else [(a, b)]
  | (k, v) :: m, a, b =>
    if k = a then (if b = Mem.blank then m else (a, b) :: m)
    else if a < k then (if b = Mem.blank then (k, v) :: m else (a, b) :: (k, v) :: m)
    else (k, v) :: Mem.wr m a b

/-- `n` bytes from an address upward. -/
def Mem.rdN (m : Mem) (a n : Nat) : List (BitVec 8) := (rangeFrom a n).map (Mem.rd m)

/-- Writes bytes from an address upward. -/
def Mem.wrN : Mem → Nat → List (BitVec 8) → Mem
  | m, _, [] => m
  | m, a, b :: bs => Mem.wrN (Mem.wr m a b) (a + 1) bs

/-- Writes the bytes whose mask entry is true, from an address upward. -/
def Mem.wrMask : Mem → Nat → List (BitVec 8) → List Bool → Mem
  | m, a, b :: bs, k :: ks => Mem.wrMask (if k then Mem.wr m a b else m) (a + 1) bs ks
  | m, _, _, _ => m

/-- A little-endian number of `n` bytes (R2). -/
def Mem.rdNat (m : Mem) (a n : Nat) : Nat := ofBytes (Mem.rdN m a n)

/-- Writes a little-endian number of `n` bytes (R2). -/
def Mem.wrNat (m : Mem) (a n v : Nat) : Mem := Mem.wrN m a (toBytes n v)

/-- The canonical form of a byte memory. -/
def Mem.wfFrom : Nat → Mem → Bool
  | _, [] => true
  | lo, (a, b) :: m => decide (lo ≤ a) && decide (b ≠ Mem.blank) && Mem.wfFrom (a + 1) m

/-- A memory is in canonical form: addresses strictly rising, and no entry equal to what an unlisted address reads as. -/
def Memory.wf (m : Mem) : Bool := Mem.wfFrom 0 m

end Sys2Proof.Machine
end

