-- ==== Sys2Proof/Machine/Crypto.lean ====
section
/-! DEFINITION. The digests, signatures and key derivation that the image and attestation use (R394, R412, R413): SHA-256,
HMAC and HKDF with it, and ECDSA on P-256. -/

namespace Sys2Proof.Machine

/-! ### SHA-256 -/

/-- The largest `r` below `2 ^ n` above `acc`, which is a multiple of `2 ^ n`, whose `e`-th power is at most `x`. -/
def rootDown (e x : Nat) : Nat → Nat → Nat
  | 0, acc => acc
  | n + 1, acc => rootDown e x n (if (acc + 2 ^ n) ^ e ≤ x then acc + 2 ^ n else acc)

/-- The first 32 bits of the fraction of the `e`-th root of `p`. -/
def rootFraction (e p : Nat) : Nat := rootDown e (p * 2 ^ (32 * e)) 40 0 % 2 ^ 32

/-- The primes below `n`. -/
def primesBelow (n : Nat) : List Nat :=
  (rangeFrom 2 (n - 2)).filter fun p => (rangeFrom 2 (p - 2)).all fun d => p % d != 0 || decide (p < d * d)

/-- The round constants: of the cube roots of the first 64 primes. -/
def shaK : List Nat := (primesBelow 312).map (rootFraction 3)

/-- The initial hash value: of the square roots of the first 8 primes. -/
def shaInit : List Nat := (primesBelow 20).map (rootFraction 2)

/-- A 32-bit word rotated right. -/
def rotr (x n : Nat) : Nat := x >>> n ||| (x <<< (32 - n)) % 2 ^ 32

/-- The word of four bytes, most significant first. -/
def beWord (bs : List (BitVec 8)) : Nat := bs.foldl (fun a b => a * 256 + b.toNat) 0

/-- `n` bytes of a number, most significant first. -/
def beBytes (n v : Nat) : List (BitVec 8) := (toBytes n v).reverse

/-- The next word of the message schedule, from the last 16, newest first. -/
def shaNext (w : List Nat) : Nat :=
  let a := w.getD 14 0
  let b := w.getD 1 0
  let s0 := rotr a 7 ^^^ rotr a 18 ^^^ a >>> 3
  let s1 := rotr b 17 ^^^ rotr b 19 ^^^ b >>> 10
  (w.getD 15 0 + s0 + w.getD 6 0 + s1) % 2 ^ 32

/-- `n` more words of the schedule, newest first. -/
def shaExtend : Nat → List Nat → List Nat
  | 0, w => w
  | n + 1, w => shaExtend n (shaNext w :: w)

/-- One round on the eight working variables. -/
def shaRound (h : List Nat) (kw : Nat × Nat) : List Nat :=
  match h with
  | [a, b, c, d, e, f, g, hh] =>
    let s1 := rotr e 6 ^^^ rotr e 11 ^^^ rotr e 25
    let cho := (e &&& f) ^^^ ((2 ^ 32 - 1 - e) &&& g)
    let t1 := hh + s1 + cho + kw.1 + kw.2
    let s0 := rotr a 2 ^^^ rotr a 13 ^^^ rotr a 22
    let maj := (a &&& b) ^^^ (a &&& c) ^^^ (b &&& c)
    [(t1 + s0 + maj) % 2 ^ 32, a, b, c, (d + t1) % 2 ^ 32, e, f, g]
  | _ => h

/-- One block of 64 bytes. -/
def shaBlock (h : List Nat) (block : List (BitVec 8)) : List Nat :=
  let ws := (shaExtend 48 ((chunks 4 block).map beWord).reverse).reverse
  let out := (shaK.zip ws).foldl shaRound h
  (h.zip out).map fun x => (x.1 + x.2) % 2 ^ 32

/-- SHA-256 (R394). -/
def sha256 (m : List (BitVec 8)) : List (BitVec 8) :=
  let n := m.length
  let pad := (119 - n % 64) % 64
  let full := m ++ [0x80] ++ List.replicate pad 0 ++ beBytes 8 (8 * n)
  ((chunks 64 full).foldl shaBlock shaInit).flatMap (beBytes 4)

/-- HMAC with SHA-256. -/
def hmac (key m : List (BitVec 8)) : List (BitVec 8) :=
  let k := fitTo 64 0 (if 64 < key.length then sha256 key else key)
  sha256 (k.map (· ^^^ 0x5C) ++ sha256 (k.map (· ^^^ 0x36) ++ m))

/-- HKDF-SHA-256 with an empty salt and 32 bytes of output (R412). -/
def hkdf (seed info : List (BitVec 8)) : List (BitVec 8) :=
  hmac (hmac (List.replicate 32 0) seed) (info ++ [1])

/-! ### ECDSA on P-256 -/

/-- The field prime. -/
def p256P : Nat := 2 ^ 256 - 2 ^ 224 + 2 ^ 192 + 2 ^ 96 - 1
/-- The order of the group. -/
def p256N : Nat := 0xFFFFFFFF00000000FFFFFFFFFFFFFFFFBCE6FAADA7179E84F3B9CAC2FC632551
/-- The constant term of the curve. -/
def p256B : Nat := 0x5AC635D8AA3A93E7B3EBBD55769886BC651D06B0CC53B0F63BCE3C3E27D2604B
/-- The base point. -/
def p256G : Nat × Nat :=
  (0x6B17D1F2E12C4247F8BCE6E563A440F277037D812DEB33A0F4A13945D898C296,
   0x4FE342E2FE1A7F9B8EE7EB4A7C0F9E162BCE33576B315ECECBB6406837BF51F5)

/-- `b` to the power of the low `n` bits of `e`, times `acc`, modulo `m`. -/
def powMod (m : Nat) : Nat → Nat → Nat → Nat → Nat
  | 0, _, _, acc => acc
  | n + 1, b, e, acc => powMod m n (b * b % m) (e / 2) (if e % 2 = 1 then acc * b % m else acc)

/-- The inverse modulo a prime of 256 bits. -/
def invMod (m x : Nat) : Nat := powMod m 256 (x % m) (m - 2) 1

/-- The third point of a line of slope `s` through `a` and a point with abscissa `x`. -/
def ecThird (a : Nat × Nat) (x s : Nat) : Nat × Nat :=
  let p := p256P
  let x3 := (s * s + 2 * p - a.1 - x) % p
  (x3, (s * (a.1 + p - x3) + p - a.2) % p)

/-- Addition of points; none is the point at infinity. -/
def ecAdd : Option (Nat × Nat) → Option (Nat × Nat) → Option (Nat × Nat)
  | none, q => q
  | p, none => p
  | some a, some b =>
    let p := p256P
    if a.1 = b.1 then
      if (a.2 + b.2) % p = 0 then none
      else some (ecThird a b.1 ((3 * a.1 * a.1 + p - 3) * invMod p (2 * a.2) % p))
    else some (ecThird a b.1 ((b.2 + p - a.2) * invMod p (b.1 + p - a.1) % p))

/-- The low `n` bits of `k` times a point, plus `acc`. -/
def ecMul : Nat → Nat → Option (Nat × Nat) → Option (Nat × Nat) → Option (Nat × Nat)
  | 0, _, _, acc => acc
  | n + 1, k, q, acc => ecMul n (k / 2) (ecAdd q q) (if k % 2 = 1 then ecAdd acc q else acc)

/-- A point of the curve. -/
def onCurve (q : Nat × Nat) : Bool :=
  decide (q.1 < p256P) && decide (q.2 < p256P) &&
    decide ((q.2 * q.2) % p256P = (q.1 * q.1 * q.1 + (p256P - 3) * q.1 + p256B) % p256P)

/-- An ECDSA signature over a message verifies under a public key (R394). -/
def ecdsaVerify (pub msg sig : List (BitVec 8)) : Bool :=
  let q := (beWord (pub.take 32), beWord ((pub.drop 32).take 32))
  let r := beWord (sig.take 32)
  let s := beWord ((sig.drop 32).take 32)
  if !onCurve q || r == 0 || s == 0 || decide (p256N ≤ r) || decide (p256N ≤ s) then false
  else
    let e := beWord (sha256 msg)
    let w := invMod p256N s
    match ecMul 256 (e * w % p256N) (some p256G) (ecMul 256 (r * w % p256N) (some q) none) with
    | some x => x.1 % p256N == r
    | none => false

/-- The private key derived from a seed (R412): the counter is appended to the info string and counts up until the scalar
lies in 1 to n − 1; `tries` bounds the search. -/
def deriveKey (seed info : List (BitVec 8)) : Nat → Nat → Nat
  | 0, _ => 1
  | tries + 1, c =>
    let k := beWord (hkdf seed (info ++ toBytes 4 c))
    if 0 < k ∧ k < p256N then k else deriveKey seed info tries (c + 1)

/-- The public key of a private key, X then Y (R394). -/
def publicKey (key : Nat) : List (BitVec 8) :=
  match ecMul 256 key (some p256G) none with
  | some x => beBytes 32 x.1 ++ beBytes 32 x.2
  | none => List.replicate 64 0

end Sys2Proof.Machine
end

