-- ==== Sys2Proof/Config.lean ====
section
/-! DEFINITION. What the spec leaves open: each value below is a constant without a body, so that nothing can be
proved of it but what every value satisfies. -/

namespace Sys2Proof

/-- A free value: the `n`-th one that source `src` needs (log entry 4). -/
opaque Config.free : Nat → Nat → Nat

/-- Which of the results that the bound of R194 allows a transcendental operation gives: a fixed function of the
operation and its input (log entry 5). -/
opaque Config.transc : Nat → Nat → Nat

/-- The vendor root key hash in mask ROM (R397), and the SHA-256 of mask ROM (R414). -/
opaque Config.romKeyHash : List (BitVec 8)
opaque Config.romDigest : List (BitVec 8)

/-- The 256-bit seed that the PUF reconstructs (R412). -/
opaque Config.pufSeed : List (BitVec 8)

/-- The bytes of the alias certificate for an alias public key and an image digest (R413). -/
opaque Config.aliasCert : List (BitVec 8) → List (BitVec 8) → List (BitVec 8)

/-- The `n`-th signature or nonce that the module issues (R414). -/
opaque Config.attest : Nat → List (BitVec 8)

/-- The silicon stepping (R374). -/
opaque Config.stepping : Nat

/-- The lowest and highest positions of a transmitter's FFE tap (R329): 0 pre, 1 main, 2 post. -/
opaque Config.ffeRange : Nat → Int × Int

end Sys2Proof
end

