-- ==== Sys2Proof/Machine/Fields.lean ====
section
/-! DEFINITION. Every field of every register table of the spec: where it lies, its access code, level, function (R20)
and reset value. A field is the unit of register storage; reserved bits have no field and read as 0 (R8). -/

namespace Sys2Proof.Machine

/-- The access codes of R10. -/
inductive Acc where
  | ro | rw | w1c | w1s | wo | rwl | rwi
  deriving DecidableEq, Repr

/-- One field of a register, repeated `count` times at `stride` bytes from offset `base` of its block. -/
structure Fld where
  base   : Nat
  stride : Nat
  count  : Nat
  /-- Lowest bit inside the register. -/
  lo     : Nat
  wid    : Nat
  /-- The register is 64 bits wide. -/
  wide   : Bool
  acc    : Acc
  /-- Level E (R17). -/
  expert : Bool
  /-- Function of R20; 13 for a field of no function. -/
  fn     : Nat
  /-- Reset value (R9); 0 where the table's entry is a dash (log entry 1). -/
  reset  : Nat
  deriving DecidableEq, Repr

/-- MOD_LEVEL.LEVEL (R21). -/
def F.MOD_LEVEL_LEVEL : Fld := ⟨0x38, 0x0, 1, 0, 13, false, .ro, false, 13, 0⟩
/-- CH_INFO.CHAN (R38). No reset value (log entry 1). -/
def F.CH_INFO_CHAN : Fld := ⟨0x0, 0x0, 1, 0, 4, false, .ro, false, 13, 0⟩
/-- CH_INFO.HALF (R38). No reset value (log entry 1). -/
def F.CH_INFO_HALF : Fld := ⟨0x0, 0x0, 1, 4, 1, false, .ro, false, 13, 0⟩
/-- CH_INFO.P0_UP (R38). -/
def F.CH_INFO_P0_UP : Fld := ⟨0x0, 0x0, 1, 8, 1, false, .ro, false, 13, 0⟩
/-- CH_INFO.P1_UP (R38). -/
def F.CH_INFO_P1_UP : Fld := ⟨0x0, 0x0, 1, 9, 1, false, .ro, false, 13, 0⟩
/-- CH_INFO.P2_UP (R38). -/
def F.CH_INFO_P2_UP : Fld := ⟨0x0, 0x0, 1, 10, 1, false, .ro, false, 13, 0⟩
/-- CH_INFO.A0_UP (R38). -/
def F.CH_INFO_A0_UP : Fld := ⟨0x0, 0x0, 1, 11, 1, false, .ro, false, 13, 0⟩
/-- CH_INFO.A1_UP (R38). -/
def F.CH_INFO_A1_UP : Fld := ⟨0x0, 0x0, 1, 12, 1, false, .ro, false, 13, 0⟩
/-- CH_INFO.HOST_VIA (R38). -/
def F.CH_INFO_HOST_VIA : Fld := ⟨0x0, 0x0, 1, 13, 1, false, .ro, false, 13, 0⟩
/-- CH_INFO.USABLE (R38). -/
def F.CH_INFO_USABLE : Fld := ⟨0x0, 0x0, 1, 14, 1, false, .ro, false, 13, 0⟩
/-- CH_INFO.FWD_ONLY (R38). -/
def F.CH_INFO_FWD_ONLY : Fld := ⟨0x0, 0x0, 1, 15, 1, false, .ro, false, 13, 0⟩
/-- CH_SPARES.LN_FREE (R39). -/
def F.CH_SPARES_LN_FREE : Fld := ⟨0x4, 0x0, 1, 0, 8, false, .ro, false, 13, 0⟩
/-- CH_SPARES.CO_FREE (R39). -/
def F.CH_SPARES_CO_FREE : Fld := ⟨0x4, 0x0, 1, 8, 13, false, .ro, false, 13, 0⟩
/-- CH_SPARES.LN_NO_CORE (R39). -/
def F.CH_SPARES_LN_NO_CORE : Fld := ⟨0x4, 0x0, 1, 21, 7, false, .ro, false, 13, 0⟩
/-- MOD_NODE.MODULE (R40). -/
def F.MOD_NODE_MODULE : Fld := ⟨0x10, 0x0, 1, 0, 16, false, .ro, false, 13, 0⟩
/-- MOD_NODE.VALID (R40). -/
def F.MOD_NODE_VALID : Fld := ⟨0x10, 0x0, 1, 16, 1, false, .ro, false, 13, 0⟩
/-- MOD_NODE.LIT (R40). -/
def F.MOD_NODE_LIT : Fld := ⟨0x10, 0x0, 1, 17, 1, false, .ro, false, 13, 0⟩
/-- LN_FMT.VFMT (R76). No reset value (log entry 1). -/
def F.LN_FMT_VFMT : Fld := ⟨0x1000, 0x8, 64, 0, 5, true, .rwi, true, 0, 0⟩
/-- LN_FMT.ENC (R76). No reset value (log entry 1). -/
def F.LN_FMT_ENC : Fld := ⟨0x1000, 0x8, 64, 5, 3, true, .rwi, true, 0, 0⟩
/-- LN_FMT.NM_PAT (R76). No reset value (log entry 1). -/
def F.LN_FMT_NM_PAT : Fld := ⟨0x1000, 0x8, 64, 8, 2, true, .rwi, true, 0, 0⟩
/-- LN_FMT.BB_SHAPE (R76). No reset value (log entry 1). -/
def F.LN_FMT_BB_SHAPE : Fld := ⟨0x1000, 0x8, 64, 10, 1, true, .rwi, true, 0, 0⟩
/-- LN_FMT.MX (R76). No reset value (log entry 1). -/
def F.LN_FMT_MX : Fld := ⟨0x1000, 0x8, 64, 11, 1, true, .rwi, true, 0, 0⟩
/-- LN_FMT.SL (R76). No reset value (log entry 1). -/
def F.LN_FMT_SL : Fld := ⟨0x1000, 0x8, 64, 12, 1, true, .rwi, true, 0, 0⟩
/-- LN_FMT.PATTERN (R76). No reset value (log entry 1). -/
def F.LN_FMT_PATTERN : Fld := ⟨0x1000, 0x8, 64, 13, 1, true, .rwi, true, 0, 0⟩
/-- LN_FMT.SAT (R76). No reset value (log entry 1). -/
def F.LN_FMT_SAT : Fld := ⟨0x1000, 0x8, 64, 14, 1, true, .rwi, true, 0, 0⟩
/-- LN_FMT.BACKGROUND (R76). No reset value (log entry 1). -/
def F.LN_FMT_BACKGROUND : Fld := ⟨0x1000, 0x8, 64, 16, 16, true, .rwi, true, 0, 0⟩
/-- LN_FMT.PAD (R76). No reset value (log entry 1). -/
def F.LN_FMT_PAD : Fld := ⟨0x1000, 0x8, 64, 32, 16, true, .rwi, true, 0, 0⟩
/-- LN_FMT.SL_BASE (R76). No reset value (log entry 1). -/
def F.LN_FMT_SL_BASE : Fld := ⟨0x1000, 0x8, 64, 48, 12, true, .rwi, true, 0, 0⟩
/-- CO_STATUS.BUSY (R111). -/
def F.CO_STATUS_BUSY : Fld := ⟨0x8000, 0x100, 64, 0, 1, false, .ro, false, 13, 0⟩
/-- CO_STATUS.SHAPE_OVF (R111). -/
def F.CO_STATUS_SHAPE_OVF : Fld := ⟨0x8000, 0x100, 64, 1, 1, false, .w1c, false, 13, 0⟩
/-- CO_STATUS.INV_INSN (R111). -/
def F.CO_STATUS_INV_INSN : Fld := ⟨0x8000, 0x100, 64, 2, 1, false, .w1c, false, 13, 0⟩
/-- CO_STATUS.OP_ERR (R111). -/
def F.CO_STATUS_OP_ERR : Fld := ⟨0x8000, 0x100, 64, 3, 1, false, .w1c, false, 13, 0⟩
/-- CO_STATUS.FMT_ERR (R111). -/
def F.CO_STATUS_FMT_ERR : Fld := ⟨0x8000, 0x100, 64, 4, 1, false, .w1c, false, 13, 0⟩
/-- CO_STATUS.CTX (R111). -/
def F.CO_STATUS_CTX : Fld := ⟨0x8000, 0x100, 64, 16, 10, false, .ro, false, 13, 0⟩
/-- CO_SLICEMAP.SPARE_FOR (R112). -/
def F.CO_SLICEMAP_SPARE_FOR : Fld := ⟨0x8004, 0x100, 64, 0, 5, false, .ro, false, 13, 31⟩
/-- CO_SLICEMAP.SLICE_BAD (R112). -/
def F.CO_SLICEMAP_SLICE_BAD : Fld := ⟨0x8004, 0x100, 64, 5, 17, false, .ro, false, 13, 0⟩
/-- CO_FMT_ERR_CNT.COUNT (R113). -/
def F.CO_FMT_ERR_CNT_COUNT : Fld := ⟨0x8008, 0x100, 64, 0, 32, false, .ro, false, 13, 0⟩
/-- CO_SHAPE_OVF_CNT.COUNT (R113). -/
def F.CO_SHAPE_OVF_CNT_COUNT : Fld := ⟨0x800c, 0x100, 64, 0, 32, false, .ro, false, 13, 0⟩
/-- CO_EMPTY_CNT.COUNT (R113). -/
def F.CO_EMPTY_CNT_COUNT : Fld := ⟨0x8010, 0x100, 64, 0, 32, false, .ro, false, 13, 0⟩
/-- CO_CTRL.CLR_CNT (R113). -/
def F.CO_CTRL_CLR_CNT : Fld := ⟨0x8014, 0x100, 64, 0, 1, false, .wo, false, 13, 0⟩
/-- CO_PAIRS.COUNT (R113). -/
def F.CO_PAIRS_COUNT : Fld := ⟨0x8018, 0x100, 64, 0, 64, true, .ro, true, 13, 0⟩
/-- CO_POS.COUNT (R113). -/
def F.CO_POS_COUNT : Fld := ⟨0x8020, 0x100, 64, 0, 64, true, .ro, true, 13, 0⟩
/-- CO_BUSY_CY.COUNT (R113). -/
def F.CO_BUSY_CY_COUNT : Fld := ⟨0x8028, 0x100, 64, 0, 64, true, .ro, true, 13, 0⟩
/-- CO_QFULL_CY.COUNT (R113). -/
def F.CO_QFULL_CY_COUNT : Fld := ⟨0x8030, 0x100, 64, 0, 64, true, .ro, true, 13, 0⟩
/-- CO_IDLE_CY.COUNT (R113). -/
def F.CO_IDLE_CY_COUNT : Fld := ⟨0x8038, 0x100, 64, 0, 64, true, .ro, true, 13, 0⟩
/-- LN_DPARAM_LO.A_SLFMT (R122). No reset value (log entry 1). -/
def F.LN_DPARAM_LO_A_SLFMT : Fld := ⟨0x1400, 0x10, 64, 0, 6, true, .rwi, true, 0, 0⟩
/-- LN_DPARAM_LO.A_SL_EN (R122). No reset value (log entry 1). -/
def F.LN_DPARAM_LO_A_SL_EN : Fld := ⟨0x1400, 0x10, 64, 6, 1, true, .rwi, true, 0, 0⟩
/-- LN_DPARAM_LO.ORDER (R122). No reset value (log entry 1). -/
def F.LN_DPARAM_LO_ORDER : Fld := ⟨0x1400, 0x10, 64, 7, 1, true, .rwi, true, 0, 0⟩
/-- LN_DPARAM_LO.B_SLFMT (R122). No reset value (log entry 1). -/
def F.LN_DPARAM_LO_B_SLFMT : Fld := ⟨0x1400, 0x10, 64, 8, 6, true, .rwi, true, 0, 0⟩
/-- LN_DPARAM_LO.B_SL_EN (R122). No reset value (log entry 1). -/
def F.LN_DPARAM_LO_B_SL_EN : Fld := ⟨0x1400, 0x10, 64, 14, 1, true, .rwi, true, 0, 0⟩
/-- LN_DPARAM_LO.COL_SHAPE_EN (R122). No reset value (log entry 1). -/
def F.LN_DPARAM_LO_COL_SHAPE_EN : Fld := ⟨0x1400, 0x10, 64, 15, 1, true, .rwi, true, 0, 0⟩
/-- LN_DPARAM_LO.A_SL_IDX (R122). No reset value (log entry 1). -/
def F.LN_DPARAM_LO_A_SL_IDX : Fld := ⟨0x1400, 0x10, 64, 16, 16, true, .rwi, true, 0, 0⟩
/-- LN_DPARAM_LO.A_SL_STEP (R122). No reset value (log entry 1). -/
def F.LN_DPARAM_LO_A_SL_STEP : Fld := ⟨0x1400, 0x10, 64, 32, 8, true, .rwi, true, 0, 0⟩
/-- LN_DPARAM_LO.B_SL_IDX (R122). No reset value (log entry 1). -/
def F.LN_DPARAM_LO_B_SL_IDX : Fld := ⟨0x1400, 0x10, 64, 40, 16, true, .rwi, true, 0, 0⟩
/-- LN_DPARAM_LO.B_SL_STEP (R122). No reset value (log entry 1). -/
def F.LN_DPARAM_LO_B_SL_STEP : Fld := ⟨0x1400, 0x10, 64, 56, 8, true, .rwi, true, 0, 0⟩
/-- LN_DPARAM_HI.O_SL_IDX (R122). No reset value (log entry 1). -/
def F.LN_DPARAM_HI_O_SL_IDX : Fld := ⟨0x1408, 0x10, 64, 0, 16, true, .rwi, true, 0, 0⟩
/-- LN_DPARAM_HI.O_SL_STEP (R122). No reset value (log entry 1). -/
def F.LN_DPARAM_HI_O_SL_STEP : Fld := ⟨0x1408, 0x10, 64, 16, 8, true, .rwi, true, 0, 0⟩
/-- LN_DPARAM_HI.TH_MODE (R122). No reset value (log entry 1). -/
def F.LN_DPARAM_HI_TH_MODE : Fld := ⟨0x1408, 0x10, 64, 24, 2, true, .rwi, true, 0, 0⟩
/-- LN_DPARAM_HI.COL_SHAPE (R122). No reset value (log entry 1). -/
def F.LN_DPARAM_HI_COL_SHAPE : Fld := ⟨0x1408, 0x10, 64, 26, 4, true, .rwi, true, 0, 0⟩
/-- LN_DPARAM_HI.THRESH (R122). No reset value (log entry 1). -/
def F.LN_DPARAM_HI_THRESH : Fld := ⟨0x1408, 0x10, 64, 32, 32, true, .rwi, true, 0, 0⟩
/-- CO_ACC_INEXACT_CNT.COUNT (R138). -/
def F.CO_ACC_INEXACT_CNT_COUNT : Fld := ⟨0x8040, 0x100, 64, 0, 32, false, .ro, false, 13, 0⟩
/-- CO_ACC_RANGE_CNT.COUNT (R138). -/
def F.CO_ACC_RANGE_CNT_COUNT : Fld := ⟨0x8044, 0x100, 64, 0, 32, false, .ro, false, 13, 0⟩
/-- CO_DRN_SAT_CNT.COUNT (R138). -/
def F.CO_DRN_SAT_CNT_COUNT : Fld := ⟨0x8048, 0x100, 64, 0, 32, false, .ro, false, 13, 0⟩
/-- CO_DRN_NAN0_CNT.COUNT (R138). -/
def F.CO_DRN_NAN0_CNT_COUNT : Fld := ⟨0x804c, 0x100, 64, 0, 32, false, .ro, false, 13, 0⟩
/-- CO_DRN_STAT_CNT.COUNT (R138). -/
def F.CO_DRN_STAT_CNT_COUNT : Fld := ⟨0x8050, 0x100, 64, 0, 32, false, .ro, false, 13, 0⟩
/-- CO_DRN_STATUS.SAT (R138). -/
def F.CO_DRN_STATUS_SAT : Fld := ⟨0x8054, 0x100, 64, 0, 1, false, .w1c, false, 13, 0⟩
/-- CO_DRN_STATUS.NAN0 (R138). -/
def F.CO_DRN_STATUS_NAN0 : Fld := ⟨0x8054, 0x100, 64, 1, 1, false, .w1c, false, 13, 0⟩
/-- CO_DRN_STATUS.STAT (R138). -/
def F.CO_DRN_STATUS_STAT : Fld := ⟨0x8054, 0x100, 64, 2, 1, false, .w1c, false, 13, 0⟩
/-- CO_DRN_STATUS.RANGE (R138). -/
def F.CO_DRN_STATUS_RANGE : Fld := ⟨0x8054, 0x100, 64, 3, 1, false, .w1c, false, 13, 0⟩
/-- CO_DRN_STATUS.INEXACT (R138). -/
def F.CO_DRN_STATUS_INEXACT : Fld := ⟨0x8054, 0x100, 64, 4, 1, false, .w1c, false, 13, 0⟩
/-- CO_DBG.DBG_EN (R138). -/
def F.CO_DBG_DBG_EN : Fld := ⟨0x8060, 0x100, 64, 0, 1, false, .ro, true, 13, 0⟩
/-- CO_ACC_SEL.SET (R138). -/
def F.CO_ACC_SEL_SET : Fld := ⟨0x8064, 0x100, 64, 0, 1, false, .rw, true, 6, 0⟩
/-- CO_ACC_SEL.ROW (R138). -/
def F.CO_ACC_SEL_ROW : Fld := ⟨0x8064, 0x100, 64, 1, 5, false, .rw, true, 6, 0⟩
/-- CO_ACC_SEL.COL (R138). -/
def F.CO_ACC_SEL_COL : Fld := ⟨0x8064, 0x100, 64, 6, 4, false, .rw, true, 6, 0⟩
/-- CO_ACC_DATA_LO.VALUE (R138). No reset value (log entry 1). -/
def F.CO_ACC_DATA_LO_VALUE : Fld := ⟨0x8068, 0x100, 64, 0, 64, true, .ro, true, 13, 0⟩
/-- CO_ACC_DATA_HI.VALUE (R138). No reset value (log entry 1). -/
def F.CO_ACC_DATA_HI_VALUE : Fld := ⟨0x8070, 0x100, 64, 0, 32, false, .ro, true, 13, 0⟩
/-- CO_ACC_TAG.TAG (R138). No reset value (log entry 1). -/
def F.CO_ACC_TAG_TAG : Fld := ⟨0x8074, 0x100, 64, 0, 2, false, .ro, true, 13, 0⟩
/-- CO_ACC_TAG.MODE (R138). No reset value (log entry 1). -/
def F.CO_ACC_TAG_MODE : Fld := ⟨0x8074, 0x100, 64, 2, 1, false, .ro, true, 13, 0⟩
/-- LN_ARB_CFG.BURST (R171). -/
def F.LN_ARB_CFG_BURST : Fld := ⟨0x80, 0x0, 1, 0, 8, false, .rwl, true, 1, 16⟩
/-- HM_ARB_CFG.BURST (R171). -/
def F.HM_ARB_CFG_BURST : Fld := ⟨0x20020, 0x0, 1, 0, 8, false, .rwl, true, 1, 16⟩
/-- LK_ARB_CFG.BURST (R171). -/
def F.LK_ARB_CFG_BURST : Fld := ⟨0x30040, 0x1000, 3, 0, 8, false, .rwl, true, 1, 16⟩
/-- LN_ARB_CFG.WAIT_LIM (R171). -/
def F.LN_ARB_CFG_WAIT_LIM : Fld := ⟨0x80, 0x0, 1, 8, 10, false, .rwl, true, 1, 64⟩
/-- HM_ARB_CFG.WAIT_LIM (R171). -/
def F.HM_ARB_CFG_WAIT_LIM : Fld := ⟨0x20020, 0x0, 1, 8, 10, false, .rwl, true, 1, 64⟩
/-- LK_ARB_CFG.WAIT_LIM (R171). -/
def F.LK_ARB_CFG_WAIT_LIM : Fld := ⟨0x30040, 0x1000, 3, 8, 10, false, .rwl, true, 1, 64⟩
/-- LN_ARB_CFG.HOLD_LIM (R171). -/
def F.LN_ARB_CFG_HOLD_LIM : Fld := ⟨0x80, 0x0, 1, 18, 12, false, .rwl, true, 1, 256⟩
/-- HM_ARB_CFG.HOLD_LIM (R171). -/
def F.HM_ARB_CFG_HOLD_LIM : Fld := ⟨0x20020, 0x0, 1, 18, 12, false, .rwl, true, 1, 256⟩
/-- LK_ARB_CFG.HOLD_LIM (R171). -/
def F.LK_ARB_CFG_HOLD_LIM : Fld := ⟨0x30040, 0x1000, 3, 18, 12, false, .rwl, true, 1, 256⟩
/-- LN_ARB_STAT.CUT (R171). -/
def F.LN_ARB_STAT_CUT : Fld := ⟨0x84, 0x0, 1, 0, 1, false, .w1c, false, 13, 0⟩
/-- HM_ARB_STAT.CUT (R171). -/
def F.HM_ARB_STAT_CUT : Fld := ⟨0x20024, 0x0, 1, 0, 1, false, .w1c, false, 13, 0⟩
/-- LK_ARB_STAT.CUT (R171). -/
def F.LK_ARB_STAT_CUT : Fld := ⟨0x30044, 0x1000, 3, 0, 1, false, .w1c, false, 13, 0⟩
/-- LN_ARB_STAT.FORCE (R171). -/
def F.LN_ARB_STAT_FORCE : Fld := ⟨0x84, 0x0, 1, 1, 1, false, .w1c, false, 13, 0⟩
/-- HM_ARB_STAT.FORCE (R171). -/
def F.HM_ARB_STAT_FORCE : Fld := ⟨0x20024, 0x0, 1, 1, 1, false, .w1c, false, 13, 0⟩
/-- LK_ARB_STAT.FORCE (R171). -/
def F.LK_ARB_STAT_FORCE : Fld := ⟨0x30044, 0x1000, 3, 1, 1, false, .w1c, false, 13, 0⟩
/-- LN_ARB_STAT.PREEMPT (R171). -/
def F.LN_ARB_STAT_PREEMPT : Fld := ⟨0x84, 0x0, 1, 2, 1, false, .w1c, false, 13, 0⟩
/-- HM_ARB_STAT.PREEMPT (R171). -/
def F.HM_ARB_STAT_PREEMPT : Fld := ⟨0x20024, 0x0, 1, 2, 1, false, .w1c, false, 13, 0⟩
/-- LK_ARB_STAT.PREEMPT (R171). -/
def F.LK_ARB_STAT_PREEMPT : Fld := ⟨0x30044, 0x1000, 3, 2, 1, false, .w1c, false, 13, 0⟩
/-- LN_ARB_STAT.CUT_REQ (R171). -/
def F.LN_ARB_STAT_CUT_REQ : Fld := ⟨0x84, 0x0, 1, 8, 4, false, .ro, false, 13, 0⟩
/-- HM_ARB_STAT.CUT_REQ (R171). -/
def F.HM_ARB_STAT_CUT_REQ : Fld := ⟨0x20024, 0x0, 1, 8, 4, false, .ro, false, 13, 0⟩
/-- LK_ARB_STAT.CUT_REQ (R171). -/
def F.LK_ARB_STAT_CUT_REQ : Fld := ⟨0x30044, 0x1000, 3, 8, 4, false, .ro, false, 13, 0⟩
/-- LN_ARB_STAT.CUT_INST (R171). -/
def F.LN_ARB_STAT_CUT_INST : Fld := ⟨0x84, 0x0, 1, 12, 6, false, .ro, false, 13, 0⟩
/-- HM_ARB_STAT.CUT_INST (R171). -/
def F.HM_ARB_STAT_CUT_INST : Fld := ⟨0x20024, 0x0, 1, 12, 6, false, .ro, false, 13, 0⟩
/-- LK_ARB_STAT.CUT_INST (R171). -/
def F.LK_ARB_STAT_CUT_INST : Fld := ⟨0x30044, 0x1000, 3, 12, 6, false, .ro, false, 13, 0⟩
/-- LN_ARB_FORCE_CNT.COUNT (R171). -/
def F.LN_ARB_FORCE_CNT_COUNT : Fld := ⟨0x88, 0x0, 1, 0, 32, false, .ro, true, 13, 0⟩
/-- HM_ARB_FORCE_CNT.COUNT (R171). -/
def F.HM_ARB_FORCE_CNT_COUNT : Fld := ⟨0x20028, 0x0, 1, 0, 32, false, .ro, true, 13, 0⟩
/-- LK_ARB_FORCE_CNT.COUNT (R171). -/
def F.LK_ARB_FORCE_CNT_COUNT : Fld := ⟨0x30048, 0x1000, 3, 0, 32, false, .ro, true, 13, 0⟩
/-- LN_ARB_CUT_CNT.COUNT (R171). -/
def F.LN_ARB_CUT_CNT_COUNT : Fld := ⟨0x8c, 0x0, 1, 0, 32, false, .ro, true, 13, 0⟩
/-- HM_ARB_CUT_CNT.COUNT (R171). -/
def F.HM_ARB_CUT_CNT_COUNT : Fld := ⟨0x2002c, 0x0, 1, 0, 32, false, .ro, true, 13, 0⟩
/-- LK_ARB_CUT_CNT.COUNT (R171). -/
def F.LK_ARB_CUT_CNT_COUNT : Fld := ⟨0x3004c, 0x1000, 3, 0, 32, false, .ro, true, 13, 0⟩
/-- LN_ARB_PREEMPT_CNT.COUNT (R171). -/
def F.LN_ARB_PREEMPT_CNT_COUNT : Fld := ⟨0x90, 0x0, 1, 0, 32, false, .ro, true, 13, 0⟩
/-- HM_ARB_PREEMPT_CNT.COUNT (R171). -/
def F.HM_ARB_PREEMPT_CNT_COUNT : Fld := ⟨0x20030, 0x0, 1, 0, 32, false, .ro, true, 13, 0⟩
/-- LK_ARB_PREEMPT_CNT.COUNT (R171). -/
def F.LK_ARB_PREEMPT_CNT_COUNT : Fld := ⟨0x30050, 0x1000, 3, 0, 32, false, .ro, true, 13, 0⟩
/-- LN_ARB_STALE_CNT.COUNT (R171). -/
def F.LN_ARB_STALE_CNT_COUNT : Fld := ⟨0x94, 0x0, 1, 0, 32, false, .ro, true, 13, 0⟩
/-- HM_ARB_STALE_CNT.COUNT (R171). -/
def F.HM_ARB_STALE_CNT_COUNT : Fld := ⟨0x20034, 0x0, 1, 0, 32, false, .ro, true, 13, 0⟩
/-- LK_ARB_STALE_CNT.COUNT (R171). -/
def F.LK_ARB_STALE_CNT_COUNT : Fld := ⟨0x30054, 0x1000, 3, 0, 32, false, .ro, true, 13, 0⟩
/-- LN_STATUS.PARKED (R173). -/
def F.LN_STATUS_PARKED : Fld := ⟨0x0, 0x0, 1, 0, 1, false, .ro, false, 13, 1⟩
/-- LN_STATUS.PARK_PEND (R173). -/
def F.LN_STATUS_PARK_PEND : Fld := ⟨0x0, 0x0, 1, 1, 1, false, .ro, false, 13, 0⟩
/-- LN_STATUS.CFG_ERR (R173). -/
def F.LN_STATUS_CFG_ERR : Fld := ⟨0x0, 0x0, 1, 2, 1, false, .w1c, false, 13, 0⟩
/-- LN_STATUS.SCHED_VIOL (R173). -/
def F.LN_STATUS_SCHED_VIOL : Fld := ⟨0x0, 0x0, 1, 3, 1, false, .w1c, false, 13, 0⟩
/-- LN_STATUS.LOST (R173). -/
def F.LN_STATUS_LOST : Fld := ⟨0x0, 0x0, 1, 4, 1, false, .w1c, false, 13, 0⟩
/-- LN_STATUS.CORES (R173). -/
def F.LN_STATUS_CORES : Fld := ⟨0x0, 0x0, 1, 8, 6, false, .ro, false, 13, 0⟩
/-- LN_CTRL.PARK (R173). -/
def F.LN_CTRL_PARK : Fld := ⟨0x4, 0x0, 1, 0, 1, false, .wo, true, 5, 0⟩
/-- LN_CTRL.RESUME (R173). -/
def F.LN_CTRL_RESUME : Fld := ⟨0x4, 0x0, 1, 1, 1, false, .wo, true, 5, 0⟩
/-- LN_CTRL.CLR_CNT (R173). -/
def F.LN_CTRL_CLR_CNT : Fld := ⟨0x4, 0x0, 1, 2, 1, false, .wo, false, 13, 0⟩
/-- LN_CORE_SPARE.MASK (R173). -/
def F.LN_CORE_SPARE_MASK : Fld := ⟨0x8, 0x0, 1, 0, 64, true, .ro, false, 13, 0⟩
/-- LN_CORE_BAD.MASK (R173). -/
def F.LN_CORE_BAD_MASK : Fld := ⟨0x10, 0x0, 1, 0, 64, true, .ro, false, 13, 0⟩
/-- LN_SHAPE.VALUE (R173). -/
def F.LN_SHAPE_VALUE : Fld := ⟨0x40, 0x4, 16, 0, 16, false, .ro, false, 13, 0⟩
/-- LN_CONFLICT_CNT.COUNT (R173). -/
def F.LN_CONFLICT_CNT_COUNT : Fld := ⟨0xa0, 0x0, 1, 0, 32, false, .ro, false, 13, 0⟩
/-- LN_ARB_STALL_CY.COUNT (R173). -/
def F.LN_ARB_STALL_CY_COUNT : Fld := ⟨0xa8, 0x0, 1, 0, 64, true, .ro, true, 13, 0⟩
/-- LN_TBUF_WAIT_CY.COUNT (R173). -/
def F.LN_TBUF_WAIT_CY_COUNT : Fld := ⟨0xb0, 0x0, 1, 0, 32, false, .ro, true, 13, 0⟩
/-- LN_BANK_PD.REQ (R173). -/
def F.LN_BANK_PD_REQ : Fld := ⟨0xc0, 0x0, 1, 0, 16, false, .rw, false, 13, 0⟩
/-- LN_BANK_STAT.OFF (R173). -/
def F.LN_BANK_STAT_OFF : Fld := ⟨0xc4, 0x0, 1, 0, 16, false, .ro, false, 13, 0⟩
/-- LN_BANK_STAT.LOST (R173). -/
def F.LN_BANK_STAT_LOST : Fld := ⟨0xc4, 0x0, 1, 16, 16, false, .w1c, false, 13, 0⟩
/-- LN_BANK_PD_TMO.CYCLES (R173). -/
def F.LN_BANK_PD_TMO_CYCLES : Fld := ⟨0xc8, 0x0, 1, 0, 16, false, .rw, true, 5, 4096⟩
/-- LN_LATE_WR_CNT.COUNT (R173). -/
def F.LN_LATE_WR_CNT_COUNT : Fld := ⟨0xcc, 0x0, 1, 0, 32, false, .ro, false, 13, 0⟩
/-- LN_OFF_ACC_CNT.COUNT (R173). -/
def F.LN_OFF_ACC_CNT_COUNT : Fld := ⟨0xd0, 0x0, 1, 0, 32, false, .ro, false, 13, 0⟩
/-- LN_CORE_BIND.PHYS (R173). -/
def F.LN_CORE_BIND_PHYS : Fld := ⟨0x100, 0x4, 60, 0, 6, false, .ro, false, 13, 0⟩
/-- LN_CORE_BIND.VALID (R173). -/
def F.LN_CORE_BIND_VALID : Fld := ⟨0x100, 0x4, 60, 6, 1, false, .ro, false, 13, 0⟩
/-- LN_POISON_CTRL.EN (R173). -/
def F.LN_POISON_CTRL_EN : Fld := ⟨0x200, 0x0, 1, 0, 1, false, .rwi, true, 6, 0⟩
/-- LN_POISON_STAT.RD_EMPTY (R173). -/
def F.LN_POISON_STAT_RD_EMPTY : Fld := ⟨0x204, 0x0, 1, 0, 1, false, .w1c, true, 6, 0⟩
/-- LN_POISON_STAT.WR_FULL (R173). -/
def F.LN_POISON_STAT_WR_FULL : Fld := ⟨0x204, 0x0, 1, 1, 1, false, .w1c, true, 6, 0⟩
/-- LN_POISON_LINE.LINE (R173). -/
def F.LN_POISON_LINE_LINE : Fld := ⟨0x208, 0x0, 1, 0, 12, false, .ro, true, 13, 0⟩
/-- LN_POISON_LINE.RGN (R173). -/
def F.LN_POISON_LINE_RGN : Fld := ⟨0x208, 0x0, 1, 12, 3, false, .ro, true, 13, 0⟩
/-- LN_POISON_LINE.KIND (R173). -/
def F.LN_POISON_LINE_KIND : Fld := ⟨0x208, 0x0, 1, 15, 1, false, .ro, true, 13, 0⟩
/-- LN_POISON_LINE.REQ (R173). -/
def F.LN_POISON_LINE_REQ : Fld := ⟨0x208, 0x0, 1, 16, 8, false, .ro, true, 13, 0⟩
/-- LN_POISON_CNT.COUNT (R173). -/
def F.LN_POISON_CNT_COUNT : Fld := ⟨0x20c, 0x0, 1, 0, 32, false, .ro, true, 13, 0⟩
/-- LN_POISON_RGN.BASE (R173). -/
def F.LN_POISON_RGN_BASE : Fld := ⟨0x210, 0x8, 8, 0, 12, true, .rwi, true, 6, 0⟩
/-- LN_POISON_RGN.COUNT (R173). -/
def F.LN_POISON_RGN_COUNT : Fld := ⟨0x210, 0x8, 8, 12, 13, true, .rwi, true, 6, 0⟩
/-- LN_POISON_RGN.RPF (R173). -/
def F.LN_POISON_RGN_RPF : Fld := ⟨0x210, 0x8, 8, 25, 4, true, .rwi, true, 6, 0⟩
/-- LN_POISON_RGN.INIT (R173). -/
def F.LN_POISON_RGN_INIT : Fld := ⟨0x210, 0x8, 8, 29, 1, true, .rwi, true, 6, 0⟩
/-- LN_SPWIN.BLOCK (R173). -/
def F.LN_SPWIN_BLOCK : Fld := ⟨0x300, 0x0, 1, 0, 6, false, .rw, true, 5, 0⟩
/-- VE_STATUS.BUSY (R206). -/
def F.VE_STATUS_BUSY : Fld := ⟨0x2000, 0x0, 1, 0, 1, false, .ro, false, 13, 0⟩
/-- VE_STATUS.STICKY (R206). -/
def F.VE_STATUS_STICKY : Fld := ⟨0x2000, 0x0, 1, 1, 17, false, .w1c, false, 13, 0⟩
/-- VE_STATUS.INV_INSN (R206). -/
def F.VE_STATUS_INV_INSN : Fld := ⟨0x2000, 0x0, 1, 18, 1, false, .w1c, false, 13, 0⟩
/-- VE_STATUS.CTX (R206). -/
def F.VE_STATUS_CTX : Fld := ⟨0x2000, 0x0, 1, 20, 10, false, .ro, false, 13, 0⟩
/-- VE_VL.VL (R206). -/
def F.VE_VL_VL : Fld := ⟨0x2004, 0x0, 1, 0, 7, false, .ro, false, 13, 64⟩
/-- VE_CTRL.CLR_CNT (R206). -/
def F.VE_CTRL_CLR_CNT : Fld := ⟨0x2008, 0x0, 1, 0, 1, false, .wo, false, 13, 0⟩
/-- VE_INVALID_CNT.COUNT (R206). -/
def F.VE_INVALID_CNT_COUNT : Fld := ⟨0x2010, 0x0, 1, 0, 32, false, .ro, false, 13, 0⟩
/-- VE_DIVZ_CNT.COUNT (R206). -/
def F.VE_DIVZ_CNT_COUNT : Fld := ⟨0x2014, 0x0, 1, 0, 32, false, .ro, false, 13, 0⟩
/-- VE_OVF_CNT.COUNT (R206). -/
def F.VE_OVF_CNT_COUNT : Fld := ⟨0x2018, 0x0, 1, 0, 32, false, .ro, false, 13, 0⟩
/-- VE_UNF_CNT.COUNT (R206). -/
def F.VE_UNF_CNT_COUNT : Fld := ⟨0x201c, 0x0, 1, 0, 32, false, .ro, false, 13, 0⟩
/-- VE_IOVF_CNT.COUNT (R206). -/
def F.VE_IOVF_CNT_COUNT : Fld := ⟨0x2020, 0x0, 1, 0, 32, false, .ro, false, 13, 0⟩
/-- VE_SAT_CNT.COUNT (R206). -/
def F.VE_SAT_CNT_COUNT : Fld := ⟨0x2024, 0x0, 1, 0, 32, false, .ro, false, 13, 0⟩
/-- VE_NAN0_CNT.COUNT (R206). -/
def F.VE_NAN0_CNT_COUNT : Fld := ⟨0x2028, 0x0, 1, 0, 32, false, .ro, false, 13, 0⟩
/-- VE_PERM_CNT.COUNT (R206). -/
def F.VE_PERM_CNT_COUNT : Fld := ⟨0x202c, 0x0, 1, 0, 32, false, .ro, false, 13, 0⟩
/-- VE_ADDR_CNT.COUNT (R206). -/
def F.VE_ADDR_CNT_COUNT : Fld := ⟨0x2030, 0x0, 1, 0, 32, false, .ro, false, 13, 0⟩
/-- VE_SMX_NAN_CNT.COUNT (R206). -/
def F.VE_SMX_NAN_CNT_COUNT : Fld := ⟨0x2034, 0x0, 1, 0, 32, false, .ro, false, 13, 0⟩
/-- VE_SMX_INF_CNT.COUNT (R206). -/
def F.VE_SMX_INF_CNT_COUNT : Fld := ⟨0x2038, 0x0, 1, 0, 32, false, .ro, false, 13, 0⟩
/-- VE_EMPTY_CNT.COUNT (R206). -/
def F.VE_EMPTY_CNT_COUNT : Fld := ⟨0x203c, 0x0, 1, 0, 32, false, .ro, false, 13, 0⟩
/-- VE_STALE_CNT.COUNT (R206). -/
def F.VE_STALE_CNT_COUNT : Fld := ⟨0x2040, 0x0, 1, 0, 32, false, .ro, false, 13, 0⟩
/-- VE_PMODE_CNT.COUNT (R206). -/
def F.VE_PMODE_CNT_COUNT : Fld := ⟨0x2044, 0x0, 1, 0, 32, false, .ro, false, 13, 0⟩
/-- VE_STAT_CNT.COUNT (R206). -/
def F.VE_STAT_CNT_COUNT : Fld := ⟨0x2048, 0x0, 1, 0, 32, false, .ro, false, 13, 0⟩
/-- VE_EMPTY_TASK_CNT.COUNT (R206). -/
def F.VE_EMPTY_TASK_CNT_COUNT : Fld := ⟨0x204c, 0x0, 1, 0, 32, false, .ro, false, 13, 0⟩
/-- VE_SHAPE_OVF_CNT.COUNT (R206). -/
def F.VE_SHAPE_OVF_CNT_COUNT : Fld := ⟨0x2050, 0x0, 1, 0, 32, false, .ro, false, 13, 0⟩
/-- VE_ISSUED.COUNT (R206). -/
def F.VE_ISSUED_COUNT : Fld := ⟨0x2060, 0x0, 1, 0, 64, true, .ro, true, 13, 0⟩
/-- VE_STALL_CY.COUNT (R206). -/
def F.VE_STALL_CY_COUNT : Fld := ⟨0x2068, 0x0, 1, 0, 64, true, .ro, true, 13, 0⟩
/-- TD_S_DESC0.MODE (R212). No reset value (log entry 1). -/
def F.TD_S_DESC0_MODE : Fld := ⟨0x3400, 0x40, 16, 0, 1, true, .rwi, true, 2, 0⟩
/-- TD_S_DESC0.MOORED (R212). No reset value (log entry 1). -/
def F.TD_S_DESC0_MOORED : Fld := ⟨0x3400, 0x40, 16, 1, 1, true, .rwi, true, 2, 0⟩
/-- TD_S_DESC0.PRIO (R212). No reset value (log entry 1). -/
def F.TD_S_DESC0_PRIO : Fld := ⟨0x3400, 0x40, 16, 2, 2, true, .rwi, true, 2, 0⟩
/-- TD_S_DESC0.FMT (R212). No reset value (log entry 1). -/
def F.TD_S_DESC0_FMT : Fld := ⟨0x3400, 0x40, 16, 4, 6, true, .rwi, true, 2, 0⟩
/-- TD_S_DESC0.FMT_EN (R212). No reset value (log entry 1). -/
def F.TD_S_DESC0_FMT_EN : Fld := ⟨0x3400, 0x40, 16, 10, 1, true, .rwi, true, 2, 0⟩
/-- TD_S_DESC0.SRC_BP (R212). No reset value (log entry 1). -/
def F.TD_S_DESC0_SRC_BP : Fld := ⟨0x3400, 0x40, 16, 11, 5, true, .rwi, true, 2, 0⟩
/-- TD_S_DESC0.SRC_BP_EN (R212). No reset value (log entry 1). -/
def F.TD_S_DESC0_SRC_BP_EN : Fld := ⟨0x3400, 0x40, 16, 16, 1, true, .rwi, true, 2, 0⟩
/-- TD_S_DESC0.DST_BP (R212). No reset value (log entry 1). -/
def F.TD_S_DESC0_DST_BP : Fld := ⟨0x3400, 0x40, 16, 17, 5, true, .rwi, true, 2, 0⟩
/-- TD_S_DESC0.DST_BP_EN (R212). No reset value (log entry 1). -/
def F.TD_S_DESC0_DST_BP_EN : Fld := ⟨0x3400, 0x40, 16, 22, 1, true, .rwi, true, 2, 0⟩
/-- TD_S_DESC0.LIST_SIDE (R212). No reset value (log entry 1). -/
def F.TD_S_DESC0_LIST_SIDE : Fld := ⟨0x3400, 0x40, 16, 23, 1, true, .rwi, true, 2, 0⟩
/-- TD_S_DESC0.REG_EN (R212). No reset value (log entry 1). -/
def F.TD_S_DESC0_REG_EN : Fld := ⟨0x3400, 0x40, 16, 24, 1, true, .rwi, true, 2, 0⟩
/-- TD_S_DESC0.FQ_MAX (R212). No reset value (log entry 1). -/
def F.TD_S_DESC0_FQ_MAX : Fld := ⟨0x3400, 0x40, 16, 25, 5, true, .rwi, true, 2, 0⟩
/-- TD_S_DESC0.CTX (R212). No reset value (log entry 1). -/
def F.TD_S_DESC0_CTX : Fld := ⟨0x3400, 0x40, 16, 30, 10, true, .rwi, true, 2, 0⟩
/-- TD_S_DESC1.SRC (R212). No reset value (log entry 1). -/
def F.TD_S_DESC1_SRC : Fld := ⟨0x3408, 0x40, 16, 0, 64, true, .rwi, true, 2, 0⟩
/-- TD_S_DESC2.DST (R212). No reset value (log entry 1). -/
def F.TD_S_DESC2_DST : Fld := ⟨0x3410, 0x40, 16, 0, 64, true, .rwi, true, 2, 0⟩
/-- TD_S_DESC3.PROG_LINE (R212). No reset value (log entry 1). -/
def F.TD_S_DESC3_PROG_LINE : Fld := ⟨0x3418, 0x40, 16, 0, 12, true, .rwi, true, 2, 0⟩
/-- TD_S_DESC3.LIST_HBM (R212). No reset value (log entry 1). -/
def F.TD_S_DESC3_LIST_HBM : Fld := ⟨0x3418, 0x40, 16, 12, 1, true, .rwi, true, 2, 0⟩
/-- TD_S_DESC3.LIST_ADDR (R212). No reset value (log entry 1). -/
def F.TD_S_DESC3_LIST_ADDR : Fld := ⟨0x3418, 0x40, 16, 16, 48, true, .rwi, true, 2, 0⟩
/-- TD_S_DESC4.STRIDE0 (R212). No reset value (log entry 1). -/
def F.TD_S_DESC4_STRIDE0 : Fld := ⟨0x3420, 0x40, 16, 0, 32, true, .rwi, true, 2, 0⟩
/-- TD_S_DESC4.STRIDE1 (R212). No reset value (log entry 1). -/
def F.TD_S_DESC4_STRIDE1 : Fld := ⟨0x3420, 0x40, 16, 32, 32, true, .rwi, true, 2, 0⟩
/-- TD_S_DESC5.STRIDE2 (R212). No reset value (log entry 1). -/
def F.TD_S_DESC5_STRIDE2 : Fld := ⟨0x3428, 0x40, 16, 0, 32, true, .rwi, true, 2, 0⟩
/-- TD_S_DESC5.STRIDE3 (R212). No reset value (log entry 1). -/
def F.TD_S_DESC5_STRIDE3 : Fld := ⟨0x3428, 0x40, 16, 32, 32, true, .rwi, true, 2, 0⟩
/-- TD_S_DESC6.LIST_LEN (R212). No reset value (log entry 1). -/
def F.TD_S_DESC6_LIST_LEN : Fld := ⟨0x3430, 0x40, 16, 0, 13, true, .rwi, true, 2, 0⟩
/-- TD_S_DESC6.SLOT_LINES (R212). No reset value (log entry 1). -/
def F.TD_S_DESC6_SLOT_LINES : Fld := ⟨0x3430, 0x40, 16, 13, 8, true, .rwi, true, 2, 0⟩
/-- TD_S_DESC6.SRC_WRAP (R212). No reset value (log entry 1). -/
def F.TD_S_DESC6_SRC_WRAP : Fld := ⟨0x3430, 0x40, 16, 21, 12, true, .rwi, true, 2, 0⟩
/-- TD_S_DESC6.DST_WRAP (R212). No reset value (log entry 1). -/
def F.TD_S_DESC6_DST_WRAP : Fld := ⟨0x3430, 0x40, 16, 33, 12, true, .rwi, true, 2, 0⟩
/-- TD_S_DESC7.RATE (R212). No reset value (log entry 1). -/
def F.TD_S_DESC7_RATE : Fld := ⟨0x3438, 0x40, 16, 0, 16, true, .rwi, true, 2, 0⟩
/-- TD_S_DESC7.DEPTH (R212). No reset value (log entry 1). -/
def F.TD_S_DESC7_DEPTH : Fld := ⟨0x3438, 0x40, 16, 16, 16, true, .rwi, true, 2, 0⟩
/-- LN_BP_CNT.READY (R228). -/
def F.LN_BP_CNT_READY : Fld := ⟨0x5000, 0x20, 32, 0, 16, false, .ro, false, 13, 0⟩
/-- LN_BP_CNT.FREE (R228). -/
def F.LN_BP_CNT_FREE : Fld := ⟨0x5000, 0x20, 32, 16, 16, false, .ro, false, 13, 0⟩
/-- LN_BP_INC.READY_INC (R228). -/
def F.LN_BP_INC_READY_INC : Fld := ⟨0x5004, 0x20, 32, 0, 16, false, .wo, true, 3, 0⟩
/-- LN_BP_INC.FREE_INC (R228). -/
def F.LN_BP_INC_FREE_INC : Fld := ⟨0x5004, 0x20, 32, 16, 16, false, .wo, true, 3, 0⟩
/-- LN_BP_CFG.CAP (R228). -/
def F.LN_BP_CFG_CAP : Fld := ⟨0x5008, 0x20, 32, 0, 16, true, .rwi, true, 3, 0⟩
/-- LN_BP_CFG.CONS_KIND (R228). -/
def F.LN_BP_CFG_CONS_KIND : Fld := ⟨0x5008, 0x20, 32, 16, 2, true, .rwi, true, 3, 0⟩
/-- LN_BP_CFG.CONS_STREAM (R228). -/
def F.LN_BP_CFG_CONS_STREAM : Fld := ⟨0x5008, 0x20, 32, 18, 4, true, .rwi, true, 3, 0⟩
/-- LN_BP_CFG.CONS_ROW (R228). -/
def F.LN_BP_CFG_CONS_ROW : Fld := ⟨0x5008, 0x20, 32, 22, 5, true, .rwi, true, 3, 0⟩
/-- LN_BP_CFG.CONS_COL (R228). -/
def F.LN_BP_CFG_CONS_COL : Fld := ⟨0x5008, 0x20, 32, 27, 6, true, .rwi, true, 3, 0⟩
/-- LN_BP_CFG.LINK (R228). -/
def F.LN_BP_CFG_LINK : Fld := ⟨0x5008, 0x20, 32, 33, 1, true, .rwi, true, 3, 0⟩
/-- LN_BP_CFG.RING_BASE (R228). -/
def F.LN_BP_CFG_RING_BASE : Fld := ⟨0x5008, 0x20, 32, 34, 12, true, .rwi, true, 3, 0⟩
/-- LN_BP_CFG.SLOT_LINES (R228). -/
def F.LN_BP_CFG_SLOT_LINES : Fld := ⟨0x5008, 0x20, 32, 46, 8, true, .rwi, true, 3, 0⟩
/-- LN_BP_PEER.NODE (R228). -/
def F.LN_BP_PEER_NODE : Fld := ⟨0x5010, 0x20, 32, 0, 20, true, .rwi, true, 3, 0⟩
/-- LN_BP_PEER.ROW (R228). -/
def F.LN_BP_PEER_ROW : Fld := ⟨0x5010, 0x20, 32, 20, 5, true, .rwi, true, 3, 0⟩
/-- LN_BP_PEER.COL (R228). -/
def F.LN_BP_PEER_COL : Fld := ⟨0x5010, 0x20, 32, 25, 6, true, .rwi, true, 3, 0⟩
/-- LN_BP_PEER.BP (R228). -/
def F.LN_BP_PEER_BP : Fld := ⟨0x5010, 0x20, 32, 31, 5, true, .rwi, true, 3, 0⟩
/-- LN_BP_STAT.OVF (R228). -/
def F.LN_BP_STAT_OVF : Fld := ⟨0x5018, 0x20, 32, 0, 1, false, .w1c, false, 13, 0⟩
/-- LN_BP_STAT.LAND_ERR (R228). -/
def F.LN_BP_STAT_LAND_ERR : Fld := ⟨0x5018, 0x20, 32, 1, 1, false, .w1c, false, 13, 0⟩
/-- LN_BP_STAT.WIDX (R228). -/
def F.LN_BP_STAT_WIDX : Fld := ⟨0x5018, 0x20, 32, 2, 12, false, .ro, true, 13, 0⟩
/-- LN_BP_CTRL.INIT (R228). -/
def F.LN_BP_CTRL_INIT : Fld := ⟨0x501c, 0x20, 32, 0, 1, false, .wo, true, 3, 0⟩
/-- TD_STATUS.ACTIVE (R244). -/
def F.TD_STATUS_ACTIVE : Fld := ⟨0x3000, 0x0, 1, 0, 16, false, .ro, false, 13, 0⟩
/-- TD_STATUS.CFG_ERR (R244). -/
def F.TD_STATUS_CFG_ERR : Fld := ⟨0x3000, 0x0, 1, 16, 1, false, .w1c, false, 13, 0⟩
/-- TD_STATUS.STALL (R244). -/
def F.TD_STATUS_STALL : Fld := ⟨0x3000, 0x0, 1, 17, 1, false, .w1c, false, 13, 0⟩
/-- TD_STATUS.SPILL (R244). -/
def F.TD_STATUS_SPILL : Fld := ⟨0x3000, 0x0, 1, 18, 1, false, .w1c, false, 13, 0⟩
/-- TD_STATUS.FAULT (R244). -/
def F.TD_STATUS_FAULT : Fld := ⟨0x3000, 0x0, 1, 19, 1, false, .w1c, false, 13, 0⟩
/-- TD_CTRL.CLR_CNT (R244). -/
def F.TD_CTRL_CLR_CNT : Fld := ⟨0x3004, 0x0, 1, 0, 1, false, .wo, false, 13, 0⟩
/-- TD_CFG.STALL_LIM (R244). -/
def F.TD_CFG_STALL_LIM : Fld := ⟨0x3008, 0x0, 1, 0, 8, false, .rw, true, 2, 2⟩
/-- TD_CFG.STALL_ERR (R244). -/
def F.TD_CFG_STALL_ERR : Fld := ⟨0x3008, 0x0, 1, 8, 16, false, .rw, true, 2, 4096⟩
/-- TD_FQ.USED (R244). -/
def F.TD_FQ_USED : Fld := ⟨0x300c, 0x0, 1, 0, 6, false, .ro, false, 13, 0⟩
/-- TD_SPILL_BASE.ADDR (R244). -/
def F.TD_SPILL_BASE_ADDR : Fld := ⟨0x3010, 0x0, 1, 0, 48, true, .rwi, true, 2, 0⟩
/-- TD_SPILL_LINES.LINES (R244). -/
def F.TD_SPILL_LINES_LINES : Fld := ⟨0x3018, 0x0, 1, 0, 24, false, .rwi, true, 2, 0⟩
/-- TD_LINES.COUNT (R244). -/
def F.TD_LINES_COUNT : Fld := ⟨0x3040, 0x0, 1, 0, 64, true, .ro, true, 13, 0⟩
/-- TD_FQ_FULL_CY.COUNT (R244). -/
def F.TD_FQ_FULL_CY_COUNT : Fld := ⟨0x3048, 0x0, 1, 0, 64, true, .ro, true, 13, 0⟩
/-- TD_REG_WAIT_CY.COUNT (R244). -/
def F.TD_REG_WAIT_CY_COUNT : Fld := ⟨0x3050, 0x0, 1, 0, 64, true, .ro, true, 13, 0⟩
/-- TD_MERGE_CNT.COUNT (R244). -/
def F.TD_MERGE_CNT_COUNT : Fld := ⟨0x3058, 0x0, 1, 0, 32, false, .ro, true, 13, 0⟩
/-- TD_SPILL_CNT.COUNT (R244). -/
def F.TD_SPILL_CNT_COUNT : Fld := ⟨0x305c, 0x0, 1, 0, 32, false, .ro, false, 13, 0⟩
/-- TD_FAULT_CNT.COUNT (R244). -/
def F.TD_FAULT_CNT_COUNT : Fld := ⟨0x3060, 0x0, 1, 0, 32, false, .ro, false, 13, 0⟩
/-- TD_REARM_OVW_CNT.COUNT (R244). -/
def F.TD_REARM_OVW_CNT_COUNT : Fld := ⟨0x3064, 0x0, 1, 0, 32, false, .ro, false, 13, 0⟩
/-- TD_LIST_ERR_CNT.COUNT (R244). -/
def F.TD_LIST_ERR_CNT_COUNT : Fld := ⟨0x3068, 0x0, 1, 0, 32, false, .ro, false, 13, 0⟩
/-- TD_S_CMD.START (R245). -/
def F.TD_S_CMD_START : Fld := ⟨0x3800, 0x40, 16, 0, 1, false, .wo, true, 2, 0⟩
/-- TD_S_CMD.STOP (R245). -/
def F.TD_S_CMD_STOP : Fld := ⟨0x3800, 0x40, 16, 1, 1, false, .wo, true, 2, 0⟩
/-- TD_S_CMD.RESUME (R245). -/
def F.TD_S_CMD_RESUME : Fld := ⟨0x3800, 0x40, 16, 2, 1, false, .wo, true, 2, 0⟩
/-- TD_S_CMD.ABORT (R245). -/
def F.TD_S_CMD_ABORT : Fld := ⟨0x3800, 0x40, 16, 3, 1, false, .wo, true, 2, 0⟩
/-- TD_S_STAT.STATE (R245). -/
def F.TD_S_STAT_STATE : Fld := ⟨0x3804, 0x40, 16, 0, 3, false, .ro, false, 13, 0⟩
/-- TD_S_STAT.DONE (R245). -/
def F.TD_S_STAT_DONE : Fld := ⟨0x3804, 0x40, 16, 3, 1, false, .w1c, false, 13, 0⟩
/-- TD_S_STAT.ERR (R245). -/
def F.TD_S_STAT_ERR : Fld := ⟨0x3804, 0x40, 16, 4, 1, false, .w1c, false, 13, 0⟩
/-- TD_S_STAT.REARM_PEND (R245). -/
def F.TD_S_STAT_REARM_PEND : Fld := ⟨0x3804, 0x40, 16, 5, 1, false, .ro, false, 13, 0⟩
/-- TD_S_STAT.REARM_OVW (R245). -/
def F.TD_S_STAT_REARM_OVW : Fld := ⟨0x3804, 0x40, 16, 6, 1, false, .w1c, false, 13, 0⟩
/-- TD_S_STAT.FAULT (R245). -/
def F.TD_S_STAT_FAULT : Fld := ⟨0x3804, 0x40, 16, 7, 1, false, .w1c, false, 13, 0⟩
/-- TD_S_STAT.SPILLED (R245). -/
def F.TD_S_STAT_SPILLED : Fld := ⟨0x3804, 0x40, 16, 8, 1, false, .ro, false, 13, 0⟩
/-- TD_S_STAT.WAIT_CAUSE (R245). -/
def F.TD_S_STAT_WAIT_CAUSE : Fld := ⟨0x3804, 0x40, 16, 9, 3, false, .ro, false, 13, 0⟩
/-- TD_S_STAT.STALL (R245). -/
def F.TD_S_STAT_STALL : Fld := ⟨0x3804, 0x40, 16, 16, 16, false, .ro, false, 13, 0⟩
/-- TD_S_REARM_SRC.SRC (R245). -/
def F.TD_S_REARM_SRC_SRC : Fld := ⟨0x3808, 0x40, 16, 0, 64, true, .rw, true, 2, 0⟩
/-- TD_S_REARM_DST.DST (R245). -/
def F.TD_S_REARM_DST_DST : Fld := ⟨0x3810, 0x40, 16, 0, 64, true, .wo, true, 2, 0⟩
/-- TD_S_FAULT_ADDR.ADDR (R245). -/
def F.TD_S_FAULT_ADDR_ADDR : Fld := ⟨0x3818, 0x40, 16, 0, 48, true, .ro, false, 13, 0⟩
/-- TD_S_POS.PC (R245). -/
def F.TD_S_POS_PC : Fld := ⟨0x3c00, 0x40, 16, 0, 5, false, .ro, true, 13, 0⟩
/-- TD_S_POS.LIST_IDX (R245). -/
def F.TD_S_POS_LIST_IDX : Fld := ⟨0x3c00, 0x40, 16, 5, 13, false, .ro, true, 13, 0⟩
/-- TD_S_POS.FQ_USED (R245). -/
def F.TD_S_POS_FQ_USED : Fld := ⟨0x3c00, 0x40, 16, 18, 6, false, .ro, true, 13, 0⟩
/-- TD_S_TOKENS.TOKENS (R245). -/
def F.TD_S_TOKENS_TOKENS : Fld := ⟨0x3c04, 0x40, 16, 0, 24, false, .ro, true, 13, 0⟩
/-- TD_S_SO.SO (R245). -/
def F.TD_S_SO_SO : Fld := ⟨0x3c08, 0x40, 16, 0, 42, true, .ro, true, 13, 0⟩
/-- TD_S_DO.DO (R245). -/
def F.TD_S_DO_DO : Fld := ⟨0x3c10, 0x40, 16, 0, 42, true, .ro, true, 13, 0⟩
/-- TD_S_LOOPA.C0 (R245). -/
def F.TD_S_LOOPA_C0 : Fld := ⟨0x3c18, 0x40, 16, 0, 16, true, .ro, true, 13, 0⟩
/-- TD_S_LOOPA.C1 (R245). -/
def F.TD_S_LOOPA_C1 : Fld := ⟨0x3c18, 0x40, 16, 16, 16, true, .ro, true, 13, 0⟩
/-- TD_S_LOOPA.C2 (R245). -/
def F.TD_S_LOOPA_C2 : Fld := ⟨0x3c18, 0x40, 16, 32, 16, true, .ro, true, 13, 0⟩
/-- TD_S_LOOPA.C3 (R245). -/
def F.TD_S_LOOPA_C3 : Fld := ⟨0x3c18, 0x40, 16, 48, 16, true, .ro, true, 13, 0⟩
/-- TD_S_LOOPB.C4 (R245). -/
def F.TD_S_LOOPB_C4 : Fld := ⟨0x3c20, 0x40, 16, 0, 16, false, .ro, true, 13, 0⟩
/-- TD_S_LOOPB.C5 (R245). -/
def F.TD_S_LOOPB_C5 : Fld := ⟨0x3c20, 0x40, 16, 16, 16, false, .ro, true, 13, 0⟩
/-- TD_S_LINES.COUNT (R245). -/
def F.TD_S_LINES_COUNT : Fld := ⟨0x3c28, 0x40, 16, 0, 64, true, .ro, true, 13, 0⟩
/-- TD_S_SPILL.LINES (R245). -/
def F.TD_S_SPILL_LINES : Fld := ⟨0x3c30, 0x40, 16, 0, 24, false, .ro, true, 13, 0⟩
/-- LN_TQ_STAT.USED (R266). -/
def F.LN_TQ_STAT_USED : Fld := ⟨0x4000, 0x0, 1, 0, 7, false, .ro, false, 13, 0⟩
/-- LN_TQ_STAT.READY (R266). -/
def F.LN_TQ_STAT_READY : Fld := ⟨0x4000, 0x0, 1, 8, 4, false, .ro, false, 13, 0⟩
/-- LN_TQ_STAT.OVF (R266). -/
def F.LN_TQ_STAT_OVF : Fld := ⟨0x4000, 0x0, 1, 16, 1, false, .w1c, false, 13, 0⟩
/-- LN_TQ_STAT.INV (R266). -/
def F.LN_TQ_STAT_INV : Fld := ⟨0x4000, 0x0, 1, 17, 1, false, .w1c, false, 13, 0⟩
/-- LN_TQ_STAT.DUP (R266). -/
def F.LN_TQ_STAT_DUP : Fld := ⟨0x4000, 0x0, 1, 18, 1, false, .w1c, false, 13, 0⟩
/-- LN_TQ_CTRL.SQUASH (R266). -/
def F.LN_TQ_CTRL_SQUASH : Fld := ⟨0x4004, 0x0, 1, 0, 1, false, .wo, true, 4, 0⟩
/-- LN_TQ_PUSH_LO.ENTRY (R266). -/
def F.LN_TQ_PUSH_LO_ENTRY : Fld := ⟨0x4008, 0x0, 1, 0, 64, true, .rw, true, 4, 0⟩
/-- LN_TQ_PUSH_HI.ENTRY (R266). -/
def F.LN_TQ_PUSH_HI_ENTRY : Fld := ⟨0x4010, 0x0, 1, 0, 64, true, .wo, true, 4, 0⟩
/-- LN_STEAL_CFG.EN (R266). -/
def F.LN_STEAL_CFG_EN : Fld := ⟨0x4018, 0x0, 1, 0, 1, false, .rw, true, 4, 0⟩
/-- LN_STEAL_CFG.WAIT (R266). -/
def F.LN_STEAL_CFG_WAIT : Fld := ⟨0x4018, 0x0, 1, 1, 10, false, .rw, true, 4, 16⟩
/-- LN_STEAL_CFG.BACKOFF (R266). -/
def F.LN_STEAL_CFG_BACKOFF : Fld := ⟨0x4018, 0x0, 1, 11, 10, false, .rw, true, 4, 64⟩
/-- LN_STEAL.VALID (R266). -/
def F.LN_STEAL_VALID : Fld := ⟨0x4020, 0x4, 8, 0, 1, false, .rwi, true, 4, 0⟩
/-- LN_STEAL.ROW (R266). -/
def F.LN_STEAL_ROW : Fld := ⟨0x4020, 0x4, 8, 1, 5, false, .rwi, true, 4, 0⟩
/-- LN_STEAL.COL (R266). -/
def F.LN_STEAL_COL : Fld := ⟨0x4020, 0x4, 8, 6, 6, false, .rwi, true, 4, 0⟩
/-- LN_STEAL.MASK (R266). -/
def F.LN_STEAL_MASK : Fld := ⟨0x4020, 0x4, 8, 12, 16, false, .rwi, true, 4, 0⟩
/-- LN_TASK_DONE.COUNT (R266). -/
def F.LN_TASK_DONE_COUNT : Fld := ⟨0x4040, 0x0, 1, 0, 64, true, .ro, false, 13, 0⟩
/-- LN_PASS_CNT.COUNT (R266). -/
def F.LN_PASS_CNT_COUNT : Fld := ⟨0x4048, 0x0, 1, 0, 32, false, .ro, false, 13, 0⟩
/-- LN_STEAL_OK_CNT.COUNT (R266). -/
def F.LN_STEAL_OK_CNT_COUNT : Fld := ⟨0x404c, 0x0, 1, 0, 32, false, .ro, false, 13, 0⟩
/-- LN_STEAL_EMPTY_CNT.COUNT (R266). -/
def F.LN_STEAL_EMPTY_CNT_COUNT : Fld := ⟨0x4050, 0x0, 1, 0, 32, false, .ro, false, 13, 0⟩
/-- LN_STOLEN_CNT.COUNT (R266). -/
def F.LN_STOLEN_CNT_COUNT : Fld := ⟨0x4054, 0x0, 1, 0, 32, false, .ro, false, 13, 0⟩
/-- LN_DUP_CNT.COUNT (R266). -/
def F.LN_DUP_CNT_COUNT : Fld := ⟨0x4058, 0x0, 1, 0, 32, false, .ro, false, 13, 0⟩
/-- LN_REPLAY_CNT.COUNT (R266). -/
def F.LN_REPLAY_CNT_COUNT : Fld := ⟨0x405c, 0x0, 1, 0, 32, false, .ro, false, 13, 0⟩
/-- LN_CORE_WAIT_CY.COUNT (R266). -/
def F.LN_CORE_WAIT_CY_COUNT : Fld := ⟨0x4060, 0x0, 1, 0, 64, true, .ro, true, 13, 0⟩
/-- LN_XACQ.CONS (R266). -/
def F.LN_XACQ_CONS : Fld := ⟨0x4100, 0x4, 32, 0, 16, false, .ro, false, 13, 0⟩
/-- LN_XACQ.PROD (R266). -/
def F.LN_XACQ_PROD : Fld := ⟨0x4100, 0x4, 32, 16, 16, false, .ro, false, 13, 0⟩
/-- LN_WC_RANGE.HEAD (R267). -/
def F.LN_WC_RANGE_HEAD : Fld := ⟨0x4400, 0x40, 16, 0, 13, false, .ro, false, 13, 0⟩
/-- LN_WC_RANGE.TAIL (R267). -/
def F.LN_WC_RANGE_TAIL : Fld := ⟨0x4400, 0x40, 16, 16, 13, false, .ro, false, 13, 0⟩
/-- LN_WC_STAT.DONE (R267). -/
def F.LN_WC_STAT_DONE : Fld := ⟨0x4404, 0x40, 16, 0, 13, false, .ro, false, 13, 0⟩
/-- LN_WC_STAT.FIN (R267). -/
def F.LN_WC_STAT_FIN : Fld := ⟨0x4404, 0x40, 16, 13, 1, false, .ro, false, 13, 1⟩
/-- LN_WC_STAT.OUTST (R267). -/
def F.LN_WC_STAT_OUTST : Fld := ⟨0x4404, 0x40, 16, 14, 4, false, .ro, false, 13, 0⟩
/-- LN_WC_STAT.REPLAYS (R267). -/
def F.LN_WC_STAT_REPLAYS : Fld := ⟨0x4404, 0x40, 16, 18, 3, false, .ro, false, 13, 0⟩
/-- LN_WC_ARM.HEAD (R267). -/
def F.LN_WC_ARM_HEAD : Fld := ⟨0x4408, 0x40, 16, 0, 13, false, .wo, true, 4, 0⟩
/-- LN_WC_ARM.TAIL (R267). -/
def F.LN_WC_ARM_TAIL : Fld := ⟨0x4408, 0x40, 16, 16, 13, false, .wo, true, 4, 0⟩
/-- LN_WC_REPLAY.INDEX (R267). -/
def F.LN_WC_REPLAY_INDEX : Fld := ⟨0x440c, 0x40, 16, 0, 13, false, .wo, true, 4, 0⟩
/-- LN_WC_CFG.FEED_S (R267). -/
def F.LN_WC_CFG_FEED_S : Fld := ⟨0x4410, 0x40, 16, 0, 4, false, .rwi, true, 4, 0⟩
/-- LN_WC_CFG.FEED_EN (R267). -/
def F.LN_WC_CFG_FEED_EN : Fld := ⟨0x4410, 0x40, 16, 4, 1, false, .rwi, true, 4, 0⟩
/-- LN_WC_CFG.OUT_S (R267). -/
def F.LN_WC_CFG_OUT_S : Fld := ⟨0x4410, 0x40, 16, 5, 4, false, .rwi, true, 4, 0⟩
/-- LN_WC_CFG.OUT_EN (R267). -/
def F.LN_WC_CFG_OUT_EN : Fld := ⟨0x4410, 0x40, 16, 9, 1, false, .rwi, true, 4, 0⟩
/-- LN_WC_CFG.AHEAD (R267). -/
def F.LN_WC_CFG_AHEAD : Fld := ⟨0x4410, 0x40, 16, 10, 3, false, .rwi, true, 4, 0⟩
/-- LN_WC_FEED.BASE (R267). -/
def F.LN_WC_FEED_BASE : Fld := ⟨0x4418, 0x40, 16, 0, 48, true, .rwi, true, 4, 0⟩
/-- LN_WC_FEED.STEP (R267). -/
def F.LN_WC_FEED_STEP : Fld := ⟨0x4418, 0x40, 16, 48, 16, true, .rwi, true, 4, 0⟩
/-- LN_WC_OUTB.BASE (R267). -/
def F.LN_WC_OUTB_BASE : Fld := ⟨0x4420, 0x40, 16, 0, 48, true, .rwi, true, 4, 0⟩
/-- LN_WC_OUTB.STEP (R267). -/
def F.LN_WC_OUTB_STEP : Fld := ⟨0x4420, 0x40, 16, 48, 16, true, .rwi, true, 4, 0⟩
/-- LN_WC_BASE.BASE (R267). -/
def F.LN_WC_BASE_BASE : Fld := ⟨0x4428, 0x40, 16, 0, 13, false, .ro, false, 13, 0⟩
/-- LN_WC_BASE.COUNT (R267). -/
def F.LN_WC_BASE_COUNT : Fld := ⟨0x4428, 0x40, 16, 16, 13, false, .ro, false, 13, 0⟩
/-- TB_CFG.WIN (R280). -/
def F.TB_CFG_WIN : Fld := ⟨0x30000, 0x0, 1, 0, 7, true, .rwi, false, 13, 16⟩
/-- TB_CFG.MISS_ALARM (R280). -/
def F.TB_CFG_MISS_ALARM : Fld := ⟨0x30000, 0x0, 1, 7, 8, true, .rwi, false, 13, 8⟩
/-- TB_CFG.RELOCK (R280). -/
def F.TB_CFG_RELOCK : Fld := ⟨0x30000, 0x0, 1, 15, 4, true, .rwi, false, 13, 8⟩
/-- TB_CFG.SRC (R280). -/
def F.TB_CFG_SRC : Fld := ⟨0x30000, 0x0, 1, 19, 1, true, .rwi, false, 13, 0⟩
/-- TB_CFG.SRC_CH (R280). -/
def F.TB_CFG_SRC_CH : Fld := ⟨0x30000, 0x0, 1, 20, 4, true, .rwi, false, 13, 0⟩
/-- TB_CFG.RELAY (R280). -/
def F.TB_CFG_RELAY : Fld := ⟨0x30000, 0x0, 1, 24, 12, true, .rwi, false, 13, 0⟩
/-- TB_CFG.FREERUN (R280). -/
def F.TB_CFG_FREERUN : Fld := ⟨0x30000, 0x0, 1, 36, 1, true, .rwi, false, 13, 0⟩
/-- TB_STAT.EN (R280). -/
def F.TB_STAT_EN : Fld := ⟨0x30008, 0x0, 1, 0, 1, false, .ro, false, 13, 0⟩
/-- TB_STAT.LOCKED (R280). -/
def F.TB_STAT_LOCKED : Fld := ⟨0x30008, 0x0, 1, 1, 1, false, .ro, false, 13, 0⟩
/-- TB_STAT.HOLDOVER (R280). -/
def F.TB_STAT_HOLDOVER : Fld := ⟨0x30008, 0x0, 1, 2, 1, false, .ro, false, 13, 0⟩
/-- TB_STAT.ALARM (R280). -/
def F.TB_STAT_ALARM : Fld := ⟨0x30008, 0x0, 1, 3, 1, false, .w1c, false, 13, 0⟩
/-- TB_STAT.SPUR (R280). -/
def F.TB_STAT_SPUR : Fld := ⟨0x30008, 0x0, 1, 4, 1, false, .w1c, false, 13, 0⟩
/-- TB_STAT.CFG_ERR (R280). -/
def F.TB_STAT_CFG_ERR : Fld := ⟨0x30008, 0x0, 1, 5, 1, false, .w1c, false, 13, 0⟩
/-- TB_STAT.MISS_RUN (R280). -/
def F.TB_STAT_MISS_RUN : Fld := ⟨0x30008, 0x0, 1, 8, 8, false, .ro, false, 13, 0⟩
/-- TB_CTRL.CLR_CNT (R280). -/
def F.TB_CTRL_CLR_CNT : Fld := ⟨0x3000c, 0x0, 1, 0, 1, false, .wo, false, 13, 0⟩
/-- TB_TICK.TICK (R280). -/
def F.TB_TICK_TICK : Fld := ⟨0x30010, 0x0, 1, 0, 48, true, .ro, false, 13, 0⟩
/-- TB_TICK.PHASE (R280). -/
def F.TB_TICK_PHASE : Fld := ⟨0x30010, 0x0, 1, 48, 10, true, .ro, false, 13, 0⟩
/-- TB_EPOCH.EPOCH (R280). -/
def F.TB_EPOCH_EPOCH : Fld := ⟨0x30018, 0x0, 1, 0, 64, true, .rw, false, 13, 0⟩
/-- TB_PERIOD.P (R280). -/
def F.TB_PERIOD_P : Fld := ⟨0x30020, 0x0, 1, 0, 24, false, .ro, true, 13, 500000⟩
/-- TB_PHASE_ERR.ERR (R280). -/
def F.TB_PHASE_ERR_ERR : Fld := ⟨0x30024, 0x0, 1, 0, 12, false, .ro, true, 13, 0⟩
/-- TB_SPUR_CNT.COUNT (R280). -/
def F.TB_SPUR_CNT_COUNT : Fld := ⟨0x30028, 0x0, 1, 0, 32, false, .ro, false, 13, 0⟩
/-- TB_MISS_CNT.COUNT (R280). -/
def F.TB_MISS_CNT_COUNT : Fld := ⟨0x3002c, 0x0, 1, 0, 32, false, .ro, false, 13, 0⟩
/-- TB_HOLD_TICKS.COUNT (R280). -/
def F.TB_HOLD_TICKS_COUNT : Fld := ⟨0x30030, 0x0, 1, 0, 32, false, .ro, false, 13, 0⟩
/-- TB_REALIGN_CNT.COUNT (R280). -/
def F.TB_REALIGN_CNT_COUNT : Fld := ⟨0x30034, 0x0, 1, 0, 32, false, .ro, false, 13, 0⟩
/-- CTX_STATE.STATE (R281). -/
def F.CTX_STATE_STATE : Fld := ⟨0x100000, 0x40, 1024, 0, 3, true, .ro, false, 13, 0⟩
/-- CTX_STATE.CATCHUP (R281). -/
def F.CTX_STATE_CATCHUP : Fld := ⟨0x100000, 0x40, 1024, 3, 1, true, .ro, false, 13, 0⟩
/-- CTX_STATE.LATE (R281). -/
def F.CTX_STATE_LATE : Fld := ⟨0x100000, 0x40, 1024, 4, 1, true, .ro, false, 13, 0⟩
/-- CTX_STATE.BROKEN (R281). -/
def F.CTX_STATE_BROKEN : Fld := ⟨0x100000, 0x40, 1024, 5, 1, true, .ro, false, 13, 0⟩
/-- CTX_STATE.HOLD_PEND (R281). -/
def F.CTX_STATE_HOLD_PEND : Fld := ⟨0x100000, 0x40, 1024, 6, 1, true, .ro, false, 13, 0⟩
/-- CTX_STATE.FREE_PEND (R281). -/
def F.CTX_STATE_FREE_PEND : Fld := ⟨0x100000, 0x40, 1024, 7, 1, true, .ro, false, 13, 0⟩
/-- CTX_STATE.PEND_B (R281). -/
def F.CTX_STATE_PEND_B : Fld := ⟨0x100000, 0x40, 1024, 8, 4, true, .ro, false, 13, 0⟩
/-- CTX_STATE.SEQ (R281). -/
def F.CTX_STATE_SEQ : Fld := ⟨0x100000, 0x40, 1024, 12, 3, true, .ro, false, 13, 0⟩
/-- CTX_STATE.EARLY (R281). -/
def F.CTX_STATE_EARLY : Fld := ⟨0x100000, 0x40, 1024, 15, 1, true, .ro, false, 13, 0⟩
/-- CTX_STATE.DEBT (R281). -/
def F.CTX_STATE_DEBT : Fld := ⟨0x100000, 0x40, 1024, 16, 16, true, .ro, false, 13, 0⟩
/-- CTX_STATE.IN_CNT (R281). -/
def F.CTX_STATE_IN_CNT : Fld := ⟨0x100000, 0x40, 1024, 32, 8, true, .ro, false, 13, 0⟩
/-- CTX_CHAR.PERIOD (R281). -/
def F.CTX_CHAR_PERIOD : Fld := ⟨0x100008, 0x40, 1024, 0, 12, true, .rwl, false, 13, 79⟩
/-- CTX_CHAR.PHASE (R281). -/
def F.CTX_CHAR_PHASE : Fld := ⟨0x100008, 0x40, 1024, 12, 12, true, .rwl, false, 13, 0⟩
/-- CTX_CHAR.WINDOW (R281). -/
def F.CTX_CHAR_WINDOW : Fld := ⟨0x100008, 0x40, 1024, 24, 12, true, .rwl, false, 13, 79⟩
/-- CTX_CHAR.SHORTEN (R281). -/
def F.CTX_CHAR_SHORTEN : Fld := ⟨0x100008, 0x40, 1024, 36, 4, true, .rwl, false, 13, 4⟩
/-- CTX_CHAR.INMODE (R281). -/
def F.CTX_CHAR_INMODE : Fld := ⟨0x100008, 0x40, 1024, 40, 1, true, .rwl, false, 13, 0⟩
/-- CTX_CHAR.BATCH (R281). -/
def F.CTX_CHAR_BATCH : Fld := ⟨0x100008, 0x40, 1024, 48, 8, true, .rwl, false, 13, 0⟩
/-- CTX_CHAR.PLAN (R281). -/
def F.CTX_CHAR_PLAN : Fld := ⟨0x100008, 0x40, 1024, 56, 8, true, .rwl, false, 13, 0⟩
/-- CTX_BOUNDARY.B (R281). -/
def F.CTX_BOUNDARY_B : Fld := ⟨0x100010, 0x40, 1024, 0, 48, true, .ro, false, 13, 0⟩
/-- CTX_DEADLINE.DEADLINE (R281). -/
def F.CTX_DEADLINE_DEADLINE : Fld := ⟨0x100018, 0x40, 1024, 0, 48, true, .ro, false, 13, 0⟩
/-- CTX_LOCK.OWNER (R281). -/
def F.CTX_LOCK_OWNER : Fld := ⟨0x100020, 0x40, 1024, 0, 16, true, .ro, false, 13, 0⟩
/-- CTX_LOCK.LEASE_END (R281). -/
def F.CTX_LOCK_LEASE_END : Fld := ⟨0x100020, 0x40, 1024, 16, 48, true, .ro, false, 13, 0⟩
/-- CTX_HBM.BASE (R281). -/
def F.CTX_HBM_BASE : Fld := ⟨0x100028, 0x40, 1024, 0, 48, true, .rwl, false, 13, 0⟩
/-- CTX_STATS.PERIODS (R281). -/
def F.CTX_STATS_PERIODS : Fld := ⟨0x100030, 0x40, 1024, 0, 32, true, .ro, false, 13, 0⟩
/-- CTX_STATS.LATE_PERIODS (R281). -/
def F.CTX_STATS_LATE_PERIODS : Fld := ⟨0x100030, 0x40, 1024, 32, 16, true, .ro, false, 13, 0⟩
/-- CTX_STATS.MAX_LATE (R281). -/
def F.CTX_STATS_MAX_LATE : Fld := ⟨0x100030, 0x40, 1024, 48, 16, true, .ro, false, 13, 0⟩
/-- CTX_STARTED.STARTED (R281). -/
def F.CTX_STARTED_STARTED : Fld := ⟨0x100038, 0x40, 1024, 0, 48, true, .ro, false, 13, 0⟩
/-- CH_TICK.TICK (R297). -/
def F.CH_TICK_TICK : Fld := ⟨0x100, 0x0, 1, 0, 48, true, .ro, false, 13, 0⟩
/-- CH_TICK.PHASE (R297). -/
def F.CH_TICK_PHASE : Fld := ⟨0x100, 0x0, 1, 48, 10, true, .ro, false, 13, 0⟩
/-- CH_TICK.HOLD (R297). -/
def F.CH_TICK_HOLD : Fld := ⟨0x100, 0x0, 1, 58, 1, true, .ro, false, 13, 0⟩
/-- CH_CHAR.PERIOD (R297). -/
def F.CH_CHAR_PERIOD : Fld := ⟨0x108, 0x0, 1, 0, 13, false, .ro, false, 13, 80⟩
/-- CH_CHAR.PHASE (R297). -/
def F.CH_CHAR_PHASE : Fld := ⟨0x108, 0x0, 1, 13, 12, false, .ro, false, 13, 0⟩
/-- CH_CTX_CMD.CMD (R297). -/
def F.CH_CTX_CMD_CMD : Fld := ⟨0x110, 0x0, 1, 0, 64, true, .wo, false, 13, 0⟩
/-- CH_CTX_CFG.DEBT_ALARM (R297). -/
def F.CH_CTX_CFG_DEBT_ALARM : Fld := ⟨0x118, 0x0, 1, 0, 16, false, .rw, false, 13, 800⟩
/-- CH_CTX_CFG.AUTO_REVAL (R297). -/
def F.CH_CTX_CFG_AUTO_REVAL : Fld := ⟨0x118, 0x0, 1, 16, 1, false, .rw, false, 13, 0⟩
/-- CH_CTX_STAT.SEQ_USED (R297). -/
def F.CH_CTX_STAT_SEQ_USED : Fld := ⟨0x11c, 0x0, 1, 0, 4, false, .ro, false, 13, 0⟩
/-- CH_CTX_STAT.CFG_ERR (R297). -/
def F.CH_CTX_STAT_CFG_ERR : Fld := ⟨0x11c, 0x0, 1, 4, 1, false, .w1c, false, 13, 0⟩
/-- CH_CTX_STAT.REJ (R297). -/
def F.CH_CTX_STAT_REJ : Fld := ⟨0x11c, 0x0, 1, 5, 1, false, .w1c, false, 13, 0⟩
/-- CH_CTX_STAT.OVERRUN (R297). -/
def F.CH_CTX_STAT_OVERRUN : Fld := ⟨0x11c, 0x0, 1, 6, 1, false, .w1c, false, 13, 0⟩
/-- CH_CTX_CTRL.CLR_CNT (R297). -/
def F.CH_CTX_CTRL_CLR_CNT : Fld := ⟨0x120, 0x0, 1, 0, 1, false, .wo, false, 13, 0⟩
/-- CH_CTX_REJ_CNT.COUNT (R297). -/
def F.CH_CTX_REJ_CNT_COUNT : Fld := ⟨0x124, 0x0, 1, 0, 32, false, .ro, false, 13, 0⟩
/-- CH_LOCK_BREAK_CNT.COUNT (R297). -/
def F.CH_LOCK_BREAK_CNT_COUNT : Fld := ⟨0x128, 0x0, 1, 0, 32, false, .ro, false, 13, 0⟩
/-- CH_OVERRUN_CNT.COUNT (R297). -/
def F.CH_OVERRUN_CNT_COUNT : Fld := ⟨0x12c, 0x0, 1, 0, 32, false, .ro, false, 13, 0⟩
/-- CH_MARK_SAT_CNT.COUNT (R297). -/
def F.CH_MARK_SAT_CNT_COUNT : Fld := ⟨0x130, 0x0, 1, 0, 32, false, .ro, false, 13, 0⟩
/-- HM_STATUS.TRAINED (R322). -/
def F.HM_STATUS_TRAINED : Fld := ⟨0x20000, 0x0, 1, 0, 1, false, .ro, false, 13, 0⟩
/-- HM_STATUS.RATE (R322). -/
def F.HM_STATUS_RATE : Fld := ⟨0x20000, 0x0, 1, 1, 2, false, .ro, false, 13, 3⟩
/-- HM_STATUS.HOT (R322). -/
def F.HM_STATUS_HOT : Fld := ⟨0x20000, 0x0, 1, 3, 1, false, .ro, false, 13, 0⟩
/-- HM_STATUS.CFG_ERR (R322). -/
def F.HM_STATUS_CFG_ERR : Fld := ⟨0x20000, 0x0, 1, 4, 1, false, .w1c, false, 13, 0⟩
/-- HM_STATUS.CE (R322). -/
def F.HM_STATUS_CE : Fld := ⟨0x20000, 0x0, 1, 5, 1, false, .w1c, false, 13, 0⟩
/-- HM_STATUS.UE (R322). -/
def F.HM_STATUS_UE : Fld := ⟨0x20000, 0x0, 1, 6, 1, false, .w1c, false, 13, 0⟩
/-- HM_STATUS.PROT (R322). -/
def F.HM_STATUS_PROT : Fld := ⟨0x20000, 0x0, 1, 7, 1, false, .w1c, false, 13, 0⟩
/-- HM_STATUS.XLT_BUSY (R322). -/
def F.HM_STATUS_XLT_BUSY : Fld := ⟨0x20000, 0x0, 1, 8, 1, false, .ro, false, 13, 0⟩
/-- HM_CTRL.CLR_CNT (R322). -/
def F.HM_CTRL_CLR_CNT : Fld := ⟨0x20004, 0x0, 1, 0, 1, false, .wo, false, 13, 0⟩
/-- HM_SHARE.READ (R322). -/
def F.HM_SHARE_READ : Fld := ⟨0x20008, 0x0, 1, 0, 5, false, .rwl, true, 7, 19⟩
/-- HM_SHARE.WRITE (R322). -/
def F.HM_SHARE_WRITE : Fld := ⟨0x20008, 0x0, 1, 5, 5, false, .rwl, true, 7, 8⟩
/-- HM_SHARE.REMOTE (R322). -/
def F.HM_SHARE_REMOTE : Fld := ⟨0x20008, 0x0, 1, 10, 5, false, .rwl, true, 7, 5⟩
/-- HM_SHARE.LEND (R322). -/
def F.HM_SHARE_LEND : Fld := ⟨0x20008, 0x0, 1, 15, 1, false, .rwl, true, 7, 0⟩
/-- HM_SHARE.LEND_TB (R322). -/
def F.HM_SHARE_LEND_TB : Fld := ⟨0x20008, 0x0, 1, 16, 8, false, .rwl, true, 7, 32⟩
/-- HM_WINDOW_LINES.LINES (R322). -/
def F.HM_WINDOW_LINES_LINES : Fld := ⟨0x2000c, 0x0, 1, 0, 16, false, .ro, false, 13, 0⟩
/-- HM_REF_CFG.POSTPONE (R322). -/
def F.HM_REF_CFG_POSTPONE : Fld := ⟨0x20010, 0x0, 1, 0, 4, false, .rw, true, 7, 8⟩
/-- HM_REF_CFG.HOT_C (R322). -/
def F.HM_REF_CFG_HOT_C : Fld := ⟨0x20010, 0x0, 1, 4, 8, false, .rw, true, 7, 85⟩
/-- HM_TEMP.STACK_C (R322). -/
def F.HM_TEMP_STACK_C : Fld := ⟨0x20014, 0x0, 1, 0, 8, false, .ro, false, 13, 0⟩
/-- HM_SCRUB_CFG.EN (R322). -/
def F.HM_SCRUB_CFG_EN : Fld := ⟨0x20018, 0x0, 1, 0, 1, false, .rw, true, 7, 1⟩
/-- HM_SCRUB_CFG.PASS_H (R322). -/
def F.HM_SCRUB_CFG_PASS_H : Fld := ⟨0x20018, 0x0, 1, 1, 8, false, .rw, true, 7, 24⟩
/-- HM_RETRAIN_CFG.EN (R322). -/
def F.HM_RETRAIN_CFG_EN : Fld := ⟨0x2001c, 0x0, 1, 0, 1, false, .rw, true, 7, 1⟩
/-- HM_RETRAIN_CFG.THRESH (R322). -/
def F.HM_RETRAIN_CFG_THRESH : Fld := ⟨0x2001c, 0x0, 1, 1, 4, false, .rw, true, 7, 8⟩
/-- HM_RETRAIN_CFG.LIMIT (R322). -/
def F.HM_RETRAIN_CFG_LIMIT : Fld := ⟨0x2001c, 0x0, 1, 5, 4, false, .rw, true, 7, 8⟩
/-- HM_RETRAIN_CFG.WIN_LOG2 (R322). -/
def F.HM_RETRAIN_CFG_WIN_LOG2 : Fld := ⟨0x2001c, 0x0, 1, 9, 4, false, .rw, true, 7, 12⟩
/-- HM_XLT_CFG.EN (R322). -/
def F.HM_XLT_CFG_EN : Fld := ⟨0x20040, 0x0, 1, 0, 1, true, .rwi, true, 7, 0⟩
/-- HM_XLT_CFG.BASE (R322). -/
def F.HM_XLT_CFG_BASE : Fld := ⟨0x20040, 0x0, 1, 16, 32, true, .rwi, true, 7, 0⟩
/-- HM_XLT_CFG.FAULT_TMO (R322). -/
def F.HM_XLT_CFG_FAULT_TMO : Fld := ⟨0x20040, 0x0, 1, 48, 16, true, .rwi, true, 7, 800⟩
/-- HM_XLT_INV.PAGE (R322). -/
def F.HM_XLT_INV_PAGE : Fld := ⟨0x20048, 0x0, 1, 0, 17, false, .wo, false, 13, 0⟩
/-- HM_XLT_INV.ALL (R322). -/
def F.HM_XLT_INV_ALL : Fld := ⟨0x20048, 0x0, 1, 17, 1, false, .wo, false, 13, 0⟩
/-- HM_CE_LOG.LINE (R322). -/
def F.HM_CE_LOG_LINE : Fld := ⟨0x20050, 0x0, 1, 0, 30, true, .ro, false, 13, 0⟩
/-- HM_CE_LOG.PC (R322). -/
def F.HM_CE_LOG_PC : Fld := ⟨0x20050, 0x0, 1, 30, 6, true, .ro, false, 13, 0⟩
/-- HM_CE_LOG.PIN (R322). -/
def F.HM_CE_LOG_PIN : Fld := ⟨0x20050, 0x0, 1, 36, 6, true, .ro, false, 13, 0⟩
/-- HM_CE_LOG.MULTI (R322). -/
def F.HM_CE_LOG_MULTI : Fld := ⟨0x20050, 0x0, 1, 42, 1, true, .ro, false, 13, 0⟩
/-- HM_UE_LOG.LINE (R322). -/
def F.HM_UE_LOG_LINE : Fld := ⟨0x20058, 0x0, 1, 0, 30, true, .ro, false, 13, 0⟩
/-- HM_UE_LOG.PC (R322). -/
def F.HM_UE_LOG_PC : Fld := ⟨0x20058, 0x0, 1, 30, 6, true, .ro, false, 13, 0⟩
/-- HM_UE_LOG.CLASS (R322). -/
def F.HM_UE_LOG_CLASS : Fld := ⟨0x20058, 0x0, 1, 36, 2, true, .ro, false, 13, 0⟩
/-- HM_UE_LOG.POISON (R322). -/
def F.HM_UE_LOG_POISON : Fld := ⟨0x20058, 0x0, 1, 38, 1, true, .ro, false, 13, 0⟩
/-- HM_CE_CNT.COUNT (R322). -/
def F.HM_CE_CNT_COUNT : Fld := ⟨0x20060, 0x0, 1, 0, 32, false, .ro, false, 13, 0⟩
/-- HM_UE_CNT.COUNT (R322). -/
def F.HM_UE_CNT_COUNT : Fld := ⟨0x20064, 0x0, 1, 0, 32, false, .ro, false, 13, 0⟩
/-- HM_ODECC_CNT.COUNT (R322). -/
def F.HM_ODECC_CNT_COUNT : Fld := ⟨0x20068, 0x0, 1, 0, 32, false, .ro, false, 13, 0⟩
/-- HM_POISON_WR_CNT.COUNT (R322). -/
def F.HM_POISON_WR_CNT_COUNT : Fld := ⟨0x2006c, 0x0, 1, 0, 32, false, .ro, false, 13, 0⟩
/-- HM_PROT_CNT.COUNT (R322). -/
def F.HM_PROT_CNT_COUNT : Fld := ⟨0x20070, 0x0, 1, 0, 32, false, .ro, false, 13, 0⟩
/-- HM_REF_EMERG_CNT.COUNT (R322). -/
def F.HM_REF_EMERG_CNT_COUNT : Fld := ⟨0x20074, 0x0, 1, 0, 32, false, .ro, true, 13, 0⟩
/-- HM_RETRAIN_CNT.COUNT (R322). -/
def F.HM_RETRAIN_CNT_COUNT : Fld := ⟨0x20078, 0x0, 1, 0, 32, false, .ro, true, 13, 0⟩
/-- HM_XLT_MISS_CNT.COUNT (R322). -/
def F.HM_XLT_MISS_CNT_COUNT : Fld := ⟨0x2007c, 0x0, 1, 0, 32, false, .ro, true, 13, 0⟩
/-- HM_XLT_FAULT_CNT.COUNT (R322). -/
def F.HM_XLT_FAULT_CNT_COUNT : Fld := ⟨0x20080, 0x0, 1, 0, 32, false, .ro, false, 13, 0⟩
/-- HM_LEND_CNT.COUNT (R322). -/
def F.HM_LEND_CNT_COUNT : Fld := ⟨0x20084, 0x0, 1, 0, 32, false, .ro, true, 13, 0⟩
/-- HM_SCRUB_CE_CNT.COUNT (R322). -/
def F.HM_SCRUB_CE_CNT_COUNT : Fld := ⟨0x20088, 0x0, 1, 0, 32, false, .ro, false, 13, 0⟩
/-- HM_LINES_RD.COUNT (R322). -/
def F.HM_LINES_RD_COUNT : Fld := ⟨0x20090, 0x0, 1, 0, 64, true, .ro, true, 13, 0⟩
/-- HM_LINES_WR.COUNT (R322). -/
def F.HM_LINES_WR_COUNT : Fld := ⟨0x20098, 0x0, 1, 0, 64, true, .ro, true, 13, 0⟩
/-- HM_LINES_RM.COUNT (R322). -/
def F.HM_LINES_RM_COUNT : Fld := ⟨0x200a0, 0x0, 1, 0, 64, true, .ro, true, 13, 0⟩
/-- HM_WAIT_RD_CY.COUNT (R322). -/
def F.HM_WAIT_RD_CY_COUNT : Fld := ⟨0x200a8, 0x0, 1, 0, 64, true, .ro, true, 13, 0⟩
/-- HM_WAIT_WR_CY.COUNT (R322). -/
def F.HM_WAIT_WR_CY_COUNT : Fld := ⟨0x200b0, 0x0, 1, 0, 64, true, .ro, true, 13, 0⟩
/-- HM_WAIT_RM_CY.COUNT (R322). -/
def F.HM_WAIT_RM_CY_COUNT : Fld := ⟨0x200b8, 0x0, 1, 0, 64, true, .ro, true, 13, 0⟩
/-- LK_STAT.STATE (R367). -/
def F.LK_STAT_STATE : Fld := ⟨0x30000, 0x1000, 3, 0, 3, false, .ro, false, 13, 0⟩
/-- LK_STAT.WIDTH (R367). -/
def F.LK_STAT_WIDTH : Fld := ⟨0x30000, 0x1000, 3, 3, 1, false, .ro, false, 13, 0⟩
/-- LK_STAT.FEC (R367). -/
def F.LK_STAT_FEC : Fld := ⟨0x30000, 0x1000, 3, 4, 1, false, .ro, false, 13, 0⟩
/-- LK_STAT.SPARE (R367). -/
def F.LK_STAT_SPARE : Fld := ⟨0x30000, 0x1000, 3, 5, 1, false, .ro, false, 13, 0⟩
/-- LK_STAT.ROT_LANE (R367). -/
def F.LK_STAT_ROT_LANE : Fld := ⟨0x30000, 0x1000, 3, 6, 3, false, .ro, false, 13, 7⟩
/-- LK_STAT.ROT_PHASE (R367). -/
def F.LK_STAT_ROT_PHASE : Fld := ⟨0x30000, 0x1000, 3, 9, 3, false, .ro, false, 13, 0⟩
/-- LK_STAT.CFG_ERR (R367). -/
def F.LK_STAT_CFG_ERR : Fld := ⟨0x30000, 0x1000, 3, 12, 1, false, .w1c, false, 13, 0⟩
/-- LK_STAT.DOWN_EV (R367). -/
def F.LK_STAT_DOWN_EV : Fld := ⟨0x30000, 0x1000, 3, 13, 1, false, .w1c, false, 13, 0⟩
/-- LK_STAT.RETIRE (R367). -/
def F.LK_STAT_RETIRE : Fld := ⟨0x30000, 0x1000, 3, 14, 1, false, .w1c, false, 13, 0⟩
/-- LK_CTRL.RETRAIN (R367). -/
def F.LK_CTRL_RETRAIN : Fld := ⟨0x30004, 0x1000, 3, 0, 1, false, .wo, true, 8, 0⟩
/-- LK_CTRL.CLR_CNT (R367). -/
def F.LK_CTRL_CLR_CNT : Fld := ⟨0x30004, 0x1000, 3, 1, 1, false, .wo, false, 13, 0⟩
/-- LK_CFG.FEC_SEL (R367). -/
def F.LK_CFG_FEC_SEL : Fld := ⟨0x30008, 0x1000, 3, 0, 1, false, .rwi, true, 8, 0⟩
/-- LK_CFG.ROT_EN (R367). -/
def F.LK_CFG_ROT_EN : Fld := ⟨0x30008, 0x1000, 3, 1, 1, false, .rw, true, 8, 1⟩
/-- LK_CFG.DWELL (R367). -/
def F.LK_CFG_DWELL : Fld := ⟨0x30008, 0x1000, 3, 2, 8, false, .rw, true, 8, 64⟩
/-- LK_CFG.GAP (R367). -/
def F.LK_CFG_GAP : Fld := ⟨0x30008, 0x1000, 3, 10, 6, false, .rw, true, 8, 16⟩
/-- LK_CFG.RECAL_TH (R367). -/
def F.LK_CFG_RECAL_TH : Fld := ⟨0x30008, 0x1000, 3, 16, 8, false, .rw, true, 8, 64⟩
/-- LK_CFG.RETIRE_TH (R367). -/
def F.LK_CFG_RETIRE_TH : Fld := ⟨0x30008, 0x1000, 3, 24, 8, false, .rw, true, 8, 64⟩
/-- LK_REPLAY_CFG.REPLAY_LIM (R367). -/
def F.LK_REPLAY_CFG_REPLAY_LIM : Fld := ⟨0x3000c, 0x1000, 3, 0, 4, false, .rw, true, 8, 8⟩
/-- LK_REPLAY_CFG.NAK_TMO (R367). -/
def F.LK_REPLAY_CFG_NAK_TMO : Fld := ⟨0x3000c, 0x1000, 3, 4, 12, false, .rw, true, 8, 1024⟩
/-- LK_LAT.LAT (R367). -/
def F.LK_LAT_LAT : Fld := ⟨0x30010, 0x1000, 3, 0, 16, false, .ro, false, 13, 0⟩
/-- LK_PEER.NODE (R367). -/
def F.LK_PEER_NODE : Fld := ⟨0x30018, 0x1000, 3, 0, 20, false, .ro, false, 13, 0⟩
/-- LK_PEER.PORT (R367). -/
def F.LK_PEER_PORT : Fld := ⟨0x30018, 0x1000, 3, 20, 2, false, .ro, false, 13, 0⟩
/-- LK_PEER.VALID (R367). -/
def F.LK_PEER_VALID : Fld := ⟨0x30018, 0x1000, 3, 22, 1, false, .ro, false, 13, 0⟩
/-- LK_LANEMAP.TX_MAP (R367). -/
def F.LK_LANEMAP_TX_MAP : Fld := ⟨0x30020, 0x1000, 3, 0, 12, true, .ro, false, 13, 0⟩
/-- LK_LANEMAP.RX_MAP (R367). -/
def F.LK_LANEMAP_RX_MAP : Fld := ⟨0x30020, 0x1000, 3, 12, 12, true, .ro, false, 13, 0⟩
/-- LK_LANEMAP.RX_RETIRED (R367). -/
def F.LK_LANEMAP_RX_RETIRED : Fld := ⟨0x30020, 0x1000, 3, 24, 5, true, .ro, false, 13, 0⟩
/-- LK_LANEMAP.TX_RETIRED (R367). -/
def F.LK_LANEMAP_TX_RETIRED : Fld := ⟨0x30020, 0x1000, 3, 29, 5, true, .ro, false, 13, 0⟩
/-- LK_CRC_ERR_CNT.COUNT (R367). -/
def F.LK_CRC_ERR_CNT_COUNT : Fld := ⟨0x30060, 0x1000, 3, 0, 32, false, .ro, false, 13, 0⟩
/-- LK_REPLAY_CNT.COUNT (R367). -/
def F.LK_REPLAY_CNT_COUNT : Fld := ⟨0x30064, 0x1000, 3, 0, 32, false, .ro, false, 13, 0⟩
/-- LK_RETRAIN_CNT.COUNT (R367). -/
def F.LK_RETRAIN_CNT_COUNT : Fld := ⟨0x30068, 0x1000, 3, 0, 32, false, .ro, false, 13, 0⟩
/-- LK_FEC_UNCORR_CNT.COUNT (R367). -/
def F.LK_FEC_UNCORR_CNT_COUNT : Fld := ⟨0x3006c, 0x1000, 3, 0, 32, false, .ro, false, 13, 0⟩
/-- LK_ROT_CNT.COUNT (R367). -/
def F.LK_ROT_CNT_COUNT : Fld := ⟨0x30070, 0x1000, 3, 0, 32, false, .ro, true, 13, 0⟩
/-- LK_FEC_CORR_CNT.COUNT (R367). -/
def F.LK_FEC_CORR_CNT_COUNT : Fld := ⟨0x30080, 0x1000, 3, 0, 64, true, .ro, true, 13, 0⟩
/-- LK_FLITS_TX.COUNT (R367). -/
def F.LK_FLITS_TX_COUNT : Fld := ⟨0x30088, 0x1000, 3, 0, 64, true, .ro, true, 13, 0⟩
/-- LK_FLITS_RX.COUNT (R367). -/
def F.LK_FLITS_RX_COUNT : Fld := ⟨0x30090, 0x1000, 3, 0, 64, true, .ro, true, 13, 0⟩
/-- LK_LANE0_CORR_CNT.COUNT (R367). -/
def F.LK_LANE0_CORR_CNT_COUNT : Fld := ⟨0x300a0, 0x1000, 3, 0, 32, false, .ro, true, 13, 0⟩
/-- LK_LANE1_CORR_CNT.COUNT (R367). -/
def F.LK_LANE1_CORR_CNT_COUNT : Fld := ⟨0x300a4, 0x1000, 3, 0, 32, false, .ro, true, 13, 0⟩
/-- LK_LANE2_CORR_CNT.COUNT (R367). -/
def F.LK_LANE2_CORR_CNT_COUNT : Fld := ⟨0x300a8, 0x1000, 3, 0, 32, false, .ro, true, 13, 0⟩
/-- LK_LANE3_CORR_CNT.COUNT (R367). -/
def F.LK_LANE3_CORR_CNT_COUNT : Fld := ⟨0x300ac, 0x1000, 3, 0, 32, false, .ro, true, 13, 0⟩
/-- LK_LANE4_CORR_CNT.COUNT (R367). -/
def F.LK_LANE4_CORR_CNT_COUNT : Fld := ⟨0x300b0, 0x1000, 3, 0, 32, false, .ro, true, 13, 0⟩
/-- LK_RT_CFG.HOPS (R368). -/
def F.LK_RT_CFG_HOPS : Fld := ⟨0x34000, 0x0, 1, 0, 4, false, .rwl, true, 9, 15⟩
/-- LK_RT_CFG.SETTLE (R368). -/
def F.LK_RT_CFG_SETTLE : Fld := ⟨0x34000, 0x0, 1, 4, 12, false, .rwl, true, 9, 500⟩
/-- LK_RT_CFG.REQ_TMO (R368). -/
def F.LK_RT_CFG_REQ_TMO : Fld := ⟨0x34000, 0x0, 1, 16, 16, false, .rwl, true, 9, 100⟩
/-- LK_RT_STAT.MASK (R368). -/
def F.LK_RT_STAT_MASK : Fld := ⟨0x34004, 0x0, 1, 0, 24, false, .ro, false, 13, 0⟩
/-- LK_RT_CTRL.CLR_CNT (R368). -/
def F.LK_RT_CTRL_CLR_CNT : Fld := ⟨0x34008, 0x0, 1, 0, 1, false, .wo, false, 13, 0⟩
/-- LK_NOROUTE_CNT.COUNT (R368). -/
def F.LK_NOROUTE_CNT_COUNT : Fld := ⟨0x3400c, 0x0, 1, 0, 32, false, .ro, false, 13, 0⟩
/-- LK_REQ_TMO_CNT.COUNT (R368). -/
def F.LK_REQ_TMO_CNT_COUNT : Fld := ⟨0x34010, 0x0, 1, 0, 32, false, .ro, false, 13, 0⟩
/-- LK_LATE_RSP_CNT.COUNT (R368). -/
def F.LK_LATE_RSP_CNT_COUNT : Fld := ⟨0x34014, 0x0, 1, 0, 32, false, .ro, false, 13, 0⟩
/-- LK_BADPKT_CNT.COUNT (R368). -/
def F.LK_BADPKT_CNT_COUNT : Fld := ⟨0x34018, 0x0, 1, 0, 32, false, .ro, false, 13, 0⟩
/-- LK_RT_CH.PRI (R368). -/
def F.LK_RT_CH_PRI : Fld := ⟨0x34040, 0x4, 12, 0, 2, false, .rwl, true, 9, 0⟩
/-- LK_RT_CH.ALT (R368). -/
def F.LK_RT_CH_ALT : Fld := ⟨0x34040, 0x4, 12, 2, 2, false, .rwl, true, 9, 3⟩
/-- LK_RT_MOD.LO (R368). -/
def F.LK_RT_MOD_LO : Fld := ⟨0x34100, 0x8, 256, 0, 16, true, .rwl, true, 9, 0⟩
/-- LK_RT_MOD.HI (R368). -/
def F.LK_RT_MOD_HI : Fld := ⟨0x34100, 0x8, 256, 16, 16, true, .rwl, true, 9, 0⟩
/-- LK_RT_MOD.EXIT (R368). -/
def F.LK_RT_MOD_EXIT : Fld := ⟨0x34100, 0x8, 256, 32, 4, true, .rwl, true, 9, 0⟩
/-- LK_RT_MOD.ALT_EXIT (R368). -/
def F.LK_RT_MOD_ALT_EXIT : Fld := ⟨0x34100, 0x8, 256, 36, 4, true, .rwl, true, 9, 15⟩
/-- LK_RT_MOD.VALID (R368). -/
def F.LK_RT_MOD_VALID : Fld := ⟨0x34100, 0x8, 256, 40, 1, true, .rwl, true, 9, 0⟩
/-- LK_FIFO_CFG.LEVEL (R369). -/
def F.LK_FIFO_CFG_LEVEL : Fld := ⟨0x38000, 0x40, 32, 0, 11, true, .rw, false, 13, 0⟩
/-- LK_FIFO_CFG.TGT_KEEPER (R369). -/
def F.LK_FIFO_CFG_TGT_KEEPER : Fld := ⟨0x38000, 0x40, 32, 11, 1, true, .rw, false, 13, 0⟩
/-- LK_FIFO_CFG.TGT_HOST (R369). -/
def F.LK_FIFO_CFG_TGT_HOST : Fld := ⟨0x38000, 0x40, 32, 12, 1, true, .rw, false, 13, 0⟩
/-- LK_FIFO_CFG.TGT_BP (R369). -/
def F.LK_FIFO_CFG_TGT_BP : Fld := ⟨0x38000, 0x40, 32, 13, 1, true, .rw, false, 13, 0⟩
/-- LK_FIFO_CFG.VEC (R369). -/
def F.LK_FIFO_CFG_VEC : Fld := ⟨0x38000, 0x40, 32, 14, 11, true, .rw, false, 13, 0⟩
/-- LK_FIFO_CFG.BP (R369). -/
def F.LK_FIFO_CFG_BP : Fld := ⟨0x38000, 0x40, 32, 25, 5, true, .rw, false, 13, 0⟩
/-- LK_FIFO_CFG.ROW (R369). -/
def F.LK_FIFO_CFG_ROW : Fld := ⟨0x38000, 0x40, 32, 30, 5, true, .rw, false, 13, 0⟩
/-- LK_FIFO_CFG.COL (R369). -/
def F.LK_FIFO_CFG_COL : Fld := ⟨0x38000, 0x40, 32, 35, 6, true, .rw, false, 13, 0⟩
/-- LK_FIFO_STAT.FILL (R369). -/
def F.LK_FIFO_STAT_FILL : Fld := ⟨0x38008, 0x40, 32, 0, 17, false, .ro, false, 13, 0⟩
/-- LK_FIFO_STAT.PKTS (R369). -/
def F.LK_FIFO_STAT_PKTS : Fld := ⟨0x38008, 0x40, 32, 17, 9, false, .ro, false, 13, 0⟩
/-- LK_FIFO_STAT.LVL (R369). -/
def F.LK_FIFO_STAT_LVL : Fld := ⟨0x38008, 0x40, 32, 26, 1, false, .w1c, false, 13, 0⟩
/-- LK_FIFO_STAT.OVF (R369). -/
def F.LK_FIFO_STAT_OVF : Fld := ⟨0x38008, 0x40, 32, 27, 1, false, .w1c, false, 13, 0⟩
/-- LK_FIFO_STAT.CUT_PEND (R369). -/
def F.LK_FIFO_STAT_CUT_PEND : Fld := ⟨0x38008, 0x40, 32, 28, 1, false, .ro, false, 13, 0⟩
/-- LK_FIFO_CTRL.CUT (R369). -/
def F.LK_FIFO_CTRL_CUT : Fld := ⟨0x3800c, 0x40, 32, 0, 1, false, .wo, false, 13, 0⟩
/-- LK_FIFO_CTRL.FLUSH (R369). -/
def F.LK_FIFO_CTRL_FLUSH : Fld := ⟨0x3800c, 0x40, 32, 1, 1, false, .wo, false, 13, 0⟩
/-- LK_FIFO_OVF_CNT.COUNT (R369). -/
def F.LK_FIFO_OVF_CNT_COUNT : Fld := ⟨0x38010, 0x40, 32, 0, 32, false, .ro, false, 13, 0⟩
/-- LK_FIFO_CUT_CNT.COUNT (R369). -/
def F.LK_FIFO_CUT_CNT_COUNT : Fld := ⟨0x38014, 0x40, 32, 0, 32, false, .ro, false, 13, 0⟩
/-- LK_FIFO_RX_BYTES.COUNT (R369). -/
def F.LK_FIFO_RX_BYTES_COUNT : Fld := ⟨0x38018, 0x40, 32, 0, 64, true, .ro, true, 13, 0⟩
/-- HP_STATUS.LINK_UP (R388). -/
def F.HP_STATUS_LINK_UP : Fld := ⟨0x40000, 0x0, 1, 0, 1, false, .ro, false, 13, 0⟩
/-- HP_STATUS.WIDTH (R388). -/
def F.HP_STATUS_WIDTH : Fld := ⟨0x40000, 0x0, 1, 1, 2, false, .ro, false, 13, 0⟩
/-- HP_STATUS.RATE (R388). -/
def F.HP_STATUS_RATE : Fld := ⟨0x40000, 0x0, 1, 3, 2, false, .ro, false, 13, 0⟩
/-- HP_STATUS.FLIT68 (R388). -/
def F.HP_STATUS_FLIT68 : Fld := ⟨0x40000, 0x0, 1, 5, 1, false, .ro, false, 13, 0⟩
/-- HP_STATUS.CFG_ERR (R388). -/
def F.HP_STATUS_CFG_ERR : Fld := ⟨0x40000, 0x0, 1, 6, 1, false, .w1c, false, 13, 0⟩
/-- HP_STATUS.EVT_OVF (R388). -/
def F.HP_STATUS_EVT_OVF : Fld := ⟨0x40000, 0x0, 1, 7, 1, false, .w1c, false, 13, 0⟩
/-- HP_STATUS.RING_ERR (R388). -/
def F.HP_STATUS_RING_ERR : Fld := ⟨0x40000, 0x0, 1, 8, 1, false, .w1c, false, 13, 0⟩
/-- HP_STATUS.VIRAL (R388). -/
def F.HP_STATUS_VIRAL : Fld := ⟨0x40000, 0x0, 1, 9, 1, false, .ro, false, 13, 0⟩
/-- HP_CTRL.CLR_CNT (R388). -/
def F.HP_CTRL_CLR_CNT : Fld := ⟨0x40004, 0x0, 1, 0, 1, false, .wo, false, 13, 0⟩
/-- HP_APER.CHAN (R388). -/
def F.HP_APER_CHAN : Fld := ⟨0x40008, 0x0, 1, 0, 4, false, .rw, false, 13, 0⟩
/-- HP_APER.BLOCK (R388). -/
def F.HP_APER_BLOCK : Fld := ⟨0x40008, 0x0, 1, 4, 6, false, .rw, false, 13, 0⟩
/-- HP_APER_CUR.CUR (R388). -/
def F.HP_APER_CUR_CUR : Fld := ⟨0x4000c, 0x0, 1, 0, 10, false, .ro, false, 13, 0⟩
/-- HP_LIGHT.LIT (R388). No reset value (log entry 1). -/
def F.HP_LIGHT_LIT : Fld := ⟨0x40010, 0x0, 1, 0, 1, false, .ro, false, 13, 0⟩
/-- HP_LIGHT.DARK_OK (R388). -/
def F.HP_LIGHT_DARK_OK : Fld := ⟨0x40010, 0x0, 1, 1, 1, false, .ro, false, 13, 0⟩
/-- HP_LIGHT.COUNT (R388). -/
def F.HP_LIGHT_COUNT : Fld := ⟨0x40010, 0x0, 1, 16, 16, false, .ro, false, 13, 0⟩
/-- HP_EVT.RING (R388). -/
def F.HP_EVT_RING : Fld := ⟨0x40014, 0x0, 1, 0, 4, false, .rw, false, 13, 0⟩
/-- HP_EVT.EN (R388). -/
def F.HP_EVT_EN : Fld := ⟨0x40014, 0x0, 1, 4, 1, false, .rw, false, 13, 0⟩
/-- HP_BI_CFG.TMO (R388). -/
def F.HP_BI_CFG_TMO : Fld := ⟨0x40018, 0x0, 1, 0, 16, false, .rw, true, 12, 100⟩
/-- HP_CMD_CNT.COUNT (R388). -/
def F.HP_CMD_CNT_COUNT : Fld := ⟨0x40020, 0x0, 1, 0, 64, true, .ro, true, 13, 0⟩
/-- HP_EVT_DROP_CNT.COUNT (R388). -/
def F.HP_EVT_DROP_CNT_COUNT : Fld := ⟨0x40028, 0x0, 1, 0, 32, false, .ro, false, 13, 0⟩
/-- HP_BI_SNP_CNT.COUNT (R388). -/
def F.HP_BI_SNP_CNT_COUNT : Fld := ⟨0x4002c, 0x0, 1, 0, 32, false, .ro, true, 13, 0⟩
/-- HP_BI_TMO_CNT.COUNT (R388). -/
def F.HP_BI_TMO_CNT_COUNT : Fld := ⟨0x40030, 0x0, 1, 0, 32, false, .ro, false, 13, 0⟩
/-- HP_POISON_CNT.COUNT (R388). -/
def F.HP_POISON_CNT_COUNT : Fld := ⟨0x40034, 0x0, 1, 0, 32, false, .ro, false, 13, 0⟩
/-- HP_LINKDN_CNT.COUNT (R388). -/
def F.HP_LINKDN_CNT_COUNT : Fld := ⟨0x40038, 0x0, 1, 0, 32, false, .ro, false, 13, 0⟩
/-- HP_CR_BASE.ADDR (R388). No reset value (log entry 1). -/
def F.HP_CR_BASE_ADDR : Fld := ⟨0x40100, 0x40, 16, 12, 52, true, .rwi, false, 13, 0⟩
/-- HP_CP_BASE.ADDR (R388). No reset value (log entry 1). -/
def F.HP_CP_BASE_ADDR : Fld := ⟨0x40108, 0x40, 16, 12, 52, true, .rwi, false, 13, 0⟩
/-- HP_RING_CFG.EN (R388). -/
def F.HP_RING_CFG_EN : Fld := ⟨0x40110, 0x40, 16, 0, 1, false, .rw, false, 13, 0⟩
/-- HP_RING_CFG.CR_LOG2 (R388). -/
def F.HP_RING_CFG_CR_LOG2 : Fld := ⟨0x40110, 0x40, 16, 1, 5, false, .rwi, false, 13, 6⟩
/-- HP_RING_CFG.CP_LOG2 (R388). -/
def F.HP_RING_CFG_CP_LOG2 : Fld := ⟨0x40110, 0x40, 16, 6, 5, false, .rwi, false, 13, 6⟩
/-- HP_RING_CFG.VEC (R388). -/
def F.HP_RING_CFG_VEC : Fld := ⟨0x40110, 0x40, 16, 11, 11, false, .rwi, false, 13, 0⟩
/-- HP_RING_CFG.COAL (R388). -/
def F.HP_RING_CFG_COAL : Fld := ⟨0x40110, 0x40, 16, 22, 8, false, .rw, false, 13, 0⟩
/-- HP_RING_STAT.CR_HEAD (R388). -/
def F.HP_RING_STAT_CR_HEAD : Fld := ⟨0x40118, 0x40, 16, 0, 16, true, .ro, false, 13, 0⟩
/-- HP_RING_STAT.CP_TAIL (R388). -/
def F.HP_RING_STAT_CP_TAIL : Fld := ⟨0x40118, 0x40, 16, 16, 16, true, .ro, false, 13, 0⟩
/-- HP_RING_STAT.ERR (R388). -/
def F.HP_RING_STAT_ERR : Fld := ⟨0x40118, 0x40, 16, 32, 1, true, .w1c, false, 13, 0⟩
/-- HP_RING_STAT.CP_FULL (R388). -/
def F.HP_RING_STAT_CP_FULL : Fld := ⟨0x40118, 0x40, 16, 33, 1, true, .ro, false, 13, 0⟩
/-- HP_RING_STAT.PHASE (R388). -/
def F.HP_RING_STAT_PHASE : Fld := ⟨0x40118, 0x40, 16, 34, 1, true, .ro, false, 13, 1⟩
/-- MOD_BOOT.STAGE (R411). -/
def F.MOD_BOOT_STAGE : Fld := ⟨0x20, 0x0, 1, 0, 4, true, .ro, false, 13, 0⟩
/-- MOD_BOOT.SOURCE (R411). -/
def F.MOD_BOOT_SOURCE : Fld := ⟨0x20, 0x0, 1, 4, 1, true, .ro, false, 13, 0⟩
/-- MOD_BOOT.FAIL_P (R411). -/
def F.MOD_BOOT_FAIL_P : Fld := ⟨0x20, 0x0, 1, 5, 4, true, .ro, false, 13, 0⟩
/-- MOD_BOOT.FAIL_R (R411). -/
def F.MOD_BOOT_FAIL_R : Fld := ⟨0x20, 0x0, 1, 9, 4, true, .ro, false, 13, 0⟩
/-- MOD_BOOT.ID_OK (R411). -/
def F.MOD_BOOT_ID_OK : Fld := ⟨0x20, 0x0, 1, 13, 1, true, .ro, false, 13, 0⟩
/-- MOD_BOOT.FLOOR_MISSING (R411). -/
def F.MOD_BOOT_FLOOR_MISSING : Fld := ⟨0x20, 0x0, 1, 14, 1, true, .ro, false, 13, 0⟩
/-- MOD_BOOT.HALF_FAIL (R411). -/
def F.MOD_BOOT_HALF_FAIL : Fld := ⟨0x20, 0x0, 1, 15, 1, true, .ro, false, 13, 0⟩
/-- MOD_BOOT.CH_USABLE (R411). -/
def F.MOD_BOOT_CH_USABLE : Fld := ⟨0x20, 0x0, 1, 16, 12, true, .ro, false, 13, 0⟩
/-- MOD_BOOT.CFG_ERR (R411). -/
def F.MOD_BOOT_CFG_ERR : Fld := ⟨0x20, 0x0, 1, 28, 1, true, .w1c, false, 13, 0⟩
/-- MOD_BOOT.PLACE (R411). -/
def F.MOD_BOOT_PLACE : Fld := ⟨0x20, 0x0, 1, 32, 8, true, .ro, false, 13, 0⟩
/-- MOD_IMAGE.SEQ (R411). -/
def F.MOD_IMAGE_SEQ : Fld := ⟨0x28, 0x0, 1, 0, 32, true, .ro, false, 13, 0⟩
/-- MOD_IMAGE.SVN (R411). -/
def F.MOD_IMAGE_SVN : Fld := ⟨0x28, 0x0, 1, 32, 16, true, .ro, false, 13, 0⟩
/-- MOD_IMAGE.FLOOR (R411). -/
def F.MOD_IMAGE_FLOOR : Fld := ⟨0x28, 0x0, 1, 48, 16, true, .ro, false, 13, 0⟩
/-- MOD_RUN.GO (R411). -/
def F.MOD_RUN_GO : Fld := ⟨0x30, 0x0, 1, 0, 1, false, .wo, false, 13, 0⟩
/-- SEC_DEVID.ID (R415). No reset value (log entry 1). -/
def F.SEC_DEVID_ID : Fld := ⟨0x50000, 0x0, 1, 0, 64, true, .ro, false, 13, 0⟩
/-- SEC_FLASH_CMD.OP (R415). -/
def F.SEC_FLASH_CMD_OP : Fld := ⟨0x50008, 0x0, 1, 0, 2, true, .wo, false, 13, 0⟩
/-- SEC_FLASH_CMD.DEV (R415). -/
def F.SEC_FLASH_CMD_DEV : Fld := ⟨0x50008, 0x0, 1, 2, 1, true, .wo, false, 13, 0⟩
/-- SEC_FLASH_CMD.ADDR (R415). -/
def F.SEC_FLASH_CMD_ADDR : Fld := ⟨0x50008, 0x0, 1, 8, 26, true, .wo, false, 13, 0⟩
/-- SEC_FLASH_STAT.BUSY (R415). -/
def F.SEC_FLASH_STAT_BUSY : Fld := ⟨0x50010, 0x0, 1, 0, 1, false, .ro, false, 13, 0⟩
/-- SEC_FLASH_STAT.ERR (R415). -/
def F.SEC_FLASH_STAT_ERR : Fld := ⟨0x50010, 0x0, 1, 1, 1, false, .w1c, false, 13, 0⟩
/-- SEC_FLASH_STAT.REFUSED (R415). -/
def F.SEC_FLASH_STAT_REFUSED : Fld := ⟨0x50010, 0x0, 1, 2, 1, false, .w1c, false, 13, 0⟩
/-- SEC_FLASH_BUF.DATA (R415). No reset value (log entry 1). -/
def F.SEC_FLASH_BUF_DATA : Fld := ⟨0x50100, 0x8, 32, 0, 64, true, .rw, false, 13, 0⟩
/-- ERR_STATUS.FATAL (R439). -/
def F.ERR_STATUS_FATAL : Fld := ⟨0x10000, 0x0, 1, 0, 1, false, .ro, false, 13, 0⟩
/-- ERR_STATUS.OVF (R439). -/
def F.ERR_STATUS_OVF : Fld := ⟨0x10000, 0x0, 1, 1, 1, false, .w1c, false, 13, 0⟩
/-- ERR_STATUS.DUMP_DONE (R439). -/
def F.ERR_STATUS_DUMP_DONE : Fld := ⟨0x10000, 0x0, 1, 2, 1, false, .ro, false, 13, 0⟩
/-- ERR_STATUS.CFG_ERR (R439). -/
def F.ERR_STATUS_CFG_ERR : Fld := ⟨0x10000, 0x0, 1, 3, 1, false, .w1c, false, 13, 0⟩
/-- ERR_STATUS.ENTRIES (R439). -/
def F.ERR_STATUS_ENTRIES : Fld := ⟨0x10000, 0x0, 1, 8, 7, false, .ro, false, 13, 0⟩
/-- ERR_CTRL.CLR_CNT (R439). -/
def F.ERR_CTRL_CLR_CNT : Fld := ⟨0x10004, 0x0, 1, 0, 1, false, .wo, false, 13, 0⟩
/-- ERR_CFG.WIN_LOG2 (R439). -/
def F.ERR_CFG_WIN_LOG2 : Fld := ⟨0x10008, 0x0, 1, 0, 5, true, .rwl, true, 10, 16⟩
/-- ERR_CFG.FWD_MIN (R439). -/
def F.ERR_CFG_FWD_MIN : Fld := ⟨0x10008, 0x0, 1, 5, 2, true, .rwl, false, 13, 0⟩
/-- ERR_CFG.TH_SLICE (R439). -/
def F.ERR_CFG_TH_SLICE : Fld := ⟨0x10008, 0x0, 1, 8, 8, true, .rwl, true, 10, 8⟩
/-- ERR_CFG.TH_CORE (R439). -/
def F.ERR_CFG_TH_CORE : Fld := ⟨0x10008, 0x0, 1, 16, 8, true, .rwl, true, 10, 16⟩
/-- ERR_CFG.TH_LANTERN (R439). -/
def F.ERR_CFG_TH_LANTERN : Fld := ⟨0x10008, 0x0, 1, 24, 8, true, .rwl, true, 10, 32⟩
/-- ERR_CFG.CTX_POLICY (R439). -/
def F.ERR_CFG_CTX_POLICY : Fld := ⟨0x10008, 0x0, 1, 32, 2, true, .rwl, false, 13, 0⟩
/-- ERR_RING_PTR.HEAD (R439). -/
def F.ERR_RING_PTR_HEAD : Fld := ⟨0x10010, 0x0, 1, 0, 8, false, .ro, false, 13, 0⟩
/-- ERR_RING_PTR.TAIL (R439). -/
def F.ERR_RING_PTR_TAIL : Fld := ⟨0x10010, 0x0, 1, 8, 8, false, .ro, false, 13, 0⟩
/-- ERR_SEQ.NEXT (R439). -/
def F.ERR_SEQ_NEXT : Fld := ⟨0x10014, 0x0, 1, 0, 32, false, .ro, false, 13, 0⟩
/-- ERR_HEALTH_SEL.UNIT (R439). -/
def F.ERR_HEALTH_SEL_UNIT : Fld := ⟨0x10018, 0x0, 1, 0, 32, false, .rw, false, 13, 0⟩
/-- ERR_HEALTH.L (R439). -/
def F.ERR_HEALTH_L : Fld := ⟨0x1001c, 0x0, 1, 0, 8, false, .ro, true, 13, 0⟩
/-- ERR_HEALTH.PENDING (R439). -/
def F.ERR_HEALTH_PENDING : Fld := ⟨0x1001c, 0x0, 1, 8, 1, false, .ro, true, 13, 0⟩
/-- ERR_FATAL_REC.REC (R439). -/
def F.ERR_FATAL_REC_REC : Fld := ⟨0x10020, 0x8, 4, 0, 64, true, .ro, false, 13, 0⟩
/-- ERR_CE_CNT.COUNT (R439). -/
def F.ERR_CE_CNT_COUNT : Fld := ⟨0x10040, 0x0, 1, 0, 32, false, .ro, false, 13, 0⟩
/-- ERR_CT_CNT.COUNT (R439). -/
def F.ERR_CT_CNT_COUNT : Fld := ⟨0x10044, 0x0, 1, 0, 32, false, .ro, false, 13, 0⟩
/-- ERR_ESC_CNT.COUNT (R439). -/
def F.ERR_ESC_CNT_COUNT : Fld := ⟨0x10048, 0x0, 1, 0, 32, false, .ro, false, 13, 0⟩
/-- ERR_LOST_CNT.COUNT (R439). -/
def F.ERR_LOST_CNT_COUNT : Fld := ⟨0x1004c, 0x0, 1, 0, 32, false, .ro, false, 13, 0⟩
/-- ERR_RING.REC (R439). No reset value (log entry 1). -/
def F.ERR_RING_REC : Fld := ⟨0x10800, 0x8, 256, 0, 64, true, .ro, false, 13, 0⟩
/-- ERR_MOD_STATUS.MOD_FATAL (R440). -/
def F.ERR_MOD_STATUS_MOD_FATAL : Fld := ⟨0x60000, 0x0, 1, 0, 1, false, .ro, false, 13, 0⟩
/-- ERR_MOD_STATUS.FOG_OUT (R440). -/
def F.ERR_MOD_STATUS_FOG_OUT : Fld := ⟨0x60000, 0x0, 1, 1, 1, false, .ro, false, 13, 0⟩
/-- ERR_MOD_STATUS.FOG_IN (R440). -/
def F.ERR_MOD_STATUS_FOG_IN : Fld := ⟨0x60000, 0x0, 1, 2, 1, false, .w1c, false, 13, 0⟩
/-- ERR_MOD_STATUS.DUMP_DONE (R440). -/
def F.ERR_MOD_STATUS_DUMP_DONE : Fld := ⟨0x60000, 0x0, 1, 3, 1, false, .ro, false, 13, 0⟩
/-- ERR_MOD_STATUS.OVF (R440). -/
def F.ERR_MOD_STATUS_OVF : Fld := ⟨0x60000, 0x0, 1, 4, 1, false, .w1c, false, 13, 0⟩
/-- ERR_MOD_STATUS.CFG_ERR (R440). -/
def F.ERR_MOD_STATUS_CFG_ERR : Fld := ⟨0x60000, 0x0, 1, 5, 1, false, .w1c, false, 13, 0⟩
/-- ERR_MOD_STATUS.ENTRIES (R440). -/
def F.ERR_MOD_STATUS_ENTRIES : Fld := ⟨0x60000, 0x0, 1, 8, 7, false, .ro, false, 13, 0⟩
/-- ERR_MOD_CTRL.CLR_CNT (R440). -/
def F.ERR_MOD_CTRL_CLR_CNT : Fld := ⟨0x60004, 0x0, 1, 0, 1, false, .wo, false, 13, 0⟩
/-- ERR_MOD_CFG.FOG_ACT (R440). -/
def F.ERR_MOD_CFG_FOG_ACT : Fld := ⟨0x60008, 0x0, 1, 0, 1, false, .rw, false, 13, 0⟩
/-- ERR_MOD_CFG.FOG_IN_EN (R440). -/
def F.ERR_MOD_CFG_FOG_IN_EN : Fld := ⟨0x60008, 0x0, 1, 1, 1, false, .rw, false, 13, 1⟩
/-- ERR_DUMP_HOST.ADDR (R440). -/
def F.ERR_DUMP_HOST_ADDR : Fld := ⟨0x60010, 0x0, 1, 12, 52, true, .rw, false, 13, 0⟩
/-- ERR_DUMP_SIZE.MIB (R440). -/
def F.ERR_DUMP_SIZE_MIB : Fld := ⟨0x60018, 0x0, 1, 0, 16, false, .rw, false, 13, 0⟩
/-- ERR_MOD_RING_PTR.HEAD (R440). -/
def F.ERR_MOD_RING_PTR_HEAD : Fld := ⟨0x60020, 0x0, 1, 0, 8, false, .ro, false, 13, 0⟩
/-- ERR_MOD_RING_PTR.TAIL (R440). -/
def F.ERR_MOD_RING_PTR_TAIL : Fld := ⟨0x60020, 0x0, 1, 8, 8, false, .ro, false, 13, 0⟩
/-- ERR_FOG_LAST.NODE (R440). -/
def F.ERR_FOG_LAST_NODE : Fld := ⟨0x60028, 0x0, 1, 0, 20, true, .ro, false, 13, 0⟩
/-- ERR_FOG_LAST.SEQ (R440). -/
def F.ERR_FOG_LAST_SEQ : Fld := ⟨0x60028, 0x0, 1, 20, 8, true, .ro, false, 13, 0⟩
/-- ERR_FOG_LAST.CAUSE (R440). -/
def F.ERR_FOG_LAST_CAUSE : Fld := ⟨0x60028, 0x0, 1, 28, 8, true, .ro, false, 13, 0⟩
/-- ERR_FOG_LAST.VIA_LINE (R440). -/
def F.ERR_FOG_LAST_VIA_LINE : Fld := ⟨0x60028, 0x0, 1, 36, 1, true, .ro, false, 13, 0⟩
/-- ERR_FOG_LAST.SENT_SEQ (R440). -/
def F.ERR_FOG_LAST_SENT_SEQ : Fld := ⟨0x60028, 0x0, 1, 44, 8, true, .ro, false, 13, 0⟩
/-- ERR_MOD_FATAL_REC.REC (R440). -/
def F.ERR_MOD_FATAL_REC_REC : Fld := ⟨0x60040, 0x8, 4, 0, 64, true, .ro, false, 13, 0⟩
/-- ERR_MOD_DROP_CNT.COUNT (R440). -/
def F.ERR_MOD_DROP_CNT_COUNT : Fld := ⟨0x60060, 0x0, 1, 0, 32, false, .ro, false, 13, 0⟩
/-- ERR_FOG_RX_CNT.COUNT (R440). -/
def F.ERR_FOG_RX_CNT_COUNT : Fld := ⟨0x60064, 0x0, 1, 0, 32, false, .ro, false, 13, 0⟩
/-- ERR_MOD_RING.REC (R440). No reset value (log entry 1). -/
def F.ERR_MOD_RING_REC : Fld := ⟨0x60800, 0x8, 256, 0, 64, true, .ro, false, 13, 0⟩
/-- CH_OP.TARGET (R457). -/
def F.CH_OP_TARGET : Fld := ⟨0x200, 0x0, 1, 0, 2, false, .rwl, false, 13, 0⟩
/-- CH_OP.EFFECTIVE (R457). -/
def F.CH_OP_EFFECTIVE : Fld := ⟨0x200, 0x0, 1, 2, 2, false, .ro, false, 13, 0⟩
/-- CH_OP.THERM_CAP (R457). -/
def F.CH_OP_THERM_CAP : Fld := ⟨0x200, 0x0, 1, 4, 2, false, .ro, false, 13, 0⟩
/-- CH_OP.PWR_CAP (R457). -/
def F.CH_OP_PWR_CAP : Fld := ⟨0x200, 0x0, 1, 6, 2, false, .ro, false, 13, 0⟩
/-- CH_OP.NB_CAP (R457). -/
def F.CH_OP_NB_CAP : Fld := ⟨0x200, 0x0, 1, 8, 1, false, .ro, false, 13, 0⟩
/-- CH_OP.TRANS (R457). -/
def F.CH_OP_TRANS : Fld := ⟨0x200, 0x0, 1, 9, 1, false, .ro, false, 13, 0⟩
/-- CH_OP.TRIM (R457). -/
def F.CH_OP_TRIM : Fld := ⟨0x200, 0x0, 1, 16, 4, false, .ro, false, 13, 0⟩
/-- CH_TEMP.TJ_C (R457). -/
def F.CH_TEMP_TJ_C : Fld := ⟨0x204, 0x0, 1, 0, 8, false, .ro, false, 13, 0⟩
/-- CH_TEMP.BASE_C (R457). -/
def F.CH_TEMP_BASE_C : Fld := ⟨0x204, 0x0, 1, 8, 8, false, .ro, false, 13, 0⟩
/-- CH_THERM_CFG.THR_HI (R457). -/
def F.CH_THERM_CFG_THR_HI : Fld := ⟨0x208, 0x0, 1, 0, 8, false, .rw, true, 11, 95⟩
/-- CH_THERM_CFG.THR_LO (R457). -/
def F.CH_THERM_CFG_THR_LO : Fld := ⟨0x208, 0x0, 1, 8, 8, false, .rw, true, 11, 90⟩
/-- CH_PWR_STAT.THROTTLED (R457). -/
def F.CH_PWR_STAT_THROTTLED : Fld := ⟨0x20c, 0x0, 1, 0, 1, false, .w1c, false, 13, 0⟩
/-- CH_PWR_STAT.DIFF_T (R457). -/
def F.CH_PWR_STAT_DIFF_T : Fld := ⟨0x20c, 0x0, 1, 1, 1, false, .w1c, false, 13, 0⟩
/-- CH_PWR_STAT.DROOP (R457). -/
def F.CH_PWR_STAT_DROOP : Fld := ⟨0x20c, 0x0, 1, 2, 1, false, .w1c, false, 13, 0⟩
/-- CH_PWR_STAT.CFG_ERR (R457). -/
def F.CH_PWR_STAT_CFG_ERR : Fld := ⟨0x20c, 0x0, 1, 3, 1, false, .w1c, false, 13, 0⟩
/-- CH_THROTTLE_CNT.COUNT (R457). -/
def F.CH_THROTTLE_CNT_COUNT : Fld := ⟨0x210, 0x0, 1, 0, 32, false, .ro, false, 13, 0⟩
/-- CH_DIFF_T_CNT.COUNT (R457). -/
def F.CH_DIFF_T_CNT_COUNT : Fld := ⟨0x214, 0x0, 1, 0, 32, false, .ro, false, 13, 0⟩
/-- CH_DROOP_CNT.COUNT (R457). -/
def F.CH_DROOP_CNT_COUNT : Fld := ⟨0x218, 0x0, 1, 0, 32, false, .ro, true, 13, 0⟩
/-- CH_OP_CHG_CNT.COUNT (R457). -/
def F.CH_OP_CHG_CNT_COUNT : Fld := ⟨0x21c, 0x0, 1, 0, 32, false, .ro, false, 13, 0⟩
/-- CH_PWR_CTRL.CLR_CNT (R457). -/
def F.CH_PWR_CTRL_CLR_CNT : Fld := ⟨0x220, 0x0, 1, 0, 1, false, .wo, false, 13, 0⟩
/-- MOD_PWR_CFG.ILIM (R458). -/
def F.MOD_PWR_CFG_ILIM : Fld := ⟨0x40, 0x0, 1, 0, 8, false, .rw, true, 11, 165⟩
/-- MOD_PWR_CFG.PLIM (R458). -/
def F.MOD_PWR_CFG_PLIM : Fld := ⟨0x40, 0x0, 1, 8, 10, false, .rw, true, 11, 750⟩
/-- MOD_PWR_STAT.VIN (R458). -/
def F.MOD_PWR_STAT_VIN : Fld := ⟨0x44, 0x0, 1, 0, 16, false, .ro, false, 13, 0⟩
/-- MOD_PWR_STAT.IIN (R458). -/
def F.MOD_PWR_STAT_IIN : Fld := ⟨0x44, 0x0, 1, 16, 12, false, .ro, false, 13, 0⟩
/-- MOD_PWR_STAT.VIN_MARGIN (R458). -/
def F.MOD_PWR_STAT_VIN_MARGIN : Fld := ⟨0x44, 0x0, 1, 28, 1, false, .w1c, false, 13, 0⟩
/-- MOD_PWR_W.POWER (R458). -/
def F.MOD_PWR_W_POWER : Fld := ⟨0x48, 0x0, 1, 0, 16, false, .ro, false, 13, 0⟩
/-- MOD_CH_OFF.OFF (R458). -/
def F.MOD_CH_OFF_OFF : Fld := ⟨0x4c, 0x0, 1, 0, 12, false, .w1s, false, 13, 0⟩
/-- MOD_PWR_LOG.TICK (R458). -/
def F.MOD_PWR_LOG_TICK : Fld := ⟨0x50, 0x0, 1, 0, 48, true, .ro, false, 13, 0⟩
/-- MOD_PWR_LOG.CHAN (R458). -/
def F.MOD_PWR_LOG_CHAN : Fld := ⟨0x50, 0x0, 1, 48, 4, true, .ro, false, 13, 0⟩
/-- MOD_PWR_LOG.REASON (R458). -/
def F.MOD_PWR_LOG_REASON : Fld := ⟨0x50, 0x0, 1, 52, 3, true, .ro, false, 13, 0⟩
/-- MOD_PWR_LOG.NEW_OP (R458). -/
def F.MOD_PWR_LOG_NEW_OP : Fld := ⟨0x50, 0x0, 1, 55, 2, true, .ro, false, 13, 0⟩
/-- MOD_PCAP_CNT.COUNT (R458). -/
def F.MOD_PCAP_CNT_COUNT : Fld := ⟨0x58, 0x0, 1, 0, 32, false, .ro, false, 13, 0⟩
/-- MOD_DECODE_MISS_CNT.COUNT (R474). -/
def F.MOD_DECODE_MISS_CNT_COUNT : Fld := ⟨0x60, 0x0, 1, 0, 32, false, .ro, false, 13, 0⟩
/-- MOD_MAP_CTRL.CLR_CNT (R474). -/
def F.MOD_MAP_CTRL_CLR_CNT : Fld := ⟨0x64, 0x0, 1, 0, 1, false, .wo, false, 13, 0⟩
/-- MOD_DECODE_LAST.ADDR (R474). -/
def F.MOD_DECODE_LAST_ADDR : Fld := ⟨0x68, 0x0, 1, 0, 48, true, .ro, true, 13, 0⟩
/-- MOD_DECODE_LAST.REQ (R474). -/
def F.MOD_DECODE_LAST_REQ : Fld := ⟨0x68, 0x0, 1, 48, 3, true, .ro, true, 13, 0⟩
/-- MOD_DECODE_LAST.WRITE (R474). -/
def F.MOD_DECODE_LAST_WRITE : Fld := ⟨0x68, 0x0, 1, 51, 1, true, .ro, true, 13, 0⟩
/-- MOD_DECODE_LAST.NARROW (R474). -/
def F.MOD_DECODE_LAST_NARROW : Fld := ⟨0x68, 0x0, 1, 52, 1, true, .ro, true, 13, 0⟩
/-- MOD_DECODE_LAST.CHAN (R474). -/
def F.MOD_DECODE_LAST_CHAN : Fld := ⟨0x68, 0x0, 1, 53, 4, true, .ro, true, 13, 0⟩
/-- MOD_DECODE_LAST.MISALIGNED (R474). -/
def F.MOD_DECODE_LAST_MISALIGNED : Fld := ⟨0x68, 0x0, 1, 57, 1, true, .ro, true, 13, 0⟩

/-- Fields of the bridge block (R472), part 0. -/
def bridgeFields0 : List Fld :=
  [F.MOD_NODE_MODULE, F.MOD_NODE_VALID, F.MOD_NODE_LIT, F.MOD_BOOT_STAGE, F.MOD_BOOT_SOURCE, F.MOD_BOOT_FAIL_P, F.MOD_BOOT_FAIL_R, F.MOD_BOOT_ID_OK, F.MOD_BOOT_FLOOR_MISSING, F.MOD_BOOT_HALF_FAIL, F.MOD_BOOT_CH_USABLE, F.MOD_BOOT_CFG_ERR, F.MOD_BOOT_PLACE, F.MOD_IMAGE_SEQ, F.MOD_IMAGE_SVN, F.MOD_IMAGE_FLOOR, F.MOD_RUN_GO, F.MOD_LEVEL_LEVEL, F.MOD_PWR_CFG_ILIM, F.MOD_PWR_CFG_PLIM, F.MOD_PWR_STAT_VIN, F.MOD_PWR_STAT_IIN, F.MOD_PWR_STAT_VIN_MARGIN, F.MOD_PWR_W_POWER]

/-- Fields of the bridge block (R472), part 1. -/
def bridgeFields1 : List Fld :=
  [F.MOD_CH_OFF_OFF, F.MOD_PWR_LOG_TICK, F.MOD_PWR_LOG_CHAN, F.MOD_PWR_LOG_REASON, F.MOD_PWR_LOG_NEW_OP, F.MOD_PCAP_CNT_COUNT, F.MOD_DECODE_MISS_CNT_COUNT, F.MOD_MAP_CTRL_CLR_CNT, F.MOD_DECODE_LAST_ADDR, F.MOD_DECODE_LAST_REQ, F.MOD_DECODE_LAST_WRITE, F.MOD_DECODE_LAST_NARROW, F.MOD_DECODE_LAST_CHAN, F.MOD_DECODE_LAST_MISALIGNED, F.TB_CFG_WIN, F.TB_CFG_MISS_ALARM, F.TB_CFG_RELOCK, F.TB_CFG_SRC, F.TB_CFG_SRC_CH, F.TB_CFG_RELAY, F.TB_CFG_FREERUN, F.TB_STAT_EN, F.TB_STAT_LOCKED, F.TB_STAT_HOLDOVER]

/-- Fields of the bridge block (R472), part 2. -/
def bridgeFields2 : List Fld :=
  [F.TB_STAT_ALARM, F.TB_STAT_SPUR, F.TB_STAT_CFG_ERR, F.TB_STAT_MISS_RUN, F.TB_CTRL_CLR_CNT, F.TB_TICK_TICK, F.TB_TICK_PHASE, F.TB_EPOCH_EPOCH, F.TB_PERIOD_P, F.TB_PHASE_ERR_ERR, F.TB_SPUR_CNT_COUNT, F.TB_MISS_CNT_COUNT, F.TB_HOLD_TICKS_COUNT, F.TB_REALIGN_CNT_COUNT, F.HP_STATUS_LINK_UP, F.HP_STATUS_WIDTH, F.HP_STATUS_RATE, F.HP_STATUS_FLIT68, F.HP_STATUS_CFG_ERR, F.HP_STATUS_EVT_OVF, F.HP_STATUS_RING_ERR, F.HP_STATUS_VIRAL, F.HP_CTRL_CLR_CNT, F.HP_APER_CHAN]

/-- Fields of the bridge block (R472), part 3. -/
def bridgeFields3 : List Fld :=
  [F.HP_APER_BLOCK, F.HP_APER_CUR_CUR, F.HP_LIGHT_LIT, F.HP_LIGHT_DARK_OK, F.HP_LIGHT_COUNT, F.HP_EVT_RING, F.HP_EVT_EN, F.HP_BI_CFG_TMO, F.HP_CMD_CNT_COUNT, F.HP_EVT_DROP_CNT_COUNT, F.HP_BI_SNP_CNT_COUNT, F.HP_BI_TMO_CNT_COUNT, F.HP_POISON_CNT_COUNT, F.HP_LINKDN_CNT_COUNT, F.HP_CR_BASE_ADDR, F.HP_CP_BASE_ADDR, F.HP_RING_CFG_EN, F.HP_RING_CFG_CR_LOG2, F.HP_RING_CFG_CP_LOG2, F.HP_RING_CFG_VEC, F.HP_RING_CFG_COAL, F.HP_RING_STAT_CR_HEAD, F.HP_RING_STAT_CP_TAIL, F.HP_RING_STAT_ERR]

/-- Fields of the bridge block (R472), part 4. -/
def bridgeFields4 : List Fld :=
  [F.HP_RING_STAT_CP_FULL, F.HP_RING_STAT_PHASE, F.SEC_DEVID_ID, F.SEC_FLASH_CMD_OP, F.SEC_FLASH_CMD_DEV, F.SEC_FLASH_CMD_ADDR, F.SEC_FLASH_STAT_BUSY, F.SEC_FLASH_STAT_ERR, F.SEC_FLASH_STAT_REFUSED, F.SEC_FLASH_BUF_DATA, F.ERR_MOD_STATUS_MOD_FATAL, F.ERR_MOD_STATUS_FOG_OUT, F.ERR_MOD_STATUS_FOG_IN, F.ERR_MOD_STATUS_DUMP_DONE, F.ERR_MOD_STATUS_OVF, F.ERR_MOD_STATUS_CFG_ERR, F.ERR_MOD_STATUS_ENTRIES, F.ERR_MOD_CTRL_CLR_CNT, F.ERR_MOD_CFG_FOG_ACT, F.ERR_MOD_CFG_FOG_IN_EN, F.ERR_DUMP_HOST_ADDR, F.ERR_DUMP_SIZE_MIB, F.ERR_MOD_RING_PTR_HEAD, F.ERR_MOD_RING_PTR_TAIL]

/-- Fields of the bridge block (R472), part 5. -/
def bridgeFields5 : List Fld :=
  [F.ERR_FOG_LAST_NODE, F.ERR_FOG_LAST_SEQ, F.ERR_FOG_LAST_CAUSE, F.ERR_FOG_LAST_VIA_LINE, F.ERR_FOG_LAST_SENT_SEQ, F.ERR_MOD_FATAL_REC_REC, F.ERR_MOD_DROP_CNT_COUNT, F.ERR_FOG_RX_CNT_COUNT, F.ERR_MOD_RING_REC]

/-- Every field of the bridge block (R472). -/
def bridgeFields : List Fld :=
  bridgeFields0 ++ bridgeFields1 ++ bridgeFields2 ++ bridgeFields3 ++ bridgeFields4 ++ bridgeFields5

/-- Fields of a channel window below its lantern blocks (R473), part 0. -/
def channelFields0 : List Fld :=
  [F.CH_INFO_CHAN, F.CH_INFO_HALF, F.CH_INFO_P0_UP, F.CH_INFO_P1_UP, F.CH_INFO_P2_UP, F.CH_INFO_A0_UP, F.CH_INFO_A1_UP, F.CH_INFO_HOST_VIA, F.CH_INFO_USABLE, F.CH_INFO_FWD_ONLY, F.CH_SPARES_LN_FREE, F.CH_SPARES_CO_FREE, F.CH_SPARES_LN_NO_CORE, F.CH_TICK_TICK, F.CH_TICK_PHASE, F.CH_TICK_HOLD, F.CH_CHAR_PERIOD, F.CH_CHAR_PHASE, F.CH_CTX_CMD_CMD, F.CH_CTX_CFG_DEBT_ALARM, F.CH_CTX_CFG_AUTO_REVAL, F.CH_CTX_STAT_SEQ_USED, F.CH_CTX_STAT_CFG_ERR, F.CH_CTX_STAT_REJ]

/-- Fields of a channel window below its lantern blocks (R473), part 1. -/
def channelFields1 : List Fld :=
  [F.CH_CTX_STAT_OVERRUN, F.CH_CTX_CTRL_CLR_CNT, F.CH_CTX_REJ_CNT_COUNT, F.CH_LOCK_BREAK_CNT_COUNT, F.CH_OVERRUN_CNT_COUNT, F.CH_MARK_SAT_CNT_COUNT, F.CH_OP_TARGET, F.CH_OP_EFFECTIVE, F.CH_OP_THERM_CAP, F.CH_OP_PWR_CAP, F.CH_OP_NB_CAP, F.CH_OP_TRANS, F.CH_OP_TRIM, F.CH_TEMP_TJ_C, F.CH_TEMP_BASE_C, F.CH_THERM_CFG_THR_HI, F.CH_THERM_CFG_THR_LO, F.CH_PWR_STAT_THROTTLED, F.CH_PWR_STAT_DIFF_T, F.CH_PWR_STAT_DROOP, F.CH_PWR_STAT_CFG_ERR, F.CH_THROTTLE_CNT_COUNT, F.CH_DIFF_T_CNT_COUNT, F.CH_DROOP_CNT_COUNT]

/-- Fields of a channel window below its lantern blocks (R473), part 2. -/
def channelFields2 : List Fld :=
  [F.CH_OP_CHG_CNT_COUNT, F.CH_PWR_CTRL_CLR_CNT, F.ERR_STATUS_FATAL, F.ERR_STATUS_OVF, F.ERR_STATUS_DUMP_DONE, F.ERR_STATUS_CFG_ERR, F.ERR_STATUS_ENTRIES, F.ERR_CTRL_CLR_CNT, F.ERR_CFG_WIN_LOG2, F.ERR_CFG_FWD_MIN, F.ERR_CFG_TH_SLICE, F.ERR_CFG_TH_CORE, F.ERR_CFG_TH_LANTERN, F.ERR_CFG_CTX_POLICY, F.ERR_RING_PTR_HEAD, F.ERR_RING_PTR_TAIL, F.ERR_SEQ_NEXT, F.ERR_HEALTH_SEL_UNIT, F.ERR_HEALTH_L, F.ERR_HEALTH_PENDING, F.ERR_FATAL_REC_REC, F.ERR_CE_CNT_COUNT, F.ERR_CT_CNT_COUNT, F.ERR_ESC_CNT_COUNT]

/-- Fields of a channel window below its lantern blocks (R473), part 3. -/
def channelFields3 : List Fld :=
  [F.ERR_LOST_CNT_COUNT, F.ERR_RING_REC, F.HM_STATUS_TRAINED, F.HM_STATUS_RATE, F.HM_STATUS_HOT, F.HM_STATUS_CFG_ERR, F.HM_STATUS_CE, F.HM_STATUS_UE, F.HM_STATUS_PROT, F.HM_STATUS_XLT_BUSY, F.HM_CTRL_CLR_CNT, F.HM_SHARE_READ, F.HM_SHARE_WRITE, F.HM_SHARE_REMOTE, F.HM_SHARE_LEND, F.HM_SHARE_LEND_TB, F.HM_WINDOW_LINES_LINES, F.HM_REF_CFG_POSTPONE, F.HM_REF_CFG_HOT_C, F.HM_TEMP_STACK_C, F.HM_SCRUB_CFG_EN, F.HM_SCRUB_CFG_PASS_H, F.HM_RETRAIN_CFG_EN, F.HM_RETRAIN_CFG_THRESH]

/-- Fields of a channel window below its lantern blocks (R473), part 4. -/
def channelFields4 : List Fld :=
  [F.HM_RETRAIN_CFG_LIMIT, F.HM_RETRAIN_CFG_WIN_LOG2, F.HM_ARB_CFG_BURST, F.HM_ARB_CFG_WAIT_LIM, F.HM_ARB_CFG_HOLD_LIM, F.HM_ARB_STAT_CUT, F.HM_ARB_STAT_FORCE, F.HM_ARB_STAT_PREEMPT, F.HM_ARB_STAT_CUT_REQ, F.HM_ARB_STAT_CUT_INST, F.HM_ARB_FORCE_CNT_COUNT, F.HM_ARB_CUT_CNT_COUNT, F.HM_ARB_PREEMPT_CNT_COUNT, F.HM_ARB_STALE_CNT_COUNT, F.HM_XLT_CFG_EN, F.HM_XLT_CFG_BASE, F.HM_XLT_CFG_FAULT_TMO, F.HM_XLT_INV_PAGE, F.HM_XLT_INV_ALL, F.HM_CE_LOG_LINE, F.HM_CE_LOG_PC, F.HM_CE_LOG_PIN, F.HM_CE_LOG_MULTI, F.HM_UE_LOG_LINE]

/-- Fields of a channel window below its lantern blocks (R473), part 5. -/
def channelFields5 : List Fld :=
  [F.HM_UE_LOG_PC, F.HM_UE_LOG_CLASS, F.HM_UE_LOG_POISON, F.HM_CE_CNT_COUNT, F.HM_UE_CNT_COUNT, F.HM_ODECC_CNT_COUNT, F.HM_POISON_WR_CNT_COUNT, F.HM_PROT_CNT_COUNT, F.HM_REF_EMERG_CNT_COUNT, F.HM_RETRAIN_CNT_COUNT, F.HM_XLT_MISS_CNT_COUNT, F.HM_XLT_FAULT_CNT_COUNT, F.HM_LEND_CNT_COUNT, F.HM_SCRUB_CE_CNT_COUNT, F.HM_LINES_RD_COUNT, F.HM_LINES_WR_COUNT, F.HM_LINES_RM_COUNT, F.HM_WAIT_RD_CY_COUNT, F.HM_WAIT_WR_CY_COUNT, F.HM_WAIT_RM_CY_COUNT, F.LK_STAT_STATE, F.LK_STAT_WIDTH, F.LK_STAT_FEC, F.LK_STAT_SPARE]

/-- Fields of a channel window below its lantern blocks (R473), part 6. -/
def channelFields6 : List Fld :=
  [F.LK_STAT_ROT_LANE, F.LK_STAT_ROT_PHASE, F.LK_STAT_CFG_ERR, F.LK_STAT_DOWN_EV, F.LK_STAT_RETIRE, F.LK_CTRL_RETRAIN, F.LK_CTRL_CLR_CNT, F.LK_CFG_FEC_SEL, F.LK_CFG_ROT_EN, F.LK_CFG_DWELL, F.LK_CFG_GAP, F.LK_CFG_RECAL_TH, F.LK_CFG_RETIRE_TH, F.LK_REPLAY_CFG_REPLAY_LIM, F.LK_REPLAY_CFG_NAK_TMO, F.LK_LAT_LAT, F.LK_PEER_NODE, F.LK_PEER_PORT, F.LK_PEER_VALID, F.LK_LANEMAP_TX_MAP, F.LK_LANEMAP_RX_MAP, F.LK_LANEMAP_RX_RETIRED, F.LK_LANEMAP_TX_RETIRED, F.LK_ARB_CFG_BURST]

/-- Fields of a channel window below its lantern blocks (R473), part 7. -/
def channelFields7 : List Fld :=
  [F.LK_ARB_CFG_WAIT_LIM, F.LK_ARB_CFG_HOLD_LIM, F.LK_ARB_STAT_CUT, F.LK_ARB_STAT_FORCE, F.LK_ARB_STAT_PREEMPT, F.LK_ARB_STAT_CUT_REQ, F.LK_ARB_STAT_CUT_INST, F.LK_ARB_FORCE_CNT_COUNT, F.LK_ARB_CUT_CNT_COUNT, F.LK_ARB_PREEMPT_CNT_COUNT, F.LK_ARB_STALE_CNT_COUNT, F.LK_CRC_ERR_CNT_COUNT, F.LK_REPLAY_CNT_COUNT, F.LK_RETRAIN_CNT_COUNT, F.LK_FEC_UNCORR_CNT_COUNT, F.LK_ROT_CNT_COUNT, F.LK_FEC_CORR_CNT_COUNT, F.LK_FLITS_TX_COUNT, F.LK_FLITS_RX_COUNT, F.LK_LANE0_CORR_CNT_COUNT, F.LK_LANE1_CORR_CNT_COUNT, F.LK_LANE2_CORR_CNT_COUNT, F.LK_LANE3_CORR_CNT_COUNT, F.LK_LANE4_CORR_CNT_COUNT]

/-- Fields of a channel window below its lantern blocks (R473), part 8. -/
def channelFields8 : List Fld :=
  [F.LK_RT_CFG_HOPS, F.LK_RT_CFG_SETTLE, F.LK_RT_CFG_REQ_TMO, F.LK_RT_STAT_MASK, F.LK_RT_CTRL_CLR_CNT, F.LK_NOROUTE_CNT_COUNT, F.LK_REQ_TMO_CNT_COUNT, F.LK_LATE_RSP_CNT_COUNT, F.LK_BADPKT_CNT_COUNT, F.LK_RT_CH_PRI, F.LK_RT_CH_ALT, F.LK_RT_MOD_LO, F.LK_RT_MOD_HI, F.LK_RT_MOD_EXIT, F.LK_RT_MOD_ALT_EXIT, F.LK_RT_MOD_VALID, F.LK_FIFO_CFG_LEVEL, F.LK_FIFO_CFG_TGT_KEEPER, F.LK_FIFO_CFG_TGT_HOST, F.LK_FIFO_CFG_TGT_BP, F.LK_FIFO_CFG_VEC, F.LK_FIFO_CFG_BP, F.LK_FIFO_CFG_ROW, F.LK_FIFO_CFG_COL]

/-- Fields of a channel window below its lantern blocks (R473), part 9. -/
def channelFields9 : List Fld :=
  [F.LK_FIFO_STAT_FILL, F.LK_FIFO_STAT_PKTS, F.LK_FIFO_STAT_LVL, F.LK_FIFO_STAT_OVF, F.LK_FIFO_STAT_CUT_PEND, F.LK_FIFO_CTRL_CUT, F.LK_FIFO_CTRL_FLUSH, F.LK_FIFO_OVF_CNT_COUNT, F.LK_FIFO_CUT_CNT_COUNT, F.LK_FIFO_RX_BYTES_COUNT, F.CTX_STATE_STATE, F.CTX_STATE_CATCHUP, F.CTX_STATE_LATE, F.CTX_STATE_BROKEN, F.CTX_STATE_HOLD_PEND, F.CTX_STATE_FREE_PEND, F.CTX_STATE_PEND_B, F.CTX_STATE_SEQ, F.CTX_STATE_EARLY, F.CTX_STATE_DEBT, F.CTX_STATE_IN_CNT, F.CTX_CHAR_PERIOD, F.CTX_CHAR_PHASE, F.CTX_CHAR_WINDOW]

/-- Fields of a channel window below its lantern blocks (R473), part 10. -/
def channelFields10 : List Fld :=
  [F.CTX_CHAR_SHORTEN, F.CTX_CHAR_INMODE, F.CTX_CHAR_BATCH, F.CTX_CHAR_PLAN, F.CTX_BOUNDARY_B, F.CTX_DEADLINE_DEADLINE, F.CTX_LOCK_OWNER, F.CTX_LOCK_LEASE_END, F.CTX_HBM_BASE, F.CTX_STATS_PERIODS, F.CTX_STATS_LATE_PERIODS, F.CTX_STATS_MAX_LATE, F.CTX_STARTED_STARTED]

/-- Every field of a channel window below its lantern blocks (R473). -/
def channelFields : List Fld :=
  channelFields0 ++ channelFields1 ++ channelFields2 ++ channelFields3 ++ channelFields4 ++ channelFields5 ++ channelFields6 ++ channelFields7 ++ channelFields8 ++ channelFields9 ++ channelFields10

/-- Fields of one 64 KiB lantern block (R172), part 0. -/
def lanternFields0 : List Fld :=
  [F.LN_STATUS_PARKED, F.LN_STATUS_PARK_PEND, F.LN_STATUS_CFG_ERR, F.LN_STATUS_SCHED_VIOL, F.LN_STATUS_LOST, F.LN_STATUS_CORES, F.LN_CTRL_PARK, F.LN_CTRL_RESUME, F.LN_CTRL_CLR_CNT, F.LN_CORE_SPARE_MASK, F.LN_CORE_BAD_MASK, F.LN_SHAPE_VALUE, F.LN_ARB_CFG_BURST, F.LN_ARB_CFG_WAIT_LIM, F.LN_ARB_CFG_HOLD_LIM, F.LN_ARB_STAT_CUT, F.LN_ARB_STAT_FORCE, F.LN_ARB_STAT_PREEMPT, F.LN_ARB_STAT_CUT_REQ, F.LN_ARB_STAT_CUT_INST, F.LN_ARB_FORCE_CNT_COUNT, F.LN_ARB_CUT_CNT_COUNT, F.LN_ARB_PREEMPT_CNT_COUNT, F.LN_ARB_STALE_CNT_COUNT]

/-- Fields of one 64 KiB lantern block (R172), part 1. -/
def lanternFields1 : List Fld :=
  [F.LN_CONFLICT_CNT_COUNT, F.LN_ARB_STALL_CY_COUNT, F.LN_TBUF_WAIT_CY_COUNT, F.LN_BANK_PD_REQ, F.LN_BANK_STAT_OFF, F.LN_BANK_STAT_LOST, F.LN_BANK_PD_TMO_CYCLES, F.LN_LATE_WR_CNT_COUNT, F.LN_OFF_ACC_CNT_COUNT, F.LN_CORE_BIND_PHYS, F.LN_CORE_BIND_VALID, F.LN_POISON_CTRL_EN, F.LN_POISON_STAT_RD_EMPTY, F.LN_POISON_STAT_WR_FULL, F.LN_POISON_LINE_LINE, F.LN_POISON_LINE_RGN, F.LN_POISON_LINE_KIND, F.LN_POISON_LINE_REQ, F.LN_POISON_CNT_COUNT, F.LN_POISON_RGN_BASE, F.LN_POISON_RGN_COUNT, F.LN_POISON_RGN_RPF, F.LN_POISON_RGN_INIT, F.LN_SPWIN_BLOCK]

/-- Fields of one 64 KiB lantern block (R172), part 2. -/
def lanternFields2 : List Fld :=
  [F.LN_FMT_VFMT, F.LN_FMT_ENC, F.LN_FMT_NM_PAT, F.LN_FMT_BB_SHAPE, F.LN_FMT_MX, F.LN_FMT_SL, F.LN_FMT_PATTERN, F.LN_FMT_SAT, F.LN_FMT_BACKGROUND, F.LN_FMT_PAD, F.LN_FMT_SL_BASE, F.LN_DPARAM_LO_A_SLFMT, F.LN_DPARAM_LO_A_SL_EN, F.LN_DPARAM_LO_ORDER, F.LN_DPARAM_LO_B_SLFMT, F.LN_DPARAM_LO_B_SL_EN, F.LN_DPARAM_LO_COL_SHAPE_EN, F.LN_DPARAM_LO_A_SL_IDX, F.LN_DPARAM_LO_A_SL_STEP, F.LN_DPARAM_LO_B_SL_IDX, F.LN_DPARAM_LO_B_SL_STEP, F.LN_DPARAM_HI_O_SL_IDX, F.LN_DPARAM_HI_O_SL_STEP, F.LN_DPARAM_HI_TH_MODE]

/-- Fields of one 64 KiB lantern block (R172), part 3. -/
def lanternFields3 : List Fld :=
  [F.LN_DPARAM_HI_COL_SHAPE, F.LN_DPARAM_HI_THRESH, F.VE_STATUS_BUSY, F.VE_STATUS_STICKY, F.VE_STATUS_INV_INSN, F.VE_STATUS_CTX, F.VE_VL_VL, F.VE_CTRL_CLR_CNT, F.VE_INVALID_CNT_COUNT, F.VE_DIVZ_CNT_COUNT, F.VE_OVF_CNT_COUNT, F.VE_UNF_CNT_COUNT, F.VE_IOVF_CNT_COUNT, F.VE_SAT_CNT_COUNT, F.VE_NAN0_CNT_COUNT, F.VE_PERM_CNT_COUNT, F.VE_ADDR_CNT_COUNT, F.VE_SMX_NAN_CNT_COUNT, F.VE_SMX_INF_CNT_COUNT, F.VE_EMPTY_CNT_COUNT, F.VE_STALE_CNT_COUNT, F.VE_PMODE_CNT_COUNT, F.VE_STAT_CNT_COUNT, F.VE_EMPTY_TASK_CNT_COUNT]

/-- Fields of one 64 KiB lantern block (R172), part 4. -/
def lanternFields4 : List Fld :=
  [F.VE_SHAPE_OVF_CNT_COUNT, F.VE_ISSUED_COUNT, F.VE_STALL_CY_COUNT, F.TD_STATUS_ACTIVE, F.TD_STATUS_CFG_ERR, F.TD_STATUS_STALL, F.TD_STATUS_SPILL, F.TD_STATUS_FAULT, F.TD_CTRL_CLR_CNT, F.TD_CFG_STALL_LIM, F.TD_CFG_STALL_ERR, F.TD_FQ_USED, F.TD_SPILL_BASE_ADDR, F.TD_SPILL_LINES_LINES, F.TD_LINES_COUNT, F.TD_FQ_FULL_CY_COUNT, F.TD_REG_WAIT_CY_COUNT, F.TD_MERGE_CNT_COUNT, F.TD_SPILL_CNT_COUNT, F.TD_FAULT_CNT_COUNT, F.TD_REARM_OVW_CNT_COUNT, F.TD_LIST_ERR_CNT_COUNT, F.TD_S_DESC0_MODE, F.TD_S_DESC0_MOORED]

/-- Fields of one 64 KiB lantern block (R172), part 5. -/
def lanternFields5 : List Fld :=
  [F.TD_S_DESC0_PRIO, F.TD_S_DESC0_FMT, F.TD_S_DESC0_FMT_EN, F.TD_S_DESC0_SRC_BP, F.TD_S_DESC0_SRC_BP_EN, F.TD_S_DESC0_DST_BP, F.TD_S_DESC0_DST_BP_EN, F.TD_S_DESC0_LIST_SIDE, F.TD_S_DESC0_REG_EN, F.TD_S_DESC0_FQ_MAX, F.TD_S_DESC0_CTX, F.TD_S_DESC1_SRC, F.TD_S_DESC2_DST, F.TD_S_DESC3_PROG_LINE, F.TD_S_DESC3_LIST_HBM, F.TD_S_DESC3_LIST_ADDR, F.TD_S_DESC4_STRIDE0, F.TD_S_DESC4_STRIDE1, F.TD_S_DESC5_STRIDE2, F.TD_S_DESC5_STRIDE3, F.TD_S_DESC6_LIST_LEN, F.TD_S_DESC6_SLOT_LINES, F.TD_S_DESC6_SRC_WRAP, F.TD_S_DESC6_DST_WRAP]

/-- Fields of one 64 KiB lantern block (R172), part 6. -/
def lanternFields6 : List Fld :=
  [F.TD_S_DESC7_RATE, F.TD_S_DESC7_DEPTH, F.TD_S_CMD_START, F.TD_S_CMD_STOP, F.TD_S_CMD_RESUME, F.TD_S_CMD_ABORT, F.TD_S_STAT_STATE, F.TD_S_STAT_DONE, F.TD_S_STAT_ERR, F.TD_S_STAT_REARM_PEND, F.TD_S_STAT_REARM_OVW, F.TD_S_STAT_FAULT, F.TD_S_STAT_SPILLED, F.TD_S_STAT_WAIT_CAUSE, F.TD_S_STAT_STALL, F.TD_S_REARM_SRC_SRC, F.TD_S_REARM_DST_DST, F.TD_S_FAULT_ADDR_ADDR, F.TD_S_POS_PC, F.TD_S_POS_LIST_IDX, F.TD_S_POS_FQ_USED, F.TD_S_TOKENS_TOKENS, F.TD_S_SO_SO, F.TD_S_DO_DO]

/-- Fields of one 64 KiB lantern block (R172), part 7. -/
def lanternFields7 : List Fld :=
  [F.TD_S_LOOPA_C0, F.TD_S_LOOPA_C1, F.TD_S_LOOPA_C2, F.TD_S_LOOPA_C3, F.TD_S_LOOPB_C4, F.TD_S_LOOPB_C5, F.TD_S_LINES_COUNT, F.TD_S_SPILL_LINES, F.LN_TQ_STAT_USED, F.LN_TQ_STAT_READY, F.LN_TQ_STAT_OVF, F.LN_TQ_STAT_INV, F.LN_TQ_STAT_DUP, F.LN_TQ_CTRL_SQUASH, F.LN_TQ_PUSH_LO_ENTRY, F.LN_TQ_PUSH_HI_ENTRY, F.LN_STEAL_CFG_EN, F.LN_STEAL_CFG_WAIT, F.LN_STEAL_CFG_BACKOFF, F.LN_STEAL_VALID, F.LN_STEAL_ROW, F.LN_STEAL_COL, F.LN_STEAL_MASK, F.LN_TASK_DONE_COUNT]

/-- Fields of one 64 KiB lantern block (R172), part 8. -/
def lanternFields8 : List Fld :=
  [F.LN_PASS_CNT_COUNT, F.LN_STEAL_OK_CNT_COUNT, F.LN_STEAL_EMPTY_CNT_COUNT, F.LN_STOLEN_CNT_COUNT, F.LN_DUP_CNT_COUNT, F.LN_REPLAY_CNT_COUNT, F.LN_CORE_WAIT_CY_COUNT, F.LN_XACQ_CONS, F.LN_XACQ_PROD, F.LN_WC_RANGE_HEAD, F.LN_WC_RANGE_TAIL, F.LN_WC_STAT_DONE, F.LN_WC_STAT_FIN, F.LN_WC_STAT_OUTST, F.LN_WC_STAT_REPLAYS, F.LN_WC_ARM_HEAD, F.LN_WC_ARM_TAIL, F.LN_WC_REPLAY_INDEX, F.LN_WC_CFG_FEED_S, F.LN_WC_CFG_FEED_EN, F.LN_WC_CFG_OUT_S, F.LN_WC_CFG_OUT_EN, F.LN_WC_CFG_AHEAD, F.LN_WC_FEED_BASE]

/-- Fields of one 64 KiB lantern block (R172), part 9. -/
def lanternFields9 : List Fld :=
  [F.LN_WC_FEED_STEP, F.LN_WC_OUTB_BASE, F.LN_WC_OUTB_STEP, F.LN_WC_BASE_BASE, F.LN_WC_BASE_COUNT, F.LN_BP_CNT_READY, F.LN_BP_CNT_FREE, F.LN_BP_INC_READY_INC, F.LN_BP_INC_FREE_INC, F.LN_BP_CFG_CAP, F.LN_BP_CFG_CONS_KIND, F.LN_BP_CFG_CONS_STREAM, F.LN_BP_CFG_CONS_ROW, F.LN_BP_CFG_CONS_COL, F.LN_BP_CFG_LINK, F.LN_BP_CFG_RING_BASE, F.LN_BP_CFG_SLOT_LINES, F.LN_BP_PEER_NODE, F.LN_BP_PEER_ROW, F.LN_BP_PEER_COL, F.LN_BP_PEER_BP, F.LN_BP_STAT_OVF, F.LN_BP_STAT_LAND_ERR, F.LN_BP_STAT_WIDX]

/-- Fields of one 64 KiB lantern block (R172), part 10. -/
def lanternFields10 : List Fld :=
  [F.LN_BP_CTRL_INIT, F.CO_STATUS_BUSY, F.CO_STATUS_SHAPE_OVF, F.CO_STATUS_INV_INSN, F.CO_STATUS_OP_ERR, F.CO_STATUS_FMT_ERR, F.CO_STATUS_CTX, F.CO_SLICEMAP_SPARE_FOR, F.CO_SLICEMAP_SLICE_BAD, F.CO_FMT_ERR_CNT_COUNT, F.CO_SHAPE_OVF_CNT_COUNT, F.CO_EMPTY_CNT_COUNT, F.CO_CTRL_CLR_CNT, F.CO_PAIRS_COUNT, F.CO_POS_COUNT, F.CO_BUSY_CY_COUNT, F.CO_QFULL_CY_COUNT, F.CO_IDLE_CY_COUNT, F.CO_ACC_INEXACT_CNT_COUNT, F.CO_ACC_RANGE_CNT_COUNT, F.CO_DRN_SAT_CNT_COUNT, F.CO_DRN_NAN0_CNT_COUNT, F.CO_DRN_STAT_CNT_COUNT, F.CO_DRN_STATUS_SAT]

/-- Fields of one 64 KiB lantern block (R172), part 11. -/
def lanternFields11 : List Fld :=
  [F.CO_DRN_STATUS_NAN0, F.CO_DRN_STATUS_STAT, F.CO_DRN_STATUS_RANGE, F.CO_DRN_STATUS_INEXACT, F.CO_DBG_DBG_EN, F.CO_ACC_SEL_SET, F.CO_ACC_SEL_ROW, F.CO_ACC_SEL_COL, F.CO_ACC_DATA_LO_VALUE, F.CO_ACC_DATA_HI_VALUE, F.CO_ACC_TAG_TAG, F.CO_ACC_TAG_MODE]

/-- Every field of one 64 KiB lantern block (R172). -/
def lanternFields : List Fld :=
  lanternFields0 ++ lanternFields1 ++ lanternFields2 ++ lanternFields3 ++ lanternFields4 ++ lanternFields5 ++ lanternFields6 ++ lanternFields7 ++ lanternFields8 ++ lanternFields9 ++ lanternFields10 ++ lanternFields11

end Sys2Proof.Machine
end

