-- ==== Sys2Proof/Machine/NumFmt.lean ====
section
/-! DEFINITION. Number formats (R41 to R47, R50 to R56), exact values and the one rounding of a conversion
(R73, R74), and the format word (R76, R77). -/

namespace Sys2Proof.Machine

/-- An exact value: a finite `±m × 2^e` (with the sign of a zero kept, R44), an infinity, or NaN (R45). -/
inductive Num where
  | fin (neg : Bool) (m : Nat) (e : Int)
  | inf (neg : Bool)
  | nan
  deriving DecidableEq, Repr

/-- The value formats of R41. -/
inductive VFmt where
  | int4 | int8 | int32 | e2m1 | e4m3 | e5m2 | bf16 | fp16 | fp32 | ternary
  deriving DecidableEq, Repr

/-- The value format of a 5-bit code; codes 0x0A to 0x1F are reserved (R41). -/
def VFmt.ofCode : Nat → Option VFmt
  | 0 => some .int4 | 1 => some .int8 | 2 => some .int32 | 3 => some .e2m1 | 4 => some .e4m3
  | 5 => some .e5m2 | 6 => some .bf16 | 7 => some .fp16 | 8 => some .fp32 | 9 => some .ternary
  | _ => none

/-- Width of one element in bits (R41); a ternary element has no width of its own and is given 8 per packed byte. -/
def VFmt.width : VFmt → Nat
  | .int4 => 4 | .int8 => 8 | .int32 => 32 | .e2m1 => 4 | .e4m3 => 8 | .e5m2 => 8
  | .bf16 => 16 | .fp16 => 16 | .fp32 => 32 | .ternary => 8

/-- The integer formats (R42). -/
def VFmt.isInt : VFmt → Bool
  | .int4 | .int8 | .int32 | .ternary => true
  | _ => false

/-- The formats that have an infinity (R43). -/
def VFmt.hasInf : VFmt → Bool
  | .e5m2 | .bf16 | .fp16 | .fp32 => true
  | _ => false

/-- Exponent bits, fraction bits and bias of a floating-point format (R43). -/
def VFmt.params : VFmt → Nat × Nat × Nat
  | .e2m1 => (2, 1, 1) | .e4m3 => (4, 3, 7) | .e5m2 => (5, 2, 15) | .fp16 => (5, 10, 15)
  | .bf16 => (8, 7, 127) | .fp32 => (8, 23, 127)
  | _ => (0, 0, 0)

/-- The code of the largest finite magnitude (R43). -/
def VFmt.maxCode : VFmt → Nat
  | .e2m1 => 0x7 | .e4m3 => 0x7E | .e5m2 => 0x7B | .fp16 => 0x7BFF | .bf16 => 0x7F7F | .fp32 => 0x7F7FFFFF
  | _ => 0

/-- The canonical NaN (R43, R45); a format without NaN gives 0 (R74). -/
def VFmt.nanCode : VFmt → Nat
  | .e4m3 => 0x7F | .e5m2 => 0x7E | .fp16 => 0x7E00 | .bf16 => 0x7FC0 | .fp32 => 0x7FC00000
  | _ => 0

/-- The exact value of a stored element (R42 to R45). Ternary is decoded by `ternDigits`. -/
def VFmt.decode (f : VFmt) (v : Nat) : Num :=
  if f.isInt then
    let i := sext f.width v
    .fin (decide (i < 0)) i.natAbs 0
  else
    let (eb, mb, bias) := f.params
    let neg := isSet v (eb + mb)
    let ex := bits v (eb + mb - 1) mb
    let fr := v % 2 ^ mb
    let top := 2 ^ eb - 1
    if f.hasInf ∧ ex = top then (if fr = 0 then .inf neg else .nan)
    else if f = .e4m3 ∧ ex = top ∧ fr = 7 then .nan
    else if ex = 0 then .fin neg fr (1 - (bias : Int) - mb)
    else .fin neg (2 ^ mb + fr) ((ex : Int) - bias - mb)

/-- `m × 2^(-k)` rounded to a whole number, ties to even (R73). -/
def rneShift (m k : Nat) : Nat :=
  let q := m >>> k
  let r := m % 2 ^ k
  let half := 2 ^ k / 2
  if k = 0 then m
  else if r < half then q
  else if half < r then q + 1
  else q + q % 2

/-- `m × 2^e` rounded to a multiple of `2^q`; the answer counts those multiples. -/
def rneTo (m : Nat) (e q : Int) : Nat :=
  if q ≤ e then m <<< (e - q).toNat else rneShift m (q - e).toNat

/-- floor(log2) of a non-zero finite magnitude. -/
def flog2 (m : Nat) (e : Int) : Int := (Nat.log2 m : Int) + e

/-- What a conversion writes, and which sticky count it adds to (R74, R75). -/
structure Conv where
  code  : Nat
  sat   : Bool := false
  nanz  : Bool := false
  deriving DecidableEq, Repr

/-- `m × 2^e` rounded as if the exponent were unbounded: the rounded significand and the exponent of its last place. -/
def roundFloat (f : VFmt) (m : Nat) (e : Int) : Nat × Int :=
  let (_, mb, bias) := f.params
  let q := max (flog2 m e - mb) (1 - (bias : Int) - mb)
  (rneTo m e q, q)

/-- The value of a code, as a magnitude `m × 2^e`. -/
def VFmt.mag (f : VFmt) (code : Nat) : Nat × Int :=
  match f.decode code with
  | .fin _ m e => (m, e)
  | _ => (0, 0)

/-- `a × 2^ea ≤ b × 2^eb` for magnitudes. -/
def magLe (a : Nat) (ea : Int) (b : Nat) (eb : Int) : Bool :=
  let e := min ea eb
  decide (a <<< (ea - e).toNat ≤ b <<< (eb - e).toNat)

/-- The overflow outcome of R74 for a sign. -/
def overflowTo (f : VFmt) (sat neg : Bool) : Conv :=
  if f.isInt then
    { code := if neg then 2 ^ (f.width - 1) else 2 ^ (f.width - 1) - 1, sat := true }
  else
    let s := if neg then 2 ^ (f.width - 1) else 0
    if f.hasInf && !sat then { code := s + f.maxCode + 1 }
    else { code := s + f.maxCode, sat := true }

/-- Converts an exact value once into a format, to nearest with ties to even (R73, R74). -/
def VFmt.encode (f : VFmt) (sat : Bool) (x : Num) : Conv :=
  match x with
  | .nan => if f.isInt || f = .e2m1 then { code := 0, nanz := true } else { code := f.nanCode }
  | .inf neg => overflowTo f sat neg
  | .fin neg m e =>
    if f.isInt then
      let n := rneTo m e 0
      let lim := if neg then 2 ^ (f.width - 1) else 2 ^ (f.width - 1) - 1
      if lim < n then overflowTo f sat neg
      else { code := if neg then (2 ^ f.width - n) % 2 ^ f.width else n }
    else
      let s := if neg then 2 ^ (f.width - 1) else 0
      if m = 0 then { code := s }
      else
        let (_, mb, bias) := f.params
        let (n, q) := roundFloat f m e
        let (xm, xe) := f.mag f.maxCode
        if !magLe n q xm xe then overflowTo f sat neg
        else if n < 2 ^ mb then { code := s + n }
        else
          let (n, q) := if 2 ^ (mb + 1) ≤ n then (n / 2, q + 1) else (n, q)
          { code := s + ((q + mb + bias).toNat <<< mb) + (n - 2 ^ mb) }

/-! ### Exact arithmetic -/

/-- A signed integer times a power of two, as an exact value; `zneg` is the sign of an exact zero. -/
def Num.ofInt (i : Int) (e : Int) (zneg : Bool) : Num :=
  if i = 0 then .fin zneg 0 0 else .fin (decide (i < 0)) i.natAbs e

/-- The signed significand of a finite value over the exponent `e`. -/
def signedAt (neg : Bool) (m : Nat) (em e : Int) : Int :=
  let v : Int := ((m <<< (em - e).toNat : Nat) : Int)
  if neg then -v else v

/-- The exact negative. -/
def Num.neg : Num → Num
  | .fin s m e => .fin (!s) m e
  | .inf s => .inf (!s)
  | .nan => .nan

/-- The exact magnitude. -/
def Num.abs : Num → Num
  | .fin _ m e => .fin false m e
  | .inf _ => .inf false
  | .nan => .nan

/-- The sum, as IEEE 754 orders its special cases; an exact zero sum is +0 unless both terms are negative zeros. -/
def Num.add : Num → Num → Num
  | .nan, _ => .nan
  | _, .nan => .nan
  | .inf a, .inf b => if a = b then .inf a else .nan
  | .inf a, _ => .inf a
  | _, .inf b => .inf b
  | .fin a m e, .fin b n f =>
    let g := min e f
    let s := signedAt a m e g + signedAt b n f g
    if m = 0 ∧ n = 0 then .fin (a && b) 0 0 else Num.ofInt s g false

/-- The difference. -/
def Num.sub (x y : Num) : Num := Num.add x (Num.neg y)

/-- The product; an infinity times zero is NaN. -/
def Num.mul : Num → Num → Num
  | .nan, _ => .nan
  | _, .nan => .nan
  | .inf a, .inf b => .inf (xor a b)
  | .inf a, .fin b n _ => if n = 0 then .nan else .inf (xor a b)
  | .fin a m _, .inf b => if m = 0 then .nan else .inf (xor a b)
  | .fin a m e, .fin b n f => .fin (xor a b) (m * n) (if m * n = 0 then 0 else e + f)

/-- A value times `2^k`. -/
def Num.scale (x : Num) (k : Int) : Num :=
  match x with
  | .fin s m e => if m = 0 then .fin s 0 0 else .fin s m (e + k)
  | y => y

/-- The quotient to at least 64 significant bits with a sticky last bit, so that one later rounding is the rounding of
the exact quotient. -/
def Num.div : Num → Num → Num
  | .nan, _ => .nan
  | _, .nan => .nan
  | .inf _, .inf _ => .nan
  | .inf a, .fin b _ _ => .inf (xor a b)
  | .fin a _ _, .inf b => .fin (xor a b) 0 0
  | .fin a m e, .fin b n f =>
    if n = 0 then (if m = 0 then .nan else .inf (xor a b))
    else if m = 0 then .fin (xor a b) 0 0
    else
      let k := Nat.log2 n + 66 - Nat.min (Nat.log2 m) (Nat.log2 n)
      let q := (m <<< k) / n
      let st := if (m <<< k) % n = 0 then 0 else 1
      .fin (xor a b) (2 * q + st) (e - f - k - 1)

/-- The whole square root by bisection over `bitsLeft` bits. -/
def isqrtF : Nat → Nat → Nat → Nat
  | 0, _, r => r
  | k + 1, n, r => let t := r + 2 ^ k; isqrtF k n (if t * t ≤ n then t else r)

/-- The whole square root. -/
def isqrt (n : Nat) : Nat := isqrtF (Nat.log2 n / 2 + 1) n 0

/-- The square root with a sticky last bit; a negative value other than −0 gives NaN. -/
def Num.sqrt : Num → Num
  | .nan => .nan
  | .inf s => if s then .nan else .inf false
  | .fin s m e =>
    if m = 0 then .fin s 0 0
    else if s then .nan
    else
      let k : Nat := 80 + (e % 2).toNat
      let r := isqrt (m <<< k)
      let st := if r * r = m <<< k then 0 else 1
      .fin false (2 * r + st) ((e - k) / 2 - 1)

/-- Order of two values that are not NaN: is the first below the second. The two zeros are equal. -/
def Num.lt : Num → Num → Bool
  | .nan, _ => false
  | _, .nan => false
  | .inf a, .inf b => a && !b
  | .inf a, .fin .. => a
  | .fin .., .inf b => !b
  | .fin a m e, .fin b n f =>
    let g := min e f
    decide (signedAt a m e g < signedAt b n f g)

/-- Equality of two values that are not NaN. -/
def Num.eqv (x y : Num) : Bool := x != .nan && y != .nan && !Num.lt x y && !Num.lt y x

/-- The value is NaN. -/
def Num.isNan (x : Num) : Bool := x = .nan

/-- The value is a zero. -/
def Num.isZero : Num → Bool
  | .fin _ m _ => m == 0
  | _ => false

/-- The value is finite. -/
def Num.isFin : Num → Bool
  | .fin .. => true
  | _ => false

/-- The sign. -/
def Num.sign : Num → Bool
  | .fin s _ _ => s
  | .inf s => s
  | .nan => false

/-- An integer as an exact value. -/
def Num.int (i : Int) : Num := Num.ofInt i 0 false

/-! ### Scales and ternary weights -/

/-- The value of an E8M0 scale byte as an exponent; 0xFF is NaN (R51). -/
def e8m0 (b : Nat) : Option Int := if b = 0xFF then none else some ((b : Int) - 127)

/-- The base-3 digits of a ternary byte as weights −1, 0, +1; a byte of 243 or more gives five zeros and a format error
(R46, R47). -/
def ternDigits (b : Nat) : List Int × Bool :=
  if b < 243 then ((upto 5).map fun i => ((b / 3 ^ i % 3 : Nat) : Int) - 1, false)
  else ([0, 0, 0, 0, 0], true)

/-- emax of R54. -/
def VFmt.emax : VFmt → Int
  | .e2m1 => 2 | .e4m3 => 8 | .e5m2 => 15
  | _ => 0

/-- Element `i` of an array of `w`-bit elements in bytes; two 4-bit elements share a byte (R48). -/
def elemAt (bs : List (BitVec 8)) (w i : Nat) : Nat :=
  if w = 4 then
    let b := (bs.getD (i / 2) 0).toNat
    if i % 2 = 0 then b % 16 else b / 16
  else ofBytes ((bs.drop (i * (w / 8))).take (w / 8))

/-- Packs `w`-bit elements into bytes (R48, R2). -/
def packElems (w : Nat) : List Nat → List (BitVec 8)
  | [] => []
  | a :: xs =>
    if w = 4 then
      match xs with
      | [] => [BitVec.ofNat 8 (a % 16)]
      | b :: ys => BitVec.ofNat 8 (a % 16 + 16 * (b % 16)) :: packElems w ys
    else toBytes (w / 8) a ++ packElems w xs

/-! ### The format word -/

/-- The encodings of R59. -/
inductive Enc where
  | dense | nm | bb64 | il16 | runMask
  deriving DecidableEq, Repr

/-- The encoding of a 3-bit code; 5 to 7 are reserved (R59). -/
def Enc.ofCode : Nat → Option Enc
  | 0 => some .dense | 1 => some .nm | 2 => some .bb64 | 3 => some .il16 | 4 => some .runMask
  | _ => none

/-- A valid format word's fields (R76). -/
structure FmtWord where
  vfmt    : VFmt
  enc     : Enc
  nmPat   : Nat
  bb8     : Bool
  mx      : Bool
  sl      : Bool
  pattern : Bool
  sat     : Bool
  background : Nat
  pad     : Nat
  slBase  : Nat
  deriving DecidableEq, Repr

/-- The MX flag is allowed with this value format and encoding (R50, R59). -/
def mxAllowed (v : VFmt) (e : Enc) : Bool :=
  (v = .int8 || v = .e2m1 || v = .e4m3 || v = .e5m2) && (e = .dense || e = .nm || e = .bb64)

/-- The value format is accepted by the encoding (R59). -/
def encAccepts (v : VFmt) (e : Enc) : Bool :=
  e = .dense || (v = .int4 || v = .int8 || v = .e2m1 || v = .e4m3 || v = .e5m2 || v = .bf16 || v = .fp16)

/-- The unused high bits of BACKGROUND and PAD are 0, and the ternary rules hold (R77). -/
def fmtValuesOk (v : VFmt) (bg pad : Nat) : Bool :=
  match v with
  | .ternary => decide (bg = 0) && decide (pad < 243)
  | _ => if v.width < 16 then decide (bg < 2 ^ v.width) && decide (pad < 2 ^ v.width) else true

/-- Reads a format word; none when it is invalid (R77). -/
def FmtWord.parse (w : Nat) : Option FmtWord :=
  match VFmt.ofCode (bits w 4 0), Enc.ofCode (bits w 7 5) with
  | some v, some e =>
    let bg := bits w 31 16
    let pad := bits w 47 32
    let mx := isSet w 11
    if isSet w 15 || decide (bits w 63 60 ≠ 0) || !encAccepts v e || (mx && !mxAllowed v e)
        || !fmtValuesOk v bg pad then none
    else some { vfmt := v, enc := e, nmPat := bits w 9 8, bb8 := isSet w 10, mx := mx, sl := isSet w 12,
                pattern := isSet w 13, sat := isSet w 14, background := bg, pad := pad, slBase := bits w 59 48 }
  | _, _ => none

/-- BACKGROUND or PAD as an element: for a 32-bit format the field gives bits [31:16] (R76). -/
def FmtWord.elemOf (f : FmtWord) (v : Nat) : Nat := if f.vfmt.width = 32 then v * 65536 else v % 2 ^ f.vfmt.width

/-- The background value counts as zero: 0 of an integer format, +0 or −0 of a floating-point format (R70). -/
def FmtWord.bgZero (f : FmtWord) : Bool :=
  if f.vfmt.isInt then f.background = 0
  else f.elemOf f.background % 2 ^ (f.vfmt.width - 1) = 0

/-- The exact value of a stored element before scales (R53, R56): MXINT8 carries the factor 2^−6. -/
def FmtWord.value (f : FmtWord) (code : Nat) : Num :=
  let x := f.vfmt.decode code
  if f.mx && f.vfmt == .int8 then x.scale (-6) else x

/-- N, M, index bits and field width of an NM pattern (R60). -/
def nmParams : Nat → Nat × Nat × Nat × Nat
  | 0 => (2, 4, 2, 4) | 1 => (1, 4, 2, 2) | 2 => (2, 8, 3, 6)
  | _ => (4, 16, 4, 16)

/-- The kept positions of one group, or none when its indices do not rise strictly (R60, R62). -/
def nmGroup (pat md g : Nat) : Option (List Nat) :=
  let (n, _, b, w) := nmParams pat
  let fld := (md >>> (g * w)) % 2 ^ w
  let ix := (upto n).map fun i => (fld >>> (i * b)) % 2 ^ b
  if (ix.zip (ix.drop 1)).all (fun p => decide (p.1 < p.2)) then some ix else none

end Sys2Proof.Machine
end

