-- ==== Sys2Proof/Machine/State.lean ====
section
/-! DEFINITION. The state of the block as plain data: every register field, queue, buffer, counter and pin that the
spec gives the module, and the queue of waiting commands. -/

namespace Sys2Proof.Machine

/-! ### Registers -/

/-- The stored fields of one register block: the value in each field, the value still in effect of an `RW` field written
in this tick (R12), and the waiting shadow of an `RWL` field (R13). Keys are `Fld.key`; an absent field holds its reset
value. -/
structure Regs where
  cur    : SMap Nat := []
  live   : SMap Nat := []
  shadow : SMap Nat := []
  /-- Low halves held for a high-half write (R6), and high halves captured by a low-half read (R5), by 8 × register offset
  and requester number. -/
  hold   : SMap Nat := []
  capt   : SMap Nat := []
  /-- Events of the cycle in progress: the bits of a `W1C` field that hardware has set (R11), and the counters that it has
  incremented (R113), by `Fld.key`. -/
  evs    : SMap Nat := []
  /-- Counters cleared in the cycle in progress (R113), by `Fld.key`. -/
  clrs   : List Nat := []
  deriving DecidableEq, Repr

/-! ### The shared arbiter (R163 to R169) -/

/-- One arbiter. Requesters 0 to 2 rank; 3 and 4 are the two emergency sources. -/
structure ArbSt where
  owner : Option Nat := none
  /-- The owner has moved a beat in the current slot. -/
  moved : Bool := false
  /-- Beats and slots of the grant in progress. -/
  beats : Nat := 0
  held  : Nat := 0
  ranks : List Nat := [0, 1, 2]
  waits : List Nat := [0, 0, 0]
  /-- Suspended owner with its beats and slots (R168). -/
  susp  : Option (Nat × Nat × Nat) := none
  /-- The emergency request was cut off and may not pre-empt yet (R168). -/
  barred : Bool := false
  /-- First cycle of the slot that is owned (R163). -/
  from_  : Nat := 0
  deriving DecidableEq, Repr

/-! ### Scratchpad accesses -/

/-- Where the data of a read goes, and whom the end of a write concerns. -/
inductive AccDst where
  /-- Instruction line of a core's task (R92). -/
  | insn (core task line : Nat) (last : Bool)
  /-- Destination line of an OLOAD. -/
  | oload (core seq dst : Nat)
  /-- Source line of a transposing OLOAD (R149). -/
  | gather (core seq line : Nat)
  /-- Line write of a DRAIN. -/
  | drain (core seq : Nat)
  /-- Instruction line of the vector engine. -/
  | vinsn (task line : Nat) (last : Bool)
  /-- Line read or write of a vector memory instruction. -/
  | vmem (seq line : Nat)
  /-- Line `idx` read for a transfer of stream `st` of the lantern `g`. -/
  | xferRead (g st xid idx : Nat)
  /-- Line `idx` written for a transfer of stream `st` of the lantern `g`. -/
  | xferWrite (g st xid idx : Nat)
  /-- Block-list line `line` of stream `st`, in the run that asked for it (R221). -/
  | list (st run line : Nat)
  /-- Scratchpad window (R174). -/
  | window (req : Requester) (off size : Nat)
  /-- Debug port. -/
  | debug
  /-- Line that the keeper loads from its HBM copy (R265). -/
  | reload
  /-- Line of a stream-data packet from node `src` for slot `slot` of the landing pair `bp` (R227). -/
  | landing (bp slot src : Nat)
  /-- Line read for a remote request served by this channel. -/
  | none
  deriving DecidableEq, Repr

/-- One access to a scratchpad line: a read, or a write of `data` under `mask` (R145). -/
structure Acc1 where
  line : Nat
  wr   : Bool := false
  data : List (BitVec 8) := []
  mask : List Bool := []
  dst  : AccDst := .none
  /-- Requester number of LN_POISON_LINE.REQ (R173). -/
  req  : Nat := 0
  /-- Order inside the lantern pipe: kind × 64 + logical core (R152). -/
  ord  : Nat := 0
  /-- First and last line in its bank of a write, whose header is counted (R159). -/
  firstOfWrite : Bool := false
  lastOfWrite : Bool := false
  deriving DecidableEq, Repr

/-- One scratchpad bank: its arbiter, its port queues and its power state (R159 to R162). -/
structure Bank where
  arb      : ArbSt := {}
  /-- Merged accesses that the lantern pipe presents to this bank. -/
  pipe     : List Acc1 := []
  tender   : List Acc1 := []
  fabric   : List Acc1 := []
  dbg      : List Acc1 := []
  /-- Outstanding writes, and those of them of which only the header has come (R159). -/
  writes   : Nat := 0
  headers  : Nat := 0
  /-- Cycle in which draining began. -/
  draining : Option Nat := none
  retained : Bool := false
  /-- Cycle in which the wake-up ends. -/
  waking   : Option Nat := none
  deriving DecidableEq, Repr

/-! ### The sparse core -/

/-- One accumulator cell with its side state (R114). -/
structure Cell where
  v    : Nat := 0
  fp   : Bool := false
  tag  : Nat := 0
  deriving DecidableEq, Repr

/-- A task on a core: opened, issuing, or waiting for its TMULs and DRAINs. -/
structure CTask where
  /-- The lantern's number of the bound task. -/
  id       : Nat
  /-- CTX of the task entry, and of TASK once it has issued (R92, R93). -/
  ctx      : Nat
  /-- Next line to request. -/
  fetch    : Nat
  /-- The line that holds END has been requested (R251). -/
  endReq   : Bool := false
  opened   : Bool := false
  /-- R108. -/
  empty    : Bool := false
  ended    : Bool := false
  stopped  : Bool := false
  /-- A shape overflow of this task has been recorded (R107). -/
  ovfSeen  : Bool := false
  /-- Cycle in which the last result of its vector instructions is there (R183). -/
  doneAt   : Nat := 0
  deriving DecidableEq, Repr

/-- A fetched instruction line, or one in flight. -/
structure ILine where
  task  : Nat
  line  : Nat
  words : List Nat := []
  /-- Cycle from which it can be issued; none while it is in flight. -/
  ready : Option Nat := none
  last  : Bool := false
  deriving DecidableEq, Repr

/-- An OLOAD in the load queue. -/
structure LoadOp where
  seq    : Nat
  task   : Nat
  /-- The instruction word (R94). -/
  w      : Nat
  /-- Destination lines, and source lines (rows in transpose) that are copied (R95). -/
  total  : Nat
  copy   : Nat
  /-- Element width in bits and padding element. -/
  ew     : Nat
  pad    : Nat
  sent   : Nat := 0
  done   : Nat := 0
  /-- Cycle of the next request at the earliest. -/
  next   : Nat := 0
  /-- Source lines still to gather, and those gathered, of a transposing read. -/
  toGather : List Nat := []
  gathered : SMap (List (BitVec 8)) := []
  /-- It holds a transpose buffer (R149). -/
  tbuf   : Bool := false
  gatherDone : Bool := false
  /-- Lines due to be written into the operand buffer: line, data (none in transpose until formed), cycle. -/
  landing : List (Nat × Option (List (BitVec 8)) × Nat) := []
  deriving DecidableEq, Repr

/-- A matched pair (R87). -/
structure Pair where
  op    : Nat
  row   : Nat
  a     : Num
  b     : Num
  /-- Exponent of the block scales; none when a scale is NaN (R51). -/
  d     : Option Int
  ready : Nat
  deriving DecidableEq, Repr

/-- An accumulator write in flight (R103): a clear of rows, or the pairs taken in one cycle. -/
structure AccWr where
  op    : Nat
  set   : Nat
  due   : Nat
  /-- Rows cleared; empty for products. -/
  clear : List Nat := []
  fp    : Bool
  pairs : List Pair := []
  /-- Second residue mismatch: the cell takes NaN (R420). -/
  nan   : Bool := false
  deriving DecidableEq, Repr

/-- The intersection modes of R85. -/
inductive IMode where
  | bypass | bitmap | nmDecode | merge | gather
  deriving DecidableEq, Repr

/-- A TMUL in the multiply queue. -/
structure MulOp where
  seq    : Nat
  task   : Nat
  /-- The instruction word (R96). -/
  w      : Nat
  issued : Nat
  start  : Option Nat := none
  /-- Run-time rows and depth blocks (R107). -/
  rows   : Nat := 0
  kbs    : Nat := 0
  mode   : IMode := .bypass
  /-- Rate class 4, 8 or 16 (R79). -/
  cls    : Nat := 8
  /-- Buffer lines it reads, fixed at its start. -/
  lines  : List Nat := []
  /-- Cycle in which it released its lines (R101). -/
  released : Option Nat := none
  /-- Position of the examination: row, block, index of the next enabled column. -/
  er     : Nat := 0
  eb     : Nat := 0
  ec     : Nat := 0
  /-- Entry positions of a merge group or of a gather list. -/
  pos    : List (Nat × Nat × Bool) := []
  gpos   : Nat := 0
  /-- Operand pieces whose format faults have been counted. -/
  seen   : List Nat := []
  beyond : Bool := false
  /-- Cycle in which its examination ended. -/
  examEnd : Option Nat := none
  nextExam : Nat := 0
  /-- First cycle of its slice stage, and the column the spare serves in it (R80). -/
  stage  : Option Nat := none
  spareFor : Nat := 31
  /-- Pairs taken by each column in bypass mode (R88). -/
  taken  : List Nat := []
  /-- Cycle in which its last pair was taken. -/
  lastPair : Option Nat := none
  /-- An uncorrectable operand buffer read: every named cell takes NaN (R420). -/
  nan    : Bool := false
  deriving DecidableEq, Repr

/-- A complete line of a DRAIN: its bytes by offset, and the cycle from which its write may be requested (R133). -/
structure DLine where
  line  : Nat
  at_   : Nat
  bytes : SMap Nat
  deriving DecidableEq, Repr

/-- A DRAIN in the drain queue. -/
structure DrainOp where
  seq    : Nat
  task   : Nat
  /-- The instruction word (R97). -/
  w      : Nat
  issued : Nat
  /-- Empty drain of an empty task (R108). -/
  empty  : Bool := false
  start  : Option Nat := none
  rows   : Nat := 0
  cols   : Nat := 16
  /-- Scale entries read at the first D0, for the rows, the columns and the output vectors (R121). -/
  scales : Option (List Int × List Int × List Int) := none
  /-- Next row to pass D0, the earliest cycle for it. -/
  next   : Nat := 0
  nextCy : Nat := 0
  /-- Scaled values of the rows read so far, in row order, and rows whose statistics record is formed. -/
  vals   : List (List Num) := []
  statN  : Nat := 0
  /-- Output bytes and statistics bytes formed and not yet requested, by scratchpad byte address. -/
  out    : SMap Nat := []
  stat   : SMap Nat := []
  /-- Complete lines in request order. -/
  lines  : List DLine := []
  /-- Line writes requested and not granted. -/
  asked  : Nat := 0
  /-- Every planned row has passed D0. -/
  rowsDone : Bool := false
  lastD4 : Nat := 0
  deriving DecidableEq, Repr

/-- An instruction that has left its queue in cycle `cyc`: its place there is free from the next cycle on (R100). `kind` is 0 for an
OLOAD, 1 for a TMUL, 2 for a DRAIN. A TMUL keeps the buffer lines it releases in that cycle, and its rows, to the cycle's end
(R101, R103, R110). -/
structure Gone where
  kind  : Nat
  cyc   : Nat
  lines : List Nat := []
  set   : Nat := 0
  row0  : Nat := 0
  rows  : Nat := 0
  deriving DecidableEq, Repr

/-- One physical core (R78). -/
structure SparseCore where
  /-- Operand buffer of 4 KiB (R81). -/
  obuf   : Mem := []
  /-- Accumulator cells by (32 × set + row) × 16 + column (R114). -/
  acc    : SMap Cell := []
  tasks  : List CTask := []
  ibuf   : List ILine := []
  /-- Next instruction inside the head line. -/
  ipos   : Nat := 0
  nextIssue : Nat := 0
  nextFetch : Nat := 0
  seq    : Nat := 0
  loadQ  : List LoadOp := []
  mulQ   : List MulOp := []
  drainQ : List DrainOp := []
  /-- Pair queues by column (R87), and the first cycle in which each slice may take again (R79). -/
  pairs  : SMap (List Pair) := []
  cool   : SMap Nat := []
  /-- Accumulator writes in flight by column (R103). -/
  accW   : SMap (List AccWr) := []
  lastStart : Option Nat := none
  lastPair  : Option Nat := none
  lastExam  : Option Nat := none
  lastD0    : Option Nat := none
  lastReq   : Option Nat := none
  /-- Last cycle in which a slice took a pair, and in which a group waited on a full queue. -/
  took   : Option Nat := none
  /-- Instructions that left their queues in the last cycle in which one did. -/
  gone   : List Gone := []
  /-- Last cycle in which an OLOAD wrote each buffer line (R103). -/
  lineAt : SMap Nat := []
  /-- Instructions of an empty task passed over, and in which cycle (R108). -/
  passed : Nat × Nat := (0, 0)
  /-- Last cycle in which the drain path requested a line write. -/
  lastLine : Option Nat := none
  qfull  : Option Nat := none
  deriving DecidableEq, Repr

/-! ### The vector engine -/

/-- A vector load or store whose scratchpad requests are not all served (R184). -/
structure VMem where
  seq    : Nat
  task   : Nat
  /-- The instruction word (R180). -/
  w      : Nat
  issued : Nat
  /-- VL and the format word at issue. -/
  vl     : Nat
  fmt    : Option FmtWord := none
  /-- A load's active elements with the byte address of each, and whether it is the high nibble; none past line 4,095. -/
  elems  : List (Nat × Option (Nat × Bool)) := []
  /-- Inactive elements that the load sets to 0 (R185). -/
  zero   : List Nat := []
  /-- Lines still to be requested, with a store's bytes and byte mask. -/
  todo   : List (Nat × List (BitVec 8) × List Bool) := []
  /-- Requests that wait for their grant, and lines that have come back. -/
  asked  : Nat := 0
  got    : SMap (List (BitVec 8)) := []
  /-- Cycle of the last request. -/
  sentAt : Nat := 0
  deriving DecidableEq, Repr

/-- The vector engine (R175). -/
structure VecEng where
  /-- Vector registers by 64 × register + element. -/
  v      : SMap Nat := []
  /-- Tile registers by (16 × register + row) × 64 + element. -/
  t      : SMap Nat := []
  /-- Mask registers. -/
  m      : SMap Nat := []
  tasks  : List CTask := []
  ibuf   : List ILine := []
  ipos   : Nat := 0
  nextIssue : Nat := 0
  seq    : Nat := 0
  mem    : List VMem := []
  /-- Cycle from which each register can be used: vector registers 0 to 31, tiles from 32, masks from 40 (R183). -/
  ready  : SMap Nat := []
  /-- Cycle of the last pipe access, and the earliest next VDIV or VSQRT. -/
  lastAcc : Option Nat := none
  nextDiv : Nat := 0
  /-- Last cycle in which an instruction line was requested (R177, R251). -/
  fetchAt : Option Nat := none
  /-- Bases of the scale tables that VSLE has read (R58, R205). -/
  slSeen : List Nat := []
  deriving DecidableEq, Repr


/-! ### The tender -/

/-- What a stream holds beside its registers (R213 to R245). -/
structure Stream where
  /-- Program store: 32 instruction words (R215). -/
  prog   : List Nat := []
  /-- Cycle of the first step after a start. -/
  readyAt : Nat := 0
  /-- Loops entered: position, body, level and count, innermost first (R217). -/
  loops  : List (Nat × Nat × Nat × Nat) := []
  /-- Token fraction in 1/256 line (R233). -/
  frac   : Nat := 0
  srcOpen : Bool := false
  dstOpen : Bool := false
  /-- The open destination slot is a spilled one (R241). -/
  dstSpill : Bool := false
  ending  : Bool := false
  stopping : Bool := false
  aborting : Bool := false
  /-- Parking stopped it (R237). -/
  byPark  : Bool := false
  /-- Shadow descriptor (R235). -/
  shadow  : Option (Nat × Nat) := none
  /-- Cycle of the last end, and whether a re-arm has been accepted for that end (R236). -/
  endAt   : Option (Nat × Bool) := none
  /-- Cycle of the pending restart. -/
  restart : Option Nat := none
  /-- Block-list lines held, by line number of the list (R221), and those asked for. -/
  listBuf : SMap (List (BitVec 8)) := []
  listReq : List Nat := []
  /-- List lines that came with an error indication (R311, R350). -/
  listBad : List Nat := []
  /-- Number of starts and restarts: list lines of an earlier run are not taken. -/
  run     : Nat := 0
  /-- An invalid entry of this run has been recorded (R222). -/
  listErr : Bool := false
  /-- Tick in which the present wait with cause 4 began (R239). -/
  wait4   : Option Nat := none
  /-- The keeper has been notified of its stall, and has chosen it to spill (R239, R240). -/
  notified : Bool := false
  victim  : Bool := false
  /-- The keeper found it on a cycle at its last check (R242). -/
  inCycle : Bool := false
  stallErr : Bool := false
  deriving DecidableEq, Repr

/-- A place that a transfer line is read from or written to. -/
inductive Place where
  | spad (g line : Nat)
  | dev (addr : Nat)
  /-- Line of a host page: device address, translated host address, and whether COH selects CXL.cache (R316, R317). -/
  | host (addr hpa : Nat) (coh : Bool)
  | none
  deriving DecidableEq, Repr

/-- A transfer in the fetch queue (R231). -/
structure Xfer where
  xid   : Nat
  st    : Nat
  len   : Nat
  /-- Source and destination of each line. -/
  src   : List Place
  dst   : List Place
  srcEnd : Bool := false
  dstEnd : Bool := false
  /-- Packet to a link endpoint (R209). -/
  link  : Option Nat := none
  /-- Line offset in the remote slot of a link buoy pair. -/
  linkOff : Nat := 0
  /-- Lines whose data is here, by line number. -/
  data  : SMap (List (BitVec 8)) := []
  /-- Lines that came with an error indication (R311, R350). -/
  bad   : List Nat := []
  /-- Lines whose write is done, and those whose write has been sent on its way. -/
  done  : List Nat := []
  queued : List Nat := []
  /-- The request has been sent, with these transfers in it, in order (R232). -/
  sent  : Bool := false
  group : List Nat := []
  /-- The packet to a link endpoint has been handed to the egress. -/
  packed : Bool := false
  /-- The egress port has accepted the packet's last flit. -/
  accepted : Bool := false
  /-- It carries a spilled slot's lines, or copies one back (R241). -/
  spill : Bool := false
  copyBack : Bool := false
  /-- Device address of a spilled transfer's header line; its write counts as line 4,096. -/
  head : Option Nat := none
  /-- The spilled transfer that a copy brings back. -/
  orig : Option Nat := none
  ctx   : Nat := 0
  deriving DecidableEq, Repr

/-- A transfer of a spilled slot (R241): its number, the lines and the length that its header line records, its reserve lines
with the header line first, and whether its copy has been issued. -/
structure SpillPart where
  xid   : Nat
  dst   : List Place
  len   : Nat
  lines : List Nat
  sent  : Bool := false
  deriving DecidableEq, Repr

/-- A spilled slot in the reserve (R241): the stream, its buoy pair, its transfers, and whether it is complete and is being copied
back. -/
structure SpillSlot where
  st    : Nat
  bp    : Nat
  parts : List SpillPart
  closed : Bool := false
  copying : Bool := false
  deriving DecidableEq, Repr

/-- A request held for merging (R232): its transfers, its length and the cycle in which the hold ends. -/
structure Hold where
  xids : List Nat
  bytes : Nat
  until_ : Nat
  deriving DecidableEq, Repr

/-- The tender of a lantern. -/
structure Tender where
  streams : SMap Stream := []
  fq      : List Xfer := []
  nextXid : Nat := 0
  /-- Requests held for merging, by stream. -/
  hold    : SMap Hold := []
  /-- Streams in the order in which they win a step, for each PRIO value (R229). -/
  order   : List Nat := [0, 1, 2, 3, 4, 5, 6, 7, 8, 9, 10, 11, 12, 13, 14, 15]
  nextStep : Nat := 0
  /-- Stream that the tender has given this cycle's step to (R229). -/
  granted : Option (Nat × Nat) := none
  nextRefill : Nat := 64
  spills  : List SpillSlot := []
  /-- Lines of the reserve in use. -/
  spillUsed : List Nat := []
  /-- Last tick whose stalls have been counted (R239). -/
  stallTick : Nat := 0
  deriving DecidableEq, Repr

/-! ### Tasks and work counters -/

/-- An entry of the task queue (R246, R247). -/
structure TqEntry where
  /-- Push number; the queue keeps push order. -/
  num  : Nat
  /-- The 128-bit task entry. -/
  w    : Nat
  /-- A non-pool entry that has been promoted. -/
  promoted : Bool := false
  /-- The sequence for which the keeper pushed it (R255). -/
  slot : Option Nat := none
  /-- Claimed and unpromoted indices of a pool entry, oldest first: index and the grid index of the issuing counter. -/
  claims : List (Nat × Nat) := []
  /-- Claimed indices, promoted or not, whose tasks are incomplete. -/
  open_  : Nat := 0
  deriving DecidableEq, Repr

/-- A promoted task (R250). -/
structure LTask where
  id    : Nat
  entry : Nat
  w     : Nat
  /-- First instruction line of its variant (R249). -/
  line  : Nat
  /-- Claimed index and issuing lantern of a pool task. -/
  index : Option (Nat × Nat) := none
  /-- Physical core it runs on, or 64 for the vector engine. -/
  on    : Option Nat := none
  /-- The unit has signalled its completion (R99, R177). -/
  done  : Bool := false
  deriving DecidableEq, Repr

/-- An acquisition on a buoy pair that waits for its answer (R252). -/
structure Acq where
  task : Nat
  /-- Made as consumer: the answer increments FREE; else READY. -/
  cons : Bool
  ctx  : Nat
  answered : Bool := false
  deriving DecidableEq, Repr

/-- A steal in the victim's queue of 8 (R257). -/
structure Steal where
  thief : Nat
  w     : Nat
  /-- Cycle of its delivery. -/
  at_   : Nat
  deriving DecidableEq, Repr

/-- What a thief remembers of one counter (R259). -/
structure Thief where
  /-- Cycle from which its conditions have held. -/
  since  : Option Nat := none
  /-- Victims already asked in this round. -/
  asked  : Nat := 0
  waiting : Bool := false
  /-- Response on its way: index, or none for "empty". -/
  answer : Option (Option Nat × Nat) := none
  /-- Cycle in which the back-off ends. -/
  backoff : Option Nat := none
  /-- Stolen indices that are incomplete. -/
  held   : Nat := 0
  /-- Next victim in rotating order. -/
  victim : Nat := 0
  deriving DecidableEq, Repr

/-- Work counter state that no register shows. -/
structure WorkCounter where
  /-- Completion bitmap of 4,096 bits (R256). -/
  bitmap  : Nat := 0
  replays : List Nat := []
  thief   : Thief := {}
  deriving DecidableEq, Repr

/-- Task queue and counter unit of a lantern (R246 to R267). -/
structure TaskUnit where
  entries : List TqEntry := []
  pushes  : Nat := 0
  tasks   : List LTask := []
  nextId  : Nat := 0
  /-- Unanswered acquisitions by buoy pair, oldest first. -/
  acqs    : SMap (List Acq) := []
  wcs     : SMap WorkCounter := []
  steals  : List Steal := []
  /-- Physical cores to which no new task is bound (R429). -/
  barred  : List Nat := []
  /-- Completed indices on their way to the counter that issued them: issuing lantern, counter, index. -/
  sent    : List (Nat × Nat × Nat) := []
  /-- First cycle in which the lantern may promote, and the counter unit may serve, again. -/
  nextPromote : Nat := 0
  nextOwner   : Nat := 0
  nextSteal   : Nat := 0
  /-- Re-arms due to a claim (R258): cycle, stream, whether it is the feed stream, and the address. -/
  rearms  : List (Nat × Nat × Bool × Nat) := []
  deriving DecidableEq, Repr

/-! ### The lantern -/

/-- One lantern (R140). -/
structure Lantern where
  regs   : Regs := {}
  /-- Scratchpad of 256 KiB (R145). -/
  sp     : Mem := []
  /-- Uncorrectable 64-bit words: 8 × line + word (R420). -/
  spBad  : List Nat := []
  /-- Bit 0 of ACTIVE as it stood at the start of its owner's current period, for each line where it has changed since
  (R58). -/
  slHold : SMap Nat := []
  cores  : SMap SparseCore := []
  /-- Accesses that the lantern pipe has not yet taken, and those of the bundle it is serving (R152). -/
  pipeQ  : List Acc1 := []
  pipeNow : List Acc1 := []
  /-- Lines that the tender's port is to read and to write, of which it presents the first of each (R211). -/
  tdRd   : List Acc1 := []
  tdWr   : List Acc1 := []
  /-- Last cycle in which the pipe presented accesses. -/
  pipeAt : Option Nat := none
  banks  : SMap Bank := []
  /-- Transpose buffers in use, of 4 (R149). -/
  tbufs  : Nat := 0
  /-- Valid bit and remaining reads of the watched lines (R157). -/
  poison : SMap (Bool × Nat) := []
  /-- Last cycle counted in LN_ARB_STALL_CY (R155). -/
  arbStall : Option Nat := none
  /-- RESUME was written in this tick; parking ends at the next (R143). -/
  resumeReq : Option Nat := none
  /-- The last cycle that was counted in LN_TBUF_WAIT_CY (R150). -/
  tbufWait : Option Nat := none
  /-- A tick has begun with all open work of a pending park finished (R143). -/
  parkReady : Bool := false
  ve     : VecEng := {}
  td     : Tender := {}
  tq     : TaskUnit := {}
  /-- Increments of buoy counts that waiters do not see before the next cycle (R225): by 2 × pair + 1 for READY, the cycle and the
  amount. -/
  bpNew  : SMap (Nat × Nat) := []
  deriving DecidableEq, Repr

/-! ### Errors of a channel -/

/-- A record that is pending (R422). -/
structure PendRec where
  seq    : Nat
  unit   : Nat
  cause  : Nat
  cls    : Nat
  ctx    : Option Nat
  /-- DETAIL of the record. -/
  detail : Nat := 0
  /-- HEALTH[8]: the event reached the threshold (R427). -/
  lasting : Bool
  /-- The keeper has taken it (R421). -/
  taken  : Bool := false
  /-- A remedy of R428 has begun and has not yet taken effect. -/
  remedy : Bool := false
  deriving DecidableEq, Repr

/-- A core being retired (R429). -/
structure Retire where
  g : Nat
  logical : Nat
  phys : Nat
  unit : Nat
  ctx  : Option Nat := none
  /-- Tick in which the boundary's period ends. -/
  limit : Nat
  /-- The spare that is bound, while the core's pinned blocks load. -/
  spare : Option Nat := none
  deriving DecidableEq, Repr

/-- What a channel's keeper holds about errors (R421 to R432). -/
structure ErrSt where
  /-- Leaky counts by UNIT (R427). -/
  health : SMap Nat := []
  /-- The tick at whose start the counts were halved last. -/
  halved : Option Nat := none
  pend   : List PendRec := []
  /-- Limits of one record a tick that have been used in this tick (R154). -/
  once   : List Nat := []
  /-- Core retirements that wait for the next channel boundary, and those under way (R429). -/
  retireDue : List (Nat × Nat × Nat) := []
  retiring  : List Retire := []
  /-- Lanterns to replace at the next channel boundary, with the UNIT whose record asked for it, and spares being
  filled (R430). -/
  replaceDue : List (Nat × Nat) := []
  filling    : List (Nat × Nat) := []
  /-- Failed lanterns, and spare lanterns not yet used (R142, R430). -/
  failed : List Nat := []
  spares : List Nat := []
  /-- A dump is being written (R436): the tick and phase in which it began, and whether the lit half writes it. -/
  dumping : Option (Nat × Nat × Bool) := none
  /-- The dump has been handed to the memory controller: no further one is written (R436). -/
  dumped : Bool := false
  deriving DecidableEq, Repr

/-- The request that a translated access makes of the host (R317, R382). -/
inductive HostKind where
  /-- CXL.cache read and write. -/
  | rdCurr
  | wrCur
  /-- CXL.io memory read and write. -/
  | ioRead
  | ioWrite
  deriving DecidableEq, Repr

/-- What a channel hands to the bridge over its attachments. -/
inductive UpEv where
  /-- An access that R7 or R471 discarded: device address, requester, write, narrow, misaligned. -/
  | miss (addr req : Nat) (wr narrow misal : Bool)
  /-- A record for the module ring: cause, class, unit, CTX, detail. -/
  | modRecord (cause unit detail : Nat)
  /-- A copy of a record for the lit half (R421). -/
  | forward (words : List Nat)
  /-- A channel-fatal record (R431). -/
  | fatal (cause : Nat)
  /-- An event entry for the host (R384). -/
  | event (kind : Nat) (payload : List Nat)
  /-- A translated read or write of a host page leaves (R317): its kind, address, bytes and mask, and the grid index, transfer and
  line that a write's response is for. -/
  | hostRd (kind : HostKind) (addr : Nat)
  | hostWr (kind : HostKind) (addr : Nat) (data : List (BitVec 8)) (mask : List Bool) (who : Nat × Nat × Nat)
  /-- BISnpInv was sent, or timed out (R379). -/
  | biSnp
  | biTmo
  /-- A poisoned or failed host access (R378). -/
  | hostPoison
  /-- An MSI-X vector (R362). -/
  | msix (vec : Nat)
  /-- A line of a MOVE is done (R383): ring pair, command, line number, the bytes read, and a data error. -/
  | moved (ring id idx : Nat) (data : Option (List (BitVec 8))) (bad : Bool)
  /-- A host write has been accepted by the memory controller (R378). -/
  | hostAck (tag : Nat)
  /-- PWR_LOG entry (R451): reason and the effective point after it. -/
  | pwrLog (reason op : Nat)
  deriving DecidableEq, Repr

/-! ### The Chrobupra link -/

/-- A packet (R347). -/
structure Packet where
  ptype  : Nat
  dst    : Nat
  src    : Nat
  len    : Nat := 0
  tag    : Nat := 0
  ctx    : Nat := 0
  status : Nat := 0
  flags  : Nat := 0
  arg0   : Nat := 0
  arg1   : Nat := 0
  hops   : Nat := 15
  data   : List (BitVec 8) := []
  /-- How it came in, for the credits of its flits (R343): port, 2 × VC + class, flits. -/
  via    : Option (Nat × Nat × Nat) := none
  /-- The place it has reserved in a receive FIFO (R360): FIFO, packet number. -/
  resv   : Option (Nat × Nat) := none
  deriving DecidableEq, Repr

/-- A packet that waits for an egress port, with the transfer that ends when its last flit is accepted: grid index,
transfer number. -/
structure OutPkt where
  p    : Packet
  xfer : Option (Nat × Nat) := none
  /-- It came in on a port (R34). -/
  transit : Bool := false
  /-- Buffer class in which it leaves (R344). -/
  cls     : Nat := 0
  /-- A transit packet's number, and its flits that have come in and not yet left, with EOP (R34, R345). -/
  pid     : Option Nat := none
  come    : List (List (BitVec 8) × Bool) := []
  deriving DecidableEq, Repr

/-- A request of this channel to another channel, by TAG (R350): what it serves, and for which lines. -/
structure Tracked where
  g    : Nat
  /-- Its lines: transfer and line number, or run and line number of a block list. -/
  parts : List (Nat × Nat)
  wr   : Bool
  ctx  : Nat
  /-- Stream whose block list is read, in place of transfer lines. -/
  list : Option Nat := none
  deriving DecidableEq, Repr

/-- A packet in a receive FIFO (R360): the bytes reserved for it, those written and not yet claimed, whether it has
arrived whole, and whether it is being cut (R361). -/
structure FifoPkt where
  pid   : Nat
  len   : Nat
  bytes : List (BitVec 8) := []
  whole : Bool := false
  deriving DecidableEq, Repr

/-- One receive FIFO (R360): its packets from the head, and FILL at the end of the previous evaluation. -/
structure Fifo where
  pkts : List FifoPkt := []
  prev : Nat := 0
  /-- Arriving packets whose remaining bytes are discarded (R361). -/
  cuts : List Nat := []
  deriving DecidableEq, Repr

/-- An open or incomplete slot of a landing pair (R227). -/
structure LandSlot where
  slot    : Nat
  /-- Its slot-end packet has come. -/
  ended   : Bool := false
  /-- Line writes outstanding. -/
  writing : Nat := 0
  ctx     : Nat := 0
  deriving DecidableEq, Repr

/-- What a landing pair remembers of the packets that arrive for it (R227): its slots in order. -/
structure Landing where
  slots : List LandSlot := []
  next  : Nat := 0
  /-- A slot is open: its first packet has arrived and its slot-end packet has not. -/
  open_ : Bool := false
  /-- Packets are dropped up to the next slot end. -/
  dropping : Bool := false
  deriving DecidableEq, Repr

/-! ### HBM (R298 to R322) -/

/-- Whom the end of a request to the memory controller concerns. -/
inductive HDst where
  /-- Line `idx` of a tender transfer. -/
  | xfer (g st xid idx : Nat)
  /-- Line of a block list (R221), and the run of the stream that asked for it. -/
  | list (g st run line : Nat)
  /-- Translation walk for a page (R318). -/
  | walk (page : Nat)
  /-- Host CXL.mem access with the sender's tag (R378). -/
  | host (tag : Nat)
  /-- Line `idx` of the MOVE `id` of a ring pair (R383). -/
  | move (ring id idx : Nat)
  /-- Line `idx` of a remote request being served (R349). -/
  | remote (sid idx : Nat)
  /-- Line that the keeper loads into a scratchpad line of a lantern (R265). -/
  | reload (g line : Nat)
  /-- Line of the dump, and whether it is the last (R436). -/
  | dump (last : Bool)
  | debug
  | none
  deriving DecidableEq, Repr

/-- A request for one line of the stack (R301). -/
structure HReq where
  /-- 0 read, 1 write, 2 remote. -/
  cls  : Nat
  /-- o[35:6] (R300). -/
  line : Nat
  wr   : Bool := false
  data : List (BitVec 8) := []
  mask : List Bool := []
  dst  : HDst := .none
  /-- The source unit (R303): a lantern's grid index, or a number of its own for the others. -/
  src  : Nat
  ctx  : Option Nat := none
  /-- A host read that enters the line into the directory (R379). -/
  enter : Bool := false
  /-- Order of admission: 3 × controller cycle + class (R303). -/
  adm  : Nat := 0
  /-- The first beat of a partial write has moved (R301). -/
  half : Bool := false
  deriving DecidableEq, Repr

/-- One controller port (R302). -/
structure HPort where
  /-- Admission queues of the classes, and the debug port's requests under 4. -/
  q    : SMap (List HReq) := []
  cmd  : List HReq := []
  arb  : ArbSt := {}
  /-- Refresh commands owed, and whether they raise the emergency request (R308). -/
  owed : Nat := 0
  em   : Bool := false
  /-- Reads used for centring (R314). -/
  used : Nat := 0
  /-- Controller cycle of its last slot. -/
  slot : Option Nat := none
  deriving DecidableEq, Repr

/-- The centring of one pin (R314). -/
structure HPin where
  /-- Used reads of the pseudo-channel at the pin's last examination. -/
  since : Nat := 0
  early : Nat := 0
  late  : Nat := 0
  /-- Steps from the start-up point. -/
  steps : Int := 0
  /-- The drift has been recorded. -/
  drift : Bool := false
  deriving DecidableEq, Repr

/-- A translation walk (R318). -/
structure Walk where
  entry : Option Nat := none
  stale : Bool := false
  /-- The streams that wait for it, as 16 × grid index + stream. -/
  who   : List Nat := []
  deriving DecidableEq, Repr

/-- A page fault whose notification is outstanding (R319). -/
structure PageFault where
  page : Nat
  addr : Nat
  tick : Nat
  deriving DecidableEq, Repr

/-- A remote request that this channel serves (R349). -/
structure Served where
  p    : Packet
  left : Nat
  data : SMap (List (BitVec 8)) := []
  /-- STATUS of the answer so far (R349). -/
  status : Nat := 0
  deriving DecidableEq, Repr

/-- The memory controller and the stack of a channel. -/
structure Hbm where
  /-- Bytes by offset in the channel's 64 GiB. -/
  mem   : Mem := []
  /-- Lines that hold the poison pattern (R312). -/
  poison : List Nat := []
  /-- Requests that wait at the share gate, in arrival order. -/
  gate  : List HReq := []
  /-- Memory-controller cycles: each port has one slot in each. -/
  mcy   : Nat := 0
  /-- Lines that scrub reads are to write back: line, bytes, and whether as poison (R313). -/
  wbs   : List (Nat × List (BitVec 8) × Bool) := []
  /-- Lines admitted in this window by class, and the window's budgets (R304). -/
  cnt   : List Nat := [0, 0, 0]
  bud   : List Nat := [0, 0, 0]
  /-- LEND of the window, its LEND_TB, and whether lending applies (R305). -/
  lend  : Bool := false
  lending : Bool := false
  ports : SMap HPort := []
  /-- Pins by 36 × pseudo-channel + pin. -/
  pins  : SMap HPin := []
  /-- Translation cache: the 8 ways of each of 128 sets as page and entry, most recently used first (R318). -/
  xlt   : SMap (List (Nat × Nat)) := []
  walks : SMap Walk := []
  /-- Pages whose entry a walk found with V = 0, and the streams, as 16 × grid index + stream, that waited for it. -/
  absent : SMap (List Nat) := []
  /-- Invalidation in progress and those that wait: a page, or all. -/
  invs  : List (Option Nat) := []
  /-- Transfers, by grid index and number, that a removed entry translated and that may still be outstanding (R318). -/
  invWait : List (Nat × Nat) := []
  faults : List PageFault := []
  /-- Host-line directory, oldest first, with whether BISnpInv has been sent (R379). -/
  dir   : List (Nat × Bool) := []
  /-- Answers to host accesses by tag: the bytes, and the poison bit. -/
  hostRd : SMap (List (BitVec 8) × Bool) := []
  served : SMap Served := []
  nextSid : Nat := 0
  /-- The stack failed to train at every rate (R299). -/
  failed : Bool := false
  deriving DecidableEq, Repr

/-- A flit (R333, R334). -/
structure Flit where
  ftype : Nat := 0
  vc    : Nat := 0
  cls   : Nat := 0
  sop   : Bool := false
  eop   : Bool := false
  vlen  : Nat := 0
  seq   : Nat := 0
  ack   : Nat := 0
  ackv  : Bool := false
  nak   : Bool := false
  crVc  : Nat := 0
  crCls : Nat := 0
  crCnt : Nat := 0
  body  : List (BitVec 8) := []
  deriving DecidableEq, Repr

/-- A packet that is leaving through a port: the bytes not yet sent. -/
structure Leaving where
  o     : OutPkt
  rest  : List (BitVec 8)
  first : Bool := true
  deriving DecidableEq, Repr

/-- A phase of a lane rotation that has been proposed (R365): physical lane, phase, the marker at which it begins, and
whether it has been accepted. -/
structure RotStep where
  lane  : Nat
  phase : Nat
  at_   : Nat
  acked : Bool := false
  deriving DecidableEq, Repr

/-- What becomes of a packet that is coming in: it is put together here, it passes through as transit packet `pid` to an egress
port, or its flits are discarded. -/
inductive AsmWay where
  | whole
  | passing (pid port : Nat)
  | dropped
  deriving DecidableEq, Repr

/-- A packet that is coming in on a VC and class: its header, the bytes and flits so far, and the place reserved in a FIFO. -/
structure Asm where
  way   : AsmWay
  p     : Packet
  bytes : List (BitVec 8) := []
  n     : Nat := 1
  resv  : Option (Nat × Nat) := none
  deriving DecidableEq, Repr

/-- What travels on the wires between two ports of the ring (R32): a training frame header on physical lane `kind` 0 to 4, or
on five lanes a marker slot, 5, or a flit slot, 6. -/
structure WireSlot where
  kind  : Nat
  lanes : List (List (BitVec 8))
  deriving DecidableEq, Repr

/-- One Chrobupra port: training, transmitter and receiver (R323 to R346, R364 to R366). -/
structure LPort where
  /-- Failed attempts in a row, the 10 ms wait after one, and a retrain in progress (R330, R341). -/
  tries : Nat := 0
  wait  : Bool := false
  again : Bool := false
  /-- A case of R341 waits to be acted on. -/
  due   : Bool := false
  /-- Physical lanes that the receiver has locked, equalised and found inverted, and its deskew; the peer's reports. -/
  rxLock : List Nat := []
  rxEq   : List Nat := []
  rxInv  : List Nat := []
  rxDesk : Bool := false
  peerLock : List Nat := []
  peerEq   : List Nat := []
  peerDesk : Bool := false
  /-- Physical lane named in each received lane's frames (R325). -/
  rxName : SMap Nat := []
  /-- Transmitter FFE taps by physical lane: pre, main, post; and the answer to the peer's last request (R329, R364). -/
  taps   : SMap (Int × Int × Int) := []
  coefSt : SMap Nat := []
  /-- Lanes retired by R366, which later trainings leave out. -/
  rxLost : List Nat := []
  /-- The piece of 64 bytes of a training frame that goes next, whether the frame's header carried DESKEW_DONE, and whether the
  transmitter sends flit slots (R329). -/
  piece  : Nat := 0
  frDesk : Bool := false
  flits  : Bool := false
  /-- INIT exchange and PONGs of T4 (R331, R332). -/
  initIn : Bool := false
  pongs  : Nat := 0
  latSum : Nat := 0
  /-- Flit slots since the last marker, and the next MCOUNT (R328). -/
  slot   : Nat := 0
  mcount : Nat := 0
  /-- Scrambler of each physical lane (R327). -/
  txScr  : List Nat := [0, 0, 0, 0, 0]
  /-- Flits of the FEC group being formed, and the bytes that last left on the physical lanes, slot by slot (R326, R336). -/
  txGroup : List (List (BitVec 8)) := []
  txOut   : List (List (List (BitVec 8))) := []
  /-- What P0 or P1 has sent and its neighbour has not yet received (R32), oldest first. -/
  wire    : List WireSlot := []
  /-- Transmit lanes that carry a copy or scrambled zeros by the peer's rotation (R365): the phase, lane and steps. -/
  txRot   : Nat := 0
  txRotLane : Nat := 7
  txPlan  : List RotStep := []
  seq    : Nat := 0
  /-- Replay buffer with the times each flit was sent in a row, the last ACK, and the SEQs still to be resent (R339, R340). -/
  held   : List (Flit × Nat) := []
  acked  : Option Nat := none
  replay : List Nat := []
  /-- LINK flits that wait: body, slots waited, and for a PONG the time of its PING (R345, R346). -/
  linkQ  : List (List (BitVec 8) × Nat × Nat) := []
  /-- Credits held and credits to return, by 2 × VC + class; slots for which some have waited (R343). -/
  credit : SMap Nat := []
  owed   : SMap Nat := []
  owedFor : Nat := 0
  arb    : ArbSt := {}
  /-- The arbiter may decide: the last slot it gave has been used (R345). -/
  open_  : Bool := true
  leaving : SMap Leaving := []
  /-- Source that last won the egress, by 2 × VC + class: 3 local, else the ingress port (R345). -/
  turn   : SMap Nat := []
  /-- Receiver: next expected SEQ, whether a flit has been accepted since INIT, the NAK state (R339, R340). -/
  exp    : Nat := 0
  any    : Bool := false
  /-- A flit has been accepted since the first training: LAST_SEQ of INIT is valid (R341, R346). -/
  got    : Bool := false
  nak    : Bool := false
  sendNak : Bool := false
  nakFor : Nat := 0
  rxScr  : List Nat := [0, 0, 0, 0, 0]
  rxGroup : List (List (BitVec 8)) := []
  /-- Packets that are coming in, by 2 × VC + class. -/
  asm    : SMap Asm := []
  /-- Accepted LINK flits that wait for their step. -/
  linkIn : List (List (BitVec 8)) := []
  /-- Markers in a row without PATTERN, by physical lane, and the last MCOUNT received (R328). -/
  missed : SMap Nat := []
  rxMark : Nat := 0
  /-- Rotation of the receive direction (R365): next logical lane, idle markers left, steps, spare's corrections. -/
  rotNext : Nat := 0
  rotGap  : Nat := 0
  rxPlan  : List RotStep := []
  /-- Leaky counters of FEC corrections by physical lane (R366), and lanes recalibrated in this window. -/
  leaky   : SMap Nat := []
  recal   : List Nat := []
  /-- Lane that goes next in rotation (R366). -/
  rotWant : Option Nat := none
  deriving DecidableEq, Repr

/-- Link and route state of a channel. -/
structure LinkSt where
  /-- Packets that have arrived whole for this channel, oldest first. -/
  inbox  : List Packet := []
  ports  : SMap LPort := []
  nextPid : Nat := 0
  /-- Packets that wait for an egress port, by port and VC. -/
  egress : SMap (List OutPkt) := []
  /-- Held local packets (R358), with their destination and the egress they wait for. -/
  held   : List OutPkt := []
  /-- Last egress choice by destination node, and destinations that settle. -/
  choice : SMap Nat := []
  settling : List Nat := []
  tracked : SMap Tracked := []
  /-- Requests that wait for a free tag. -/
  waiting : List (Packet × Tracked) := []
  fifos  : SMap Fifo := []
  /-- Landing pairs by 32 × grid index + pair. -/
  land   : SMap Landing := []
  /-- Last 16 fogs seen: origin and sequence (R354). -/
  fogs   : List (Nat × Nat) := []
  /-- Landing line writes outstanding, by source node (R352). -/
  landOut : SMap Nat := []
  deriving DecidableEq, Repr

/-! ### Contexts and the image's tables -/

/-- A calibrated scale-table entry of the image (R136), and what the keeper remembers of it. -/
structure CalEntry where
  g      : Nat
  /-- Table header line and entry. -/
  base   : Nat
  idx    : Nat
  /-- Source statistics lines in the same lantern, and the physical cores that write them. -/
  lines  : List Nat
  cores  : List Nat
  /-- Largest finite magnitude of the output format, an FP32 word. -/
  fmax   : Nat
  margin : Nat
  window : Nat
  /-- Largest SUMSQ of each of the last periods, newest first; periods in a row with a target below the current value;
  the saturation counts last seen. -/
  hist   : List Nat := []
  below  : Nat := 0
  sat    : List Nat := []
  deriving DecidableEq, Repr

/-- A sequence in compute (R255): its contexts. -/
structure Seqn where
  ctxs : List Nat
  deriving DecidableEq, Repr

/-- What the keeper holds about contexts beside their records, and the tables that the image gave it (R396). -/
structure CtxSt where
  /-- Contexts that have ever been locked, in ascending order: only they can leave FREE (R293). -/
  known  : List Nat := []
  /-- Sequences by slot. -/
  seqs   : SMap Seqn := []
  /-- Contexts whose deadline debt has been recorded (R290), and those marked for CTX_POLICY (R432). -/
  alarmed : List Nat := []
  taint  : List Nat := []
  /-- Contexts dispatched from their alternate plan (R262). -/
  alt    : List Nat := []
  /-- Keeper tables by 65,536 × placement + table number, context templates as CTX_CHAR and CTX_HBM, and the calibrated
  entries. -/
  tables : SMap (List (BitVec 8)) := []
  templates : SMap (Nat × Nat) := []
  cal    : List CalEntry := []
  /-- Write items that wait for a parked lantern, oldest first: context, sequence slot and item (R143). -/
  held   : List (Nat × Nat × List (BitVec 8)) := []
  /-- Scratchpad lines that are being loaded from their HBM copies: lantern and line (R265). -/
  loads  : List (Nat × Nat) := []
  /-- The keeper's copy of the image's sections (R431): type, PARAM and bytes. -/
  sects  : List (Nat × Nat × List (BitVec 8)) := []
  /-- The placement in force, and whether the module runs (R409). -/
  place  : Nat := 0
  run    : Bool := false
  /-- Progress of a placement order (R431): 1 the lanterns park, 2 the keeper has applied the placement and reported, 3 every
  keeper has. -/
  moving : Nat := 0
  /-- The timebase of the channel has begun a tick; the tick message that has arrived: count and port mask (R276, R355). -/
  ticking : Bool := false
  msg    : Option (Nat × Nat) := none
  /-- Time since the tick began, in 1/17 cycles of 250 MHz, and the channel's copy of P (R269, R277). -/
  tickTm : Nat := 0
  perP   : Nat := 500000
  deriving DecidableEq, Repr

/-! ### Power (R445 to R453) -/

/-- What a channel's power and temperature units hold beside their registers. -/
structure Pwr where
  /-- Operating point whose frequency the array clock has (R445). -/
  code   : Nat := 0
  /-- A change of the operating point is under way (R448): 1 the clock has not switched, 2 it is stopped for the switch,
  3 it has switched. -/
  stage  : Nat := 0
  /-- VCORE droops (R450). -/
  droop  : Bool := false
  /-- Part of the array cycle that has passed, of 1,700 (R445, R450). -/
  part   : Nat := 0
  /-- Consecutive samples at 105 °C or more (R453). -/
  hot    : Nat := 0
  /-- The neighbour temperature limit holds the cap (R452). -/
  diff   : Bool := false
  deriving DecidableEq, Repr

/-- One compute channel (R22, R24). -/
structure Channel where
  /-- Its wired number (R38). -/
  no     : Nat := 0
  regs   : Regs := {}
  /-- Array cycles since reset (R3). -/
  cyc    : Nat := 0
  /-- The array clock runs (R449). -/
  clkOn  : Bool := true
  /-- Running number of the free values this channel has used (log entry 4). -/
  fresh  : Nat := 0
  lans   : SMap Lantern := []
  err    : ErrSt := {}
  link   : LinkSt := {}
  hbm    : Hbm := {}
  ctx    : CtxSt := {}
  pwr    : Pwr := {}
  /-- Module number from the image (R40), and whether the image marks P2 unused (R33). -/
  module : Nat := 0
  p2Off  : Bool := false
  /-- Attachments that failed while they belonged to the lit half, with the time of the failure in ms, and whether the light has
  moved away within 8 ms of it (R28). -/
  attDue : List (Nat × Nat × Bool) := []
  /-- Attachments that have failed (R28). -/
  attOut : List Nat := []
  /-- The attachment that host traffic moves to once the accesses accepted on the old one are complete (R27). -/
  hostNext : Option Nat := none
  /-- The LEVEL word of the image in force, as the keeper holds it (R18, R20). -/
  lv     : Nat := 0
  /-- The bridge has told the channel that PERST_N is asserted: its translated accesses stop (R372). -/
  hostStop : Bool := false
  /-- Data last returned to each requester of a register or window read, by requester number. -/
  answer : SMap Nat := []
  /-- Contexts that overflowed a shape since the last period start (R262). -/
  ovfCtx : List Nat := []
  /-- Contexts that met a run-time value above their primary plan since the last period start (R262). -/
  overCtx : List Nat := []
  /-- Messages to the bridge that have not left yet. -/
  up     : List UpEv := []
  deriving DecidableEq, Repr

/-! ### Start-up and the light (R389 to R415) -/

/-- One bridge half (R401 to R405). Times count the 1 ms frame times since mask ROM started. -/
structure Half where
  /-- Result of the ROM self-test, and the frame time in which mask ROM started. -/
  test   : Option Bool := none
  start  : Nat := 0
  /-- ROLE and SEQ_HELD of the frames that it sends, and the frame it last sent with its time. -/
  role   : Nat := 0
  held   : Nat := 0
  line   : Nat := 0
  sentAt : Nat := 0
  /-- Last valid LIT frame that it has received from the other half. -/
  heard  : Option Nat := none
  /-- At the port select: the last valid frame's time and role, the valid LIT frames in a row, SEQ_HELD of the last, and the
  frames in a row at which the half qualified without the grant. -/
  last   : Option (Nat × Nat) := none
  run    : Nat := 0
  seq    : Nat := 0
  passed : Nat := 0
  /-- The watchdog has reset it, and the lit half has not yet passed it the image (R405). -/
  fresh  : Bool := false
  deriving DecidableEq, Repr

/-- A section of the image (R395). -/
structure Sect where
  ty    : Nat
  mask  : Nat
  param : Nat
  data  : List (BitVec 8)
  deriving DecidableEq, Repr

/-- The verified image (R393 to R398). -/
structure Image where
  seq    : Nat
  svn    : Nat
  floor  : Nat
  /-- IMAGE_DIGEST (R395), and the digests that the measurements give (R414). -/
  digest : List (BitVec 8)
  bridgeFw : List (BitVec 8)
  keeperFw : List (BitVec 8)
  config : List (BitVec 8)
  owner  : List (BitVec 8)
  sects  : List Sect
  deriving DecidableEq, Repr

/-- An answer of the DOE mailbox to an SPDM request (R414). -/
inductive SpdmAns where
  /-- VERSION: the SPDM version. -/
  | version (v : Nat)
  /-- CAPABILITIES: CERT_CAP, CHAL_CAP, and MEAS_CAP with signatures. -/
  | capabilities (cert chal meas : Bool)
  /-- ALGORITHMS. -/
  | algorithms (p256 sha256 : Bool)
  /-- DIGESTS of the slot 0 chain. -/
  | digests (d : List (BitVec 8))
  /-- CERTIFICATE: a part of the slot 0 chain. -/
  | certificate (part : List (BitVec 8)) (left : Nat)
  /-- CHALLENGE_AUTH: the digest of the chain, the nonce and the signature. -/
  | challenge (d nonce sig : List (BitVec 8))
  /-- MEASUREMENTS: indices with values, the nonce and the signature. -/
  | measurements (ms : List (Nat × List (BitVec 8))) (sig : List (BitVec 8))
  /-- ERROR Unspecified. -/
  | unspecified
  /-- ERROR UnsupportedRequest. -/
  | unsupported
  deriving DecidableEq, Repr

/-- An answer of the CXL device mailbox (R370). -/
inductive MboxAns where
  /-- Identify Memory Device: capacity in units of 256 MiB, volatile and persistent. -/
  | identify (volatile persistent : Nat)
  /-- The list of supported logs, as free content. -/
  | logs (data : Nat)
  | log (data : Nat)
  | health (data : Nat)
  /-- The return code Unsupported. -/
  | unsupported
  deriving DecidableEq, Repr

/-- What start-up, the flash interface and attestation hold beside the registers. -/
structure Boot where
  /-- MOD_RESET_N is asserted, or a supply has been removed (R389, R456). -/
  inReset : Bool := false
  /-- A supply is missing. -/
  noPower : Bool := false
  /-- Level of LIGHT_PREF. -/
  pref    : Nat := 0
  ms      : Nat := 0
  half0   : Half := {}
  half1   : Half := {}
  /-- The half that the port select grants, and whether it has granted before (R402). -/
  grant   : Option Nat := none
  granted : Bool := false
  /-- Contents of the two flash devices, each byte stored inverted, and whether they respond. -/
  flash   : SMap Mem := []
  dead    : List Nat := []
  /-- The flash command that runs: operation, device, address (R415). -/
  fcmd    : Option (Nat × Nat × Nat) := none
  /-- The page that a PROGRAM writes. -/
  fpage   : List (BitVec 8) := []
  image   : Option Image := none
  /-- Configuration requests are answered normally (R407). -/
  cfgOk   : Bool := false
  /-- Channels held in reset, those whose sections are applied, those that have reported calibration, and those that failed
  it (R398, R406, R408). -/
  resetCh : List Nat := []
  landed  : List Nat := []
  /-- MOD_RUN.GO has been written and the keepers load their blocks (R409). -/
  going   : Bool := false
  reported : List Nat := []
  failedCh : List Nat := []
  /-- AUTO_GO of MODULE_CFG, and the P2 ports in use (R33, R409). -/
  autoGo  : Bool := false
  p2      : Nat := 0
  /-- The module number that MODULE_CFG gives, which MOD_NODE shows once the configuration is distributed (R40). -/
  modNo   : Option Nat := none
  /-- Data of the records that MODULE_CFG gives the bridge, by table number. -/
  tables  : SMap (List (BitVec 8)) := []
  /-- A placement has been ordered after the loss of a channel: its number, the lost channel and the channels whose keepers
  have reported (R431). -/
  order   : Option (Nat × Nat × List Nat) := none
  /-- Consecutive samples of 10 µs in which a supply was out of limits, by 16 × channel + rail (R443). -/
  supply  : SMap Nat := []
  /-- Milliseconds in a row below 95 % of both limits (R454). -/
  lowMs   : Nat := 0
  /-- FOG_N: driven by this module; sensed low without a packet yet (R434, R435). -/
  fogOut  : Bool := false
  fogWait : Bool := false
  /-- Channels whose dump the lit half has copied to the host, and the bytes of the buffer used (R438). -/
  copied  : List Nat := []
  copyAt  : Nat := 0
  /-- The last SPDM answer and the last mailbox answer. -/
  spdm    : Option SpdmAns := none
  mbox    : Option MboxAns := none
  deriving DecidableEq, Repr

/-! ### The host port (R370 to R388) -/

/-- A host command that the bridge has read (R382, R383). -/
structure HCmd where
  id      : Nat
  entry   : List (BitVec 8)
  started : Bool := false
  /-- Lines of a MOVE that are not done, and STATUS so far. -/
  left    : Nat := 0
  status  : Nat := 0
  /-- Tick in which a CTX word was applied, and whether the keeper rejected it. -/
  tick    : Nat := 0
  deriving DecidableEq, Repr

/-- A completion or event entry that waits for its write: CID, TYPE, STATUS and PAYLOAD (R384). -/
structure HEntry where
  cid     : Nat
  type    : Nat
  status  : Nat
  payload : List (BitVec 8)
  deriving DecidableEq, Repr

/-- What the bridge holds of a ring pair beside its registers. -/
structure Ring where
  tail    : Nat := 0
  cpHead  : Nat := 0
  /-- Sizes in effect (R381). -/
  crLog   : Nat := 6
  cpLog   : Nat := 6
  stopped : Bool := false
  /-- Commands read and not complete, in ring order. -/
  cmds    : List HCmd := []
  /-- Completions that wait, in the order of completion. -/
  done    : List HEntry := []
  /-- Entries written and not yet signalled (R385). -/
  unsig   : Nat := 0
  /-- Entries from the completion head to the tail, as the dark half holds them (R386): index and bytes. -/
  mirror  : List (Nat × List (BitVec 8)) := []
  deriving DecidableEq, Repr

/-- The host port beside its registers. -/
structure HostPort where
  /-- PERST_N is asserted; the link trains (R371, R372, R407). -/
  perst   : Bool := false
  training : Bool := false
  /-- Configuration space and CXL registers as the host has written them, by offset. -/
  cfg     : SMap Nat := []
  cxl     : SMap Nat := []
  /-- MSI-X: table words by 4 × vector + word, pending vectors, the function mask, and the messages sent (R377). -/
  msix    : SMap Nat := []
  pba     : List Nat := []
  fmask   : Bool := false
  rings   : SMap Ring := []
  nextId  : Nat := 0
  /-- Command-ring lines in the device cache, by host address (R382). -/
  cache   : SMap (List (BitVec 8)) := []
  /-- Page-fault events that were dropped: channel and payload (R384). -/
  dropped : List (Nat × List (BitVec 8)) := []
  /-- Data last returned to each requester of a bridge access, by requester number. -/
  answer  : SMap Nat := []
  /-- The last answer to a configuration request: none is Configuration Request Retry Status (R407). -/
  cfgAns  : Option Nat := none
  /-- Answers to host reads of channels that cannot answer, by tag: poison (R378). -/
  poisoned : List Nat := []
  /-- Host writes by tag whose completion has been returned (R378). -/
  written : List Nat := []
  /-- The last translated access that left, and the translated writes whose response has not reached the channel: channel, grid
  index, transfer and line (R231, R317). -/
  xltSent : Option (HostKind × Nat) := none
  xltOut  : List (Nat × Nat × Nat × Nat) := []
  deriving DecidableEq, Repr


/-! ### The bridge -/

/-- The bridge timebase (R269 to R274), beside its registers. Times count cycles of 250 MHz. -/
structure Timebase where
  /-- Time of the last event. -/
  now    : Nat := 0
  /-- Time since then, in 1/17 cycles: an array cycle that passes is 5 of them (log entry 29). -/
  sub    : Nat := 0
  /-- Start of the tick in progress, in 1/16 cycles, once ticks have begun. -/
  tickAt : Option Nat := none
  /-- The last edge. -/
  last   : Option Nat := none
  /-- The last 16 accepted intervals (R269). -/
  ivals  : List Nat := List.replicate 16 31250
  /-- Consecutive accepted edges. -/
  good   : Nat := 0
  /-- Time at which EN was set (R274). -/
  enAt   : Nat := 0
  /-- The alarm of this holdover episode has been recorded, and the present run of misses has raised it (R272). -/
  alarmed : Bool := false
  rang   : Bool := false
  /-- Channels to which the message of the present tick has yet to go (R276). -/
  due    : List Nat := []
  /-- Hop count that its own markers carry, and the tick count that the last accepted marker carried (R278, R279). -/
  hops   : Nat := 0
  count  : Nat := 0
  deriving DecidableEq, Repr

/-- The bridge die: module registers and what both halves hold. -/
structure Bridge where
  regs   : Regs := {}
  /-- Pending records of the module ring (R422), and its next SEQ (R417). -/
  pend   : List PendRec := []
  modSeq : Nat := 0
  /-- A module-fatal record waits for the lit half (R434): its cause. -/
  fatalDue : Option Nat := none
  /-- Channel-fatal records that wait for the lit half (R431): channel and cause. -/
  lossDue : List (Nat × Nat) := []
  /-- Events that wait for their write to the event ring (R384, R421). -/
  events : List HEntry := []
  fresh  : Nat := 0
  tb     : Timebase := {}
  /-- ALERT_N is asserted (R272, R434, R435). -/
  alert  : Bool := false
  boot   : Boot := {}
  hp     : HostPort := {}
  /-- Host memory, as the device has written it (R317, R382 to R384). -/
  hostMem : Mem := []
  deriving DecidableEq, Repr

/-- Why the machine stops. -/
inductive Fault where
  /-- A command names a channel, lantern, core, port or other unit that the module does not have (R22, R30, R140).
  Raised by every meaning that names a unit; safe: no such command exists. -/
  | noSuchUnit
  deriving DecidableEq, Repr

/-- Why a command has no meaning. -/
inductive Refusal where
  /-- The command has no meaning in this model yet. Raised by an arm of `exec` only; safe. -/
  | notModelled (mnemonic : String)
  deriving DecidableEq, Repr

/-- The whole module and the queue of commands that wait, first in, first out. -/
structure State where
  pending : List Instr := []
  chans   : SMap Channel := []
  mod     : Bridge := {}
  deriving DecidableEq, Repr

/-- The machine right after reset (R9): every field holds its reset value, no memory lists a byte, and no command waits. -/
def State.reset : State where
  pending := []
  chans := []
  mod := {}

end Sys2Proof.Machine
end

