-- ==== Sys2Proof/Machine/Ops.lean ====
section
/-! DEFINITION. The named operations that every unit shares: register fields, the lenses from the module down to a core,
the raising of error records, and the wrapper each command's meaning stands in. -/

namespace Sys2Proof.Machine

/-! ### Register fields (R8 to R14) -/

/-- The storage key of a field. -/
def Fld.key (f : Fld) (n : Nat) : Nat := (f.base + f.stride * n) * 64 + f.lo

/-- The value a field holds: no more bits than the field has. -/
def Regs.get (r : Regs) (f : Fld) (n : Nat := 0) : Nat := r.cur.getD (f.key n) f.reset % 2 ^ f.wid

/-- Hardware stores a value in a field: it is in effect at once. -/
def Regs.store (r : Regs) (f : Fld) (n v : Nat) : Regs :=
  { r with cur := r.cur.put (f.key n) (v % 2 ^ f.wid), live := r.live.del (f.key n) }

/-- Notes that hardware has set bits of a field, or incremented it, in the cycle in progress (R11, R113). -/
def Regs.mark (r : Regs) (f : Fld) (n bits : Nat) : Regs :=
  { r with evs := r.evs.put (f.key n) (r.evs.getD (f.key n) 0 ||| bits) }

/-- Hardware writes a field. A `W1C` bit that it sets is an event of this cycle (R11). -/
def Regs.put (r : Regs) (f : Fld) (n v : Nat) : Regs :=
  if f.acc = .w1c ∧ v % 2 ^ f.wid ≠ 0 then (r.store f n v).mark f n v else r.store f n v

/-- Hardware sets bits of a `W1C` field, each an event of this cycle (R11). -/
def Regs.setBits (r : Regs) (f : Fld) (n bits : Nat) : Regs := (r.store f n (r.get f n ||| bits)).mark f n bits

/-- What a counter holds after `k` increments: it stops at its largest value, and a counter cleared in this cycle ends at 1
(R113). -/
def Regs.plus (r : Regs) (f : Fld) (n k : Nat) : Nat :=
  if k = 0 then r.get f n
  else if r.clrs.contains (f.key n) then 1
  else satAdd f.wid (r.get f n) k

/-- Hardware adds to a counter (R113). -/
def Regs.inc (r : Regs) (f : Fld) (n k : Nat) : Regs :=
  if k = 0 then r else (r.store f n (r.plus f n k)).mark f n 1

/-- The value in effect of a live field: a value written in this tick is not in effect before the next (R12). -/
def Regs.eff (r : Regs) (f : Fld) (n : Nat := 0) : Nat :=
  match r.live.find (f.key n) with
  | some v => v % 2 ^ f.wid
  | none => r.get f n

/-- The value waiting in a shadow, or the value in effect (R6, R475). -/
def Regs.waiting (r : Regs) (f : Fld) (n : Nat := 0) : Nat :=
  match r.shadow.find (f.key n) with
  | some v => v % 2 ^ f.wid
  | none => r.get f n

/-- Every shadow of the block is copied into its field (R13). -/
def Regs.copyShadows (r : Regs) : Regs :=
  { r with cur := r.shadow.foldl (fun m kv => m.put kv.1 kv.2) r.cur, shadow := [] }

/-- Every shadow whose key lies in the given range is copied into its field (R13). -/
def Regs.copyShadowsIn (r : Regs) (lo hi : Nat) : Regs :=
  let inn := fun (kv : Nat × Nat) => decide (lo ≤ kv.1) && decide (kv.1 < hi)
  { r with cur := (r.shadow.filter inn).foldl (fun m kv => m.put kv.1 kv.2) r.cur,
           shadow := r.shadow.filter (fun kv => !inn kv) }

/-- At the start of a tick the values written in the tick before take effect (R12). -/
def Regs.tickStart (r : Regs) : Regs := { r with live := [] }

/-- CLR_CNT clears a counter: one that has incremented in this cycle ends at 1 (R113). -/
def Regs.clear1 (r : Regs) (f : Fld) (n : Nat) : Regs :=
  { r.store f n (if (r.evs.find (f.key n)).isSome then 1 else 0) with clrs := f.key n :: r.clrs }

/-- The counters named are cleared (R113). -/
def Regs.clear (r : Regs) (fs : List Fld) (n : Nat) : Regs := fs.foldl (fun r f => r.clear1 f n) r

/-- A new cycle begins: the events of the last one are past (R11, R113). -/
def Regs.newCycle (r : Regs) : Regs := { r with evs := [], clrs := [] }

/-! ### Lenses -/

/-- A channel at reset: its number is wired (R38). -/
def Channel.init (c : Nat) : Channel := { no := c }

/-- A channel of the module. -/
def State.chan (s : State) (c : Nat) : Channel := s.chans.getD c (Channel.init c)

/-- A lantern of a channel. -/
def Channel.lan (ch : Channel) (g : Nat) : Lantern := ch.lans.getD g {}

/-- Replaces a lantern. -/
def Channel.setLan (ch : Channel) (g : Nat) (l : Lantern) : Channel := { ch with lans := ch.lans.put g l }

/-- Applies `f` to a lantern. -/
def Channel.modLan (ch : Channel) (g : Nat) (f : Lantern → Lantern) : Channel := ch.setLan g (f (ch.lan g))

/-- A physical core of a lantern. -/
def Lantern.core (l : Lantern) (k : Nat) : SparseCore := l.cores.getD k {}

/-- Applies `f` to a physical core. -/
def Lantern.modCore (l : Lantern) (k : Nat) (f : SparseCore → SparseCore) : Lantern :=
  { l with cores := l.cores.put k (f (l.core k)) }

/-- A bank of a lantern's scratchpad. -/
def Lantern.bank (l : Lantern) (b : Nat) : Bank := l.banks.getD b {}

/-- Applies `f` to a bank. -/
def Lantern.modBank (l : Lantern) (b : Nat) (f : Bank → Bank) : Lantern :=
  { l with banks := l.banks.put b (f (l.bank b)) }

/-- A lantern register field. -/
def Lantern.r (l : Lantern) (f : Fld) (n : Nat := 0) : Nat := l.regs.get f n
/-- A lantern register field in effect (R12). -/
def Lantern.eff (l : Lantern) (f : Fld) (n : Nat := 0) : Nat := l.regs.eff f n
/-- Hardware writes a lantern register field. -/
def Lantern.w (l : Lantern) (f : Fld) (n v : Nat) : Lantern := { l with regs := l.regs.put f n v }
/-- Hardware adds to a lantern counter. -/
def Lantern.inc (l : Lantern) (f : Fld) (n k : Nat) : Lantern := { l with regs := l.regs.inc f n k }

/-- A channel register field. -/
def Channel.r (ch : Channel) (f : Fld) (n : Nat := 0) : Nat := ch.regs.get f n
/-- A channel register field in effect (R12). -/
def Channel.eff (ch : Channel) (f : Fld) (n : Nat := 0) : Nat := ch.regs.eff f n
/-- Hardware writes a channel register field. -/
def Channel.w (ch : Channel) (f : Fld) (n v : Nat) : Channel := { ch with regs := ch.regs.put f n v }
/-- The tick in progress (R276). -/
def Channel.tick (ch : Channel) : Nat := ch.r F.CH_TICK_TICK
/-- The phase of that tick. -/
def Channel.phase (ch : Channel) : Nat := ch.r F.CH_TICK_PHASE
/-- Hardware adds to a channel counter. -/
def Channel.inc (ch : Channel) (f : Fld) (n k : Nat) : Channel := { ch with regs := ch.regs.inc f n k }

/-- Hardware writes a register field of the lantern `g`. -/
def Channel.lw (ch : Channel) (g : Nat) (f : Fld) (n v : Nat) : Channel := ch.modLan g (·.w f n v)
/-- Hardware adds to a counter of the lantern `g`. -/
def Channel.linc (ch : Channel) (g : Nat) (f : Fld) (n k : Nat) : Channel := ch.modLan g (·.inc f n k)
/-- Applies `f` to core `k` of the lantern `g`. -/
def Channel.modCore (ch : Channel) (g k : Nat) (f : SparseCore → SparseCore) : Channel := ch.modLan g (·.modCore k f)

/-- A message to the bridge. -/
def Channel.tell (ch : Channel) (e : UpEv) : Channel := { ch with up := ch.up ++ [e] }

/-- The channel's next free value of `w` bits (log entry 4), and the channel with its counter advanced. -/
def Channel.freeVal (ch : Channel) (w : Nat) : Nat × Channel :=
  (Config.free ch.no ch.fresh % 2 ^ w, { ch with fresh := ch.fresh + 1 })

/-! ### Error records (R417 to R427) -/

/-- UNIT of a record (R418). -/
def unitWord (c kind g sub sub2 : Nat) : Nat :=
  kind + (g / 48) <<< 4 + (g % 48) <<< 9 + sub <<< 15 + sub2 <<< 21 + c <<< 26

/-- The class of a cause code (R419): 0 corrected, 1 contained, 2 channel-fatal, 3 module-fatal. -/
def causeClass (cause : Nat) : Nat :=
  if 0xE0 ≤ cause then 3
  else if 0xC0 ≤ cause then 2
  else if [0x0B, 0x0C, 0x0E, 0x28, 0x40, 0x41, 0x44, 0x45, 0x60, 0x62, 0x63, 0x64, 0x80, 0x81, 0x82, 0x83, 0x84, 0x88,
           0x89, 0xA0, 0xA2, 0xA4, 0xA6, 0xA8, 0xAA, 0xAB, 0xAC, 0xAF].contains cause then 0
  else 1

/-- The kind of unit whose leaky count a cause advances (R419): 1 slice, 2 core, 3 lantern. -/
def causeHealth (cause : Nat) : Option Nat :=
  if cause = 0xA0 ∨ cause = 0xA1 then some 1
  else if 0xA2 ≤ cause ∧ cause ≤ 0xA5 then some 2
  else if 0xA6 ≤ cause ∧ cause ≤ 0xA9 then some 3
  else none

/-- The threshold of a kind of unit (R427). -/
def Channel.threshold (ch : Channel) (kind : Nat) : Nat :=
  if kind = 1 then ch.r F.ERR_CFG_TH_SLICE
  else if kind = 2 then ch.r F.ERR_CFG_TH_CORE
  else ch.r F.ERR_CFG_TH_LANTERN

/-- The UNIT whose count an event of `unit` advances: vector engine and scratchpad events count for their lantern
(R419, R427). -/
def healthUnit (kind unit : Nat) : Nat :=
  if kind = 3 then unit - unit % 16 + 3 - ((unit >>> 15) % 2 ^ 11) <<< 15 else unit

/-- A health event: the new count, whether it has reached the threshold (R417), and whether this event brings it there
(R427). -/
def Channel.healthEvent (ch : Channel) (cause unit : Nat) : Channel × Nat × Bool × Bool :=
  match causeHealth cause with
  | none => (ch, 0, false, false)
  | some k =>
    let u := healthUnit k unit
    let old := ch.err.health.getD u 0
    let th := ch.threshold k
    let new := satAdd 8 old 1
    let new := if causeClass cause = 1 then max new th else new
    ({ ch with err := { ch.err with health := ch.err.health.put u new } }, new, decide (th ≤ new),
      decide (old < th) && decide (th ≤ new))

/-- The four 64-bit words of a record (R417). -/
def recordWords (seq cls raised cause : Nat) (esc : Bool) (ctx : Option Nat) (tick phase unit health detail : Nat) : List Nat :=
  let cl := cls + raised <<< 2 + (b2n esc) <<< 4
  let cx := match ctx with
    | some i => i % 1024 + 0x8000
    | none => 0
  [ seq % 2 ^ 32 + cl <<< 32 + cause <<< 40 + cx <<< 48,
    tick % 2 ^ 48 + (phase % 1024) <<< 48,
    unit + health <<< 32,
    detail % 2 ^ 64 ]

/-- Writes four words into a repeated 64-bit field, from entry `n`. -/
def Regs.putWords (r : Regs) (f : Fld) : Nat → List Nat → Regs
  | _, [] => r
  | n, w :: ws => Regs.putWords (r.put f n w) f (n + 1) ws

/-- Records not yet taken (R439). -/
def Channel.entries (ch : Channel) : Nat := ch.r F.ERR_STATUS_ENTRIES

/-- Puts a record at the tail of the ring and numbers it (R421). -/
def Channel.ringPut (ch : Channel) (ws : List Nat) : Channel :=
  let t := ch.r F.ERR_RING_PTR_TAIL
  let ch := { ch with regs := ch.regs.putWords F.ERR_RING_REC (4 * (t % 64)) ws }
  let ch := ch.w F.ERR_RING_PTR_TAIL 0 (t + 1)
  let ch := ch.w F.ERR_SEQ_NEXT 0 (ch.r F.ERR_SEQ_NEXT + 1)
  ch.w F.ERR_STATUS_ENTRIES 0 (ch.entries + 1)

/-- A channel-fatal record (R425): the first goes to ERR_FATAL_REC, and to the ring when it has room. -/
def Channel.fatalRecord (ch : Channel) (ws : List Nat) (cause : Nat) (p : PendRec) : Channel :=
  if ch.r F.ERR_STATUS_FATAL = 1 then ch.inc F.ERR_LOST_CNT_COUNT 0 1
  else
    let ch := { ch with regs := ch.regs.putWords F.ERR_FATAL_REC_REC 0 ws }
    let ch := { ch with err := { ch.err with pend := ch.err.pend ++ [p] } }
    let ch := if ch.entries < 64 then ch.ringPut ws
      else ch.inc F.ERR_LOST_CNT_COUNT 0 1
    (ch.w F.ERR_STATUS_FATAL 0 1).tell (.fatal cause)

/-- A contained record with a valid CTX taints that context's current period (R432). -/
def Channel.taintCtx (ch : Channel) : Option Nat → Channel
  | some n => if ch.ctx.taint.contains n then ch else { ch with ctx := { ch.ctx with taint := ch.ctx.taint ++ [n] } }
  | none => ch

/-- A unit raises a record into its channel's ring, with health counting, escalation and overflow applied
(R420 to R427). A module-fatal cause is handed to the bridge. -/
def Channel.raise (ch : Channel) (cause unit : Nat) (ctx : Option Nat) (detail : Nat) : Channel :=
  let (ch, l, reached, lasting) := ch.healthEvent cause unit
  let raised := min (causeClass cause) 2
  let esc := ch.err.pend.any (fun p => p.unit == unit) && !(cause == 0xA7 && ch.err.pend.any (fun p => p.unit == unit && p.cause == 0xA7 && p.detail == detail))
  let cls := if esc then min (raised + 1) 2 else raised
  let ch := if esc then ch.inc F.ERR_ESC_CNT_COUNT 0 1 else ch
  let seq := ch.r F.ERR_SEQ_NEXT
  let health := l + (b2n reached) <<< 8
  let ws := recordWords seq cls raised cause esc ctx ch.tick ch.phase unit health detail
  let p : PendRec := { seq := seq, unit := unit, cause := cause, cls := cls, ctx := ctx, detail := detail,
                       lasting := lasting }
  if ch.r F.ERR_STATUS_FATAL = 1 then ch.inc F.ERR_LOST_CNT_COUNT 0 1
  else if cls = 2 then ch.fatalRecord ws cause p
  else if 64 ≤ ch.entries then
    let ch := (ch.inc F.ERR_LOST_CNT_COUNT 0 1).w F.ERR_STATUS_OVF 0 1
    let u0 := unitWord ch.no 0 0 0 0
    let ws := recordWords seq 2 2 0xC3 false none ch.tick ch.phase u0 0 0
    ch.fatalRecord ws 0xC3 { seq := seq, unit := u0, cause := 0xC3, cls := 2, ctx := none, lasting := false }
  else
    let ch := ch.ringPut ws
    let ch := { ch with err := { ch.err with pend := ch.err.pend ++ [p] } }
    let ch := if cls = 1 then ch.taintCtx ctx else ch
    ch.inc (if cls = 0 then F.ERR_CE_CNT_COUNT else F.ERR_CT_CNT_COUNT) 0 1

/-- A record that a per-tick limit allows once a tick for the given key (R154); the health count advances even when the
record is suppressed (R427). -/
def Channel.raiseOnce (ch : Channel) (key cause unit : Nat) (ctx : Option Nat) (detail : Nat) : Channel :=
  if ch.err.once.contains key then (ch.healthEvent cause unit).1
  else ({ ch with err := { ch.err with once := key :: ch.err.once } }).raise cause unit ctx detail

/-- The key of a per-tick limit: a cause and a place. -/
def onceKey (cause place : Nat) : Nat := place * 256 + cause

/-! ### The bridge's side of the attachments -/

/-- A bridge register field. -/
def Bridge.r (b : Bridge) (f : Fld) (n : Nat := 0) : Nat := b.regs.get f n
/-- Hardware writes a bridge register field. -/
def Bridge.w (b : Bridge) (f : Fld) (n v : Nat) : Bridge := { b with regs := b.regs.put f n v }
/-- Hardware adds to a bridge counter. -/
def Bridge.inc (b : Bridge) (f : Fld) (n k : Nat) : Bridge := { b with regs := b.regs.inc f n k }

/-- The bridge counts an access that R7 or R471 discarded or answered with 0 (R474). `chan` is 15 for the bridge block
and the reserved ranges. -/
def Bridge.miss (b : Bridge) (chan addr req : Nat) (wr narrow misal : Bool) : Bridge :=
  let b := b.inc F.MOD_DECODE_MISS_CNT_COUNT 0 1
  let b := b.w F.MOD_DECODE_LAST_ADDR 0 addr
  let b := b.w F.MOD_DECODE_LAST_REQ 0 req
  let b := b.w F.MOD_DECODE_LAST_WRITE 0 (b2n wr)
  let b := b.w F.MOD_DECODE_LAST_NARROW 0 (b2n narrow)
  let b := b.w F.MOD_DECODE_LAST_CHAN 0 chan
  b.w F.MOD_DECODE_LAST_MISALIGNED 0 (b2n misal)

/-- Puts a record into the module ring (R421). -/
def Bridge.ringPut (b : Bridge) (ws : List Nat) : Bridge :=
  let t := b.r F.ERR_MOD_RING_PTR_TAIL
  let b := { b with regs := b.regs.putWords F.ERR_MOD_RING_REC (4 * (t % 64)) ws, modSeq := b.modSeq + 1 }
  let b := b.w F.ERR_MOD_RING_PTR_TAIL 0 (t + 1)
  b.w F.ERR_MOD_STATUS_ENTRIES 0 (b.r F.ERR_MOD_STATUS_ENTRIES + 1)

/-- The bridge, the timebase, an attachment or the lit half raises a record into the module ring (R421, R424 to R426). -/
def Bridge.raise (b : Bridge) (cause unit detail : Nat) : Bridge :=
  let raised := if causeClass cause = 2 then 1 else causeClass cause
  let esc := b.pend.any (fun p => p.unit == unit)
  let cls := if !esc then raised else if raised = 0 then 1 else 3
  let ws := recordWords b.modSeq cls raised cause esc none (b.r F.TB_TICK_TICK) (b.r F.TB_TICK_PHASE) unit 0 detail
  let p : PendRec := { seq := b.modSeq, unit := unit, cause := cause, cls := cls, ctx := none, lasting := false }
  let full := decide (64 ≤ b.r F.ERR_MOD_STATUS_ENTRIES)
  if cls = 3 then
    if b.r F.ERR_MOD_STATUS_MOD_FATAL = 1 ∨ b.fatalDue.isSome then b.inc F.ERR_MOD_DROP_CNT_COUNT 0 1
    else
      let b := { b with regs := b.regs.putWords F.ERR_MOD_FATAL_REC_REC 0 ws, fatalDue := some cause,
                        pend := b.pend ++ [p] }
      if full then b.inc F.ERR_MOD_DROP_CNT_COUNT 0 1 else b.ringPut ws
  else if full then (b.inc F.ERR_MOD_DROP_CNT_COUNT 0 1).w F.ERR_MOD_STATUS_OVF 0 1
  else { b with pend := b.pend ++ [p] }.ringPut ws

/-- A bridge register field in effect (R12). -/
def Bridge.eff (b : Bridge) (f : Fld) (n : Nat := 0) : Nat := b.regs.eff f n

/-- The host port of the bridge. -/
def Bridge.modHp (b : Bridge) (f : HostPort → HostPort) : Bridge := { b with hp := f b.hp }
/-- Start-up state of the bridge. -/
def Bridge.modBoot (b : Bridge) (f : Boot → Boot) : Bridge := { b with boot := f b.boot }

/-- A ring pair. -/
def Bridge.ring (b : Bridge) (r : Nat) : Ring := b.hp.rings.getD r {}
/-- Applies `f` to a ring pair. -/
def Bridge.modRing (b : Bridge) (r : Nat) (f : Ring → Ring) : Bridge :=
  b.modHp fun h => { h with rings := h.rings.put r (f (b.ring r)) }

/-- PAYLOAD of an event (R384): 48 bytes. -/
def eventPayload : Nat → List Nat → List (BitVec 8)
  | 1, [c, page, addr] => fitTo 48 0 (toBytes 4 c ++ toBytes 4 page ++ toBytes 8 addr)
  | 3, [half, count] => fitTo 48 0 (toBytes 2 half ++ toBytes 2 count)
  | _, ws => fitTo 48 0 (ws.flatMap (toBytes 8))

/-- An event is dropped (R384). A page fault is kept for the next tick. -/
def Bridge.dropEvent (b : Bridge) (kind : Nat) (payload : List (BitVec 8)) : Bridge :=
  let b := (b.inc F.HP_EVT_DROP_CNT_COUNT 0 1).w F.HP_STATUS_EVT_OVF 0 1
  if kind = 1 then b.modHp fun h => { h with dropped := h.dropped ++ [(ofBytes (payload.take 4), payload)] } else b

/-- An event for the host is raised (R372, R384). -/
def Bridge.eventPut (b : Bridge) (kind : Nat) (p : List (BitVec 8)) : Bridge :=
  if b.hp.perst || b.eff F.HP_EVT_EN == 0 then b.dropEvent kind p
  else { b with events := b.events ++ [{ cid := 0, type := kind, status := 0, payload := p }] }

/-- An event is raised with the given words (R384). -/
def Bridge.event (b : Bridge) (kind : Nat) (ws : List Nat) : Bridge := b.eventPut kind (eventPayload kind ws)

/-- Argument bytes of a command entry (R383). -/
def HCmd.arg (x : HCmd) (at_ n : Nat) : Nat := ofBytes ((x.entry.drop at_).take n)

/-- Applies `f` to a command of a ring pair. -/
def Bridge.modCmd (b : Bridge) (r id : Nat) (f : HCmd → HCmd) : Bridge :=
  b.modRing r fun q => { q with cmds := q.cmds.map fun x => if x.id = id then f x else x }

/-- A command of a ring pair completes (R383, R384): QUIET suppresses the completion of STATUS 0. -/
def Bridge.complete (b : Bridge) (r : Nat) (x : HCmd) (status : Nat) (payload : List (BitVec 8)) : Bridge :=
  let b := (b.inc F.HP_CMD_CNT_COUNT 0 1).modRing r fun q => { q with cmds := q.cmds.filter fun y => y.id != x.id }
  if status = 0 ∧ isSet (x.arg 1 1) 1 then b
  else b.modRing r fun q =>
    { q with done := q.done ++ [{ cid := x.arg 2 2, type := 0, status := status, payload := payload }] }

/-- A line of a MOVE is done, and with the last one the command (R383). -/
def Bridge.moveLine (b : Bridge) (r id idx : Nat) (data : Option (List (BitVec 8))) (bad : Bool) : Bridge :=
  match (b.ring r).cmds.find? (fun x => x.id == id) with
  | none => b
  | some x =>
    let b := match data with
      | some d => { b with hostMem := b.hostMem.wrN (x.arg 0x08 8 + 64 * idx) d }
      | none => b
    let status := if bad then 5 else x.status
    if x.left ≤ 1 then b.complete r x status [] else b.modCmd r id fun x => { x with left := x.left - 1, status := status }

/-- An entry of MOD_PWR_LOG (R458). -/
def Bridge.pwrLog (b : Bridge) (c reason op : Nat) : Bridge :=
  (((b.w F.MOD_PWR_LOG_TICK 0 (b.r F.TB_TICK_TICK)).w F.MOD_PWR_LOG_CHAN 0 c).w F.MOD_PWR_LOG_REASON 0 reason).w
    F.MOD_PWR_LOG_NEW_OP 0 op

/-- Table word `w` of a vector: address low and high, data, vector control, whose mask bit is set after reset. -/
def Bridge.msixWord (b : Bridge) (vec w : Nat) : Nat := b.hp.msix.getD (4 * vec + w) (if w = 3 then 1 else 0)

/-- The vector's message may be sent. -/
def Bridge.unmasked (b : Bridge) (vec : Nat) : Bool := b.msixWord vec 3 % 2 == 0 && !b.hp.fmask

/-- A vector is signalled (R377): its message is written to host memory, or its pending bit is set. -/
def Bridge.signal (b : Bridge) (vec : Nat) : Bridge :=
  if b.hp.perst then b
  else if b.unmasked vec then
    let a := b.msixWord vec 0 + b.msixWord vec 1 * 2 ^ 32
    { b with hostMem := b.hostMem.wrN a (toBytes 4 (b.msixWord vec 2)) }
  else b.modHp fun h => { h with pba := if h.pba.contains vec then h.pba else h.pba ++ [vec] }

/-- The bridge takes one message of a channel. -/
def Bridge.takeUp (b : Bridge) (c : Nat) : UpEv → Bridge
  | .miss a q w n m => b.miss c a q w n m
  | .modRecord cause unit detail => b.raise cause unit detail
  | .forward ws => b.event 2 ws
  | .fatal cause => { b with lossDue := b.lossDue ++ [(c, cause)] }
  | .event k p => b.event k p
  | .moved r id idx d bad => b.moveLine r id idx d bad
  | .pwrLog reason op => b.pwrLog c reason op
  | .hostAck tag => b.modHp fun h => { h with written := h.written ++ [tag] }
  | .msix v => b.signal v
  | .hostRd k a => b.modHp fun h => { h with xltSent := some (k, a) }
  | .hostWr k a d m who => ({ b with hostMem := b.hostMem.wrMask a d m } : Bridge).modHp fun h =>
      { h with xltSent := some (k, a), xltOut := h.xltOut ++ [(c, who)] }
  | .biSnp => b.inc F.HP_BI_SNP_CNT_COUNT 0 1
  | .biTmo => b.inc F.HP_BI_TMO_CNT_COUNT 0 1
  | .hostPoison => b.inc F.HP_POISON_CNT_COUNT 0 1

/-! ### The wrapper of a command -/

/-- Puts a channel back and lets the bridge take the messages it has sent. -/
def State.setChan (s : State) (c : Nat) (ch : Channel) : State :=
  { s with chans := s.chans.put c { ch with up := [] },
           mod := ch.up.foldl (fun b e => b.takeUp c e) s.mod }

/-- The outcome type of every meaning. -/
abbrev Out := Host.Outcome State Fault Refusal

/-- Channel `c` is held in reset or powered down: it does nothing (R34, R389, R398, R399, R455). -/
def Bridge.holds (b : Bridge) (c : Nat) : Bool :=
  b.boot.inReset || b.boot.resetCh.contains c || (b.r F.MOD_CH_OFF_OFF).testBit c

/-- The meaning of a command that acts inside channel `c` alone (R24). -/
def State.onChan (s : State) (c : Nat) (f : Channel → Channel) : Out :=
  if c < 12 then (if s.mod.holds c then .next s else .next (s.setChan c (f (s.chan c)))) else .fault .noSuchUnit

/-- The meaning of a command that acts on the bridge alone: while the module is in reset nothing happens (R389). -/
def State.onMod (s : State) (f : Bridge → Bridge) : Out :=
  if s.mod.boot.inReset then .next s else .next { s with mod := f s.mod }

/-- The meaning of a command of the lit half that acts on the whole module. -/
def State.onAll (s : State) (f : State → State) : Out :=
  if s.mod.boot.inReset then .next s else .next (f s)

/-- The meaning of a command about channel `c` that also acts outside it. -/
def State.onUnit (s : State) (c : Nat) (f : State → State) : Out :=
  if c < 12 then (if s.mod.holds c then .next s else .next (f s)) else .fault .noSuchUnit

/-- Applies `f` to every channel that is not held in reset or powered down, in ascending order. -/
def State.eachChan (s : State) (f : Nat → Channel → Channel) : State :=
  (upto 12).foldl (fun s c => if s.mod.holds c then s else s.setChan c (f c (s.chan c))) s

/-- As `onChan`, for a unit of the array and lantern domain: while the array clock is stopped the unit holds its state
(R449). -/
def State.onArray (s : State) (c : Nat) (f : Channel → Channel) : Out :=
  s.onChan c fun ch => if ch.clkOn then f ch else ch

/-- The meaning of a command to lantern `g` of channel `c` (R30). -/
def State.onLan (s : State) (c g : Nat) (f : Channel → Channel) : Out :=
  if g < 1536 then s.onArray c f else .fault .noSuchUnit

/-- The meaning of a command to physical core `k` of lantern `g` of channel `c` (R140). -/
def State.onCore (s : State) (c g k : Nat) (f : Channel → Channel) : Out :=
  if k < 64 then s.onLan c g f else .fault .noSuchUnit

/-- Table number of a context's dispatch template, and of its alternate plan (R262, log entry 24). -/
def CtxSt.tableOf (x : CtxSt) (plan : Nat) (alt : Bool) : Nat := x.place * 65536 + plan + (if alt then 256 else 0)

end Sys2Proof.Machine
end

