-- ==== Sys2Proof/Machine/Scale.lean ====
section
/-! DEFINITION. What lies in a scratchpad beside plain data: second-level scale tables (R55, R57, R58), and the write of
a line. -/

namespace Sys2Proof.Machine

/-- Bytes as a read delivers them: the 8 bytes of an uncorrectable word are zero (R420). -/
def Lantern.spSee (l : Lantern) (a n : Nat) : List (BitVec 8) :=
  (rangeFrom a n).map fun x => if l.spBad.contains (x / 8) then 0 else l.sp.rd x

/-- Bit 0 of ACTIVE, as the header at a line holds it (R57). -/
def Lantern.slActive (l : Lantern) (base : Nat) : Nat := (l.sp.rd (64 * base + 4)).toNat % 2

/-- The copy in use: the one that ACTIVE named at the start of its owner's current period (R58). -/
def Lantern.slCopy (l : Lantern) (base : Nat) : Nat := l.slHold.getD base (l.slActive base)

/-- Entry `idx` of the copy in use; an index that is not below COUNT, or an entry past line 4,095, reads as 0 and is
counted by its reader (R57). -/
def Lantern.slEntry (l : Lantern) (base idx : Nat) : Int × Bool :=
  let n := ofBytes (l.spSee (64 * base) 4)
  let a := 64 * (base + 1) + l.slCopy base * alignUp n 64 + idx
  if n ≤ idx ∨ 262144 ≤ a then (0, true) else (sext 8 (ofBytes (l.spSee a 1)), false)

/-- Writes the masked bytes of a line (R145). A word that the mask covers is good again (R420), and the ACTIVE bit that
was in use stays in use for its owner's period (R58). -/
def Lantern.spWrite (l : Lantern) (line : Nat) (data : List (BitVec 8)) (mask : List Bool) : Lantern :=
  let old := l.slActive line
  let covered := (upto 8).filter fun w => (fitTo 8 false ((mask.drop (8 * w)).take 8)).all id
  let bad := l.spBad.filter fun x => !(x / 8 == line && covered.contains (x % 8))
  let l := { l with sp := l.sp.wrMask (64 * line) data mask, spBad := bad }
  if l.slActive line ≠ old ∧ (l.slHold.find line).isNone then { l with slHold := l.slHold.put line old } else l

/-- Headers of the scale tables that the lantern's units read (R76, R121, R205): the SL_BASE of every format word with SL set, of
every format word through which a drain parameter names a table, and of every table that VSLE has read. -/
def Lantern.slTables (l : Lantern) : List Nat :=
  let base := fun (n : Nat) => l.r F.LN_FMT_SL_BASE n
  let own := (upto 64).filterMap fun n => if l.r F.LN_FMT_SL n = 1 then some (base n) else none
  let a := (upto 64).filterMap fun n =>
    if l.r F.LN_DPARAM_LO_A_SL_EN n = 1 then some (base (l.r F.LN_DPARAM_LO_A_SLFMT n)) else none
  let b := (upto 64).filterMap fun n =>
    if l.r F.LN_DPARAM_LO_B_SL_EN n = 1 then some (base (l.r F.LN_DPARAM_LO_B_SLFMT n)) else none
  (own ++ a ++ b ++ l.ve.slSeen).eraseDups

/-- A byte of the scratchpad lies in the header or in a copy of one of the tables (R57). -/
def Lantern.inTable (l : Lantern) (bases : List Nat) (a : Nat) : Bool :=
  bases.any fun b =>
    decide (64 * b ≤ a) && decide (a < 64 * (b + 1) + 2 * alignUp (ofBytes (l.spSee (64 * b) 4)) 64)

/-- OWNER of a table (R57). -/
def Lantern.slOwner (l : Lantern) (base : Nat) : Nat := l.sp.rdNat (64 * base + 6) 2

/-- The boundary of an owner (R58): of its tables, those that units read and those at `cal`, a pending one exchanges ACTIVE and
clears PENDING, and the copy in use is again the one that ACTIVE names. -/
def Lantern.slBoundary (l : Lantern) (cal : List Nat) (owner : Nat) : Lantern :=
  let l := (l.slTables ++ cal).eraseDups.foldl (fun l b =>
    let p := (l.sp.rd (64 * b + 5)).toNat
    if l.slOwner b = owner ∧ p % 2 = 1 then
      { l with sp := (l.sp.wr (64 * b + 4) (BitVec.ofNat 8 ((l.sp.rd (64 * b + 4)).toNat ^^^ 1))).wr (64 * b + 5)
                        (BitVec.ofNat 8 (p - 1)) }
    else l) l
  { l with slHold := l.slHold.filter fun kv => l.slOwner kv.1 != owner }

end Sys2Proof.Machine
end

