-- ==== Sys2Proof/Machine/Contexts.lean ====
section
/-! DEFINITION. Contexts: their records, boundaries, period starts, completion and debt, the commands on them and their
locks (R281 to R296), and what the keeper does for a context at its period boundary (R13, R58, R136, R262). -/

namespace Sys2Proof.Machine

/-! ### Records (R281) -/

/-- STATE of a context. -/
def Channel.cst (ch : Channel) (n : Nat) : Nat := ch.r F.CTX_STATE_STATE n

/-- Applies `f` to the keeper's context state. -/
def Channel.modCtx (ch : Channel) (f : CtxSt → CtxSt) : Channel := { ch with ctx := f ch.ctx }

/-- A record that the keeper raises for a context. -/
def Channel.ctxErr (ch : Channel) (cause n : Nat) : Channel := ch.raise cause (unitWord ch.no 7 0 0 0) (some n) 0

/-- A characteristic and a base are valid (R283). -/
def Channel.charValid (ch : Channel) (period phase window shorten base : Nat) : Bool :=
  decide (phase ≤ period) && decide (window ≤ period) && decide (1 ≤ shorten) && decide (shorten ≤ 8)
    && base % 64 == 0 && base / 2 ^ 36 == ch.no

/-- The record is valid with each field as `r` reads it (R283). -/
def Channel.recordValid (ch : Channel) (r : Fld → Nat) : Bool :=
  ch.charValid (r F.CTX_CHAR_PERIOD) (r F.CTX_CHAR_PHASE) (r F.CTX_CHAR_WINDOW) (r F.CTX_CHAR_SHORTEN) (r F.CTX_HBM_BASE)

/-- The fields of words 1 and 5, which the context owns. -/
def ctxLatched : List Fld :=
  [F.CTX_CHAR_PERIOD, F.CTX_CHAR_PHASE, F.CTX_CHAR_WINDOW, F.CTX_CHAR_SHORTEN, F.CTX_CHAR_INMODE, F.CTX_CHAR_BATCH,
   F.CTX_CHAR_PLAN, F.CTX_HBM_BASE]

/-- The waiting value of a field takes effect (R13). -/
def Regs.latch (r : Regs) (f : Fld) (n : Nat) : Regs :=
  match r.shadow.find (f.key n) with
  | some v => { r with cur := r.cur.put (f.key n) v, shadow := r.shadow.del (f.key n) }
  | none => r

/-- The context's shadows take effect at a period start (R283). -/
def Channel.ctxLatch (ch : Channel) (n : Nat) : Channel :=
  if ctxLatched.all fun f => (ch.regs.shadow.find (f.key n)).isNone then ch
  else if ch.recordValid (ch.regs.waiting · n) then
    let fs := if ch.r F.CTX_STATE_PEND_B n = 0 then ctxLatched else ctxLatched.drop 2
    { ch with regs := fs.foldl (fun r f => r.latch f n) ch.regs }
  else (ch.inc F.CH_CTX_REJ_CNT_COUNT 0 1).w F.CH_CTX_STAT_CFG_ERR 0 1

/-- DEBT takes a value, and CATCHUP follows it (R281, R289). -/
def Channel.setDebt (ch : Channel) (n d : Nat) : Channel :=
  let d := min d 65535
  let ch := (ch.w F.CTX_STATE_DEBT n d).w F.CTX_STATE_CATCHUP n (b2n (d != 0))
  if d = 0 then ch.modCtx fun x => { x with alarmed := x.alarmed.filter (· != n) } else ch

/-- A context enters FREE (R293). -/
def Channel.ctxFree (ch : Channel) (n : Nat) : Channel :=
  let ch := ((ch.w F.CTX_STATE_STATE n 0).setDebt n 0).w F.CTX_STATE_IN_CNT n 0
  let ch := (ch.w F.CTX_STATE_PEND_B n 0).w F.CTX_LOCK_OWNER n 0
  ((ch.w F.CTX_STATE_BROKEN n 0).w F.CTX_STATE_FREE_PEND n 0).w F.CTX_STATE_HOLD_PEND n 0

/-- A context enters HOLD (R293). -/
def Channel.ctxHold (ch : Channel) (n : Nat) : Channel :=
  ((ch.w F.CTX_STATE_STATE n 5).w F.CTX_STATE_PEND_B n 0).w F.CTX_STATE_HOLD_PEND n 0

/-- A period of the context runs: it is QUEUED or RUN. -/
def Channel.ctxRuns (ch : Channel) (n : Nat) : Bool := ch.cst n == 3 || ch.cst n == 4

/-- HOLD waits for a running period, or takes effect at once (R293). -/
def Channel.ctxHoldReq (ch : Channel) (n : Nat) : Channel :=
  if ch.cst n = 0 ∨ ch.cst n = 5 then ch
  else if ch.ctxRuns n then ch.w F.CTX_STATE_HOLD_PEND n 1
  else ch.ctxHold n

/-! ### Locks (R294 to R296) -/

/-- The keeper breaks an expired lock, and checks the record when AUTO_REVAL is 1 (R294, R296). -/
def Channel.lockBreak (ch : Channel) (n : Nat) : Channel :=
  if ch.r F.CTX_LOCK_OWNER n = 0 ∨ ch.r F.CTX_LOCK_LEASE_END n ≠ ch.tick then ch
  else
    let ch := (ch.w F.CTX_LOCK_OWNER n 0).w F.CTX_STATE_BROKEN n 1
    let ch := (ch.inc F.CH_LOCK_BREAK_CNT_COUNT 0 1).ctxErr 0x44 n
    if ch.eff F.CH_CTX_CFG_AUTO_REVAL = 0 then ch
    else if ch.recordValid (ch.r · n) && ch.recordValid (ch.regs.waiting · n) then ch.w F.CTX_STATE_BROKEN n 0
    else ch.ctxHoldReq n

/-! ### Marks (R285) -/

/-- Input marks for a context (R285). -/
def Channel.addMarks (ch : Channel) (n k : Nat) : Channel :=
  if ch.cst n = 0 ∨ ch.cst n = 5 then ch
  else
    let v := ch.r F.CTX_STATE_IN_CNT n + k
    let ch := ch.w F.CTX_STATE_IN_CNT n (min v 255)
    if 255 < v then ch.inc F.CH_MARK_SAT_CNT_COUNT 0 1 else ch

/-! ### Commands (R292, R293) -/

/-- A command whose condition is not met (R292). -/
def Channel.ctxReject (ch : Channel) : Channel := (ch.inc F.CH_CTX_REJ_CNT_COUNT 0 1).w F.CH_CTX_STAT_REJ 0 1

/-- The fields of CTX_CHAR and CTX_HBM from their words. -/
def Channel.ctxWords (ch : Channel) (n char hbm : Nat) : Channel :=
  let put := fun (r : Regs) (f : Fld) (w : Nat) => r.put f n (w >>> f.lo)
  let r := (ctxLatched.take 7).foldl (fun r f => put r f char) ch.regs
  { ch with regs := put r F.CTX_HBM_BASE hbm }

/-- ARM: a template of the image or the shadows take effect, or the command is rejected (R293, R409). -/
def Channel.ctxArm (ch : Channel) (n arg : Nat) : Channel :=
  let c1 : Option Channel := if arg = 255 then
      some { ch with regs := ctxLatched.foldl (fun r f => r.latch f n) ch.regs }
    else (ch.ctx.templates.find arg).map fun t => ch.ctxWords n t.1 t.2
  match c1 with
  | none => ch.ctxReject
  | some c1 =>
    if ch.ctx.run && c1.recordValid (c1.r · n) then
      let c1 := ((c1.w F.CTX_STATE_STATE n 1).setDebt n 0).w F.CTX_STATE_PEND_B n 0
      let c1 := (c1.w F.CTX_STATE_IN_CNT n 0).w F.CTX_STATS_PERIODS n 0
      (c1.w F.CTX_STATS_LATE_PERIODS n 0).w F.CTX_STATS_MAX_LATE n 0
    else ch.ctxReject

/-- Inserts a context into the ascending list of those known. -/
def insertAsc (n : Nat) : List Nat → List Nat
  | [] => [n]
  | x :: xs => if n = x then x :: xs else if n < x then n :: x :: xs else x :: insertAsc n xs

/-- A tick number that lies `k` ticks ahead (R281). -/
def Channel.tickPlus (ch : Channel) (k : Nat) : Nat := (ch.tick + k) % 2 ^ 48

/-- A context command (R293): operation, context, owner, lease and argument. -/
def Channel.ctxOp (ch : Channel) (op n owner lease arg : Nat) : Channel :=
  let own := owner != 0 && owner == ch.r F.CTX_LOCK_OWNER n
  let st := ch.cst n
  if op = 0 then ch
  else if op = 1 then (if own && st == 0 then ch.ctxArm n arg else ch.ctxReject)
  else if op = 2 then (if own && st != 0 && st != 5 then ch.ctxHoldReq n else ch.ctxReject)
  else if op = 3 then (if own && st == 5 then ch.w F.CTX_STATE_STATE n 1 else ch.ctxReject)
  else if op = 4 then
    (if own && st != 0 then (if ch.ctxRuns n then ch.w F.CTX_STATE_FREE_PEND n 1 else ch.ctxFree n) else ch.ctxReject)
  else if op = 5 then (if own then ch.setDebt n 0 else ch.ctxReject)
  else if op = 6 then (if st != 0 && st != 5 then ch.addMarks n arg else ch.ctxReject)
  else if op = 7 then
    (if ch.r F.CTX_LOCK_OWNER n == 0 && owner != 0 && lease != 0 then
      ((ch.w F.CTX_LOCK_OWNER n owner).w F.CTX_LOCK_LEASE_END n (ch.tickPlus lease)).modCtx fun x =>
        { x with known := insertAsc n x.known }
    else ch.ctxReject)
  else if op = 8 then (if own && lease != 0 then ch.w F.CTX_LOCK_LEASE_END n (ch.tickPlus lease) else ch.ctxReject)
  else if op = 9 then (if own then ch.w F.CTX_LOCK_OWNER n 0 else ch.ctxReject)
  else if own && ch.r F.CTX_STATE_BROKEN n == 1 then ch.w F.CTX_STATE_BROKEN n 0
  else ch.ctxReject

/-- A write of CH_CTX_CMD (R292). -/
def Channel.ctxCmd (ch : Channel) (w : Nat) : Channel :=
  if 10 < bits w 13 10 ∨ bits w 63 54 ≠ 0 then ch.w F.CH_CTX_STAT_CFG_ERR 0 1
  else ch.ctxOp (bits w 13 10) (bits w 9 0) (bits w 29 14) (bits w 45 30) (bits w 53 46)

/-- The word of a context command (R292). -/
def ctxWord (op n owner lease arg : Nat) : Nat :=
  n % 1024 + (op % 16) <<< 10 + (owner % 65536) <<< 14 + (lease % 65536) <<< 30 + (arg % 256) <<< 46

/-! ### Boundaries and period starts (R282 to R288) -/

/-- The tick is a boundary of the context (R282). -/
def Channel.isBoundary (ch : Channel) (n : Nat) : Bool :=
  1 ≤ ch.cst n && ch.cst n ≤ 4 && ch.tick % (ch.r F.CTX_CHAR_PERIOD n + 1) == ch.r F.CTX_CHAR_PHASE n

/-- A boundary is counted (R286). -/
def Channel.countBoundary (ch : Channel) (n : Nat) : Channel :=
  if ch.r F.CTX_STATE_EARLY n = 1 then ch.w F.CTX_STATE_EARLY n 0
  else if ch.r F.CTX_STATE_PEND_B n < 15 then ch.w F.CTX_STATE_PEND_B n (ch.r F.CTX_STATE_PEND_B n + 1)
  else
    let ch := (ch.inc F.CH_OVERRUN_CNT_COUNT 0 1).w F.CH_CTX_STAT_OVERRUN 0 1
    ch.raiseOnce (onceKey 0x42 0) 0x42 (unitWord ch.no 7 0 0 0) (some n) 0

/-- Smallest `n` with `sqrt (s × 2⁻⁴⁰) ≤ f × 2 ^ n`, from −256 (R136): a record's sum and a finite magnitude of FP32 keep it within
−148 and 178. -/
def calTarget (s fmax : Nat) : Int :=
  let m := if bits fmax 30 23 = 0 then bits fmax 22 0 else bits fmax 22 0 + 2 ^ 23
  let e : Int := (max (bits fmax 30 23) 1 : Nat) - 150
  let fits := fun (k : Nat) =>
    let p := 2 * (e + (k : Int) - 256) + 40
    if 0 ≤ p then decide (s ≤ m * m * 2 ^ p.toNat) else decide (s * 2 ^ (-p).toNat ≤ m * m)
  match (upto 512).find? fits with
  | some k => (k : Int) - 256
  | none => 256

/-- The keeper computes one calibrated entry and writes it to the inactive copy (R136). Scale tables are E fields of function 0: at
the expert level the keeper leaves them alone (R18, R58). -/
def Channel.calibrate (ch : Channel) (x : CalEntry) : Channel × CalEntry :=
  if ch.lv.testBit 0 then (ch, x) else
  let l := ch.lan x.g
  let sq := (x.lines.flatMap fun ln => [64 * ln, 64 * ln + 32]).map fun a => ofBytes (l.spSee (a + 12) 12)
  let hist := (sq.foldl max 0 :: x.hist).take x.window
  let s := hist.foldl max 0
  let sats := x.cores.map fun k => l.r F.CO_DRN_SAT_CNT_COUNT k
  let grew := (sats.zip (fitTo sats.length 0 x.sat)).any fun p => decide (p.2 < p.1)
  let cur := (l.slEntry x.base x.idx).1
  let t := calTarget s x.fmax + (x.margin : Int)
  let t := if grew then max t (cur + 1) else t
  let below := if s ≠ 0 ∧ t < cur then x.below + 1 else 0
  let lower := decide (x.window ≤ below) && decide (s ≠ 0)
  let new := if s = 0 then cur else if cur < t then t else if lower then cur - 1 else cur
  let new := max (-128) (min 127 new)
  let n := ofBytes (l.spSee (64 * x.base) 4)
  let a := 64 * (x.base + 1) + (1 - l.slActive x.base) * alignUp n 64 + x.idx
  let l := { l with sp := (l.sp.wr a (BitVec.ofNat 8 (ofInt 8 new))).wr (64 * x.base + 5)
                            (BitVec.ofNat 8 ((l.sp.rd (64 * x.base + 5)).toNat / 2 * 2 + 1)) }
  (ch.setLan x.g l, { x with hist := hist, below := if lower then 0 else below, sat := sats })

/-- Bases of the tables of a lantern that hold calibrated entries (R136). -/
def Channel.calBases (ch : Channel) (g : Nat) : List Nat := (ch.ctx.cal.filter fun x => x.g == g).map (·.base)

/-- A period boundary of an owner of scale tables: pending tables are exchanged, and calibrated entries are computed
(R58, R136). -/
def Channel.scaleBoundary (ch : Channel) (owner : Nat) : Channel :=
  let ch := { ch with lans := ch.lans.mapV fun g l => l.slBoundary (ch.calBases g) owner }
  let (ch, es) := ch.ctx.cal.foldl (fun (p : Channel × List CalEntry) x =>
    if (p.1.lan x.g).slOwner x.base = owner then
      let (c, y) := p.1.calibrate x
      (c, p.2 ++ [y])
    else (p.1, p.2 ++ [x])) (ch, [])
  ch.modCtx fun x => { x with cal := es }

/-- The keeper chooses the plan of the context's next period (R262): the alternate one after an overflow, the primary one
after a period that met no value above the primary plan. -/
def Channel.choosePlan (ch : Channel) (n : Nat) : Channel :=
  let has := (ch.ctx.tables.find (ch.ctx.tableOf (ch.r F.CTX_CHAR_PLAN n) true)).isSome
  let alt := if ch.ovfCtx.contains n && has then insertAsc n ch.ctx.alt
    else if !ch.ovfCtx.contains n && !ch.overCtx.contains n then ch.ctx.alt.filter (· != n) else ch.ctx.alt
  { ch with ovfCtx := ch.ovfCtx.filter (· != n), overCtx := ch.overCtx.filter (· != n), ctx := { ch.ctx with alt := alt } }

/-- A period of the context starts with the nominal boundary `b` (R283, R287, R288). -/
def Channel.periodStart (ch : Channel) (n b : Nat) : Channel :=
  let ch := if ch.r F.CTX_CHAR_INMODE n = 1 then ch.w F.CTX_STATE_IN_CNT n (ch.r F.CTX_STATE_IN_CNT n - 1) else ch
  let ch := ((ch.ctxLatch n).scaleBoundary n).choosePlan n
  let w := ch.r F.CTX_CHAR_WINDOW n + 1
  let s := min (ch.r F.CTX_STATE_DEBT n) (w * ch.r F.CTX_CHAR_SHORTEN n / 16)
  let ch := (ch.w F.CTX_BOUNDARY_B n b).w F.CTX_STARTED_STARTED n ch.tick
  (ch.w F.CTX_DEADLINE_DEADLINE n (b + w - s)).w F.CTX_STATE_STATE n 3

/-- Starts a period when R287 allows, and sets WAIT or PEND otherwise. -/
def Channel.tryStart (ch : Channel) (n : Nat) : Channel :=
  if ch.cst n = 1 ∨ ch.cst n = 2 then
    let per := ch.r F.CTX_CHAR_PERIOD n + 1
    let ph := ch.r F.CTX_CHAR_PHASE n
    let pend := ch.r F.CTX_STATE_PEND_B n
    let inm := ch.r F.CTX_CHAR_INMODE n
    let free := ch.r F.CTX_LOCK_OWNER n == 0 && ch.r F.CTX_STATE_BROKEN n == 0 && ch.r F.CTX_STATE_HOLD_PEND n == 0
      && ch.r F.CTX_STATE_FREE_PEND n == 0
    let input := inm == 0 || 1 ≤ ch.r F.CTX_STATE_IN_CNT n
    let since := (ch.tick + per - ph) % per
    if free && input && 1 ≤ pend then
      let b := ch.tick - since - (pend - 1) * per
      (ch.w F.CTX_STATE_PEND_B n (pend - 1)).periodStart n b
    else if free && input && 1 ≤ ch.r F.CTX_STATE_DEBT n && inm == 1 && ch.r F.CTX_STATE_EARLY n == 0 then
      (ch.w F.CTX_STATE_EARLY n 1).periodStart n (ch.tick - since + per)
    else ch.w F.CTX_STATE_STATE n (if pend = 0 then 1 else 2)
  else ch

/-- What the keeper does for one context at the start of a tick (R284, step 3). -/
def Channel.ctxTick (ch : Channel) (n : Nat) : Channel :=
  let ch := if ch.isBoundary n then ch.countBoundary n else ch
  let ch := if ch.ctxRuns n && ch.r F.CTX_DEADLINE_DEADLINE n == ch.tick then ch.w F.CTX_STATE_LATE n 1 else ch
  ch.tryStart n

/-! ### Completion, debt and taint (R289, R290, R432) -/

/-- DEBT that has reached DEBT_ALARM is recorded once until it returns to 0 (R290). -/
def Channel.debtAlarm (ch : Channel) (n : Nat) : Channel :=
  if ch.eff F.CH_CTX_CFG_DEBT_ALARM ≤ ch.r F.CTX_STATE_DEBT n ∧ ch.r F.CTX_STATE_DEBT n ≠ 0 ∧ !ch.ctx.alarmed.contains n then
    (ch.modCtx fun x => { x with alarmed := n :: x.alarmed }).ctxErr 0x43 n
  else ch

/-- A period of the context completes in this tick (R289). -/
def Channel.periodComplete (ch : Channel) (n : Nat) : Channel :=
  let e := ch.tick
  let df := ch.r F.CTX_BOUNDARY_B n + ch.r F.CTX_CHAR_WINDOW n + 1
  let debt := ch.r F.CTX_STATE_DEBT n
  let ch := if df < e + 1 then
      let late := e + 1 - df
      let ch := (ch.setDebt n (debt + late)).inc F.CTX_STATS_LATE_PERIODS n 1
      ch.w F.CTX_STATS_MAX_LATE n (max (ch.r F.CTX_STATS_MAX_LATE n) (min late 65535))
    else ch.setDebt n (debt - (df - e - 1))
  let ch := if e < ch.r F.CTX_DEADLINE_DEADLINE n then ch.w F.CTX_STATE_LATE n 0 else ch
  let ch := ch.w F.CTX_STATS_PERIODS n (ch.r F.CTX_STATS_PERIODS n + 1)
  let pol := ch.r F.ERR_CFG_CTX_POLICY
  let ch := if ch.ctx.taint.contains n then
      let ch := ch.modCtx fun x => { x with taint := x.taint.filter (· != n) }
      if ch.r F.CTX_STATE_HOLD_PEND n = 1 ∨ ch.r F.CTX_STATE_FREE_PEND n = 1 then ch
      else if pol = 1 then ch.w F.CTX_STATE_HOLD_PEND n 1
      else if pol = 2 then ch.w F.CTX_STATE_FREE_PEND n 1 else ch
    else ch
  if ch.r F.CTX_STATE_FREE_PEND n = 1 then ch.ctxFree n
  else if ch.r F.CTX_STATE_HOLD_PEND n = 1 then ch.ctxHold n
  else ch.w F.CTX_STATE_STATE n (if ch.r F.CTX_STATE_PEND_B n = 0 then 1 else 2)

/-- SEQ_USED follows the sequence slots (R297). -/
def Channel.seqSync (ch : Channel) : Channel := ch.w F.CH_CTX_STAT_SEQ_USED 0 ch.ctx.seqs.length

/-- The sequence of a slot has no task left: its contexts' periods complete and the slot frees (R289). -/
def Channel.seqDone (ch : Channel) (slot : Nat) : Channel :=
  match ch.ctx.seqs.find slot with
  | none => ch
  | some q =>
    let ch := ch.modCtx fun x => { x with seqs := x.seqs.del slot }
    (q.ctxs.foldl (fun c n => c.periodComplete n) ch).seqSync

/-- The counters of the context area (R297). -/
def ctxCounters : List Fld := [F.CH_CTX_REJ_CNT_COUNT, F.CH_LOCK_BREAK_CNT_COUNT, F.CH_OVERRUN_CNT_COUNT, F.CH_MARK_SAT_CNT_COUNT]

/-- CH_CTX_CTRL.CLR_CNT (R297). -/
def Channel.ctxClrCnt (ch : Channel) : Channel := { ch with regs := ch.regs.clear ctxCounters 0 }

end Sys2Proof.Machine
end

