-- ==== Sys2Proof/Machine/Route.lean ====
section
/-! DEFINITION. Nodes, routes and the sending of packets (R36, R355 to R359). -/

namespace Sys2Proof.Machine

/-- Node identifier of a channel (R36). -/
def Channel.node (ch : Channel) : Nat := ch.module * 16 + ch.no

/-- Virtual channel of a packet type (R348). -/
def ptypeVc (t : Nat) : Option Nat :=
  if t = 1 ∨ t = 2 then some 0
  else if t = 3 ∨ t = 4 ∨ t = 5 then some 1
  else if t = 0x10 ∨ t = 0x11 ∨ t = 0x12 then some 2
  else if t = 0x20 ∨ t = 0x21 then some 3
  else none

/-- A Chrobupra port. -/
def Channel.lport (ch : Channel) (p : Nat) : LPort := ch.link.ports.getD p {}

/-- Applies `f` to a Chrobupra port. -/
def Channel.modPort (ch : Channel) (p : Nat) (f : LPort → LPort) : Channel :=
  { ch with link := { ch.link with ports := ch.link.ports.put p (f (ch.lport p)) } }

/-- A port is up: its training has reached "active", or it is retraining, which is not yet a failure (R341, R367). -/
def Channel.portUp (ch : Channel) (p : Nat) : Bool := ch.r F.LK_STAT_STATE p == 5 || (ch.lport p).again

/-- Bytes a packet of this type carries as payload (R348). -/
def Packet.payload (p : Packet) : Nat :=
  if p.ptype = 2 ∨ p.ptype = 0x10 ∨ p.ptype = 0x11 then p.len
  else if p.ptype = 3 ∧ p.status < 2 then p.len
  else 0

/-- The class in which a packet leaves by a port (R344): it moves to class 1 on the segment CH11–CH0 and stays there until it
leaves the ring. -/
def Channel.outClass (ch : Channel) (port inCls : Nat) : Nat :=
  if port = 2 then 0
  else if (ch.no = 11 ∧ port = 1) ∨ (ch.no = 0 ∧ port = 0) then 1
  else inCls

/-- A bit of the port mask in effect (R355); the channel's own ports count as down as soon as it sees them down. -/
def Channel.maskBit (ch : Channel) (n : Nat) : Bool :=
  isSet (ch.r F.LK_RT_STAT_MASK) n
    && (if n = ch.no then ch.portUp 1 else if n = (ch.no + 11) % 12 then ch.portUp 0
        else if n = 12 + ch.no then ch.portUp 2 else true)

/-- Every ring segment from `c` to `t` in a direction is up: 1 is P0 (downward), 2 is P1 (upward) (R356). -/
def Channel.waysUp (ch : Channel) (dir : Nat) : Nat → Nat → Nat → Bool
  | 0, _, _ => false
  | fuel + 1, c, t =>
    if c = t then true
    else if dir = 2 then ch.maskBit c && ch.waysUp dir fuel ((c + 1) % 12) t
    else ch.maskBit ((c + 11) % 12) && ch.waysUp dir fuel ((c + 11) % 12) t

/-- Where a packet goes. -/
inductive Way where
  | here
  | port (p : Nat)
  | nowhere
  deriving DecidableEq, Repr

/-- The egress toward a channel of the own module (R356). -/
def Channel.toward (ch : Channel) (t : Nat) : Way :=
  let pri := ch.r F.LK_RT_CH_PRI t
  let alt := ch.r F.LK_RT_CH_ALT t
  let ok := fun d => (d == 1 || d == 2) && ch.waysUp d 13 ch.no t
  if 12 ≤ t then .nowhere
  else if ok pri then .port (pri - 1)
  else if ok alt then .port (alt - 1)
  else .nowhere

/-- Lowest valid module route entry that covers a module, among `n` entries from `k` (R356). -/
def Channel.modEntry (ch : Channel) (m : Nat) : Nat → Nat → Option Nat
  | 0, _ => none
  | n + 1, k =>
    if ch.r F.LK_RT_MOD_VALID k = 1 ∧ ch.r F.LK_RT_MOD_LO k ≤ m ∧ m ≤ ch.r F.LK_RT_MOD_HI k then some k
    else ch.modEntry m n (k + 1)

/-- The egress of a destination node (R356). -/
def Channel.route (ch : Channel) (dst : Nat) : Way :=
  if dst / 16 = ch.module then
    if dst % 16 = ch.no then .here else ch.toward (dst % 16)
  else match ch.modEntry (dst / 16) 256 0 with
    | none => .nowhere
    | some k =>
      let ex := ch.r F.LK_RT_MOD_EXIT k
      let e := if ex < 12 ∧ ch.maskBit (12 + ex) then ex else ch.r F.LK_RT_MOD_ALT_EXIT k
      if 12 ≤ e then .nowhere
      else if e = ch.no then (if ch.portUp 2 then .port 2 else .nowhere)
      else ch.toward e

/-- Requests are answered when they cannot go on (R348, R359). -/
def Packet.isReq (p : Packet) : Bool := p.ptype = 1 || p.ptype = 2

/-- The answer to a request, with a status and no payload (R348, R359). -/
def Packet.answer (p : Packet) (own status : Nat) : Packet :=
  { ptype := p.ptype + 2, dst := p.src, src := own, tag := p.tag, ctx := p.ctx, status := status }

/-- A transfer's packet has been accepted by the egress, or will never meet one (R231). -/
def Channel.pktAccepted (ch : Channel) (x : Option (Nat × Nat)) : Channel :=
  match x with
  | none => ch
  | some (g, xid) => ch.modLan g fun l =>
      { l with td := { l.td with fq := l.td.fq.map fun t => if t.xid = xid then { t with accepted := true } else t } }

/-- Queues a packet at an egress port under its VC. The control/time VC has class 0 only (R342). -/
def Channel.queuePkt (ch : Channel) (port : Nat) (o : OutPkt) : Channel :=
  let key := 4 * port + (ptypeVc o.p.ptype).getD 0
  let o := { o with cls := if ptypeVc o.p.ptype = some 3 then 0 else ch.outClass port (match o.p.via with
    | some (2, _, _) => 0
    | some (_, k, _) => if o.transit then k % 2 else 0
    | none => 0) }
  { ch with link := { ch.link with egress := ch.link.egress.put key (ch.link.egress.getD key [] ++ [o]) } }

/-- A packet that has arrived whole waits for the step of its type. -/
def Channel.arrive (ch : Channel) (p : Packet) : Channel := { ch with link := { ch.link with inbox := ch.link.inbox ++ [p] } }

/-- `n` flits of a packet that came in by a port leave their receive buffer: as many credits can be returned (R343). -/
def Channel.creditsBack (ch : Channel) (p : Packet) (n : Nat) : Channel :=
  match p.via with
  | none => ch
  | some (port, key, _) =>
    if n = 0 then ch else ch.modPort port fun q => { q with owed := q.owed.put key (q.owed.getD key 0 + n) }

/-- The last flit of a packet leaves its receive buffer; those before it left as they joined the packet (R343, log entry 116). -/
def Channel.creditBack (ch : Channel) (p : Packet) : Channel := ch.creditsBack p 1

/-- A packet with no route is counted and recorded (R359). -/
def Channel.noRoute (ch : Channel) (ctx : Nat) : Channel :=
  let ch := ch.inc F.LK_NOROUTE_CNT_COUNT 0 1
  ch.raiseOnce (onceKey 0x87 0) 0x87 (unitWord ch.no 0 0 0 0) (some ctx) 0

/-- One forwarding decision for a packet of this channel, without the settling: deliver, queue with HOPS decremented, or drop with
"no route" (R357, R359). -/
def Channel.forward1 (ch : Channel) (o : OutPkt) : Channel :=
  let none_ := fun (ch : Channel) =>
    let ch := (ch.noRoute o.p.ctx).pktAccepted o.xfer
    if o.p.isReq then ch.arrive (o.p.answer ch.node 4) else ch
  match ch.route o.p.dst with
  | .here => (ch.arrive o.p).pktAccepted o.xfer
  | .nowhere => none_ ch
  | .port p =>
    if o.p.hops ≤ 1 then none_ ch
    else ch.queuePkt p { o with p := { o.p with hops := o.p.hops - 1 } }

/-- Sends a packet of this channel: HOPS is set (R357), an invalid channel number is discarded with "misdirected access"
(R36), and a change of egress holds it for the settling time (R358). -/
def Channel.send (ch : Channel) (p : Packet) (xfer : Option (Nat × Nat)) : Channel :=
  let p := { p with src := ch.node, hops := ch.r F.LK_RT_CFG_HOPS }
  let o : OutPkt := { p := p, xfer := xfer }
  if 12 ≤ p.dst % 16 ∧ ¬(p.ptype = 0x20 ∨ p.ptype = 0x21) then
    (ch.raise 0x2B (unitWord ch.no 0 0 0 0) (some p.ctx) p.dst).pktAccepted xfer
  else
    match ch.route p.dst with
    | .port q =>
      let old := ch.link.choice.find p.dst
      let ch := { ch with link := { ch.link with choice := ch.link.choice.put p.dst q } }
      let changed := match old with
        | some o => o != q
        | none => false
      let settle := if changed then p.dst :: ch.link.settling else ch.link.settling
      let ch := { ch with link := { ch.link with settling := settle } }
      if settle.contains p.dst then { ch with link := { ch.link with held := ch.link.held ++ [o] } }
      else ch.forward1 o
    | _ => ch.forward1 o

/-- Sends an answer, a new local packet (R348, R358, R359); it is itself dropped when it has no route. -/
def Channel.sendAnswer (ch : Channel) (p : Packet) : Channel := ch.send p none

/-- Decides where a transit packet goes as its first flit comes in (R34, R357, R359): it joins an egress queue with HOPS decremented,
or has no route. The Option is the egress. -/
def Channel.transit (ch : Channel) (p : Packet) (pid : Nat) (flit : List (BitVec 8)) (eop : Bool) : Channel × Option Nat :=
  match ch.route p.dst, decide (p.hops ≤ 1) with
  | .port q, false =>
    (ch.queuePkt q { p := { p with hops := p.hops - 1 }, transit := true, pid := some pid, come := [(flit, eop)] }, some q)
  | _, _ =>
    let ch := (ch.noRoute p.ctx).creditBack p
    (if p.isReq then ch.sendAnswer (p.answer ch.node 4) else ch, none)

end Sys2Proof.Machine
end

