-- ==== Sys2Proof/Machine/Buoys.lean ====
section
/-! DEFINITION. Buoy pairs (R223 to R227) and the answers that a finished or abandoned task owes them (R252, R253). -/

namespace Sys2Proof.Machine

/-- UNIT of a lantern (R418). -/
def Channel.lanUnit (ch : Channel) (g : Nat) : Nat := unitWord ch.no 3 g 0 0

/-- READY or FREE of a buoy pair. -/
def Channel.bpCount (ch : Channel) (g n : Nat) (ready : Bool) : Nat :=
  (ch.lan g).r (if ready then F.LN_BP_CNT_READY else F.LN_BP_CNT_FREE) n

/-- The count that a waiter sees: an increment of this cycle is visible in the next (R225). -/
def Channel.bpSeen (ch : Channel) (g n : Nat) (ready : Bool) : Nat :=
  ch.bpCount g n ready - match (ch.lan g).bpNew.find (2 * n + b2n ready) with
    | some (t, k) => if t = ch.cyc then k else 0
    | none => 0

/-- Notes increments of this cycle (R225). -/
def Channel.bpNote (ch : Channel) (g n : Nat) (ready : Bool) (k : Nat) : Channel :=
  ch.modLan g fun l =>
    let key := 2 * n + b2n ready
    let old := match l.bpNew.find key with
      | some (t, k) => if t = ch.cyc then k else 0
      | none => 0
    { l with bpNew := l.bpNew.put key (ch.cyc, old + k) }

/-- Module-wide number of a local context (R347): the channel's number above the local ID. -/
def Channel.wideCtx (ch : Channel) (ctx : Nat) : Nat := ch.no * 1024 + ctx % 1024

/-- An acquisition lowers a count by 1 (R223). -/
def Channel.bpTake (ch : Channel) (g n : Nat) (ready : Bool) : Channel :=
  ch.lw g (if ready then F.LN_BP_CNT_READY else F.LN_BP_CNT_FREE) n (ch.bpCount g n ready - 1)

/-- An increment of READY or FREE (R225); above 65,535 the count stays there and the overflow is recorded (R226). A FREE
increment of a landing pair goes back to its proxy as a buoy update packet (R227). -/
def Channel.bpInc (ch : Channel) (g n : Nat) (ready : Bool) (k : Nat) (ctx : Option Nat) : Channel :=
  let old := ch.bpCount g n ready
  let v := old + k
  let ch := (ch.bpNote g n ready (min v 65535 - old)).lw g (if ready then F.LN_BP_CNT_READY else F.LN_BP_CNT_FREE) n (min v 65535)
  let ch := if 65535 < v then
      (ch.lw g F.LN_BP_STAT_OVF n 1).raise 0x23 (unitWord ch.no 6 g 0 n) ctx 0
    else ch
  let l := ch.lan g
  if !ready && l.r F.LN_BP_CFG_LINK n = 1 && k != 0 then
    let arg := l.r F.LN_BP_PEER_BP n + (l.r F.LN_BP_PEER_ROW n) <<< 5 + (l.r F.LN_BP_PEER_COL n) <<< 10 + k <<< 16
    ch.send { ptype := 5, dst := l.r F.LN_BP_PEER_NODE n, src := 0, ctx := ch.wideCtx (ctx.getD 0), arg0 := arg } none
  else ch

/-- Applies the answered acquisitions at the head of one pair's list, oldest first (R252). -/
def Channel.bpSettle (ch : Channel) (g n : Nat) : List Acq → Channel
  | [] => ch.modLan g fun l => { l with tq := { l.tq with acqs := l.tq.acqs.del n } }
  | a :: as =>
    if a.answered then
      let ch := ch.bpInc g n (!a.cons) 1 (some a.ctx)
      ch.bpSettle g n as
    else ch.modLan g fun l => { l with tq := { l.tq with acqs := l.tq.acqs.put n (a :: as) } }

/-- Answers the acquisition that a task made on pair `n` (R252). -/
def Channel.bpAnswer (ch : Channel) (g n task : Nat) (cons : Bool) : Channel :=
  let as := ((ch.lan g).tq.acqs.getD n []).map fun a =>
    if a.task = task ∧ a.cons = cons then { a with answered := true } else a
  ch.bpSettle g n as

/-- LN_BPn_CTRL.INIT: the counts, the write index and the acquisition counts of a pair are initialised, in a parked lantern
only (R228, R266). -/
def Channel.bpInit (ch : Channel) (g n : Nat) : Channel :=
  let l := ch.lan g
  if l.r F.LN_STATUS_PARKED = 0 then ch.lw g F.LN_STATUS_CFG_ERR 0 1
  else
    let l := ((l.w F.LN_BP_CNT_READY n 0).w F.LN_BP_CNT_FREE n (l.r F.LN_BP_CFG_CAP n)).w F.LN_BP_STAT_WIDX n 0
    let ch := ch.setLan g { ((l.w F.LN_XACQ_CONS n 0).w F.LN_XACQ_PROD n 0) with
      bpNew := (l.bpNew.del (2 * n)).del (2 * n + 1) }
    { ch with link := { ch.link with land := ch.link.land.del (32 * g + n) } }

/-! ### Fields of a task entry (R247) -/

/-- KIND: a vector task. -/
def teVector (w : Nat) : Bool := isSet w 0
/-- POOL. -/
def tePool (w : Nat) : Bool := isSet w 1
/-- SPEC. -/
def teSpec (w : Nat) : Bool := isSet w 2
/-- LINE. -/
def teLine (w : Nat) : Nat := bits w 15 4
/-- CTX. -/
def teCtx (w : Nat) : Nat := bits w 25 16
/-- CORE. -/
def teCore (w : Nat) : Nat := bits w 31 26
/-- WAIT_BP. -/
def teWaitBp (w : Nat) : Nat := bits w 36 32
/-- WAIT_EN. -/
def teWaitEn (w : Nat) : Bool := isSet w 37
/-- OUT_BP. -/
def teOutBp (w : Nat) : Nat := bits w 42 38
/-- OUT_EN. -/
def teOutEn (w : Nat) : Bool := isSet w 43
/-- WC. -/
def teWc (w : Nat) : Nat := bits w 47 44
/-- VARS. -/
def teVars (w : Nat) : Nat := bits w 53 48
/-- VSTEP. -/
def teVstep (w : Nat) : Nat := bits w 65 54
/-- SEQ. -/
def teSeq (w : Nat) : Nat := bits w 68 66

/-- LN_TQ_STAT shows the entries in use and the ready tasks (R266). -/
def Lantern.tqSync (l : Lantern) : Lantern :=
  (l.w F.LN_TQ_STAT_USED 0 l.tq.entries.length).w F.LN_TQ_STAT_READY 0
    (l.tq.tasks.filter fun t => t.on.isNone).length

/-- Work counter state of counter `w`. -/
def Lantern.wc (l : Lantern) (w : Nat) : WorkCounter := l.tq.wcs.getD w {}

/-- Applies `f` to the state of counter `w`. -/
def Lantern.modWc (l : Lantern) (w : Nat) (f : WorkCounter → WorkCounter) : Lantern :=
  { l with tq := { l.tq with wcs := l.tq.wcs.put w (f (l.wc w)) } }

/-- A pool entry leaves when its counter is finished and none of its tasks is incomplete (R260); while a steal for it is on
its way it stays (log entry 20). -/
def Lantern.poolLeave (l : Lantern) : Lantern :=
  { l with tq := { l.tq with entries := l.tq.entries.filter fun e =>
      !(tePool e.w && l.r F.LN_WC_STAT_FIN (teWc e.w) = 1 && e.claims.isEmpty && e.open_ = 0
          && !(l.wc (teWc e.w)).thief.waiting) } }

/-- A task has completed (R252), or was stopped without a completion (R253): its acquisitions are answered, the index of
a pool task is reported, and a non-pool entry leaves the queue. -/
def Channel.finishTask (ch : Channel) (g id : Nat) (completed : Bool) : Channel :=
  match (ch.lan g).tq.tasks.find? (fun t => t.id == id) with
  | none => ch
  | some t =>
    let ch := if teOutEn t.w then ch.bpAnswer g (teOutBp t.w) id false else ch
    let ch := if teWaitEn t.w then ch.bpAnswer g (teWaitBp t.w) id true else ch
    let ch := ch.modLan g fun l =>
      let q := l.tq
      let q := { q with tasks := q.tasks.filter fun u => u.id != id }
      let q := match t.index with
        | none => { q with entries := q.entries.filter fun e => e.num != t.entry }
        | some (i, iss) =>
          { q with sent := q.sent ++ [(iss, teWc t.w, i)],
                   entries := q.entries.map fun e => if e.num = t.entry then { e with open_ := e.open_ - 1 } else e }
      let l := { l with tq := q }
      let l := match t.index with
        | some (_, iss) => if iss = g then l else l.modWc (teWc t.w) fun c => { c with thief := { c.thief with held := c.thief.held - 1 } }
        | none => l
      (if completed then l.inc F.LN_TASK_DONE_COUNT 0 1 else l).poolLeave.tqSync
    ch

end Sys2Proof.Machine
end

