-- ==== Sys2Proof/Machine/Fifo.lean ====
section
/-! DEFINITION. Receive FIFOs (R360 to R363). -/

namespace Sys2Proof.Machine

/-- A receive FIFO. -/
def Channel.fifo (ch : Channel) (n : Nat) : Fifo := ch.link.fifos.getD n {}

/-- FILL: the bytes of whole packets that are not yet claimed (R360). -/
def Fifo.fill (f : Fifo) : Nat := (f.pkts.filter (·.whole)).foldl (fun n p => n + p.bytes.length) 0

/-- Replaces a FIFO, and shows FILL and the packet boundaries held in its registers (R368). -/
def Channel.setFifo (ch : Channel) (n : Nat) (f : Fifo) : Channel :=
  let ch := { ch with link := { ch.link with fifos := ch.link.fifos.put n f } }
  (ch.w F.LK_FIFO_STAT_FILL n f.fill).w F.LK_FIFO_STAT_PKTS n f.pkts.length

/-- The bytes reserved: those not yet claimed of whole packets, and the whole length of arriving ones (R360). -/
def Fifo.reserved (f : Fifo) : Nat :=
  f.pkts.foldl (fun n p => n + (if p.whole then p.bytes.length else p.len)) 0

/-- A FIFO data packet arrives: it reserves its bytes and a boundary, or the FIFO has no room and drops it (R360). The Bool
says that it was taken. -/
def Channel.fifoReserve (ch : Channel) (n pid len : Nat) : Channel × Bool :=
  let f := ch.fifo n
  if 65536 < f.reserved + len ∨ 256 ≤ f.pkts.length then
    ((ch.inc F.LK_FIFO_OVF_CNT_COUNT n 1).w F.LK_FIFO_STAT_OVF n 1, false)
  else (ch.setFifo n { f with pkts := f.pkts ++ [{ pid := pid, len := len }] }, true)

/-- The last byte of a packet is written: its bytes count in FILL, or are discarded when it was cut (R360, R361). -/
def Channel.fifoWrite (ch : Channel) (n pid : Nat) (data : List (BitVec 8)) : Channel :=
  let f := ch.fifo n
  if f.cuts.contains pid then
    let f := { f with cuts := f.cuts.filter (· != pid) }
    (ch.setFifo n f).w F.LK_FIFO_STAT_CUT_PEND n (b2n (!f.cuts.isEmpty))
  else
    let ch := ch.setFifo n { f with pkts := f.pkts.map fun p =>
      if p.pid = pid ∧ !p.whole then { p with bytes := data, whole := true } else p }
    ch.inc F.LK_FIFO_RX_BYTES_COUNT n data.length

/-- Takes `n` bytes from the head of the whole packets; an emptied packet leaves. -/
def claimBytes : Nat → List FifoPkt → List (BitVec 8) × List FifoPkt
  | _, [] => ([], [])
  | n, p :: ps =>
    if !p.whole then
      let (d, ps) := claimBytes n ps
      (d, p :: ps)
    else if n = 0 then ([], p :: ps)
    else
      let d := p.bytes.take n
      let rest := p.bytes.drop n
      let (e, ps) := claimBytes (n - d.length) ps
      (d ++ e, if rest.isEmpty then ps else { p with bytes := rest } :: ps)

/-- A tender transfer claims bytes from the head, which leave FILL at once (R360). -/
def Channel.fifoClaim (ch : Channel) (n len : Nat) : Channel × List (BitVec 8) :=
  let (d, ps) := claimBytes len (ch.fifo n).pkts
  (ch.setFifo n { ch.fifo n with pkts := ps }, d)

/-- Cuts one packet: its unclaimed bytes are dropped, and the remaining bytes of an arriving packet will be (R361). -/
def Channel.fifoCutPkt (ch : Channel) (n : Nat) (p : FifoPkt) : Channel :=
  let f := ch.fifo n
  let f := { f with pkts := f.pkts.filter (fun q => q.pid != p.pid), cuts := if p.whole then f.cuts else p.pid :: f.cuts }
  ((ch.setFifo n f).w F.LK_FIFO_STAT_CUT_PEND n (b2n (!f.cuts.isEmpty))).inc F.LK_FIFO_CUT_CNT_COUNT n 1

/-- The place that a packet reserved is given up: the packet will not come in whole (R348). -/
def Channel.fifoDrop (ch : Channel) (n pid : Nat) : Channel :=
  let f := ch.fifo n
  let f := { f with pkts := f.pkts.filter (fun q => q.pid != pid || q.whole), cuts := f.cuts.filter (· != pid) }
  (ch.setFifo n f).w F.LK_FIFO_STAT_CUT_PEND n (b2n (!f.cuts.isEmpty))

/-- CUT: the current packet, the oldest with bytes not yet claimed (R361). -/
def Channel.fifoCut (ch : Channel) (n : Nat) : Channel :=
  match (ch.fifo n).pkts with
  | [] => ch
  | p :: _ => ch.fifoCutPkt n p

/-- FLUSH: every packet (R361). -/
def Channel.fifoFlush (ch : Channel) (n : Nat) : Channel :=
  (ch.fifo n).pkts.foldl (fun ch p => ch.fifoCutPkt n p) ch

/-- The end of a fabric cycle: the FIFO compares FILL with its level (R362). -/
def Channel.fifoLevel (ch : Channel) (n : Nat) : Channel :=
  let f := ch.fifo n
  let t := ch.eff F.LK_FIFO_CFG_LEVEL n * 64
  let ch' := ch.setFifo n { f with prev := f.fill }
  if t = 0 ∨ t ≤ f.prev ∨ f.fill < t then ch'
  else
    let ch := ch'.w F.LK_FIFO_STAT_LVL n 1
    let ch := if ch.eff F.LK_FIFO_CFG_TGT_HOST n = 1 then ch.tell (.msix (ch.eff F.LK_FIFO_CFG_VEC n)) else ch
    if ch.eff F.LK_FIFO_CFG_TGT_BP n = 1 then
      let g := 48 * ch.eff F.LK_FIFO_CFG_ROW n + ch.eff F.LK_FIFO_CFG_COL n
      if g < 1536 then ch.bpInc g (ch.eff F.LK_FIFO_CFG_BP n) true 1 none else ch
    else ch

end Sys2Proof.Machine
end

