-- ==== Sys2Proof/Machine/Arbiter.lean ====
section
/-! DEFINITION. The shared arbiter (R163 to R171): one decision, one beat, and the register group that counts them. -/

namespace Sys2Proof.Machine

/-- Limits of an arbiter instance (R171). -/
structure ArbCfg where
  burst : Nat
  wait  : Nat
  hold  : Nat
  deriving DecidableEq, Repr

/-- What one decision has to report. -/
structure ArbNote where
  forced  : Bool := false
  preempt : Bool := false
  stale   : Bool := false
  cut     : Option Nat := none
  deriving DecidableEq, Repr

/-- The hold limit in use: none when HOLD_LIM is 0 (R167). -/
def ArbCfg.limit (c : ArbCfg) : Option Nat :=
  if c.hold = 0 then none else some (if c.burst = 0 then c.hold else max c.hold c.burst)

/-- A grant that has lasted `n` slots has reached the hold limit (R167). -/
def ArbCfg.atLimit (c : ArbCfg) (n : Nat) : Bool :=
  match c.limit with
  | some l => decide (l ≤ n)
  | none => false

/-- A requester drops to the lowest rank (R164). -/
def rankLast (ranks : List Nat) (r : Nat) : List Nat := ranks.filter (· != r) ++ [r]

/-- The winner of a new grant among the requesters that satisfy `req`, and whether it was forced (R164, R166). -/
def ArbSt.winner (a : ArbSt) (cfg : ArbCfg) (req : Nat → Bool) : Option (Nat × Bool) :=
  let asking := a.ranks.filter req
  let due := fun r => cfg.wait != 0 && decide (cfg.wait ≤ a.waits.getD r 0)
  match asking.find? due with
  | some r => some (r, true)
  | none => asking.head?.map fun r => (r, false)

/-- The state with the owner of the next slot, and with every wait count advanced (R165): `skip` is a suspended or
cut-off requester, whose count does not advance in this decision. -/
def ArbSt.next (a : ArbSt) (owner : Option Nat) (beats held : Nat) (req : Nat → Bool) (skip : Option Nat) : ArbSt :=
  { a with owner := owner, moved := false, beats := beats, held := held,
           waits := (a.waits.zip (upto 3)).map fun (w, r) =>
             if owner = some r then 0 else if skip = some r then w else if req r then w + 1 else w }

/-- A new grant (R164): the winner drops to the lowest rank. -/
def ArbSt.grant (a : ArbSt) (cfg : ArbCfg) (req : Nat → Bool) (skip : Option Nat) : ArbSt × Bool :=
  match a.winner cfg req with
  | some (r, f) => ({ a with ranks := rankLast a.ranks r }.next (some r) 0 0 req skip, f)
  | none => (a.next none 0 0 req skip, false)

/-- The emergency source that may own the next slot: the first named has precedence (R168). -/
def emergency (req : Nat → Bool) : Option Nat := if req 3 then some 3 else if req 4 then some 4 else none

/-- No grant is suspended: the emergency request, unless it is barred, or a new grant (R164, R168). -/
def ArbSt.choose (a : ArbSt) (cfg : ArbCfg) (req : Nat → Bool) (skip : Option Nat) : ArbSt × Bool :=
  let others := (upto 3).any req
  match emergency req with
  | some e =>
    if a.barred && others then a.grant cfg req skip
    else ({ a with barred := false }.next (some e) 0 0 req skip, false)
  | none => a.grant cfg req skip

/-- One decision for the next slot (R163 to R169). -/
def ArbSt.decide (a : ArbSt) (cfg : ArbCfg) (req : Nat → Bool) : ArbSt × ArbNote :=
  let lasted := a.held + 1
  match a.owner with
  | none =>
    let (b, f) := a.choose cfg req none
    (b, { forced := f })
  | some o =>
    if o < 3 then
      let keep := req o && (cfg.burst == 0 || Nat.blt a.beats cfg.burst)
      let stale := !req o && !a.moved && a.held == 0 && a.beats == 0
      if keep && cfg.atLimit lasted then
        let a := { a with barred := false, ranks := rankLast a.ranks o, waits := setAt a.waits o 0 }
        let (b, f) := a.choose cfg req (some o)
        (b, { forced := f, cut := some o })
      else if keep then
        match emergency req with
        | some e =>
          if a.barred then (a.next (some o) a.beats lasted req none, {})
          else ({ a with susp := some (o, a.beats, lasted) }.next (some e) 0 0 req (some o), { preempt := true })
        | none => (a.next (some o) a.beats lasted req none, {})
      else
        let (b, f) := { a with barred := false }.choose cfg req none
        (b, { forced := f, stale := stale })
    else
      let want := emergency req
      let same := want == some o
      let cut := same && cfg.atLimit lasted
      let a := if cut then { a with barred := true } else a
      if want.isSome && !cut then
        let skip := a.susp.map (·.1)
        (a.next want 0 (if same then lasted else 0) req skip, {})
      else
        let note : ArbNote := { cut := if cut then some o else none }
        match a.susp with
        | some (r, b, h) =>
          let a := { a with susp := none }
          if req r then (a.next (some r) b h req none, note)
          else
            let (b, f) := a.choose cfg req none
            (b, { note with forced := f })
        | none =>
          let (b, f) := a.choose cfg req none
          (b, { note with forced := f })

/-- The owner moves its beat of the slot (R164, R165). -/
def ArbSt.beat (a : ArbSt) : ArbSt := { a with moved := true, beats := a.beats + 1 }

/-- The fields of an arbiter register group (R171). -/
structure ArbRegs where
  burst : Fld
  wait  : Fld
  hold  : Fld
  cut   : Fld
  force : Fld
  pre   : Fld
  cutReq : Fld
  cutInst : Fld
  forceCnt : Fld
  cutCnt : Fld
  preCnt : Fld
  staleCnt : Fld

/-- The group of the 16 bank ports of a lantern. -/
def lnArb : ArbRegs where
  burst := F.LN_ARB_CFG_BURST
  wait := F.LN_ARB_CFG_WAIT_LIM
  hold := F.LN_ARB_CFG_HOLD_LIM
  cut := F.LN_ARB_STAT_CUT
  force := F.LN_ARB_STAT_FORCE
  pre := F.LN_ARB_STAT_PREEMPT
  cutReq := F.LN_ARB_STAT_CUT_REQ
  cutInst := F.LN_ARB_STAT_CUT_INST
  forceCnt := F.LN_ARB_FORCE_CNT_COUNT
  cutCnt := F.LN_ARB_CUT_CNT_COUNT
  preCnt := F.LN_ARB_PREEMPT_CNT_COUNT
  staleCnt := F.LN_ARB_STALE_CNT_COUNT

/-- The group of the HBM controller ports. -/
def hmArb : ArbRegs where
  burst := F.HM_ARB_CFG_BURST
  wait := F.HM_ARB_CFG_WAIT_LIM
  hold := F.HM_ARB_CFG_HOLD_LIM
  cut := F.HM_ARB_STAT_CUT
  force := F.HM_ARB_STAT_FORCE
  pre := F.HM_ARB_STAT_PREEMPT
  cutReq := F.HM_ARB_STAT_CUT_REQ
  cutInst := F.HM_ARB_STAT_CUT_INST
  forceCnt := F.HM_ARB_FORCE_CNT_COUNT
  cutCnt := F.HM_ARB_CUT_CNT_COUNT
  preCnt := F.HM_ARB_PREEMPT_CNT_COUNT
  staleCnt := F.HM_ARB_STALE_CNT_COUNT

/-- The group of a link egress. -/
def lkArb : ArbRegs where
  burst := F.LK_ARB_CFG_BURST
  wait := F.LK_ARB_CFG_WAIT_LIM
  hold := F.LK_ARB_CFG_HOLD_LIM
  cut := F.LK_ARB_STAT_CUT
  force := F.LK_ARB_STAT_FORCE
  pre := F.LK_ARB_STAT_PREEMPT
  cutReq := F.LK_ARB_STAT_CUT_REQ
  cutInst := F.LK_ARB_STAT_CUT_INST
  forceCnt := F.LK_ARB_FORCE_CNT_COUNT
  cutCnt := F.LK_ARB_CUT_CNT_COUNT
  preCnt := F.LK_ARB_PREEMPT_CNT_COUNT
  staleCnt := F.LK_ARB_STALE_CNT_COUNT

/-- The limits in effect of a group; `n` is its number among groups of the same kind. -/
def ArbRegs.cfg (x : ArbRegs) (r : Regs) (n : Nat) : ArbCfg where
  burst := r.get x.burst n
  wait := r.get x.wait n
  hold := r.get x.hold n

/-- A decision is counted in its register group (R166 to R169); `inst` is the instance within the group. -/
def ArbRegs.note (x : ArbRegs) (r : Regs) (n inst : Nat) (t : ArbNote) : Regs :=
  let r := if t.forced then (r.inc x.forceCnt n 1).put x.force n 1 else r
  let r := if t.preempt then (r.inc x.preCnt n 1).put x.pre n 1 else r
  let r := if t.stale then r.inc x.staleCnt n 1 else r
  match t.cut with
  | some q => (((r.inc x.cutCnt n 1).put x.cut n 1).put x.cutReq n q).put x.cutInst n inst
  | none => r

end Sys2Proof.Machine
end

