-- ==== Sys2Proof/Machine/Gf.lean ====
section
/-! DEFINITION. Reed–Solomon codes over GF(2^m) (R310, R336, R337): encoding, and decoding. -/

namespace Sys2Proof.Machine

/-- A field GF(2^m) with the symbols of one code over it: `par` check symbols, whose generator has the roots α^0 to
α^(par − 1). -/
structure RsCode where
  m    : Nat
  /-- The field polynomial, without its leading term. -/
  poly : Nat
  par  : Nat
  /-- Symbols that the decoder corrects at most. -/
  t    : Nat
  deriving DecidableEq, Repr

/-- The code of one HBM access (R310). -/
def rsHbm : RsCode := { m := 8, poly := 0x1D, par := 8, t := 3 }
/-- The RS FEC of a P2 port (R336). -/
def rsLink : RsCode := { m := 10, poly := 0x9, par := 30, t := 15 }
/-- The light FEC (R337). -/
def rsLight : RsCode := { m := 8, poly := 0x1D, par := 2, t := 1 }

/-- Product by α. -/
def RsCode.xt (c : RsCode) (a : Nat) : Nat :=
  let d := a <<< 1
  if d < 2 ^ c.m then d else (d - 2 ^ c.m) ^^^ c.poly

/-- Product of `a` with the low `n` bits of `b`, highest bit first. -/
def RsCode.mulN (c : RsCode) (a b : Nat) : Nat → Nat
  | 0 => 0
  | n + 1 =>
    let r := c.mulN a (b >>> 1) n
    let r := c.xt r
    if b % 2 = 1 then r ^^^ a else r

/-- Product in the field. -/
def RsCode.mul (c : RsCode) (a b : Nat) : Nat := if a = 0 ∨ b = 0 then 0 else c.mulN a b c.m

/-- `a` to the power `n`; `fuel` bounds the bits of `n`. -/
def RsCode.powF (c : RsCode) : Nat → Nat → Nat → Nat
  | 0, _, _ => 1
  | fuel + 1, a, n =>
    if n = 0 then 1
    else
      let r := c.powF fuel (c.mul a a) (n / 2)
      if n % 2 = 1 then c.mul r a else r

/-- α^n. -/
def RsCode.alpha (c : RsCode) (n : Nat) : Nat := c.powF 16 2 (n % (2 ^ c.m - 1))

/-- The inverse of a non-zero element. -/
def RsCode.inv (c : RsCode) (a : Nat) : Nat := c.powF 16 a (2 ^ c.m - 2)

/-- The value at `x` of a polynomial, its coefficient of the highest power first. -/
def RsCode.evalHi (c : RsCode) (x : Nat) (ws : List Nat) : Nat := ws.foldl (fun r w => c.mul r x ^^^ w) 0

/-- The value at `x` of a polynomial, its constant term first. -/
def RsCode.evalLo (c : RsCode) (x : Nat) (ws : List Nat) : Nat := ws.foldr (fun w r => c.mul r x ^^^ w) 0

/-- The syndromes of a received word. -/
def RsCode.synd (c : RsCode) (ws : List Nat) : List Nat := (upto c.par).map fun i => c.evalHi (c.alpha i) ws

/-- Adds two polynomials, constant terms first. -/
def polyAdd : List Nat → List Nat → List Nat
  | [], ys => ys
  | xs, [] => xs
  | x :: xs, y :: ys => (x ^^^ y) :: polyAdd xs ys

/-- The generator, its coefficient of the highest power first (R310, R336, R337). -/
def RsCode.gen (c : RsCode) : List Nat :=
  (upto c.par).foldl (fun g i => polyAdd ((g ++ [0]).reverse) ((g.map (c.mul (c.alpha i))).reverse) |>.reverse) [1]

/-- One step of the division by the generator: the remainder's symbols, highest first. -/
def RsCode.encStep (c : RsCode) (g : List Nat) (r : List Nat) (w : Nat) : List Nat :=
  let f := w ^^^ r.headD 0
  ((r.drop 1 ++ [0]).zip (g.drop 1)).map fun (a, b) => a ^^^ c.mul f b

/-- The check symbols of a message, its first symbol the coefficient of the highest power. -/
def RsCode.encode (c : RsCode) (msg : List Nat) : List Nat :=
  let g := c.gen
  msg.foldl (c.encStep g) (List.replicate c.par 0)

/-- State of the Berlekamp–Massey algorithm: the locator, the last locator before a length change, the length, the
shift and that change's discrepancy. -/
structure Bm where
  sig : List Nat
  old : List Nat
  len : Nat
  sh  : Nat
  dis : Nat

/-- One iteration over syndrome `n`. -/
def RsCode.bmStep (c : RsCode) (s : List Nat) (b : Bm) (n : Nat) : Bm :=
  let d := (upto (b.len + 1)).foldl (fun d i => d ^^^ (if i ≤ n then c.mul (b.sig.getD i 0) (s.getD (n - i) 0) else 0)) 0
  if d = 0 then { b with sh := b.sh + 1 }
  else
    let f := c.mul d (c.inv b.dis)
    let t := polyAdd b.sig (List.replicate b.sh 0 ++ b.old.map (c.mul f))
    if 2 * b.len ≤ n then { sig := t, old := b.sig, len := n + 1 - b.len, sh := 1, dis := d }
    else { b with sig := t, sh := b.sh + 1 }

/-- The product of two polynomials up to the power `n − 1`, constant terms first. -/
def RsCode.mulPoly (c : RsCode) (n : Nat) (xs ys : List Nat) : List Nat :=
  (upto n).map fun k => (upto (k + 1)).foldl (fun r i => r ^^^ c.mul (xs.getD i 0) (ys.getD (k - i) 0)) 0

/-- The errors that a received word of `n` symbols holds, as position from the first symbol and value: none when it can
correct none of at most `t` symbols. -/
def RsCode.decode (c : RsCode) (ws : List Nat) : Option (List (Nat × Nat)) :=
  let s := c.synd ws
  if s.all (· == 0) then some []
  else
    let b := (upto c.par).foldl (c.bmStep s) { sig := [1], old := [1], len := 0, sh := 1, dis := 1 }
    if c.t < b.len then none
    else
      let n := ws.length
      let om := c.mulPoly c.par s b.sig
      let der := (upto b.sig.length).map fun i => if i % 2 = 0 then b.sig.getD (i + 1) 0 else 0
      let pos := (upto n).filter fun p => c.evalLo (c.inv (c.alpha (n - 1 - p))) b.sig == 0
      let es := pos.map fun p =>
        let x := c.alpha (n - 1 - p)
        let xi := c.inv x
        (p, c.mul x (c.mul (c.evalLo xi om) (c.inv (c.evalLo xi der))))
      let fixed := es.foldl (fun ws (e : Nat × Nat) => modAt ws e.1 (· ^^^ e.2)) ws
      if pos.length = b.len ∧ (c.synd fixed).all (· == 0) then some es else none

end Sys2Proof.Machine
end

