-- ==== Sys2Proof/Machine/Hbm.lean ====
section
/-! DEFINITION. The memory controller of a channel: share gate, ports, decode outcomes, refresh, scrubbing, read centring,
translation and the host-line directory (R298 to R322, R379). -/

namespace Sys2Proof.Machine

/-! ### Lines and requests -/

/-- Pseudo-channel of a line (R300). -/
def hbmPc (line : Nat) : Nat := bits line 7 2 ^^^ bits line 13 8

/-- UNIT of the pseudo-channel that holds a line (R418). -/
def Channel.pcUnit (ch : Channel) (line : Nat) : Nat := unitWord ch.no 8 0 (hbmPc line) 0

/-- Applies `f` to the memory controller. -/
def Channel.modHbm (ch : Channel) (f : Hbm → Hbm) : Channel := { ch with hbm := f ch.hbm }

/-- A controller port. -/
def Hbm.port (h : Hbm) (p : Nat) : HPort := h.ports.getD p {}

/-- Applies `f` to a controller port. -/
def Hbm.modPort (h : Hbm) (p : Nat) (f : HPort → HPort) : Hbm := { h with ports := h.ports.put p (f (h.port p)) }

/-- The admission queue of a class, or the debug port's queue under 4. -/
def HPort.queue (p : HPort) (c : Nat) : List HReq := p.q.getD c []

/-- A request arrives at the share gate (R306). -/
def Channel.gatePush (ch : Channel) (r : HReq) : Channel := ch.modHbm fun h => { h with gate := h.gate ++ [r] }

/-- A line lies in the keeper area or the dump area (R320). -/
def protectedLine (line : Nat) : Bool := decide (0xFE0000000 / 64 ≤ line)

/-- A request covers every byte of its line. -/
def HReq.full (r : HReq) : Bool := r.mask.all id

/-- What a step of the controller hands back to the requester: the data of a read with an error indication, or the
acceptance of a write. -/
structure HDone where
  r    : HReq
  data : List (BitVec 8) := []
  bad  : Bool := false
  prot : Bool := false

/-- 64 zero bytes. -/
def zeroLine : List (BitVec 8) := List.replicate 64 0

/-! ### The host-line directory (R379) -/

/-- A host access passes the directory: the host's own accesses do not wait. -/
def HReq.ofHost (r : HReq) : Bool :=
  match r.dst with
  | .host _ => true
  | _ => false

/-- Sends BISnpInv for a directory line, once. -/
def Channel.snoop (ch : Channel) (line : Nat) : Channel :=
  ch.modHbm fun h => { h with dir := h.dir.map fun e => if e.1 = line then (e.1, true) else e }

/-- A request waits for the directory: its line is held by the host, or the directory has no room for it. -/
def Channel.dirBlocks (ch : Channel) (r : HReq) : Bool :=
  if r.ofHost then r.enter && decide (65536 ≤ ch.hbm.dir.length) && !(ch.hbm.dir.any fun e => e.1 == r.line)
  else ch.hbm.dir.any fun e => e.1 == r.line

/-- The back-invalidation that a waiting request starts: of its line, or of the oldest entry of a full directory. -/
def Channel.dirSnoop (ch : Channel) (r : HReq) : Channel :=
  if !ch.dirBlocks r then ch
  else if r.ofHost then
    match ch.hbm.dir with
    | e :: _ => ch.snoop e.1
    | [] => ch
  else ch.snoop r.line

/-- BIRspI arrives, after the host's write-back if it sent one (R379). -/
def Channel.biRsp (ch : Channel) (line : Nat) (wb : Option (List (BitVec 8))) : Channel :=
  if ch.hbm.dir.contains (line, true) then
    let ch := match wb with
      | none => ch
      | some d => ch.modHbm fun h =>
          { h with mem := h.mem.wrN (64 * line) (fitTo 64 0 d), poison := h.poison.filter (· != line) }
    (ch.modHbm fun h => { h with dir := h.dir.filter fun e => e.1 != line }).tell .biSnp
  else ch

/-- BIRspI has not arrived within HP_BI_CFG.TMO (R379). -/
def Channel.biTimeout (ch : Channel) (line : Nat) : Channel :=
  if ch.hbm.dir.contains (line, true) then
    ((ch.modHbm fun h => { h with dir := h.dir.filter fun e => e.1 != line }).tell .biTmo).raise
      0x66 (ch.pcUnit line) none 0
  else ch

/-! ### Windows and the share gate (R304 to R306) -/

/-- A window begins: budgets are taken from the shares in effect, and the counts return to 0 (R304, R307). -/
def Channel.windowStart (ch : Channel) : Channel :=
  let n := ch.r F.HM_WINDOW_LINES_LINES
  let b := fun f => n * ch.r f / 32
  let lend := ch.r F.HM_SHARE_LEND = 1
  ch.modHbm fun h =>
    { h with cnt := [0, 0, 0], bud := [b F.HM_SHARE_READ, b F.HM_SHARE_WRITE, b F.HM_SHARE_REMOTE],
             lend := lend, lending := false }

/-- Cycle 250 − LEND_TB of the window: lending begins (R305). -/
def Channel.lendStart (ch : Channel) : Channel :=
  ch.modHbm fun h => { h with lending := h.lend }

/-- The counter of admitted lines of a class (R322). -/
def linesFld (cls : Nat) : Fld :=
  if cls = 0 then F.HM_LINES_RD_COUNT else if cls = 1 then F.HM_LINES_WR_COUNT else F.HM_LINES_RM_COUNT

/-- The counter of waiting cycles of a class (R306). -/
def waitFld (cls : Nat) : Fld :=
  if cls = 0 then F.HM_WAIT_RD_CY_COUNT else if cls = 1 then F.HM_WAIT_WR_CY_COUNT else F.HM_WAIT_RM_CY_COUNT

/-- The class has budget left (R304). -/
def Hbm.inBudget (h : Hbm) (cls : Nat) : Bool := decide (h.cnt.getD cls 0 < h.bud.getD cls 0)

/-- The class may borrow (R305). -/
def Channel.mayBorrow (ch : Channel) : Bool :=
  ch.hbm.lending && decide (ch.hbm.cnt.foldl (· + ·) 0 < ch.r F.HM_WINDOW_LINES_LINES)

/-- One line is counted as admitted in its class (R304, R305). -/
def Channel.countLine (ch : Channel) (cls : Nat) : Channel :=
  let ch := if ch.hbm.inBudget cls then ch else ch.inc F.HM_LEND_CNT_COUNT 0 1
  (ch.modHbm fun h => { h with cnt := modAt h.cnt cls (· + 1) }).inc (linesFld cls) 0 1

/-- The request of the class that has waited longest, the requests in front of it, and those behind. -/
def gateSplit (cls : Nat) (gate : List HReq) : Option (List HReq × HReq × List HReq) :=
  match gate.span (fun r => r.cls != cls) with
  | (front, r :: back) => some (front, r, back)
  | (_, []) => none

/-- A tender or remote access, or a host write, to a protected region is refused (R321). -/
def HReq.refusedIn (r : HReq) : Bool :=
  protectedLine r.line &&
    match r.dst with
    | .xfer .. => true
    | .list .. => true
    | .remote .. => true
    | .host _ => r.wr
    | _ => false

/-- The refusal of one line (R321): counted, and recorded but for a host write. -/
def Channel.refuseLine (ch : Channel) (r : HReq) : Channel :=
  let ch := ch.inc F.HM_PROT_CNT_COUNT 0 1
  if r.ofHost then ch
  else (ch.w F.HM_STATUS_PROT 0 1).raise 0x65 (ch.pcUnit r.line) r.ctx 0

/-- The share gate admits the waiting request of a class (R303 to R306). -/
def Channel.gateAdmit (ch : Channel) (cls : Nat) : Channel × Option HDone :=
  match gateSplit cls ch.hbm.gate with
  | none => (ch, none)
  | some (front, r, back) =>
    let p := hbmPc r.line
    let ordered := !(front.any fun q => q.src == r.src && q.line == r.line)
    let room := decide (((ch.hbm.port p).queue cls).length < 16)
    if ordered && room && (ch.hbm.inBudget cls || ch.mayBorrow) then
      let ch := ch.countLine cls
      let ch := ch.modHbm fun h => { h with gate := front ++ back }
      if r.refusedIn then
        (ch.refuseLine r, some { r := r, data := if r.wr then [] else zeroLine, prot := true })
      else
        let r := { r with adm := 3 * ch.hbm.mcy + cls }
        let ch := ch.modHbm (·.modPort p fun q => { q with q := q.q.put cls (q.queue cls ++ [r]) })
        (ch.dirSnoop r, if r.wr then some { r := r } else none)
    else (ch, none)

/-! ### Ports and the command queue (R302, R303) -/

/-- Writes a request's bytes; a full line clears the poison (R312). -/
def Hbm.store (h : Hbm) (r : HReq) : Hbm :=
  { h with mem := h.mem.wrMask (64 * r.line) r.data r.mask,
           poison := if r.full then h.poison.filter (· != r.line) else h.poison }

/-- Serves the full-line writes of a command queue that no earlier request for their line precedes (R303). `seen` are the
lines of the requests passed over. -/
def serveWrites : Hbm → List Nat → List HReq → Hbm × List HReq
  | h, _, [] => (h, [])
  | h, seen, r :: rs =>
    if r.wr && r.full && !(seen.contains r.line) then serveWrites (h.store r) seen rs
    else
      let (h, left) := serveWrites h (r.line :: seen) rs
      (h, r :: left)

/-- Brings a port's command queue to rest. -/
def Hbm.settle (h : Hbm) (p : Nat) : Hbm :=
  let (h, left) := serveWrites h [] (h.port p).cmd
  h.modPort p fun q => { q with cmd := left }

/-- No earlier admitted request for the line still waits in a class queue of the port (R303). -/
def HPort.mayPass (q : HPort) (r : HReq) : Bool :=
  (upto 3).all fun c => (q.queue c).all fun x => !(x.line == r.line && Nat.blt x.adm r.adm)

/-- A write that enters the command queue overtakes the write-back of a scrub read of its line (R313). -/
def Hbm.overtake (h : Hbm) (r : HReq) : Hbm :=
  if r.wr then { h with wbs := h.wbs.filter fun x => x.1 != r.line } else h

/-- The owner of a slot moves its head request one beat, if it can (R301 to R303, R379). The Bool says that a beat moved. A request of
a class moves after the cycle of its admission, when its order among the requests of that cycle stands (log entry 104). -/
def Channel.portBeat (ch : Channel) (p c : Nat) : Channel × Bool :=
  let q := ch.hbm.port p
  match q.queue c with
  | [] => (ch, false)
  | r :: rs =>
    if ch.dirBlocks r then (ch.dirSnoop r, false)
    else if c < 3 && (!q.mayPass r || r.adm / 3 == ch.hbm.mcy) then (ch, false)
    else if 32 ≤ q.cmd.length then (ch, false)
    else if r.wr && !r.full && !r.half then
      (ch.modHbm (·.modPort p fun q => { q with q := q.q.put c ({ r with half := true } :: rs) }), true)
    else
      let ch := ch.modHbm fun h =>
        (h.overtake r).modPort p fun q => { q with q := q.q.put c rs, cmd := q.cmd ++ [r] }
      let ch := if r.enter && !(ch.hbm.dir.any fun e => e.1 == r.line) then
          ch.modHbm fun h => { h with dir := h.dir ++ [(r.line, false)] }
        else ch
      (ch.modHbm (·.settle p), true)

/-- One owed refresh command issues (R308). -/
def HPort.refresh (q : HPort) : HPort := { q with owed := q.owed - 1, em := q.em && decide (1 < q.owed) }

/-- A requester of the port asks for the slot: classes 0 to 2, refresh 3, debug port 4 (R170, R302, R308). -/
def HPort.asks (q : HPort) (c : Nat) : Bool := if c = 3 then q.em else !(q.queue c).isEmpty

/-- A controller cycle ends: the waits at the gate are counted (R306). -/
def Channel.hbmCycle (ch : Channel) : Channel :=
  let ch := (upto 3).foldl (fun ch c => if ch.hbm.gate.any (fun r => r.cls == c) then ch.inc (waitFld c) 0 1 else ch) ch
  ch.modHbm fun h => { h with mcy := h.mcy + 1 }

/-- Write-backs of scrub reads are made in a slot of their port that nothing else wants (R312, R313). -/
def Channel.scrubWrite (ch : Channel) (p : Nat) : Channel :=
  (ch.hbm.wbs.filter fun x => hbmPc x.1 == p).foldl (fun ch x =>
    let ch := ch.modHbm fun h =>
      { h with mem := h.mem.wrN (64 * x.1) x.2.1, wbs := h.wbs.filter fun y => y.1 != x.1,
               poison := if x.2.2 && !h.poison.contains x.1 then x.1 :: h.poison else h.poison }
    if x.2.2 then ch.inc F.HM_POISON_WR_CNT_COUNT 0 1 else ch) ch

/-- One slot of a controller port (R164 to R169, R302): the owner moves its beat, an owed refresh or a scrub's write-back uses an
idle slot, and the arbiter decides for the next slot. Each port has one slot in a controller cycle, so a second slot of a port is of the
next cycle. -/
def Channel.hbmSlot (ch : Channel) (p : Nat) : Channel :=
  let ch := if (ch.hbm.port p).slot = some ch.hbm.mcy then ch.hbmCycle else ch
  let ch := ch.modHbm fun h => h.modPort p fun q => { q with slot := some h.mcy }
  let q := ch.hbm.port p
  let (ch, moved) := match q.arb.owner with
    | some 3 => (ch.modHbm (·.modPort p HPort.refresh), true)
    | some c => ch.portBeat p c
    | none =>
      if !(upto 3).all (fun c => (q.queue c).isEmpty) then (ch, false)
      else if 0 < q.owed then (ch.modHbm (·.modPort p HPort.refresh), false)
      else (ch.scrubWrite p, false)
  let q := ch.hbm.port p
  let arb := if moved then q.arb.beat else q.arb
  let (next, note) := arb.decide (hmArb.cfg ch.regs 0) q.asks
  let ch := { ch with regs := hmArb.note ch.regs 0 p note }
  let ch := if next.owner = some 3 ∧ arb.owner ≠ some 3 then ch.inc F.HM_REF_EMERG_CNT_COUNT 0 1 else ch
  let ch := ch.modHbm (·.modPort p fun q => { q with arb := next })
  if note.cut.isSome then ch.raiseOnce (onceKey 0x0E (10000 + p)) 0x0E (unitWord ch.no 8 0 p 0) none 0 else ch

/-! ### Refresh (R308) -/

/-- STATUS.HOT follows the stack's temperature (R308). -/
def Channel.hotSync (ch : Channel) : Channel :=
  let hot := decide (((ch.eff F.HM_REF_CFG_HOT_C : Nat) : Int) < sext 8 (ch.r F.HM_TEMP_STACK_C))
  ch.w F.HM_STATUS_HOT 0 (b2n hot)

/-- A pseudo-channel owes one more refresh command (R308). -/
def Channel.refreshDue (ch : Channel) (p : Nat) : Channel :=
  (ch.hotSync).modHbm (·.modPort p fun q => { q with owed := q.owed + 1 })

/-- The owed commands have reached POSTPONE (R308). -/
def Channel.refreshEmergency (ch : Channel) (p : Nat) : Channel :=
  if 0 < (ch.hbm.port p).owed ∧ ch.eff F.HM_REF_CFG_POSTPONE ≤ (ch.hbm.port p).owed then
    ch.modHbm (·.modPort p fun q => { q with em := true })
  else ch

/-! ### Decode outcomes (R309 to R312) -/

/-- Outcome of a decode: the data, the corrected symbols, or none when it is uncorrectable. -/
structure Decoded where
  data : List (BitVec 8)
  fixed : Option (List (Nat × Nat))
  poisoned : Bool

/-- Applies symbol errors to the data symbols of a line: symbol `i` is byte `i`. -/
def symErr (d : List (BitVec 8)) (es : List (Nat × Nat)) : List (BitVec 8) :=
  es.foldl (fun d e => modAt d e.1 (· ^^^ BitVec.ofNat 8 e.2)) d

/-- Reads a line through the decoder; `errs` are the symbols in error, which the environment names (R310, R312). -/
def Hbm.decode (h : Hbm) (line : Nat) (errs : List (Nat × Nat)) : Decoded :=
  let d := h.mem.rdN (64 * line) 64
  let errs := errs.filter fun e => decide (e.1 < 72)
  let word := errs.foldl (fun w (e : Nat × Nat) => modAt w e.1 (· ^^^ (e.2 % 256))) (List.replicate 72 0)
  if h.poison.contains line then { data := symErr d errs, fixed := none, poisoned := true }
  else match rsHbm.decode word with
    | none => { data := symErr d errs, fixed := none, poisoned := false }
    | some es => { data := symErr (symErr d errs) es, fixed := some es, poisoned := false }

/-- A corrected read is counted, logged and recorded (R311). -/
def Channel.hbmCorrected (ch : Channel) (line : Nat) (es : List (Nat × Nat)) : Channel :=
  let pin := (es.headD (0, 0)).1 / 2
  let ch := (ch.inc F.HM_CE_CNT_COUNT 0 1).w F.HM_STATUS_CE 0 1
  let ch := (ch.w F.HM_CE_LOG_LINE 0 line).w F.HM_CE_LOG_PC 0 (hbmPc line)
  let ch := (ch.w F.HM_CE_LOG_PIN 0 pin).w F.HM_CE_LOG_MULTI 0 (b2n (es.any fun e => e.1 / 2 != pin))
  ch.raiseOnce (onceKey 0x60 0) 0x60 (ch.pcUnit line) none 0

/-- HM_UE_LOG captures a line (R311, R313). -/
def Channel.ueLog (ch : Channel) (line cls : Nat) (poison : Bool) : Channel :=
  (((ch.w F.HM_UE_LOG_LINE 0 line).w F.HM_UE_LOG_PC 0 (hbmPc line)).w F.HM_UE_LOG_CLASS 0 cls).w
    F.HM_UE_LOG_POISON 0 (b2n poison)

/-- An uncorrectable or poisoned read is counted, logged and recorded (R311). -/
def Channel.hbmUncorrectable (ch : Channel) (r : HReq) (poison : Bool) : Channel :=
  let ch := ((ch.inc F.HM_UE_CNT_COUNT 0 1).w F.HM_STATUS_UE 0 1).ueLog r.line r.cls poison
  ch.raise 0x61 (ch.pcUnit r.line) r.ctx 0

/-- One read for a request: what R311 counts and records. The Bool says that it is uncorrectable. -/
def Channel.hbmRead (ch : Channel) (r : HReq) (errs : List (Nat × Nat)) (odecc : Bool) :
    Channel × List (BitVec 8) × Bool :=
  let ch := if odecc then ch.inc F.HM_ODECC_CNT_COUNT 0 1 else ch
  let d := ch.hbm.decode r.line errs
  match d.fixed with
  | some [] => (ch, d.data, false)
  | some es => (ch.hbmCorrected r.line es, d.data, false)
  | none => (ch.hbmUncorrectable r d.poisoned, d.data, true)

/-- Takes entry `i` of a port's command queue, if no earlier entry holds the same line (R303). -/
def Hbm.takeCmd (h : Hbm) (p i : Nat) : Option (HReq × Hbm) :=
  let cmd := (h.port p).cmd
  match cmd[i]? with
  | none => none
  | some r =>
    if (cmd.take i).any (fun x => x.line == r.line) then none
    else some (r, h.modPort p fun q => { q with cmd := dropAt q.cmd i })

/-- A pin of a pseudo-channel counts the mismatches of its second sampler, whose side alternates from read to read
(R314). -/
def Hbm.centre (h : Hbm) (p : Nat) (miss : List Nat) : Hbm :=
  let early := (h.port p).used % 2 = 0
  let h := miss.foldl (fun h pin =>
    if 36 ≤ pin then h
    else
      let k := 36 * p + pin
      let x := h.pins.getD k {}
      { h with pins := h.pins.put k (if early then { x with early := x.early + 1 } else { x with late := x.late + 1 }) }) h
  h.modPort p fun q => { q with used := q.used + 1 }

/-- A read without error is used for the centring of its pseudo-channel's pins (R314). -/
def Channel.useRead (ch : Channel) (p : Nat) (clean : Bool) (miss : List Nat) : Channel :=
  if clean && ch.eff F.HM_RETRAIN_CFG_EN == 1 then ch.modHbm (·.centre p miss) else ch

/-- A DRAM read completes (R311, R314): its data goes to the requester, as 64 zero bytes when it is uncorrectable. -/
def Channel.hbmReadComplete (ch : Channel) (p i : Nat) (errs : List (Nat × Nat)) (odecc : Bool) (miss : List Nat) :
    Channel × Option HDone :=
  match ch.hbm.takeCmd p i with
  | none => (ch, none)
  | some (r, h) =>
    if r.wr then (ch, none)
    else
      let clean := (h.decode r.line errs).fixed == some []
      let (ch, d, bad) := ({ ch with hbm := h }).hbmRead r errs odecc
      ((ch.useRead p clean miss).modHbm (·.settle p), some { r := r, data := if bad then zeroLine else d, bad := bad })

/-- Marks a line as written with every check symbol inverted (R312). -/
def Channel.poisonLine (ch : Channel) (line : Nat) : Channel :=
  (ch.modHbm fun h => { h with poison := if h.poison.contains line then h.poison else line :: h.poison }).inc
    F.HM_POISON_WR_CNT_COUNT 0 1

/-- A partial write is performed (R301, R312, R314). -/
def Channel.hbmMerge (ch : Channel) (p i : Nat) (errs : List (Nat × Nat)) (odecc : Bool) (miss : List Nat) : Channel :=
  match ch.hbm.takeCmd p i with
  | none => ch
  | some (r, h) =>
    if !r.wr || r.full then ch
    else
      let clean := (h.decode r.line errs).fixed == some []
      let (ch, d, bad) := ({ ch with hbm := h }).hbmRead r errs odecc
      let ch := (ch.useRead p clean miss).modHbm fun h =>
        { h with mem := (h.mem.wrN (64 * r.line) d).wrMask (64 * r.line) r.data r.mask }
      let ch := if bad then ch.poisonLine r.line else ch
      ch.modHbm (·.settle p)

/-! ### Scrubbing (R313) -/

/-- A patrol scrub read of one line, in a slot that no class and no refresh wants (R309, R313, R314). Its write-back waits for such a
slot. A line that the host holds is first invalidated (R379). -/
def Channel.scrub (ch : Channel) (line : Nat) (errs : List (Nat × Nat)) (odecc : Bool) (miss : List Nat) : Channel :=
  let q := ch.hbm.port (hbmPc line)
  let idle := (upto 3).all (fun c => (q.queue c).isEmpty) && q.owed == 0 && !(q.cmd.any fun r => r.line == line)
  if ch.eff F.HM_SCRUB_CFG_EN = 0 ∨ !idle ∨ 2 ^ 30 ≤ line then ch
  else if ch.hbm.dir.any (fun e => e.1 == line) then ch.snoop line
  else
    let ch := if odecc then ch.inc F.HM_ODECC_CNT_COUNT 0 1 else ch
    let d := ch.hbm.decode line errs
    let ch := ch.useRead (hbmPc line) (d.fixed == some []) miss
    let back := fun (bad : Bool) (h : Hbm) => { h with wbs := h.wbs.filter (fun x => x.1 != line) ++ [(line, d.data, bad)] }
    match d.fixed with
    | some [] => ch
    | some _ => (ch.modHbm (back false)).inc F.HM_SCRUB_CE_CNT_COUNT 0 1
    | none =>
      let ch := if d.poisoned then ch else ch.modHbm (back true)
      (ch.ueLog line 3 d.poisoned).raise 0x62 (ch.pcUnit line) none 0

/-! ### Read centring (R314) -/

/-- A pin examines its counts after 2^WIN_LOG2 used reads and may move its sampling point. -/
def Channel.retrainExamine (ch : Channel) (p pin : Nat) : Channel :=
  let k := 36 * p + pin
  let x := ch.hbm.pins.getD k {}
  let used := (ch.hbm.port p).used
  if 36 ≤ pin ∨ ch.eff F.HM_RETRAIN_CFG_EN = 0 ∨ used < x.since + 2 ^ ch.eff F.HM_RETRAIN_CFG_WIN_LOG2 then ch
  else
    let th := ch.eff F.HM_RETRAIN_CFG_THRESH
    let move : Int := if x.late + th ≤ x.early ∧ x.late < x.early then 1
      else if x.early + th ≤ x.late ∧ x.early < x.late then -1 else 0
    let steps := x.steps + move
    let far := decide (((ch.eff F.HM_RETRAIN_CFG_LIMIT : Nat) : Int) < Int.natAbs steps)
    let ch := ch.modHbm fun h =>
      { h with pins := h.pins.put k { since := used, early := 0, late := 0, steps := steps, drift := far } }
    let ch := if move = 0 then ch else ch.inc F.HM_RETRAIN_CNT_COUNT 0 1
    if far && !x.drift then ch.raise 0x64 (unitWord ch.no 8 0 p 0) none 0 else ch

/-! ### Translation (R315 to R319) -/

/-- Page of a host-window address (R315). -/
def xltPage (addr : Nat) : Nat := (addr - 0xC000000000) / 2 ^ 21

/-- The cached entry of a page (R318). -/
def Hbm.cached (h : Hbm) (page : Nat) : Option Nat :=
  ((h.xlt.getD (page % 128) []).find? fun e => e.1 == page).map (·.2)

/-- Puts an entry in front of its set; the least recently used of 8 leaves (R318). -/
def Hbm.cachePut (h : Hbm) (page entry : Nat) : Hbm :=
  let set := (h.xlt.getD (page % 128) []).filter fun e => e.1 != page
  { h with xlt := h.xlt.put (page % 128) (((page, entry) :: set).take 8) }

/-- The line of the translation table that holds a page's entry, as o[35:6] (R316). -/
def Channel.xltLine (ch : Channel) (page : Nat) : Nat :=
  ((ch.r F.HM_XLT_CFG_BASE * 65536 + 8 * page) % 2 ^ 36) / 64

/-- The controller reads a page's entry from HBM (R318). -/
def Channel.walkRead (ch : Channel) (page : Nat) : Channel :=
  (ch.modHbm fun h => { h with walks := h.walks.put page { who := (h.walks.getD page {}).who } }).gatePush
    { cls := 0, line := ch.xltLine page, dst := .walk page, src := 2003 }

/-- A miss of stream `who` starts a walk, unless one for the page is in flight; the stream waits for it (R318). -/
def Channel.xltMiss (ch : Channel) (page who : Nat) : Channel :=
  let ch := if (ch.hbm.walks.find page).isSome then ch else (ch.inc F.HM_XLT_MISS_CNT_COUNT 0 1).walkRead page
  ch.modHbm fun h =>
    let w := h.walks.getD page {}
    { h with walks := h.walks.put page { w with who := if w.who.contains who then w.who else w.who ++ [who] } }

/-- A stream waits for no walk any more: the next access to the page reads the entry again (R318). -/
def Channel.xltForget (ch : Channel) (who : Nat) : Channel :=
  ch.modHbm fun h =>
    { h with walks := h.walks.mapV fun _ w => { w with who := w.who.filter (· != who) },
             absent := (h.absent.mapV fun _ ws => ws.filter (· != who)).filter fun e => !e.2.isEmpty }

/-- The walk's line has come back. -/
def Channel.walkData (ch : Channel) (page : Nat) (d : List (BitVec 8)) : Channel :=
  match ch.hbm.walks.find page with
  | none => ch
  | some w =>
    let e := ofBytes ((d.drop (8 * (page % 8))).take 8)
    ch.modHbm fun h => { h with walks := h.walks.put page { w with entry := some e } }

/-- A walk ends: the cache is filled when V is 1, and a walk that an invalidation overtook is repeated (R318). -/
def Channel.xltWalk (ch : Channel) (page : Nat) : Channel :=
  match ch.hbm.walks.find page with
  | some { entry := some e, stale := stale, who := who } =>
    if stale then ch.walkRead page
    else
      ch.modHbm fun h =>
        let h := { h with walks := h.walks.del page }
        if isSet e 0 then h.cachePut page e
        else if who.isEmpty then h else { h with absent := h.absent.put page who }
  | _ => ch

/-- An invalidation names a page. -/
def invNames (i : Option Nat) (page : Nat) : Bool :=
  match i with
  | none => true
  | some p => p == page

/-- An invalidation is performed (R318). -/
def Hbm.invalidate (h : Hbm) (i : Option Nat) : Hbm :=
  { h with xlt := h.xlt.mapV fun _ set => set.filter fun e => !invNames i e.1,
           walks := h.walks.mapV fun page w => if invNames i page then { w with stale := true } else w,
           absent := h.absent.filter fun e => !invNames i e.1 }

/-- The lines lie in a page that an invalidation names. -/
def usesPage (ps : List Place) (i : Option Nat) : Bool :=
  ps.any fun p =>
    match p with
    | .host a _ _ => invNames i (xltPage a)
    | _ => false

/-- The transfers of a lantern whose accesses to the invalidated pages are outstanding: those in the fetch queue, and spilled ones
that wait to be copied to host pages (R241, R318). -/
def Tender.using (t : Tender) (i : Option Nat) : List Nat :=
  (t.fq.filter fun x => usesPage (x.src ++ x.dst) i).map (·.xid) ++
    t.spills.flatMap fun s => (s.parts.filter fun p => !p.sent && usesPage p.dst i).map (·.xid)

/-- The transfers of a lantern that have not made all their accesses. -/
def Tender.unmade (t : Tender) : List Nat :=
  t.fq.flatMap (fun x => x.xid :: x.orig.toList) ++
    t.spills.flatMap fun s => (s.parts.filter fun p => !p.sent).map (·.xid)

/-- An invalidation is performed: the accesses that a removed entry translated are noted (R318). -/
def Channel.invPerform (ch : Channel) (i : Option Nat) : Channel :=
  ch.modHbm fun h =>
    { h.invalidate i with invWait := ch.lans.flatMap fun gl => (gl.2.td.using i).map fun x => (gl.1, x) }

/-- HM_XLT_INV is written (R318). -/
def Channel.xltInv (ch : Channel) (i : Option Nat) : Channel :=
  let ch := if ch.hbm.invs.isEmpty then ch.invPerform i else ch
  (ch.modHbm fun h => { h with invs := h.invs ++ [i] }).w F.HM_STATUS_XLT_BUSY 0 1

/-- No access translated by a removed entry is outstanding (R318). -/
def Channel.invalidateDone (ch : Channel) : Channel :=
  match ch.hbm.invs with
  | [] => ch
  | _ :: rest =>
    if ch.hbm.invWait.any fun x => (ch.lan x.1).td.unmade.contains x.2 then ch
    else
      let ch := ch.modHbm fun h => { h with invs := rest, invWait := [] }
      match rest with
      | [] => ch.w F.HM_STATUS_XLT_BUSY 0 0
      | j :: _ => ch.invPerform j

/-- How one access to a host page comes out: a host address, a fault, or a walk to wait for (R316 to R318). -/
inductive Xlt where
  | at_ (hpa : Nat) (coh : Bool)
  | fault
  | miss
  deriving DecidableEq, Repr

/-- Translates one host-window line address for stream `who` (R315 to R318). -/
def Channel.translate (ch : Channel) (addr who : Nat) (wr : Bool) : Xlt :=
  if ch.r F.HM_XLT_CFG_EN = 0 then .fault
  else match ch.hbm.cached (xltPage addr) with
    | some e =>
      if wr && !isSet e 1 then .fault
      else .at_ (bits e 63 21 * 2 ^ 21 + addr % 2 ^ 21) (isSet e 2)
    | none => if (ch.hbm.absent.getD (xltPage addr) []).contains who then .fault else .miss

/-- The access to a page is made: the cache notes the use (R318). -/
def Channel.touchPage (ch : Channel) (addr : Nat) : Channel :=
  let page := xltPage addr
  ch.modHbm fun h =>
    match h.cached page with
    | some e => h.cachePut page e
    | none => h

/-- Streams are at the basic level, where the keeper writes TD_Sn_CMD (R18, R20). -/
def Channel.keepsStreams (ch : Channel) : Bool := !ch.lv.testBit 2

/-- A translation fault of stream `who` is counted, and at the basic level the keeper notifies the host once per page (R317,
R319). -/
def Channel.pageFault (ch : Channel) (addr who : Nat) : Channel :=
  let page := xltPage addr
  let ch := ((ch.inc F.HM_XLT_FAULT_CNT_COUNT 0 1).touchPage addr).xltForget who
  if !ch.keepsStreams || ch.hbm.faults.any (fun f => f.page == page) then ch
  else (ch.modHbm fun h => { h with faults := h.faults ++ [{ page := page, addr := addr, tick := ch.tick }] }).tell
    (.event 1 [ch.no, page, addr])

/-! ### Counters -/

/-- The counters that HM_CTRL.CLR_CNT clears (R322). -/
def hmCounters : List Fld :=
  [F.HM_CE_CNT_COUNT, F.HM_UE_CNT_COUNT, F.HM_ODECC_CNT_COUNT, F.HM_POISON_WR_CNT_COUNT, F.HM_PROT_CNT_COUNT,
   F.HM_REF_EMERG_CNT_COUNT, F.HM_RETRAIN_CNT_COUNT, F.HM_XLT_MISS_CNT_COUNT, F.HM_XLT_FAULT_CNT_COUNT,
   F.HM_LEND_CNT_COUNT, F.HM_SCRUB_CE_CNT_COUNT, F.HM_LINES_RD_COUNT, F.HM_LINES_WR_COUNT, F.HM_LINES_RM_COUNT,
   F.HM_WAIT_RD_CY_COUNT, F.HM_WAIT_WR_CY_COUNT, F.HM_WAIT_RM_CY_COUNT, F.HM_ARB_FORCE_CNT_COUNT,
   F.HM_ARB_CUT_CNT_COUNT, F.HM_ARB_PREEMPT_CNT_COUNT, F.HM_ARB_STALE_CNT_COUNT]

/-- HM_CTRL.CLR_CNT (R322). -/
def Channel.hmClrCnt (ch : Channel) : Channel := { ch with regs := ch.regs.clear hmCounters 0 }

end Sys2Proof.Machine
end

