-- ==== Sys2Proof/Machine/Fragment.lean ====
section
/-! DEFINITION. Operand fragments in a core's buffer (R82 to R91): which lines an operand takes, and which positions of a
vector's depth block are present with which values. -/

namespace Sys2Proof.Machine

/-- One operand of a TMUL: its format word, its line fields, its planned depth blocks and its vectors (R82, R83). -/
structure Operand where
  f    : FmtWord
  val  : Nat
  md   : Nat
  sc   : Nat
  kb   : Nat
  nvec : Nat
  deriving DecidableEq, Repr

/-- A format word's 64 bits as LN_FMTn holds them (R76). -/
def Lantern.fmtRaw (l : Lantern) (n : Nat) : Nat :=
  l.r F.LN_FMT_VFMT n + (l.r F.LN_FMT_ENC n) <<< 5 + (l.r F.LN_FMT_NM_PAT n) <<< 8 + (l.r F.LN_FMT_BB_SHAPE n) <<< 10
    + (l.r F.LN_FMT_MX n) <<< 11 + (l.r F.LN_FMT_SL n) <<< 12 + (l.r F.LN_FMT_PATTERN n) <<< 13
    + (l.r F.LN_FMT_SAT n) <<< 14 + (l.r F.LN_FMT_BACKGROUND n) <<< 16 + (l.r F.LN_FMT_PAD n) <<< 32
    + (l.r F.LN_FMT_SL_BASE n) <<< 48

/-- The format word of an index; none when it is invalid (R77). -/
def Lantern.fmt (l : Lantern) (n : Nat) : Option FmtWord := FmtWord.parse (l.fmtRaw n)

/-- Lines of one dense ternary row: each row starts on a line of its own (R46; log entry 33). -/
def ternLines (kb : Nat) : Nat := ceilDiv (64 * kb) 320

/-- Bytes of one row of 16 ternary weights in gather mode, where the rows are packed (R46, R90; log entry 33). -/
def gatherRow : Nat := 4

/-- 8 × 8 blocks: vectors rounded up to whole block-rows (R83). -/
def Operand.nvecUp (o : Operand) : Nat := if o.f.bb8 then alignUp o.nvec 8 else o.nvec

/-- Masks of a BB64 operand (R82). -/
def Operand.bbWords (o : Operand) : Nat := o.nvecUp * o.kb

/-- The areas whose size the instruction fixes: first line and bytes (R83). `gatherB` is the B operand of gather mode. -/
def Operand.areas (o : Operand) (gatherB : Bool) : List (Nat × Nat) :=
  if o.nvec = 0 then []
  else
    let w := o.f.vfmt.width
    let (n, m, _, _) := nmParams o.f.nmPat
    let main : List (Nat × Nat) := match o.f.enc with
      | .dense =>
        if gatherB then [(o.val, if o.f.vfmt = .ternary then o.kb * 64 * gatherRow else o.kb * 64 * 16 * w / 8)]
        else if o.f.vfmt = .ternary then [(o.val, o.nvec * ternLines o.kb * 64)]
        else [(o.val, o.nvec * 64 * o.kb * w / 8)]
      | .nm => [(o.md, o.nvec * o.kb * 8), (o.val, o.nvec * o.kb * (64 * n / m) * w / 8)]
      | .bb64 => [(o.md, o.bbWords * 8)]
      | .il16 => [(o.md, 64)]
      | .runMask => []
    if o.f.mx then main ++ [(o.sc, o.nvecUp * 2 * o.kb)] else main

/-- The lines of an area. -/
def areaLines (a : Nat × Nat) : List Nat := rangeFrom a.1 (ceilDiv a.2 64)

/-- A fixed area extends past line 63 (R83). -/
def Operand.pastEnd (o : Operand) (gatherB : Bool) : Bool :=
  (o.areas gatherB).any fun a => decide (64 < a.1 + ceilDiv a.2 64)

/-- A 64-bit word of the buffer, from byte `base`; a word past line 63 is absent. -/
def obWord (ob : Mem) (base i : Nat) : Option Nat :=
  if base + 8 * i + 8 ≤ 4096 then some (ob.rdNat (base + 8 * i) 8) else none

/-- Popcount of the masks before word `i`. -/
def maskSum (ob : Mem) (base : Nat) : Nat → Nat
  | 0 => 0
  | i + 1 => maskSum ob base i + (match obWord ob base i with
    | some m => popcount 64 m
    | none => 0)

/-- An element of `w` bits, number `i` from byte `base`; none past line 63. -/
def obElem (ob : Mem) (base w i : Nat) : Option Nat :=
  let off := base + i * w / 8
  if 4096 < off + max (w / 8) 1 then none
  else if w = 4 then
    let b := (ob.rd off).toNat
    some (if i % 2 = 0 then b % 16 else b / 16)
  else some (ob.rdNat off (w / 8))

/-- Line and mask of run-mask record `q`, counted from line `l` (R82); none when it lies past line 63. -/
def recAt (ob : Mem) (w : Nat) : Nat → Nat → Option (Nat × Nat)
  | l, 0 => if l < 64 then some (l, ob.rdNat (64 * l) 64) else none
  | l, q + 1 =>
    if l < 64 then recAt ob w (l + 1 + ceilDiv (popcount 512 (ob.rdNat (64 * l) 64) * w) 512) q else none

/-- What one read of a vector's depth block finds: the present positions with their values, format faults (R47, R62), and
whether a location lay past line 63 (R84). -/
structure Piece where
  items  : List (Nat × Num) := []
  faults : Nat := 0
  beyond : Bool := false
  deriving DecidableEq, Repr

/-- Adds one present position whose element lies at a data-dependent or fixed location. -/
def Piece.put (p : Piece) (f : FmtWord) (dep : Bool) (pos : Nat) : Option Nat → Piece
  | some c => { p with items := p.items ++ [(pos, f.value c)] }
  | none => { p with beyond := p.beyond || dep }

/-- Positions of the set bits of a mask, with the rank of each. -/
def maskPositions (n m : Nat) : List (Nat × Nat) :=
  ((upto n).foldl (fun (acc : List (Nat × Nat) × Nat) i =>
    if isSet m i then ((i, acc.2) :: acc.1, acc.2 + 1) else acc) ([], 0)).1.reverse

/-- Depth block `j` of vector `v` (R82). -/
def Operand.piece (o : Operand) (ob : Mem) (v j : Nat) : Piece :=
  let w := o.f.vfmt.width
  match o.f.enc with
  | .dense =>
    if o.f.vfmt = .ternary then
      let base := 64 * (o.val + v * ternLines o.kb)
      (upto 64).foldl (fun p i =>
        let t := j * 64 + i
        let off := base + t / 5
        if 4096 ≤ off then p
        else
          let (ds, bad) := ternDigits (ob.rd off).toNat
          { p with items := p.items ++ [(i, Num.int (ds.getD (t % 5) 0))],
                   faults := p.faults + (if bad ∧ t % 5 = 0 then 1 else 0) }) {}
    else
      (upto 64).foldl (fun p i => p.put o.f false i (obElem ob (64 * o.val) w (v * 64 * o.kb + j * 64 + i))) {}
  | .nm =>
    let (n, m, _, _) := nmParams o.f.nmPat
    let md := (obWord ob (64 * o.md) (v * o.kb + j)).getD 0
    let first := (v * o.kb + j) * (64 * n / m)
    (upto (64 / m)).foldl (fun p g =>
      match nmGroup o.f.nmPat md g with
      | none => { p with faults := p.faults + 1 }
      | some ix => (ix.zip (upto n)).foldl (fun p iv =>
          p.put o.f false (g * m + iv.1) (obElem ob (64 * o.val) w (first + g * n + iv.2))) p) {}
  | .bb64 =>
    if o.f.bb8 then
      (upto 8).foldl (fun p k =>
        let wi := (v / 8) * 8 * o.kb + j * 8 + k
        let m := (obWord ob (64 * o.md) wi).getD 0
        let r := v % 8
        let before := maskSum ob (64 * o.md) wi + popcount (8 * r) m
        (maskPositions 8 (bits m (8 * r + 7) (8 * r))).foldl (fun p ci =>
          p.put o.f true (8 * k + ci.1) (obElem ob (64 * o.val) w (before + ci.2))) p) {}
    else
      let wi := v * o.kb + j
      let m := (obWord ob (64 * o.md) wi).getD 0
      let before := maskSum ob (64 * o.md) wi
      (maskPositions 64 m).foldl (fun p ci =>
        p.put o.f true ci.1 (obElem ob (64 * o.val) w (before + ci.2))) {}
  | .runMask =>
    (upto 4).foldl (fun p t =>
      match recAt ob w o.md (4 * j + t) with
      | none => { p with beyond := true }
      | some (l, m) =>
        (maskPositions 16 (bits m (16 * v + 15) (16 * v))).foldl (fun p ci =>
          p.put o.f true (16 * t + ci.1) (obElem ob (64 * (l + 1)) w (popcount (16 * v) m + ci.2))) p) {}
  | .il16 => {}

/-- The block scale exponent of position `pos` of vector `v`: 0 without MX, none for a NaN scale (R51, R56, R82). -/
def Operand.scale (o : Operand) (ob : Mem) (v pos : Nat) : Option Int :=
  if o.f.mx then e8m0 (ob.rd (64 * o.sc + v * 2 * o.kb + pos / 32)).toNat else some 0

/-! ### IL16 panels (R66 to R68, R82) -/

/-- The fields of a panel header. -/
structure Panel where
  base    : Nat
  count   : Nat
  colBase : Nat
  colSpan : Nat
  entries : Nat
  ptrOff  : Nat
  idxOff  : Nat
  valOff  : Nat
  deriving DecidableEq, Repr

/-- The panel at line `l` (R66). -/
def panelAt (ob : Mem) (l : Nat) : Panel :=
  let b := 64 * l
  let g := fun o => ob.rdNat (b + o) 4
  { base := b, count := g 0, colBase := g 4, colSpan := g 8, entries := g 12, ptrOff := g 16, idxOff := g 20, valOff := g 24 }

/-- The buffer lines that a panel's arrays take, cut at line 63. -/
def Panel.lines (p : Panel) (w : Nat) (pattern : Bool) : List Nat :=
  let cut := fun (off n : Nat) =>
    let lo := (p.base + off) / 64
    let hi := min ((p.base + off + n + 63) / 64) 64
    rangeFrom lo (hi - lo)
  cut p.ptrOff (min (4 * (p.count + 1)) 4096) ++ cut p.idxOff (min (2 * p.entries) 4096)
    ++ (if pattern then [] else cut p.valOff (min (p.entries * w / 8) 4096))

/-- One list of a panel: first entry and number of entries, whether the list is faulty (R68, R89), and whether its
pointers lie past line 63 (R84). -/
def Panel.list (p : Panel) (ob : Mem) (i : Nat) : Nat × Nat × Bool × Bool :=
  if p.count ≤ i then (0, 0, true, false)
  else
    let a := p.base + p.ptrOff + 4 * i
    if 4096 < a + 8 then (0, 0, false, true)
    else
      let s := ob.rdNat a 4
      let e := ob.rdNat (a + 4) 4
      if e < s ∨ p.entries < e then (0, 0, true, false) else (s, e - s, false, false)

/-- Index of entry `e`; none past line 63 (R84). -/
def Panel.idx (p : Panel) (ob : Mem) (e : Nat) : Option Nat :=
  let a := p.base + p.idxOff + 2 * e
  if 4096 < a + 2 then none else some (ob.rdNat a 2)

/-- Value of entry `e`: 1 for a pattern panel (R67); none past line 63 (R84). -/
def Panel.value (p : Panel) (ob : Mem) (f : FmtWord) (e : Nat) : Option Num :=
  if f.pattern then some (Num.int 1)
  else (obElem ob (p.base + p.valOff) f.vfmt.width e).map f.value

/-- The usable entries of a list, up to `n` entries: it ends before an index that does not rise or is not below COL_SPAN
(R68), and an index past line 63 is absent (R84). -/
def Panel.walk (p : Panel) (ob : Mem) : Nat → Nat → Option Nat → List (Nat × Nat) × Bool × Bool
  | 0, _, _ => ([], false, false)
  | n + 1, e, prev =>
    match p.idx ob e with
    | none => ([], false, true)
    | some x =>
      if decide (p.colSpan ≤ x) || (match prev with
          | some y => decide (x ≤ y)
          | none => false) then ([], true, false)
      else
        let (r, f, b) := p.walk ob n (e + 1) (some x)
        ((e, x) :: r, f, b)

/-- A list's entries (entry number, index), with its fault and past-the-end flags: an entry whose value lies past line 63 is absent
(R84). -/
def Panel.entriesOf (p : Panel) (ob : Mem) (f : FmtWord) (i : Nat) : List (Nat × Nat) × Bool × Bool :=
  let (s, n, bad, past) := p.list ob i
  if bad || past then ([], bad, past)
  else
    let (es, fault, beyond) := p.walk ob (min n 2048) s none
    let there := es.filter fun e => (p.value ob f e.1).isSome
    (there, fault, beyond || decide (there.length < es.length))

/-- The lines that a TMUL operand reads, as far as the buffer's present contents give them (R82, R101). -/
def Operand.lines (o : Operand) (ob : Mem) (gatherB : Bool) : List Nat :=
  let fixed := (o.areas gatherB).flatMap areaLines
  if o.nvec = 0 then []
  else
    let w := o.f.vfmt.width
    let more : List Nat := match o.f.enc with
      | .bb64 => areaLines (o.val, ceilDiv (maskSum ob (64 * o.md) o.bbWords * w) 8)
      | .runMask => (upto (4 * o.kb)).flatMap fun q =>
          match recAt ob w o.md q with
          | some (l, m) => rangeFrom l (1 + ceilDiv (popcount 512 m * w) 512)
          | none => []
      | .il16 => (panelAt ob o.md).lines w o.f.pattern
      | _ => []
    (fixed ++ more).filter (· < 64)

end Sys2Proof.Machine
end

