-- ==== Sys2Proof/Machine/SparseCore.lean ====
section
/-! DEFINITION. The sparse core: fetch and issue of tile instructions, operand loads, tile multiplies from their start to
their last accumulator write (R78 to R119), and the core's debug window. -/

namespace Sys2Proof.Machine

/-! ### Tile instruction fields -/

/-- Opcode of a tile instruction (R92). -/
def tOp (w : Nat) : Nat := w % 16
/-- OLOAD.MODE. -/
def olMode (w : Nat) : Nat := bits w 5 4
/-- OLOAD.DST. -/
def olDst (w : Nat) : Nat := bits w 11 6
/-- OLOAD.LINES. -/
def olLines (w : Nat) : Nat := bits w 18 12
/-- OLOAD.SRC. -/
def olSrc (w : Nat) : Nat := bits w 30 19
/-- OLOAD.STRIDE. -/
def olStride (w : Nat) : Nat := bits w 42 31
/-- OLOAD.FMT. -/
def olFmt (w : Nat) : Nat := bits w 48 43
/-- OLOAD.TR_V: vectors of a transpose, minus 1. -/
def olTrV (w : Nat) : Nat := bits w 59 54
/-- BEGIN of a TMUL. -/
def tmBegin (w : Nat) : Bool := isSet w 4
/-- SET of a TMUL or a DRAIN. -/
def tSet (w : Nat) : Nat := bit w 5
/-- ROW0 of a TMUL or a DRAIN. -/
def tRow0 (w : Nat) : Nat := bits w 10 6
/-- Planned rows of a TMUL or a DRAIN. -/
def tRows (w : Nat) : Nat := bits w 15 11 + 1
/-- COLMASK of a TMUL. -/
def tmCols (w : Nat) : List Nat := (upto 16).filter fun c => isSet w (16 + c)
/-- Planned depth blocks of a TMUL. -/
def tmKb (w : Nat) : Nat := bits w 71 68 + 1

/-- An instruction that R92 calls invalid. `first` says that it is the first of its task. -/
def tileInvalid (w : Nat) (first : Bool) : Bool :=
  let op := tOp w
  let resv : Bool := match op with
    | 0 => w / 16 != 0
    | 1 => w >>> 30 != 0
    | 2 => w >>> 60 != 0
    | 3 => w >>> 124 != 0
    | 4 => w >>> 71 != 0
    | 5 => w >>> 7 != 0
    | 6 => w / 16 != 0
    | _ => true
  resv || (first != (op == 1)) || ((op == 3 || op == 4) && decide (32 < tRow0 w + tRows w))

/-! ### The core's bookkeeping -/

/-- The task whose instructions the sequencer issues: the oldest that has neither ended nor stopped. -/
def SparseCore.current (co : SparseCore) : Option CTask := co.tasks.find? fun t => !t.ended && !t.stopped

/-- Changes one task of the core. -/
def SparseCore.modTask (co : SparseCore) (id : Nat) (f : CTask → CTask) : SparseCore :=
  { co with tasks := co.tasks.map fun t => if t.id = id then f t else t }

/-- The next instruction that may issue in this cycle, one in a cycle, or that may be passed over, four in a cycle (R92, R100, R108):
its task and its word. -/
def SparseCore.nextWord (co : SparseCore) (cyc : Nat) : Option (CTask × Nat) :=
  match co.current, co.ibuf with
  | some t, i :: _ =>
    if i.task = t.id ∧ (co.nextIssue ≤ cyc ∨ (t.empty ∧ co.passed.1 = cyc ∧ 0 < co.passed.2 ∧ co.passed.2 < 4)) then
      match i.ready with
      | some r => if r ≤ cyc then (i.words[co.ipos]?).map fun w => (t, w) else none
      | none => none
    else none
  | _, _ => none

/-- The sequencer passes the instruction it has issued. -/
def SparseCore.advance (co : SparseCore) (cyc : Nat) : SparseCore :=
  let co := { co with nextIssue := cyc + 1 }
  if co.ipos = 3 then { co with ipos := 0, ibuf := co.ibuf.drop 1 } else { co with ipos := co.ipos + 1 }

/-- The lines of a task leave the instruction buffer. -/
def SparseCore.dropLines (co : SparseCore) (id : Nat) : SparseCore :=
  { co with ibuf := co.ibuf.filter (fun i => i.task != id), ipos := 0 }

/-- Entries that a queue holds in a cycle: those in it and those that have left it in the same cycle (R100). -/
def SparseCore.places (co : SparseCore) (kind cyc : Nat) : Nat :=
  (match kind with
    | 0 => co.loadQ.length
    | 1 => co.mulQ.length
    | _ => co.drainQ.length) + co.gone.countP fun x => x.kind == kind && x.cyc == cyc

/-- An instruction leaves its queue. -/
def SparseCore.leave (co : SparseCore) (x : Gone) : SparseCore := { co with gone := x :: co.gone.filter fun y => y.cyc == x.cyc }

/-- An instruction of a task is still in the multiply or drain queue. -/
def SparseCore.busyWith (co : SparseCore) (id : Nat) : Bool :=
  co.mulQ.any (fun m => m.task == id) || co.drainQ.any (fun d => d.task == id)

/-- The core signals the completion of every ended task whose TMULs and DRAINs are done (R99), and CO_STATUS.BUSY shows
whether anything is issued and not done (R111). -/
def Channel.coSettle (ch : Channel) (g k : Nat) : Channel :=
  ch.modLan g fun l =>
    let co := l.core k
    let fin := (co.tasks.filter fun t => t.ended && !co.busyWith t.id).map (·.id)
    let co := { co with tasks := co.tasks.filter fun t => !((t.ended || t.stopped) && !co.busyWith t.id) }
    let q := { l.tq with tasks := l.tq.tasks.map fun t => if fin.contains t.id then { t with done := true } else t }
    let busy := !(co.loadQ.isEmpty && co.mulQ.isEmpty && co.drainQ.isEmpty)
    let l := { l with cores := l.cores.put k co, tq := q }
    l.w F.CO_STATUS_BUSY k (b2n busy)

/-- A contained error of a core, with its task's CTX (R110): OP_ERR is set except for "shape overflow". -/
def Channel.coreErr (ch : Channel) (g k cause ctx : Nat) : Channel :=
  let ch := if cause = 8 then ch else ch.lw g F.CO_STATUS_OP_ERR k 1
  ch.raise cause (unitWord ch.no 2 g k 0) (some ctx) 0

/-- Adds to CO_FMT_ERR_CNT and sets the sticky bit (R111). -/
def Channel.fmtErr (ch : Channel) (g k n : Nat) : Channel :=
  if n = 0 then ch else (ch.linc g F.CO_FMT_ERR_CNT_COUNT k n).lw g F.CO_STATUS_FMT_ERR k 1

/-- The sequencer meets an invalid instruction or the end of its task without an END (R92, R251): issue stops,
INV_INSN is set, the error is recorded, and the lantern answers the task's acquisitions (R253). -/
def Channel.coreInvalid (ch : Channel) (g k : Nat) (t : CTask) : Channel :=
  let ch := ch.modCore g k fun co => (co.modTask t.id fun t => { t with stopped := true }).dropLines t.id
  let ch := ch.lw g F.CO_STATUS_INV_INSN k 1
  let ch := ch.coreErr g k 1 t.ctx
  (ch.finishTask g t.id false).coSettle g k

/-- After the last word of a line: a task that has passed line 4,095, or the line that should hold its END, without an
END is stopped (R92, R251). -/
def Channel.afterIssue (ch : Channel) (g k : Nat) (t : CTask) (line : Nat) (last wasEnd atEnd : Bool) : Channel :=
  if atEnd && !wasEnd && (last || line == 4095) then ch.coreInvalid g k t else ch

/-- The core of a lantern. -/
def Channel.core (ch : Channel) (g k : Nat) : SparseCore := (ch.lan g).core k

/-- Lines or rows that an OLOAD copies (R95). -/
def Lantern.olCopy (l : Lantern) (w : Nat) : Nat :=
  let plan := if olMode w = 2 then 64 else olLines w
  if isSet w 53 then min (l.r F.LN_SHAPE_VALUE (bits w 52 49)) plan else plan

/-- Source lines that an OLOAD reads, in order. -/
def olSources (w copy : Nat) : List Nat :=
  let step := if olMode w = 0 then 1 else olStride w
  (upto copy).map fun i => olSrc w + i * step

/-- An OLOAD that R94 calls invalid. -/
def Lantern.oloadBad (l : Lantern) (w : Nat) : Bool :=
  olMode w == 3 || (olMode w != 2 && olLines w == 0) || (olSources w (l.olCopy w)).any (fun s => decide (4095 < s))
    || (olMode w == 2 && match l.fmt (olFmt w) with
      | some f => f.vfmt == .ternary || decide (16 < f.vfmt.width) || decide (512 < (olTrV w + 1) * f.vfmt.width)
      | none => false)

/-- A DRAIN joins the drain queue (R100); none when the queue is full. -/
def SparseCore.pushDrain (co : SparseCore) (t : CTask) (w cyc : Nat) (empty : Bool) : Option SparseCore :=
  if 2 ≤ co.places 2 cyc then none
  else some { co with seq := co.seq + 1,
                      drainQ := co.drainQ ++ [{ seq := co.seq, task := t.id, w := w, issued := cyc, empty := empty }] }

/-- In an empty task the instructions are passed over, four in a cycle (R108): a DRAIN becomes an empty drain, END closes the task, and
an invalid instruction stops it. -/
def Channel.passOver (ch : Channel) (g k : Nat) : Nat → Channel
  | 0 => ch
  | fuel + 1 =>
    let co := ch.core g k
    match co.nextWord ch.cyc with
    | none => ch
    | some (t, w) =>
      if !t.empty then ch
      else if tileInvalid w (!t.opened) || tOp w == 2 && (ch.lan g).oloadBad w then ch.coreInvalid g k t
      else if tOp w = 6 then
        (ch.modCore g k fun co =>
          { (co.modTask t.id fun t => { t with ended := true }).dropLines t.id with nextIssue := ch.cyc + 1 }).coSettle g k
      else
        let pushed := if tOp w = 4 then co.pushDrain t w ch.cyc true else some co
        match pushed with
        | none => ch
        | some co' =>
          let line := (co.ibuf.head?.map (·.line)).getD 0
          let last := (co.ibuf.head?.map (·.last)).getD false
          let n := if co.passed.1 = ch.cyc then co.passed.2 else 0
          let ch := ch.modCore g k fun _ => { co'.advance ch.cyc with passed := (ch.cyc, n + 1) }
          let ch := ch.afterIssue g k t line last false (co.ipos == 3)
          (ch.coSettle g k).passOver g k fuel

/-- One issue slot: an invalid word stops the task whatever instruction the command names; a word with another opcode
leaves the state as it is; an empty task passes over up to four instructions (R108); otherwise the instruction issues by `body`,
which answers none when issue stalls (R92, R100). -/
def Channel.issue (ch : Channel) (g k op : Nat) (body : Channel → CTask → Nat → Option Channel) : Channel :=
  let co := ch.core g k
  match co.nextWord ch.cyc with
  | none => ch
  | some (t, w) =>
    if tileInvalid w (!t.opened) then ch.coreInvalid g k t
    else if tOp w ≠ op then ch
    else if t.empty then ch.passOver g k 4
    else
      match body ch t w with
      | none => ch
      | some ch' =>
        let line := (co.ibuf.head?.map (·.line)).getD 0
        let last := (co.ibuf.head?.map (·.last)).getD false
        if (ch'.core g k).tasks.any (fun u => u.id == t.id && u.stopped) || op == 6 then ch'
        else
          let ch' := ch'.modCore g k (·.advance ch.cyc)
          (ch'.afterIssue g k t line last (op == 6) (co.ipos == 3)).coSettle g k

/-- Logical core bound to a physical core; 63 when none (R141). -/
def Lantern.logicalOf (l : Lantern) (k : Nat) : Nat :=
  ((upto 60).find? fun n => l.r F.LN_CORE_BIND_VALID n = 1 ∧ l.r F.LN_CORE_BIND_PHYS n = k).getD 63

/-! ### Fetch -/

/-- The words of a scratchpad line. -/
def lineWords (data : List (BitVec 8)) : List Nat := (chunks 16 data).map ofBytes

/-- The line as it stands holds an END. -/
def Lantern.holdsEnd (l : Lantern) (line : Nat) : Bool :=
  (lineWords (l.sp.rdN (64 * line) 64)).any fun w => tOp w == 6

/-- The pipe has not presented an access of this kind and core yet: its next request is held with it (R153). -/
def Lantern.pipeHolds (l : Lantern) (ord : Nat) : Bool := l.pipeQ.any fun a => a.ord == ord

/-- The sequencer requests its next instruction line, one line ahead of issue (R92); the line that holds END frees the
core for its next task (R251). -/
def Channel.insnFetch (ch : Channel) (g k : Nat) : Channel :=
  let l := ch.lan g
  let co := l.core k
  match co.tasks.find? fun t => !t.endReq && !t.stopped && !t.ended with
  | none => ch
  | some t =>
    if ch.cyc < co.nextFetch ∨ 4095 < t.fetch ∨ l.pipeHolds (192 + l.logicalOf k)
        ∨ 2 ≤ (co.ibuf.filter fun i => i.task == t.id).length then ch
    else
      let last := l.holdsEnd t.fetch
      let n := l.logicalOf k
      let a : Acc1 := { line := t.fetch, dst := .insn k t.id t.fetch last, req := 192 + n, ord := 192 + n }
      ch.modLan g fun l =>
        let l := { l with pipeQ := l.pipeQ ++ [a] }
        l.modCore k fun co =>
          let co := co.modTask t.id fun t => { t with fetch := t.fetch + 1, endReq := last }
          { co with nextFetch := ch.cyc + 1, ibuf := co.ibuf ++ [{ task := t.id, line := t.fetch, last := last }] }

/-- A fetched line arrives (R92). -/
def Channel.insnArrive (ch : Channel) (g k task line : Nat) (last : Bool) (data : List (BitVec 8)) : Channel :=
  let ws := lineWords data
  let co := ch.core g k
  match co.tasks.find? fun t => t.id == task && !t.stopped with
  | none => ch
  | some t =>
    if last && !ws.any (fun w => tOp w == 6) then ch.coreInvalid g k t
    else ch.modCore g k fun co => { co with ibuf := co.ibuf.map fun i =>
      if i.task = task ∧ i.line = line then { i with words := ws, ready := some (ch.cyc + 6) } else i }

/-! ### TASK, NOP, FENCE, END -/

/-- TASK (R93): the task opens, its CTX is taken, and a zero in a named shape register makes it empty (R108). -/
def Channel.doTask (ch : Channel) (g k : Nat) : Channel :=
  ch.issue g k 1 fun ch t w =>
    let l := ch.lan g
    let ctx := bits w 29 20
    let empty := (upto 16).any fun n => isSet w (4 + n) && l.r F.LN_SHAPE_VALUE n = 0
    let ch := ch.modCore g k fun co => co.modTask t.id fun t => { t with opened := true, ctx := ctx, empty := empty }
    let ch := ch.lw g F.CO_STATUS_CTX k ctx
    some (if empty then ch.linc g F.CO_EMPTY_CNT_COUNT k 1 else ch)

/-- NOP (R92). -/
def Channel.doNop (ch : Channel) (g k : Nat) : Channel := ch.issue g k 0 fun ch _ _ => some ch

/-- FENCE holds issue until the earlier work that its bits name is done (R98). -/
def Channel.doFence (ch : Channel) (g k : Nat) : Channel :=
  ch.issue g k 5 fun ch _ w =>
    let busy := fun (kind : Nat) => (ch.core g k).places kind ch.cyc != 0
    if (isSet w 4 && busy 0) || (isSet w 5 && busy 1) || (isSet w 6 && busy 2) then none else some ch

/-- END closes the task (R99). -/
def Channel.doEnd (ch : Channel) (g k : Nat) : Channel :=
  ch.issue g k 6 fun ch t _ =>
    some ((ch.modCore g k fun co =>
      { (co.modTask t.id fun t => { t with ended := true }).dropLines t.id with nextIssue := ch.cyc + 1 }).coSettle g k)

/-- TMUL joins the multiply queue of 2 entries (R96, R100). -/
def Channel.doTmul (ch : Channel) (g k : Nat) : Channel :=
  ch.issue g k 3 fun ch t w =>
    if 2 ≤ (ch.core g k).places 1 ch.cyc then none
    else some (ch.modCore g k fun co =>
      { co with seq := co.seq + 1, mulQ := co.mulQ ++ [{ seq := co.seq, task := t.id, w := w, issued := ch.cyc }] })

/-- DRAIN joins the drain queue of 2 entries (R97, R100). -/
def Channel.doDrain (ch : Channel) (g k : Nat) : Channel :=
  ch.issue g k 4 fun ch t w => (((ch.core g k).pushDrain t w ch.cyc false).map fun co => ch.modCore g k fun _ => co)

/-! ### OLOAD (R94, R95, R104, R149) -/

/-- Destination lines of an OLOAD, for element width `ew`. -/
def olTotal (w ew : Nat) : Nat := if olMode w = 2 then ceilDiv ((olTrV w + 1) * ew) 8 else olLines w

/-- The 64 bytes of a padding line: the padding element repeated (R95, R72). -/
def padLine (ew pad : Nat) : List (BitVec 8) :=
  if ew = 4 then List.replicate 64 (BitVec.ofNat 8 (pad % 16 * 17))
  else (List.replicate (64 / (ew / 8)) (toBytes (ew / 8) pad)).flatten

/-- OLOAD issues into the load queue (R94): an invalid OLOAD stops its task; an invalid format word or a destination
past line 63 raises its cause, and the OLOAD is done at issue (R110, R83). -/
def Channel.doOload (ch : Channel) (g k : Nat) : Channel :=
  ch.issue g k 2 fun ch t w =>
    let l := ch.lan g
    let copy := l.olCopy w
    if l.oloadBad w then some (ch.coreInvalid g k t)
    else match l.fmt (olFmt w) with
      | none => some (ch.coreErr g k 2 t.ctx)
      | some f =>
        let ew := f.vfmt.width
        let total := olTotal w ew
        if 64 < olDst w + total then some (ch.coreErr g k 6 t.ctx)
        else if 4 ≤ (l.core k).places 0 ch.cyc then none
        else
          let gather := if olMode w = 2 then (olSources w copy).eraseDups else []
          some (ch.modCore g k fun co =>
            { co with seq := co.seq + 1,
                      loadQ := co.loadQ ++ [{ seq := co.seq, task := t.id, w := w, total := total, copy := copy,
                                              ew := ew, pad := f.elemOf f.pad, next := ch.cyc + 1,
                                              toGather := gather, gatherDone := gather.isEmpty }] })

/-- The operands of a TMUL; none when a format word is invalid (R77, R82, R83). -/
def Lantern.tmOperands (l : Lantern) (w : Nat) : Option (Operand × Operand) :=
  match l.fmt (bits w 37 32), l.fmt (bits w 43 38) with
  | some fa, some fb =>
    let nb := (tmCols w).foldl (fun m c => max m (c + 1)) 0
    some ({ f := fa, val := bits w 49 44, md := bits w 55 50, sc := bits w 77 72, kb := tmKb w, nvec := tRows w },
          { f := fb, val := bits w 61 56, md := bits w 67 62, sc := bits w 83 78, kb := tmKb w, nvec := nb })
  | _, _ => none

/-- The intersection mode of a pairing (R85). -/
def pairMode : Enc → Enc → Option IMode
  | .dense, .dense => some .bypass
  | .dense, .nm => some .nmDecode
  | .nm, .dense => some .nmDecode
  | .il16, .dense => some .gather
  | .il16, .il16 => some .merge
  | .il16, _ => none
  | _, .il16 => none
  | .nm, _ => none
  | _, .nm => none
  | _, _ => some .bitmap

/-- A TMUL selects merge mode, which uses no depth (R89, R96). -/
def Lantern.merges (l : Lantern) (w : Nat) : Bool :=
  match l.tmOperands w with
  | some (a, b) => pairMode a.f.enc b.f.enc == some .merge
  | none => false

/-- Rate class of a tile operand; none for a format that is no tile operand (R79, R86). -/
def VFmt.rateClass : VFmt → Option Nat
  | .int4 | .e2m1 | .ternary => some 4
  | .int8 | .e4m3 | .e5m2 => some 8
  | .bf16 | .fp16 => some 16
  | .int32 | .fp32 => none

/-- The lines that a TMUL reads, as the buffer stands (R101). -/
def Lantern.tmLines (l : Lantern) (ob : Mem) (w : Nat) : List Nat :=
  match l.tmOperands w with
  | none => []
  | some (a, b) =>
    let gb := a.f.enc = .il16 && b.f.enc = .dense
    a.lines ob false ++ b.lines ob gb

/-- A buffer line is still to be written by an OLOAD issued before `seq` (R101). -/
def SparseCore.linePending (co : SparseCore) (seq x : Nat) : Bool :=
  co.loadQ.any fun o => decide (o.seq < seq) && decide (olDst o.w + o.done ≤ x) && decide (x < olDst o.w + o.total)

/-- The lines that a TMUL in the queue reads; none while they depend on data that an earlier OLOAD has still to write: masks, run-mask
records, and the header and arrays of a panel (R84, R101, log entry 121). -/
def Lantern.mulLines (l : Lantern) (co : SparseCore) (m : MulOp) : Option (List Nat) :=
  if m.start.isSome then some m.lines
  else match l.tmOperands m.w with
    | none => some []
    | some (a, b) =>
      let gb := a.f.enc = .il16 && b.f.enc = .dense
      let unknown := fun (o : Operand) => o.f.enc != .dense && o.f.enc != .nm && (o.lines co.obuf gb).any (co.linePending m.seq)
      if unknown a || unknown b then none else some (l.tmLines co.obuf m.w)

/-- Every earlier TMUL has released the destination lines of an OLOAD before the cycle `cyc` (R101, R104). -/
def Lantern.olFree (l : Lantern) (co : SparseCore) (cyc : Nat) (o : LoadOp) : Bool :=
  let apart := fun (xs : List Nat) => xs.all fun x => !(decide (olDst o.w ≤ x) && decide (x < olDst o.w + o.total))
  (co.mulQ.all fun m => decide (o.seq ≤ m.seq) || (match m.released with
      | some c => decide (c < cyc)
      | none => false)
    || match l.mulLines co m with
      | some xs => apart xs
      | none => false)
    && co.gone.all fun x => decide (x.cyc < cyc) || apart x.lines

/-- The OLOAD whose requests come next: every earlier one has sent its last request (R104). -/
def SparseCore.sending (co : SparseCore) : Option LoadOp := co.loadQ.find? fun o => decide (o.sent < o.total)

/-- Changes one OLOAD. -/
def SparseCore.modLoad (co : SparseCore) (seq : Nat) (f : LoadOp → LoadOp) : SparseCore :=
  { co with loadQ := co.loadQ.map fun o => if o.seq = seq then f o else o }

/-- The next request of an OLOAD may go in this cycle (R104). -/
def Channel.olReady (ch : Channel) (g k : Nat) (o : LoadOp) : Bool :=
  let l := ch.lan g
  let co := l.core k
  decide (o.next ≤ ch.cyc) && (match co.lastReq with
    | some c => decide (c < ch.cyc)
    | none => true) && !l.pipeHolds (128 + l.logicalOf k) && (decide (0 < o.sent) || l.olFree co ch.cyc o)

/-- One line request of an OLOAD (R104): a source line is asked of the lantern pipe; a padding line and a line formed in
a transpose buffer take the slot without a bank access. -/
def Channel.olRequest (ch : Channel) (g k : Nat) : Channel :=
  let l := ch.lan g
  let co := l.core k
  match co.sending with
  | none => ch
  | some o =>
    if !ch.olReady g k o || !o.gatherDone then ch
    else
      let i := o.sent
      let dst := olDst o.w + i
      let n := l.logicalOf k
      let tr := olMode o.w == 2
      let fromSp := !tr && decide (i < o.copy)
      let land : List (Nat × Option (List (BitVec 8)) × Nat) :=
        if fromSp then [] else if tr && decide (0 < o.copy) then [(dst, none, ch.cyc + 6)]
        else [(dst, some (padLine o.ew o.pad), ch.cyc + 6)]
      let acc : List Acc1 := if fromSp then
          [{ line := (olSources o.w o.copy).getD i 0, dst := .oload k o.seq dst, req := n, ord := 128 + n }]
        else []
      let lastOne := i + 1 == o.total
      ch.modLan g fun l =>
        let l := { l with pipeQ := l.pipeQ ++ acc, tbufs := if lastOne && o.tbuf then l.tbufs - 1 else l.tbufs }
        l.modCore k fun co =>
          { co.modLoad o.seq (fun o => { o with sent := i + 1, next := ch.cyc + 1, landing := o.landing ++ land,
                                                tbuf := o.tbuf && !lastOne }) with lastReq := some ch.cyc }

/-- One source line for each bank, of those still to gather (R149). -/
def onePerBank : List Nat → List Nat → List Nat × List Nat
  | _, [] => ([], [])
  | used, x :: xs =>
    if used.contains (x % 16) then
      let (t, r) := onePerBank used xs
      (t, x :: r)
    else
      let (t, r) := onePerBank (x % 16 :: used) xs
      (x :: t, r)

/-- A schedule violation of a lantern: SCHED_VIOL is set and the first of a tick is recorded (R154). -/
def Channel.schedViol (ch : Channel) (g : Nat) : Channel :=
  (ch.lw g F.LN_STATUS_SCHED_VIOL 0 1).raiseOnce (onceKey 0x0C g) 0x0C (ch.lanUnit g) none 0

/-- A transposing read of a core is ready for its first gather cycle and finds no free transpose buffer (R150). -/
def Channel.needsTbuf (ch : Channel) (g k : Nat) : Bool :=
  match (ch.core g k).sending with
  | none => false
  | some o => olMode o.w == 2 && !o.gatherDone && !o.tbuf && ch.olReady g k o && decide (4 ≤ (ch.lan g).tbufs)

/-- The lantern pipe stalls until a transpose buffer frees (R150). -/
def Channel.tbufStall (ch : Channel) (g : Nat) : Bool := (SMap.keys (ch.lan g).cores).any (ch.needsTbuf g)

/-- A cycle in which the pipe stalls for a transpose buffer is counted once, as a schedule violation (R150). -/
def Channel.tbufWait (ch : Channel) (g : Nat) : Channel :=
  if (ch.lan g).tbufWait = some ch.cyc then ch
  else ((ch.modLan g fun l => { l with tbufWait := some ch.cyc }).linc g F.LN_TBUF_WAIT_CY_COUNT 0 1).schedViol g

/-- One gather cycle of a transposing OLOAD (R149): the first takes a free transpose buffer, or waits for one and counts
each cycle of waiting once, as a schedule violation (R150). -/
def Channel.trGather (ch : Channel) (g k : Nat) : Channel :=
  let l := ch.lan g
  let co := l.core k
  match co.sending with
  | none => ch
  | some o =>
    if olMode o.w ≠ 2 ∨ o.gatherDone ∨ !ch.olReady g k o then ch
    else if ch.needsTbuf g k then ch.tbufWait g
    else
      let (now, rest) := onePerBank [] o.toGather
      let n := l.logicalOf k
      let accs : List Acc1 := now.map fun x =>
        { line := x, dst := .gather k o.seq x, req := n, ord := 128 + n }
      ch.modLan g fun l =>
        let l := { l with pipeQ := l.pipeQ ++ accs, tbufs := if o.tbuf then l.tbufs else l.tbufs + 1 }
        l.modCore k fun co => co.modLoad o.seq fun o =>
          { o with toGather := rest, tbuf := true, gatherDone := rest.isEmpty,
                   next := if rest.isEmpty then ch.cyc else ch.cyc + 1 }

/-- Vector `v` of a transpose: element `v` of rows 0 to 63, with padding for missing rows or rows not copied (R95). -/
def LoadOp.trVector (o : LoadOp) (v : Nat) : List Nat :=
  (upto 64).map fun j =>
    if j < o.copy then elemAt (o.gathered.getD (olSrc o.w + j * olStride o.w) []) o.ew v else o.pad

/-- Destination line `i` of a transposing OLOAD (R94). With elements of 4 bits and an odd number of vectors the spec states nothing of
the second half of the last line: it takes the free bits `x` (log entry 120). -/
def LoadOp.trLine (o : LoadOp) (i x : Nat) : List (BitVec 8) :=
  let perLine := 512 / o.ew
  let els := (upto perLine).map fun e =>
    let t := i * perLine + e
    let v := t / 64
    if v ≤ olTrV o.w then (o.trVector v).getD (t % 64) 0 else bits x (4 * (t % 64) + 3) (4 * (t % 64))
  packElems o.ew els

/-- Six cycles after its request a returned, formed or padding line is written into the operand buffer (R104). -/
def Channel.olWrite (ch : Channel) (g k : Nat) : Channel :=
  let co := ch.core g k
  match co.loadQ.find? fun o => !o.landing.isEmpty with
  | none => ch
  | some o =>
    match o.landing.find? fun x => x.1 == olDst o.w + o.done with
    | none => ch
    | some (dst, data, due) =>
      let rest := o.landing.filter fun x => x.1 != dst
      let have_ := data.isSome || o.toGather.isEmpty && (olSources o.w o.copy).all fun s => (o.gathered.find s).isSome
      if ch.cyc < due ∨ !have_ then ch
      else
        let open_ := data.isNone && o.ew == 4 && olTrV o.w % 2 == 0 && dst + 1 == olDst o.w + o.total
        let (x, ch) := if open_ then ch.freeVal 256 else (0, ch)
        let bs := data.getD (o.trLine (dst - olDst o.w) x)
        let o' := { o with landing := rest, done := o.done + 1 }
        (ch.modCore g k fun co =>
          let co := { co with obuf := co.obuf.wrN (64 * dst) bs, lineAt := co.lineAt.put dst ch.cyc }
          if o'.done = o.total then
            { co with loadQ := co.loadQ.filter fun x => x.seq != o.seq }.leave { kind := 0, cyc := ch.cyc }
          else co.modLoad o.seq fun _ => o').coSettle g k

/-- A line that an OLOAD asked for arrives. -/
def Channel.olArrive (ch : Channel) (g k seq dst : Nat) (data : List (BitVec 8)) : Channel :=
  ch.modCore g k fun co => co.modLoad seq fun o => { o with landing := o.landing ++ [(dst, some data, ch.cyc + 5)] }

/-- A gathered source line arrives. -/
def Channel.trArrive (ch : Channel) (g k seq line : Nat) (data : List (BitVec 8)) : Channel :=
  ch.modCore g k fun co => co.modLoad seq fun o => { o with gathered := o.gathered.put line data }

/-! ### TMUL (R96, R101 to R103, R107 to R110) -/

/-- Changes one TMUL. -/
def SparseCore.modMul (co : SparseCore) (seq : Nat) (f : MulOp → MulOp) : SparseCore :=
  { co with mulQ := co.mulQ.map fun m => if m.seq = seq then f m else m }

/-- A buffer line is not to be read in this cycle by TMUL `seq`: an earlier OLOAD has still to write it, or writes it in this very
cycle (R101, R103). -/
def SparseCore.lineLate (co : SparseCore) (seq cyc x : Nat) : Bool :=
  co.linePending seq x || match co.lineAt.find x with
    | some c => decide (cyc ≤ c)
    | none => false

/-- Rows that a DRAIN issued before `seq` holds (R102). -/
def DrainOp.holds (d : DrainOp) (set row : Nat) : Bool :=
  !d.empty && tSet d.w == set && match d.start with
    | none => decide (tRow0 d.w ≤ row) && decide (row < tRow0 d.w + tRows d.w)
    | some _ => decide (tRow0 d.w + d.next ≤ row) && decide (row < tRow0 d.w + d.rows)

/-- An earlier DRAIN still holds the row (R102). -/
def SparseCore.rowHeld (co : SparseCore) (seq set row : Nat) : Bool :=
  co.drainQ.any fun d => decide (d.seq < seq) && d.holds set row

/-- The cell key. -/
def cellKey (set row col : Nat) : Nat := (32 * set + row) * 16 + col

/-- An accumulator cell. -/
def SparseCore.cell (co : SparseCore) (set row col : Nat) : Cell := co.acc.getD (cellKey set row col) {}

/-- MODE that a cell will have when TMUL `seq` runs: an earlier BEGIN in flight decides (R102, R115). -/
def SparseCore.modeAt (co : SparseCore) (seq set row col : Nat) : Bool :=
  (co.mulQ.filter fun m => decide (m.seq < seq) && m.start.isSome && tmBegin m.w && tSet m.w == set
      && decide (tRow0 m.w ≤ row) && decide (row < tRow0 m.w + m.rows) && (tmCols m.w).contains col).foldl
    (fun _ m => m.cls == 16) (co.cell set row col).fp

/-- A run-time value against its plan (R107): the value used, and whether it overflowed. -/
def shapeOf (l : Lantern) (en : Bool) (reg planned : Nat) : Nat × Bool :=
  if !en then (planned, false)
  else
    let v := l.r F.LN_SHAPE_VALUE reg
    if planned < v then (planned, true) else (v, false)

/-- The primary plan of a context holds a smaller planned value for a shape register of a lantern than the value there: table
768 + plan of the placement lists lantern, register and value (R262, log entry 24). -/
def Channel.abovePrimary (ch : Channel) (ctx g reg : Nat) : Bool :=
  let t := ch.ctx.tables.getD (ch.ctx.tableOf (ch.r F.CTX_CHAR_PLAN ctx) false + 768) []
  (chunks 8 t).any fun d =>
    num d 0 2 == g && num d 2 2 == reg && decide (num d 4 4 < (ch.lan g).r F.LN_SHAPE_VALUE reg)

/-- A task of a context in its alternate plan has read shape registers of a lantern: those enabled in `regs` (R262). -/
def Channel.shapeMeet (ch : Channel) (g ctx : Nat) (regs : List (Bool × Nat)) : Channel :=
  if ch.ctx.alt.contains ctx && !ch.overCtx.contains ctx && regs.any (fun x => x.1 && ch.abovePrimary ctx g x.2) then
    { ch with overCtx := ctx :: ch.overCtx }
  else ch

/-- A run-time shape above the plan is counted, and recorded once for a task (R107). -/
def Channel.shapeOvf (ch : Channel) (g k task : Nat) : Channel :=
  let ch := (ch.lw g F.CO_STATUS_SHAPE_OVF k 1).linc g F.CO_SHAPE_OVF_CNT_COUNT k 1
  match (ch.core g k).tasks.find? fun t => t.id == task with
  | some t =>
    if t.ovfSeen then ch
    else
      let ch := ch.modCore g k fun co => co.modTask task fun t => { t with ovfSeen := true }
      let ch := ch.coreErr g k 8 t.ctx
      { ch with ovfCtx := t.ctx :: ch.ovfCtx }
  | none => ch

/-- CTX of the task that an instruction in flight belongs to. -/
def SparseCore.ctxOf (co : SparseCore) (task : Nat) : Nat :=
  ((co.tasks.find? fun t => t.id == task).map (·.ctx)).getD 0

/-- The check of a TMUL at its start (R71, R77, R83, R85, R86, R89, R115): the cause that stops it, or its mode and
class. -/
def Lantern.tmCheck (l : Lantern) (co : SparseCore) (m : MulOp) (rows : Nat) : Sum Nat (IMode × Nat) :=
  match l.tmOperands m.w with
  | none => .inl 2
  | some (a, b) =>
    match pairMode a.f.enc b.f.enc, a.f.vfmt.rateClass, b.f.vfmt.rateClass with
    | some mode, some ca, some cb =>
      let cls := max ca cb
      if (ca = 16) ≠ (cb = 16) then .inl 4
      else if (a.f.enc ≠ .dense ∧ !a.f.bgZero) ∨ (b.f.enc ≠ .dense ∧ !b.f.bgZero) then .inl 5
      else if a.pastEnd false ∨ b.pastEnd (mode == .gather) then .inl 6
      else if mode = .merge ∧ (panelAt co.obuf a.md).colBase ≠ (panelAt co.obuf b.md).colBase then .inl 7
      else if !tmBegin m.w && (upto rows).any fun r => (tmCols m.w).any fun c =>
          co.modeAt m.seq (tSet m.w) (tRow0 m.w + r) c != (cls == 16) then .inl 9
      else .inr (mode, cls)
    | _, _, _ => .inl 4

/-- A TMUL leaves the multiply queue; its dense-equivalent positions are counted in bypass, bitmap and N:M modes
(R113). The lines that it releases in this cycle, and its rows, are free at the cycle's end (R101, R103, R110). -/
def Channel.mulLeave (ch : Channel) (g k : Nat) (m : MulOp) (worked : Bool) : Channel :=
  let l := ch.lan g
  let ch := ch.modCore g k fun co =>
    { co with mulQ := co.mulQ.filter fun x => x.seq != m.seq }.leave
      { kind := 1, cyc := ch.cyc, set := tSet m.w, row0 := tRow0 m.w, rows := if m.start.isNone then tRows m.w else m.rows,
        lines := if m.start.isNone then l.tmLines co.obuf m.w
          else if m.released.any fun c => decide (c < ch.cyc) then [] else m.lines }
  let pos := m.rows * 64 * m.kbs * (tmCols m.w).length
  let ch := if worked ∧ (m.mode = .bypass ∨ m.mode = .bitmap ∨ m.mode = .nmDecode) then ch.linc g F.CO_POS_COUNT k pos
    else ch
  ch.coSettle g k

/-- The latest of two optional cycles. -/
def laterOf (a : Option Nat) (c : Nat) : Option Nat :=
  match a with
  | some x => some (max x c)
  | none => some c

/-- A TMUL reaches its start cycle (R103): it reads its shapes, is checked, and either is done at once (R109, R110) or
goes on to its examination and its slice stage. -/
def Channel.tmStart (ch : Channel) (g k : Nat) (chk : Check) : Channel :=
  let l := ch.lan g
  let co := l.core k
  match co.mulQ.find? fun m => m.start.isNone with
  | none => ch
  | some m =>
    let lines := l.tmLines co.obuf m.w
    let after := match co.lastStart with
      | some c => decide (c < ch.cyc)
      | none => true
    if ch.cyc < m.issued ∨ !after ∨ lines.any (co.lineLate m.seq ch.cyc) then ch
    else
      let ctx := co.ctxOf m.task
      let (rows, o1) := shapeOf l (isSet m.w 92) (bits m.w 87 84) (tRows m.w)
      let deep := isSet m.w 93 && !l.merges m.w
      let (kbs, o2) := shapeOf l deep (bits m.w 91 88) (tmKb m.w)
      let ch := if o1 || o2 then ch.shapeOvf g k m.task else ch
      let ch := ch.shapeMeet g ctx [(isSet m.w 92, bits m.w 87 84), (deep, bits m.w 91 88)]
      let ch := ch.modCore g k fun co => { co with lastStart := some ch.cyc }
      match l.tmCheck co m rows with
      | .inl cause => (ch.coreErr g k cause ctx).mulLeave g k m false
      | .inr (mode, cls) =>
        let kbs := if mode = .merge then 1 else kbs
        let unit := unitWord ch.no 2 g k 0
        let ch := match chk with
          | .ok => ch
          | .corrected => ch.raise 0xA2 unit (some ctx) 0
          | .uncorrectable => ch.raise 0xA3 unit (some ctx) 0
        let m' := { m with start := some ch.cyc, rows := rows, kbs := kbs, mode := mode, cls := cls, lines := lines,
                           nan := chk == .uncorrectable, taken := List.replicate 16 0,
                           examEnd := if mode = .bypass ∨ kbs = 0 then some ch.cyc else none,
                           released := if kbs = 0 ∧ mode ≠ .bypass then some ch.cyc else none }
        if (tmCols m.w).isEmpty ∨ rows = 0 ∨ (kbs = 0 ∧ !tmBegin m.w) then
          let ch := ch.modCore g k fun co => { co with lastPair := laterOf co.lastPair ch.cyc, lastExam := laterOf co.lastExam ch.cyc }
          ch.mulLeave g k m' (!(tmCols m.w).isEmpty)
        else ch.modCore g k (·.modMul m.seq fun _ => m')

/-- A pair queue. -/
def SparseCore.queue (co : SparseCore) (c : Nat) : List Pair := co.pairs.getD c []

/-- Pairs of a TMUL are still queued. -/
def SparseCore.hasPairs (co : SparseCore) (seq : Nat) : Bool := co.pairs.any fun q => q.2.any fun p => p.op == seq

/-- Accumulator writes of a TMUL are still in flight. -/
def SparseCore.hasWrites (co : SparseCore) (seq : Nat) : Bool := co.accW.any fun q => q.2.any fun a => a.op == seq

/-- Pairs that a column takes in bypass mode (R88). -/
def MulOp.bypassTotal (m : MulOp) : Nat := m.rows * 64 * m.kbs

/-- Every pair of a TMUL has been found and taken (R103). -/
def SparseCore.allTaken (co : SparseCore) (m : MulOp) : Bool :=
  m.examEnd.isSome && !co.hasPairs m.seq
    && (m.mode != .bypass || (tmCols m.w).all fun c => m.taken.getD c 0 == m.bypassTotal)

/-- Notes the last pair of each TMUL and lets those whose last write is made leave the queue (R103). -/
def Channel.mulSettle (ch : Channel) (g k : Nat) : List MulOp → Channel
  | [] => ch
  | m :: ms =>
    let co := ch.core g k
    let now := m.start.isSome && m.lastPair.isNone && co.allTaken m && (!tmBegin m.w && !m.nan || m.stage.isSome)
    let m := if now then { m with lastPair := some ch.cyc, released := m.released.or (some ch.cyc) } else m
    let ch := if now then ch.modCore g k fun co =>
        { co.modMul m.seq (fun _ => m) with lastPair := laterOf co.lastPair ch.cyc } else ch
    let ch := if m.lastPair.isSome && !(ch.core g k).hasWrites m.seq then ch.mulLeave g k m true else ch
    ch.mulSettle g k ms

/-- As `mulSettle`, over the whole queue. -/
def Channel.mulTidy (ch : Channel) (g k : Nat) : Channel := ch.mulSettle g k (ch.core g k).mulQ

/-- The TMUL under examination in a mode (R87): every earlier one has ended its examination. -/
def SparseCore.examining (co : SparseCore) (cyc : Nat) (ok : IMode → Bool) : Option MulOp :=
  match co.mulQ.find? fun m => m.examEnd.isNone with
  | none => none
  | some m =>
    match m.start with
    | none => none
    | some s =>
      let free := match co.lastExam with
        | some c => decide (c < cyc)
        | none => true
      if ok m.mode && decide (s + 3 ≤ cyc) && decide (m.nextExam ≤ cyc) && free then some m else none

/-- The examination of a TMUL ends in this cycle; its lines are released (R101). -/
def Channel.examDone (ch : Channel) (g k seq : Nat) : Channel :=
  (ch.modCore g k fun co =>
    { co.modMul seq (fun m => { m with examEnd := some ch.cyc, released := some ch.cyc }) with lastExam := some ch.cyc }).mulTidy g k

/-- A group that finds a queue without room waits, and the cycle is counted once (R87, R113). -/
def Channel.examWait (ch : Channel) (g k : Nat) : Channel :=
  if (ch.core g k).qfull = some ch.cyc then ch
  else (ch.linc g F.CO_QFULL_CY_COUNT k 1).modCore g k fun co => { co with qfull := some ch.cyc }

/-- Adds found pairs to a column's queue; a slice may take them from the next cycle on (R87). -/
def SparseCore.addPairs (co : SparseCore) (c : Nat) (ps : List Pair) : SparseCore :=
  if ps.isEmpty then co else { co with pairs := co.pairs.put c (co.queue c ++ ps) }

/-- Format faults of an operand piece count once for the instruction (R47, R62), and a location past line 63 once
(R84). -/
def Channel.pieceFaults (ch : Channel) (g k seq key faults : Nat) (beyond : Bool) : Channel :=
  match (ch.core g k).mulQ.find? fun m => m.seq == seq with
  | none => ch
  | some m =>
    let n := (if m.seen.contains key then 0 else faults) + (if beyond && !m.beyond then 1 else 0)
    (ch.modCore g k (·.modMul seq fun m => { m with seen := if m.seen.contains key then m.seen else key :: m.seen,
                                                    beyond := m.beyond || beyond })).fmtErr g k n

/-- The matched pairs of one row, depth block and column (R86). -/
def matchPairs (ob : Mem) (a b : Operand) (pa pb : Piece) (seq row v c j ready : Nat) : List Pair :=
  pa.items.filterMap fun (p, x) =>
    match pb.items.find? fun q => q.1 == p with
    | none => none
    | some (_, y) =>
      let d := match a.scale ob v (64 * j + p), b.scale ob c (64 * j + p) with
        | some da, some db => some (da + db)
        | _, _ => none
      some { op := seq, row := row, a := x, b := y, d := d, ready := ready }

/-- One group of two columns in bitmap or N:M mode (R87). -/
def Channel.intersectGroup (ch : Channel) (g k : Nat) : Channel :=
  let l := ch.lan g
  let co := l.core k
  match co.examining ch.cyc (fun m => m == .bitmap || m == .nmDecode) with
  | none => ch
  | some m =>
    match l.tmOperands m.w with
    | none => ch
    | some (a, b) =>
      let cols := ((tmCols m.w).drop m.ec).take 2
      let pa := a.piece co.obuf m.er m.eb
      let found := cols.map fun c =>
        let pb := b.piece co.obuf c m.eb
        (c, pb, matchPairs co.obuf a b pa pb m.seq (tRow0 m.w + m.er) m.er c m.eb (ch.cyc + 1))
      if found.any fun x => decide (64 < (co.queue x.1).length + x.2.2.length) then ch.examWait g k
      else
        let ch := ch.pieceFaults g k m.seq (2 * (16 * m.er + m.eb)) pa.faults pa.beyond
        let ch := found.foldl (fun ch x => ch.pieceFaults g k m.seq (2 * (16 * x.1 + m.eb) + 1) x.2.1.faults x.2.1.beyond) ch
        let ch := ch.modCore g k fun co => found.foldl (fun co x => co.addPairs x.1 x.2.2) co
        let ec := m.ec + 2
        let (ec, eb) := if ec < (tmCols m.w).length then (ec, m.eb) else (0, m.eb + 1)
        let (eb, er) := if eb < m.kbs then (eb, m.er) else (0, m.er + 1)
        let ch := ch.modCore g k (·.modMul m.seq fun m => { m with ec := ec, eb := eb, er := er, nextExam := ch.cyc + 1 })
        if er < m.rows then ch.mulTidy g k else ch.examDone g k m.seq

/-- One cycle of one merge (R89): the positions after it, the entry numbers paired, and whether it has ended. -/
def mergeStep (la lb : List (Nat × Nat)) (ia ib : Nat) : Nat × Nat × List (Nat × Nat) × Bool :=
  let wa := (la.drop ia).take 16
  let wb := (lb.drop ib).take 16
  match wa.getLast?, wb.getLast? with
  | some x, some y =>
    let lim := min x.2 y.2
    let ca := wa.filter fun e => decide (e.2 ≤ lim)
    let cb := wb.filter fun e => decide (e.2 ≤ lim)
    let ps := ca.filterMap fun e => (cb.find? fun f => f.2 == e.2).map fun f => (e.1, f.1)
    let ia := ia + ca.length
    let ib := ib + cb.length
    (ia, ib, ps, decide (la.length ≤ ia) || decide (lb.length ≤ ib))
  | _, _ => (ia, ib, [], true)

/-- One cycle of a merge group of four columns (R87, R89). -/
def Channel.mergeCycle (ch : Channel) (g k : Nat) : Channel :=
  let l := ch.lan g
  let co := l.core k
  match co.examining ch.cyc (· == .merge) with
  | none => ch
  | some m =>
    match l.tmOperands m.w with
    | none => ch
    | some (a, b) =>
      let cols := ((tmCols m.w).drop m.ec).take 4
      if cols.any fun c => decide (64 < (co.queue c).length + 16) then ch.examWait g k
      else
        let pa := panelAt co.obuf a.md
        let pb := panelAt co.obuf b.md
        let ai := bits m.w 103 94 + m.er
        let (la, fa, ba) := pa.entriesOf co.obuf a.f ai
        let pos := if m.pos.isEmpty then cols.map fun _ => (0, 0, false) else m.pos
        let steps := (cols.zip pos).map fun (c, (ia, ib, dn)) =>
          let bi := bits m.w 113 104 + c
          let (lb, fb, bb) := pb.entriesOf co.obuf b.f bi
          let (ia, ib, ps, e) := if dn then (ia, ib, [], true) else mergeStep la lb ia ib
          let vals := ps.map fun (ea, eb) => (pa.value co.obuf a.f ea, pb.value co.obuf b.f eb)
          let prs := vals.filterMap fun (x, y) => match x, y with
            | some x, some y =>
              some ({ op := m.seq, row := tRow0 m.w + m.er, a := x, b := y, d := some 0, ready := ch.cyc + 1 } : Pair)
            | _, _ => none
          (c, (ia, ib, e), prs, b2n fb, bb)
        let ch := ch.pieceFaults g k m.seq (2 * m.er) (b2n fa) ba
        let ch := steps.foldl (fun ch s => ch.pieceFaults g k m.seq (2 * s.1 + 1) s.2.2.2.1 s.2.2.2.2) ch
        let ch := ch.modCore g k fun co => steps.foldl (fun co s => co.addPairs s.1 s.2.2.1) co
        let ended := steps.all fun s => s.2.1.2.2
        let ec := if ended then m.ec + 4 else m.ec
        let (ec, er) := if ec < (tmCols m.w).length then (ec, m.er) else (0, m.er + 1)
        let ch := ch.modCore g k (·.modMul m.seq fun m =>
          { m with ec := ec, er := er, pos := if ended then [] else steps.map (·.2.1), nextExam := ch.cyc + 1 })
        if er < m.rows then ch.mulTidy g k else ch.examDone g k m.seq

/-- One cycle of gather mode (R90): up to 128 entries of the row's list, fewer when a queue would exceed 64. -/
def Channel.gatherCycle (ch : Channel) (g k : Nat) : Channel :=
  let l := ch.lan g
  let co := l.core k
  match co.examining ch.cyc (· == .gather) with
  | none => ch
  | some m =>
    match l.tmOperands m.w with
    | none => ch
    | some (a, b) =>
      let pa := panelAt co.obuf a.md
      let (la, fa, ba) := pa.entriesOf co.obuf a.f (bits m.w 103 94 + m.er)
      let cols := tmCols m.w
      let room := cols.foldl (fun r c => min r (64 - (co.queue c).length)) 64
      let base := 64 * bits m.w 123 114
      let inWin := fun (x : Nat) => decide (base ≤ x) && decide (x < base + 64 * m.kbs)
      let rec pick : List (Nat × Nat) → Nat → Nat → List (Nat × Nat)
        | [], _, _ => []
        | e :: es, n, r => if n = 0 ∨ (inWin e.2 ∧ r = 0) then [] else e :: pick es (n - 1) (if inWin e.2 then r - 1 else r)
      let todo := la.drop m.gpos
      let now := pick todo 128 room
      if now.isEmpty ∧ !todo.isEmpty then ch.examWait g k
      else
        let w := b.f.vfmt.width
        let tern := fun (r i : Nat) => ternDigits (co.obuf.rd (64 * b.val + gatherRow * r + i)).toNat
        let elB := fun (r c : Nat) =>
          if b.f.vfmt = .ternary then some (Num.int ((tern r (c / 5)).1.getD (c % 5) 0))
          else (obElem co.obuf (64 * b.val) w (16 * r + c)).map b.f.value
        let hit := now.filter fun e => inWin e.2
        let pairsOf := fun (c : Nat) => hit.filterMap fun e =>
          match pa.value co.obuf a.f e.1, elB (e.2 - base) c with
          | some x, some y => some ({ op := m.seq, row := tRow0 m.w + m.er, a := x, b := y,
                                      d := b.scale co.obuf c (e.2 - base), ready := ch.cyc + 1 } : Pair)
          | _, _ => none
        let bad := if b.f.vfmt ≠ .ternary then [] else (hit.flatMap fun e => ((cols.map (· / 5)).eraseDups.filter fun i =>
          (tern (e.2 - base) i).2).map fun i => gatherRow * (e.2 - base) + i).eraseDups
        let ch := ch.pieceFaults g k m.seq (2 * m.er) (b2n fa) ba
        let ch := bad.foldl (fun ch i => ch.pieceFaults g k m.seq (2 * i + 1) 1 false) ch
        let ch := ch.modCore g k fun co => cols.foldl (fun co c => co.addPairs c (pairsOf c)) co
        let gpos := m.gpos + now.length
        let (gpos, er) := if la.length ≤ gpos then (0, m.er + 1) else (gpos, m.er)
        let ch := ch.modCore g k (·.modMul m.seq fun m => { m with gpos := gpos, er := er, nextExam := ch.cyc + 1 })
        if er < m.rows then ch.mulTidy g k else ch.examDone g k m.seq

/-- Puts an accumulator write into flight for a column. -/
def SparseCore.fly (co : SparseCore) (c : Nat) (a : AccWr) : SparseCore :=
  { co with accW := co.accW.put c (co.accW.getD c [] ++ [a]) }

/-- The slice stage of a TMUL begins (R103), with the slice binding in force (R80); with BEGIN set its first cycle clears
the named cells (R115). -/
def Channel.stageBegin (ch : Channel) (g k : Nat) : Channel :=
  let l := ch.lan g
  let co := l.core k
  match co.mulQ.find? fun m => m.stage.isNone with
  | none => ch
  | some m =>
    let prevOk := (co.mulQ.filter fun x => decide (x.seq < m.seq)).all fun x => x.lastPair.isSome
    let after := match co.lastPair with
      | some c => decide (c < ch.cyc)
      | none => true
    let rows := (upto m.rows).map (tRow0 m.w + ·)
    let held := tmBegin m.w && rows.any (co.rowHeld m.seq (tSet m.w))
    match m.start with
    | none => ch
    | some s =>
      if !prevOk ∨ !after ∨ ch.cyc < s + 4 ∨ held then ch
      else
        let fp := m.cls == 16
        let base : AccWr := { op := m.seq, set := tSet m.w, due := ch.cyc + 2, fp := fp }
        let ch := ch.modCore g k fun co =>
          let co := co.modMul m.seq fun m => { m with stage := some ch.cyc, spareFor := l.r F.CO_SLICEMAP_SPARE_FOR k }
          let co := if tmBegin m.w then (tmCols m.w).foldl (fun co c => co.fly c { base with clear := rows }) co else co
          if m.nan then (tmCols m.w).foldl (fun co c => co.fly c { base with nan := true, pairs := rows.map fun r =>
            { op := m.seq, row := r, a := .nan, b := .nan, d := none, ready := ch.cyc } }) co
          else co
        ch.mulTidy g k

/-- The pairs that slice `c` may take now from a TMUL in its slice stage: at most two, and two only in the 4-bit class and
of one row (R79, R88). -/
def Lantern.nextPairs (l : Lantern) (co : SparseCore) (m : MulOp) (c cyc : Nat) : List Pair :=
  let most := if m.cls = 4 then 2 else 1
  if m.mode = .bypass then
    match l.tmOperands m.w with
    | none => []
    | some (a, b) =>
      let n := m.taken.getD c 0
      if !(tmCols m.w).contains c then []
      else (upto (min most (m.bypassTotal - n))).filterMap fun i =>
        let r := (n + i) / (64 * m.kbs)
        let p := (n + i) % (64 * m.kbs)
        let pa := { (a.piece co.obuf r (p / 64)) with items := ((a.piece co.obuf r (p / 64)).items.filter fun x => x.1 == p % 64) }
        (matchPairs co.obuf a b pa (b.piece co.obuf c (p / 64)) m.seq (tRow0 m.w + r) r c (p / 64) cyc).head?
  else
    match (co.queue c).take most with
    | [] => []
    | p :: ps =>
      if p.op ≠ m.seq ∨ cyc < p.ready then []
      else p :: ps.filter fun q => q.op == p.op && q.row == p.row && decide (q.ready ≤ cyc)

/-- The physical slice that serves a column (R80). -/
def sliceOf (spareFor c : Nat) : Nat := if spareFor = c then 16 else c

/-- A slice takes one or two pairs from the head of its queue (R79). A residue mismatch that a repeat corrects is recorded;
a second mismatch makes the pair's cell NaN (R420). -/
def Channel.takePair (ch : Channel) (g k c : Nat) (chk : Check) : Channel :=
  let l := ch.lan g
  let co := l.core k
  match co.mulQ.find? fun m => m.stage.isSome && m.lastPair.isNone with
  | none => ch
  | some m =>
    let first := m.stage.getD 0 + (if tmBegin m.w then 1 else 0)
    if ch.cyc < first ∨ ch.cyc < co.cool.getD c 0 then ch
    else
      match l.nextPairs co m c ch.cyc with
      | [] => ch
      | ps =>
        let unit := unitWord ch.no 1 g k (sliceOf m.spareFor c)
        let ctx := co.ctxOf m.task
        let ch := match chk with
          | .ok => ch
          | .corrected => ch.raise 0xA0 unit (some ctx) 0
          | .uncorrectable => ch.raise 0xA1 unit (some ctx) 0
        let ch := if m.mode != .bypass then ch
          else match l.tmOperands m.w with
            | none => ch
            | some (a, b) =>
              let n := m.taken.getD c 0
              let r := n / (64 * m.kbs)
              let j := n % (64 * m.kbs) / 64
              let pa := a.piece co.obuf r j
              let pb := b.piece co.obuf c j
              (ch.pieceFaults g k m.seq (2 * (16 * r + j)) pa.faults false).pieceFaults g k m.seq
                (2 * (16 * c + j) + 1) pb.faults false
        let ch := ch.linc g F.CO_PAIRS_COUNT k ps.length
        let ch := if co.took = some ch.cyc then ch else ch.linc g F.CO_BUSY_CY_COUNT k 1
        let ch := ch.modCore g k fun co =>
          let co := { co with took := some ch.cyc, cool := co.cool.put c (if m.cls = 16 then ch.cyc + 4 else ch.cyc + 1) }
          let co := if m.mode = .bypass then co.modMul m.seq fun m => { m with taken := modAt m.taken c (· + ps.length) }
            else { co with pairs := co.pairs.put c ((co.queue c).drop ps.length) }
          co.fly c { op := m.seq, set := tSet m.w, due := ch.cyc + 2, fp := m.cls == 16, pairs := ps,
                     nan := chk == .uncorrectable }
        ch.mulTidy g k

/-! ### The accumulator (R115 to R119) -/

/-- The signed value of a 96-bit cell. -/
def acc96 (v : Nat) : Int := sext 96 v

/-- An exact finite value as a multiple of 2^-40, to nearest with ties to even; the Bool says that it was not a
multiple (R116). -/
def toFixed (x : Num) : Int × Bool :=
  match x with
  | .fin s m e =>
    let n := rneTo m e (-40)
    let exact := decide (-40 ≤ e) || decide (m % 2 ^ ((-40 - e).toNat) = 0)
    ((if s then -(n : Int) else (n : Int)), !exact)
  | _ => (0, false)

/-- TAG after a special product (R118). -/
def tagWith (tag : Nat) (p : Num) : Nat :=
  match p with
  | .nan => 3
  | .inf s =>
    let t := if s then 2 else 1
    if tag = 0 then t else if tag = t then t else 3
  | .fin .. => tag

/-- Adds one pair to a long-mode cell (R116, R118): the cell, and whether the product was rounded or out of range. -/
def Cell.addLong (x : Cell) (p : Pair) : Cell × Bool × Bool :=
  let prod := match p.d with
    | none => Num.nan
    | some d => (Num.mul p.a p.b).scale d
  match prod with
  | .fin _ m e =>
    let (q, inexact) := toFixed prod
    let range := magLe 1 55 m e
    ({ x with v := (x.v + ofInt 96 q) % 2 ^ 96 }, inexact, range)
  | sp => ({ x with tag := tagWith x.tag sp }, false, false)

/-- Adds one pair to an FP32-mode cell, rounded once (R119). -/
def Cell.addFp (x : Cell) (p : Pair) : Cell :=
  { x with v := (VFmt.encode .fp32 false (Num.add (VFmt.decode .fp32 x.v) (Num.mul p.a p.b))).code }

/-- A cell that takes NaN (R420). -/
def Cell.poison (x : Cell) : Cell := if x.fp then { x with v := 0x7FC00000 } else { x with tag := 3 }

/-- Applies one accumulator write to column `c`. -/
def Channel.accApply (ch : Channel) (g k c : Nat) (a : AccWr) : Channel :=
  let put := fun (ch : Channel) (row : Nat) (x : Cell) =>
    ch.modCore g k fun co => { co with acc := co.acc.put (cellKey a.set row c) x }
  let ch := a.clear.foldl (fun ch r => put ch r { v := 0, fp := a.fp, tag := 0 }) ch
  a.pairs.foldl (fun ch p =>
    let x := (ch.core g k).cell a.set p.row c
    if a.nan then put ch p.row x.poison
    else if a.fp then put ch p.row (x.addFp p)
    else
      let (y, inexact, range) := x.addLong p
      let ch := put ch p.row y
      let ch := if inexact then (ch.linc g F.CO_ACC_INEXACT_CNT_COUNT k 1).lw g F.CO_DRN_STATUS_INEXACT k 1 else ch
      if range then (ch.linc g F.CO_ACC_RANGE_CNT_COUNT k 1).lw g F.CO_DRN_STATUS_RANGE k 1 else ch) ch

/-- Two cycles after it was made, a clear or a taken product is written into column `c` (R103, R116), once no earlier
DRAIN holds the row (R102). The TMUL's rows are released with its last write. -/
def Channel.accumulate (ch : Channel) (g k c : Nat) : Channel :=
  let co := ch.core g k
  match co.accW.getD c [] with
  | [] => ch
  | a :: rest =>
    let rows := a.clear ++ a.pairs.map (·.row)
    if ch.cyc < a.due ∨ rows.any (co.rowHeld a.op a.set) then ch
    else
      let ch := ch.accApply g k c a
      (ch.modCore g k fun co => { co with accW := co.accW.put c rest }).mulTidy g k

/-! ### Counters and the debug window (R113, R138, R139) -/

/-- The counters that CO_CTRL.CLR_CNT clears (R113, R138). -/
def coCounters : List Fld :=
  [F.CO_FMT_ERR_CNT_COUNT, F.CO_SHAPE_OVF_CNT_COUNT, F.CO_EMPTY_CNT_COUNT, F.CO_PAIRS_COUNT, F.CO_POS_COUNT,
   F.CO_BUSY_CY_COUNT, F.CO_QFULL_CY_COUNT, F.CO_IDLE_CY_COUNT, F.CO_ACC_INEXACT_CNT_COUNT, F.CO_ACC_RANGE_CNT_COUNT,
   F.CO_DRN_SAT_CNT_COUNT, F.CO_DRN_NAN0_CNT_COUNT, F.CO_DRN_STAT_CNT_COUNT]

/-- CO_CTRL.CLR_CNT (R113). -/
def Channel.coClrCnt (ch : Channel) (g k : Nat) : Channel :=
  ch.modLan g fun l => { l with regs := l.regs.clear coCounters k }

/-- The value that a read of CO_ACC_DATA_LO, CO_ACC_DATA_HI or CO_ACC_TAG returns (R139): the selected cell while DBG_EN
is 1, else 0. `part` is 0, 1 or 2. -/
def Lantern.accRead (l : Lantern) (k part : Nat) : Nat :=
  if l.r F.CO_DBG_DBG_EN k = 0 then 0
  else
    let x := (l.core k).cell (l.r F.CO_ACC_SEL_SET k) (l.r F.CO_ACC_SEL_ROW k) (l.r F.CO_ACC_SEL_COL k)
    if part = 0 then x.v % 2 ^ 64 else if part = 1 then x.v >>> 64 else x.tag + (b2n x.fp) <<< 2

/-- A cycle passes: a core with an open task in which no slice took a pair counts it (R113). -/
def Lantern.coreCycle (l : Lantern) (cyc : Nat) : Lantern :=
  l.cores.foldl (fun l kc =>
    if kc.2.tasks.any (fun t => t.opened) && kc.2.took != some cyc then l.inc F.CO_IDLE_CY_COUNT kc.1 1 else l) l

end Sys2Proof.Machine
end

