-- ==== Sys2Proof/Machine/Drain.lean ====
section
/-! DEFINITION. The drain path: scaling, rounding, layout, run-mask records, statistics records and partial elements
(R121 to R135), and the steps of a DRAIN. -/

namespace Sys2Proof.Machine

/-- A drain parameter word (R122). -/
structure DParam where
  aFmt : Nat
  aEn  : Bool
  order : Bool
  bFmt : Nat
  bEn  : Bool
  colEn : Bool
  aIdx : Nat
  aStep : Nat
  bIdx : Nat
  bStep : Nat
  oIdx : Nat
  oStep : Nat
  thMode : Nat
  colShape : Nat
  thresh : Nat
  deriving DecidableEq, Repr

/-- The drain parameter word of an index (R122). -/
def Lantern.dparam (l : Lantern) (n : Nat) : DParam where
  aFmt := l.r F.LN_DPARAM_LO_A_SLFMT n
  aEn := l.r F.LN_DPARAM_LO_A_SL_EN n = 1
  order := l.r F.LN_DPARAM_LO_ORDER n = 1
  bFmt := l.r F.LN_DPARAM_LO_B_SLFMT n
  bEn := l.r F.LN_DPARAM_LO_B_SL_EN n = 1
  colEn := l.r F.LN_DPARAM_LO_COL_SHAPE_EN n = 1
  aIdx := l.r F.LN_DPARAM_LO_A_SL_IDX n
  aStep := l.r F.LN_DPARAM_LO_A_SL_STEP n
  bIdx := l.r F.LN_DPARAM_LO_B_SL_IDX n
  bStep := l.r F.LN_DPARAM_LO_B_SL_STEP n
  oIdx := l.r F.LN_DPARAM_HI_O_SL_IDX n
  oStep := l.r F.LN_DPARAM_HI_O_SL_STEP n
  thMode := l.r F.LN_DPARAM_HI_TH_MODE n
  colShape := l.r F.LN_DPARAM_HI_COL_SHAPE n
  thresh := l.r F.LN_DPARAM_HI_THRESH n

/-! ### Fields of a DRAIN (R97) -/

/-- PARTIAL. -/
def drPartial (w : Nat) : Bool := isSet w 4
/-- DST, as a byte address. -/
def drDst (w : Nat) : Nat := 64 * bits w 33 22
/-- DST_PITCH in bytes. -/
def drPitch (w : Nat) : Nat := 8 * bits w 45 34
/-- RUNMASK. -/
def drRunmask (w : Nat) : Bool := isSet w 46
/-- STATS. -/
def drStats (w : Nat) : Bool := isSet w 47
/-- STATS_DST, as a byte address. -/
def drStatsDst (w : Nat) : Nat := 64 * bits w 59 48
/-- MX_SCL: byte address of output vector 0's scale byte, and the pitch in bytes (R122). -/
def DParam.mxScl (d : DParam) : Nat × Nat := (d.thresh % 2 ^ 18, 64 * bits d.thresh 25 18)

/-- Bytes of `n` elements of `w` bits. -/
def packedBytes (n w : Nat) : Nat := ceilDiv (n * w) 8

/-- Vectors of the output, elements of each, and the pitch between them in bytes (R126, R134). -/
def drainShape (w : Nat) (order : Bool) (ew : Nat) : Nat × Nat × Nat :=
  let rows := tRows w
  let part := drPartial w
  let (v, n, size) := if part then (rows, 16, 256)
    else if order then (16, rows, packedBytes rows ew) else (rows, 16, packedBytes 16 ew)
  (v, n, if drPitch w = 0 then size else drPitch w)

/-- A byte that the DRAIN would write for its planned rows lies beyond line 4,095 (R132). -/
def drainPastEnd (w : Nat) (d : DParam) (f : FmtWord) : Bool :=
  let ew := f.vfmt.width
  let (v, n, pitch) := drainShape w d.order ew
  let size := if drPartial w then 16 * n else packedBytes n ew
  let top := 262144
  let out := if drRunmask w then drDst w + 64 + 64 * ew else drDst w + (v - 1) * pitch + size
  decide (top < out) || (drStats w && decide (top < drStatsDst w + 32 * tRows w))
    || (f.mx && decide (top < (d.mxScl).1 + 15 * (d.mxScl).2 + 1))

/-- A DRAIN that R132 calls invalid, with a valid output format word. -/
def drainInvalid (w : Nat) (d : DParam) (f : FmtWord) : Bool :=
  let rm := drRunmask w
  (rm && (f.enc != .runMask || d.order)) || (!rm && f.enc != .dense)
    || (f.mx && !(d.order && tRow0 w == 0 && tRows w == 32))
    || (drPartial w && (rm || drStats w)) || (rm && d.thMode == 3) || f.vfmt == .ternary
    || drainPastEnd w d f || (f.mx && decide (d.thresh >>> 26 ≠ 0))

/-- The DRAIN of a number. -/
def SparseCore.modDrain (co : SparseCore) (seq : Nat) (f : DrainOp → DrainOp) : SparseCore :=
  { co with drainQ := co.drainQ.map fun d => if d.seq = seq then f d else d }

/-- Keeps the DRAINs of the queue that satisfy `p`. -/
def SparseCore.keepDrains (co : SparseCore) (p : DrainOp → Bool) : SparseCore := { co with drainQ := co.drainQ.filter p }

/-- DRAINs with nothing left to read, to pack or to write leave the drain queue (R133). -/
def Channel.drainSettle (ch : Channel) (g k : Nat) : Channel :=
  let fin := fun (d : DrainOp) => d.rowsDone && d.lines.isEmpty && d.asked == 0 && decide (d.lastD4 ≤ ch.cyc)
  if (ch.core g k).drainQ.any fin then
    (ch.modCore g k fun co =>
      ((co.drainQ.filter fin).foldl (fun co _ => co.leave { kind := 2, cyc := ch.cyc }) co).keepDrains fun d => !fin d).coSettle g k
  else ch

/-- A DRAIN reaches its start cycle (R133): it reads its shapes and is checked by R77 and R132. -/
def Channel.drainStart (ch : Channel) (g k : Nat) : Channel :=
  let l := ch.lan g
  let co := l.core k
  match co.drainQ.find? fun d => d.start.isNone with
  | none => ch
  | some d =>
    let prev := co.drainQ.all fun x => x.start.isNone || x.rowsDone
    let after := match co.lastD0 with
      | some c => decide (c < ch.cyc)
      | none => true
    if !prev ∨ !after ∨ ch.cyc ≤ d.issued then ch
    else
      let ctx := co.ctxOf d.task
      let p := l.dparam (bits d.w 65 60)
      let (rows, o1) := shapeOf l (isSet d.w 70) (bits d.w 69 66) (tRows d.w)
      let (cols, o2) := shapeOf l p.colEn p.colShape 16
      let ch := if o1 || o2 then ch.shapeOvf g k d.task else ch
      let ch := ch.shapeMeet g ctx [(isSet d.w 70, bits d.w 69 66), (p.colEn, p.colShape)]
      let fail := fun (cause : Nat) =>
        ((ch.coreErr g k cause ctx).modCore g k fun co =>
          { (co.leave { kind := 2, cyc := ch.cyc }).keepDrains (fun x => x.seq != d.seq) with lastD0 := some ch.cyc }).coSettle g k
      match l.fmt (bits d.w 21 16) with
      | none => fail 2
      | some f =>
        if drainInvalid d.w p f then fail 0x0A
        else ch.modCore g k (·.modDrain d.seq fun d =>
          { d with start := some ch.cyc, rows := rows, cols := cols, empty := d.empty || rows == 0, nextCy := ch.cyc })

/-- A TMUL in the queue holds a row: a planned one until it has started, and then a row below its run-time row count, until its last
write (R102, R103). -/
def MulOp.holdsRow (m : MulOp) (set row : Nat) : Bool :=
  tSet m.w == set && decide (tRow0 m.w ≤ row)
    && decide (row < tRow0 m.w + (if m.start.isNone then tRows m.w else m.rows))

/-- The scoreboard has released a row to DRAIN `seq`: every earlier TMUL that names it has left the queue, and not in this cycle
(R102, R103, R133). -/
def SparseCore.rowReleased (co : SparseCore) (seq set row cyc : Nat) : Bool :=
  (co.mulQ.all fun m => decide (seq < m.seq) || !m.holdsRow set row)
    && co.gone.all fun x => decide (x.cyc < cyc) || !(x.set == set && decide (x.row0 ≤ row) && decide (row < x.row0 + x.rows))

/-- The exact value of a cell or partial: what TAG marks, else the FP32 or the fixed-point value (R116, R118, R119, R203). -/
def Cell.value (x : Cell) : Num :=
  match x.tag with
  | 0 => if x.fp then VFmt.decode .fp32 (x.v % 2 ^ 32) else Num.ofInt (acc96 x.v) (-40) false
  | 1 => .inf false
  | 2 => .inf true
  | _ => .nan

/-- A run of scale entries: their exponents, and whether one was out of range (R123). -/
def Lantern.slRun (l : Lantern) (base idx step n : Nat) : List Int × Bool :=
  let es := (upto n).map fun i => l.slEntry base (idx + i * step)
  (es.map (·.1), es.any (·.2))

/-- The scale entries that a DRAIN uses (R121, R123): of its rows, its columns and its output vectors. -/
def Lantern.drainScales (l : Lantern) (d : DrainOp) (p : DParam) (f : FmtWord) : (List Int × List Int × List Int) × Bool :=
  let zero := fun (n : Nat) => (List.replicate n (0 : Int), false)
  let base := fun (n : Nat) => l.r F.LN_FMT_SL_BASE n
  let rows := min d.rows (tRows d.w)
  let (a, ea) := if p.aEn then l.slRun (base p.aFmt) (p.aIdx + tRow0 d.w * p.aStep) p.aStep rows else zero rows
  let (b, eb) := if p.bEn then l.slRun (base p.bFmt) p.bIdx p.bStep d.cols else zero d.cols
  let nv := if p.order then d.cols else rows
  let (o, eo) := if f.sl then l.slRun f.slBase p.oIdx p.oStep nv else zero nv
  ((a, b, o), ea || eb || eo)

/-! ### Conversion and statistics -/

/-- Adds conversion outcomes to the drain counters (R125, R138). -/
def Channel.drainCounts (ch : Channel) (g k sat nanz : Nat) : Channel :=
  let ch := if sat = 0 then ch else (ch.linc g F.CO_DRN_SAT_CNT_COUNT k sat).lw g F.CO_DRN_STATUS_SAT k 1
  if nanz = 0 then ch else (ch.linc g F.CO_DRN_NAN0_CNT_COUNT k nanz).lw g F.CO_DRN_STATUS_NAN0 k 1

/-- Statistics of a row (R129): the 32 bytes of R130 and the number of contributions rounded and totals saturated. -/
def statRecord (xs : List Num) : List (BitVec 8) × Nat :=
  let fin := xs.filter Num.isFin
  let adds := fin.map toFixed
  let sqs := fin.map fun x => toFixed (Num.mul x x)
  let lim : Int := ((2 ^ 95 : Nat) : Int)
  let tot := fun (ys : List (Int × Bool)) =>
    let s := ys.foldl (fun s y => s + y.1) (0 : Int)
    if s < -lim then (-lim, true) else if lim ≤ s then (lim - 1, true) else (s, false)
  let (s1, o1) := tot adds
  let (s2, o2) := tot sqs
  let rnd := (adds ++ sqs).countP (·.2)
  let nan := xs.any Num.isNan
  let pinf := xs.countP (· == .inf false)
  let ninf := xs.any (· == .inf true)
  let above := fun (x y : Num) => Num.lt x y || (x.isZero && y.isZero && x.sign)
  let top := xs.foldl (fun m x => if above m x then x else m) (Num.inf true)
  let mx := if nan then 0x7FC00000 else (VFmt.encode .fp32 false top).code
  let sats := b2n o1 + b2n o2
  let flags := b2n nan + 2 * b2n (rnd != 0) + 4 * b2n (sats != 0) + 8 * b2n ninf
  (toBytes 12 (ofInt 96 s1) ++ toBytes 12 (ofInt 96 s2) ++ toBytes 4 mx ++ toBytes 2 fin.length
    ++ toBytes 1 flags ++ toBytes 1 pinf, rnd + sats)

/-- Puts bytes into an image by address. -/
def imgPut (m : SMap Nat) (a : Nat) (bs : List (BitVec 8)) : SMap Nat :=
  (bs.foldl (fun (acc : SMap Nat × Nat) b => (acc.1.put acc.2 b.toNat, acc.2 + 1)) (m, a)).1

/-- Takes the bytes of the lines that satisfy `done` out of an image, in ascending line order. -/
def imgTake (m : SMap Nat) (at_ : Nat) (done : Nat → Bool) : List DLine × SMap Nat :=
  let ls := ((m.map fun kv => kv.1 / 64).eraseDups).filter done
  (ls.map fun x => { line := x, at_ := at_,
                     bytes := (m.filter fun kv => kv.1 / 64 == x).map fun kv => (kv.1 % 64, kv.2) },
   m.filter fun kv => !ls.contains (kv.1 / 64))

/-- The threshold test of R128 on a rounded value. -/
def thPass (mode thresh : Nat) (x : Num) : Bool :=
  let t := VFmt.decode .fp32 thresh
  x.isNan || (if mode = 0 then Num.lt t x.abs else if mode = 1 then Num.lt t x else !x.isZero)

/-- The bytes of one partial element (R134). -/
def Cell.partial_ (x : Cell) : List (BitVec 8) :=
  toBytes 12 (if x.fp then x.v % 2 ^ 32 else x.v) ++ toBytes 4 (x.tag + 4 * b2n x.fp)

/-- The block scale of a vector of results (R54): the stored byte, and the exponent; none for a block with a NaN. -/
def blockScale (v : VFmt) (xs : List Num) : Nat × Option Int :=
  if xs.any Num.isNan then (0xFF, none)
  else
    let a := xs.foldl (fun m x => if x.isFin && Num.lt m x.abs then x.abs else m) (Num.fin false 0 0)
    match a with
    | .fin _ m e =>
      if m = 0 then (0, some (-127))
      else
        let s := max (-127) (min 127 (flog2 m e - v.emax))
        ((s + 127).toNat, some s)
    | _ => (0, some (-127))

/-- One result of an MX block divided by its scale and converted (R54, R56). -/
def mxConvert (f : FmtWord) (s : Int) (x : Num) : Conv :=
  f.vfmt.encode f.sat (x.scale (if f.vfmt = .int8 then 6 - s else -s))

/-- A vector of column-major output with its codes, its scale byte, the values its elements represent, and the
conversions counted (R54, R126, R127). `xs` are the results inside the run-time extent. -/
structure ColOut where
  codes : List Nat
  scale : Nat := 0
  vals  : List Num
  sat   : Nat
  nanz  : Nat

/-- One output vector of ORDER 1. -/
def colVector (f : FmtWord) (n : Nat) (sO : Int) (xs : List Num) : ColOut :=
  let pad := f.elemOf f.pad
  if f.mx then
    let (byte, s) := blockScale f.vfmt xs
    match s with
    | none => { codes := List.replicate n 0, scale := byte, vals := xs.map fun _ => .nan, sat := 0, nanz := 0 }
    | some s =>
      let cs := xs.map (mxConvert f s)
      { codes := fitTo n pad (cs.map (·.code)), scale := byte, vals := cs.map fun c => ((f.value c.code).scale s).scale sO,
        sat := cs.countP (·.sat), nanz := cs.countP (·.nanz) }
  else
    let cs := xs.map (f.vfmt.encode f.sat)
    { codes := fitTo n pad (cs.map (·.code)), vals := cs.map fun c => (f.value c.code).scale sO,
      sat := cs.countP (·.sat), nanz := cs.countP (·.nanz) }

/-- Adds a statistics record of row `i`, and counts its rounded or saturated contributions (R129, R138). -/
def Channel.statRow (ch : Channel) (g k : Nat) (d : DrainOp) (i : Nat) (xs : List Num) : Channel × DrainOp :=
  if !drStats d.w then (ch, d)
  else
    let (bs, n) := statRecord xs
    let ch := if n = 0 then ch else (ch.linc g F.CO_DRN_STAT_CNT_COUNT k n).lw g F.CO_DRN_STATUS_STAT k 1
    (ch, { d with stat := imgPut d.stat (drStatsDst d.w + 32 * i) bs })

/-- The outcome of everything that waits for the last planned row: column-major vectors with their scale bytes, and
run-mask records. -/
def Channel.drainLast (ch : Channel) (g k : Nat) (d : DrainOp) (p : DParam) (f : FmtWord) (sO : List Int) :
    Channel × DrainOp × List DLine × List DLine :=
  let ew := f.vfmt.width
  let at_ := ch.cyc + 5
  if d.empty ∨ drPartial d.w then (ch, d, [], [])
  else if drRunmask d.w then
    let base := tRow0 d.w
    let cs := d.vals.map fun r => r.map (f.vfmt.encode f.sat)
    let ok := cs.map fun r => r.map fun c => thPass p.thMode p.thresh (f.value c.code)
    let mask := ((upto d.rows).foldl (fun m i => (upto d.cols).foldl (fun m c =>
      if (ok.getD i []).getD c false then m + 2 ^ (16 * (base + i) + c) else m) m) 0)
    let vals := ((cs.zip ok).map fun (r, o) => (r.zip o).filterMap fun (c, b) => if b then some c.code else none).flatten
    let img := imgPut (imgPut [] (drDst d.w) (toBytes 64 mask)) (drDst d.w + 64) (packElems ew vals)
    (ch, d, (imgTake img at_ (fun _ => true)).1, [])
  else if p.order then
    let (_, n, pitch) := drainShape d.w true ew
    let col := fun (c : Nat) => if c < d.cols then d.vals.map fun r => r.getD c .nan else []
    let outs := (upto 16).map fun c => colVector f n (sO.getD c 0) (col c)
    let ch := if !f.mx then ch
      else ch.drainCounts g k ((outs.map (·.sat)).foldl (· + ·) 0) ((outs.map (·.nanz)).foldl (· + ·) 0)
    let img := (outs.zip (upto 16)).foldl (fun m (o, c) => imgPut m (drDst d.w + c * pitch) (packElems ew o.codes)) []
    let scl : SMap Nat := if f.mx then (outs.zip (upto 16)).foldl (fun (m : SMap Nat) (o, c) =>
        m.put (p.mxScl.1 + c * p.mxScl.2) o.scale) [] else []
    (ch, d, (imgTake img at_ (fun _ => true)).1, (imgTake scl at_ (fun _ => true)).1)
  else (ch, d, [], [])

/-- Statistics of MX output: the value that an element represents depends on its block's scale, and so on every row (R54, R129). `more`
are the results of the rows after row `i`, where each of them is released: then the records up to row `i` are formed (R133, log entry
122). -/
def Channel.mxStats (ch : Channel) (g k : Nat) (d : DrainOp) (f : FmtWord) (i : Nat) (sO : Nat → Int) (more : Option (List (List Num))) :
    Channel × DrainOp :=
  match more with
  | none => (ch, d)
  | some ys =>
    let rows := d.vals ++ ys
    let outs := (upto d.cols).map fun c => colVector f (tRows d.w) (sO c) (rows.map fun r => r.getD c .nan)
    (rangeFrom d.statN (i + 1 - d.statN)).foldl (fun (x : Channel × DrainOp) j =>
      x.1.statRow g k { x.2 with statN := j + 1 } j (outs.map fun o => o.vals.getD j .nan)) (ch, d)

/-- One row that is read: its output bytes, counts and statistics (R125, R126, R129, R134). `more` are the results of the later rows
when they are all released. -/
def Channel.drainRow (ch : Channel) (g k : Nat) (d : DrainOp) (p : DParam) (f : FmtWord) (cells : List Cell)
    (xs : List Num) (sO : Nat → Int) (more : Option (List (List Num))) : Channel × DrainOp :=
  let i := d.next
  let ew := f.vfmt.width
  let (_, _, pitch) := drainShape d.w p.order ew
  let a := drDst d.w + i * pitch
  if drPartial d.w then (ch, { d with out := imgPut d.out a (cells.flatMap Cell.partial_) })
  else if p.order && f.mx then ch.mxStats g k { d with vals := d.vals ++ [xs] } f i sO more
  else
    let cs := xs.map (f.vfmt.encode f.sat)
    let ch := ch.drainCounts g k (cs.countP (·.sat)) (cs.countP (·.nanz))
    let d := if drRunmask d.w || p.order then { d with vals := d.vals ++ [xs] }
      else { d with out := imgPut d.out a (packElems ew (cs.map (·.code))) }
    ch.statRow g k d i ((cs.zip (upto 16)).map fun (c, n) => (f.value c.code).scale (sO (if p.order then n else i)))

/-- An output line whose last element lies in a row up to `i` (R133). -/
def lineDoneAt (d : DrainOp) (pitch size i line : Nat) : Bool :=
  ((upto d.rows).filter fun j => decide (i < j)).all fun j =>
    let a := drDst d.w + j * pitch
    decide (line < a / 64) || decide ((a + size - 1) / 64 < line)

/-- The next planned row passes D0 (R121, R133): its scale entries are read at the DRAIN's first D0, a released row is
read, scaled, rounded, counted and packed, and the lines that it completes may be requested from the cycle after its D4.
`chk` is what the check of the cell in column `col` finds (R420). -/
def Channel.drainRowRead (ch : Channel) (g k col : Nat) (chk : Check) : Channel :=
  let l := ch.lan g
  let co := l.core k
  match co.drainQ.find? fun d => d.start.isSome && !d.rowsDone with
  | none => ch
  | some d =>
    let i := d.next
    let row := tRow0 d.w + i
    let reads := !d.empty && decide (i < d.rows)
    let p := l.dparam (bits d.w 65 60)
    match l.fmt (bits d.w 21 16) with
    | none => ch
    | some f =>
      if ch.cyc < d.nextCy ∨ (reads ∧ !co.rowReleased d.seq (tSet d.w) row ch.cyc) then ch
      else
        let unit := unitWord ch.no 2 g k 0
        let ctx := co.ctxOf d.task
        let detail := 1 + row <<< 1 + col <<< 6
        let ch := if !reads then ch else match chk with
          | .ok => ch
          | .corrected => ch.raise 0xA4 unit (some ctx) detail
          | .uncorrectable => ch.raise 0xA5 unit (some ctx) detail
        let ((sA, sB, sO), bad) := match d.scales with
          | some s => (s, false)
          | none => if d.empty ∨ drPartial d.w then (([], [], []), false) else l.drainScales d p f
        let ch := ch.fmtErr g k (b2n bad)
        let d := { d with scales := some (sA, sB, sO), next := i + 1, nextCy := ch.cyc + 1, lastD4 := ch.cyc + 4 }
        let cells := (upto 16).map fun c =>
          let x := co.cell (tSet d.w) row c
          if chk = .uncorrectable ∧ c = col then x.poison else x
        let scaled := fun (j : Nat) (cells : List Cell) => ((cells.map Cell.value).zip (upto 16)).filterMap fun (x, c) =>
          if c < d.cols then some (x.scale (sA.getD j 0 + sB.getD c 0 - sO.getD (if p.order then c else j) 0)) else none
        let xs := scaled i cells
        let later := rangeFrom (i + 1) (d.rows - (i + 1))
        let more := if later.all fun j => co.rowReleased d.seq (tSet d.w) (tRow0 d.w + j) ch.cyc then
            some (later.map fun j => scaled j ((upto 16).map fun c => co.cell (tSet d.w) (tRow0 d.w + j) c))
          else none
        let d0 := { d with next := i }
        let (ch, d1) := if reads then ch.drainRow g k d0 p f cells xs (fun n => sO.getD n 0) more else (ch, d0)
        let d := { d1 with next := i + 1 }
        let (ch, d) := if reads then (ch, d) else ch.statRow g k d i []
        let last := i + 1 == tRows d.w
        let (ch, d, outL, sclL) := if last then ch.drainLast g k d p f sO else (ch, d, [], [])
        let at_ := ch.cyc + 5
        let (_, n, pitch) := drainShape d.w p.order f.vfmt.width
        let size := if drPartial d.w then 16 * n else packedBytes d.cols f.vfmt.width
        let (rowL, img) := imgTake d.out at_ (fun x => last || lineDoneAt d pitch size i x)
        let (stL, st) := imgTake d.stat at_ (fun x => last || decide (64 * x + 64 ≤ drStatsDst d.w + 32 * (i + 1)))
        let d := { d with out := img, stat := st, lines := d.lines ++ outL ++ rowL ++ sclL ++ stL, rowsDone := last,
                          vals := if last then [] else d.vals }
        (ch.modCore g k fun co =>
          { co.modDrain d.seq (fun _ => d) with lastD0 := some ch.cyc }).drainSettle g k

/-- The drain path requests the write of its oldest complete line, at most one in a cycle (R133). -/
def Channel.drainLineWrite (ch : Channel) (g k : Nat) : Channel :=
  let l := ch.lan g
  let co := l.core k
  match co.drainQ.find? fun d => !d.lines.isEmpty with
  | none => ch.drainSettle g k
  | some d =>
    match d.lines with
    | [] => ch
    | x :: rest =>
      let free := match co.lastLine with
        | some c => decide (c < ch.cyc)
        | none => true
      if ch.cyc < x.at_ ∨ !free ∨ l.pipeHolds (l.logicalOf k) then ch.drainSettle g k
      else
        let n := l.logicalOf k
        let a : Acc1 := { line := x.line, wr := true, dst := .drain k d.seq, req := 64 + n, ord := n,
                          data := (upto 64).map fun b => BitVec.ofNat 8 (x.bytes.getD b 0),
                          mask := (upto 64).map fun b => (x.bytes.find b).isSome,
                          lastOfWrite := rest.isEmpty && d.rowsDone }
        (ch.modLan g fun l =>
          { l with pipeQ := l.pipeQ ++ [a] }.modCore k fun co =>
            { co.modDrain d.seq (fun d => { d with lines := rest, asked := d.asked + 1 }) with lastLine := some ch.cyc })

/-- A line write of a DRAIN was granted. -/
def Channel.drainGranted (ch : Channel) (g k seq : Nat) : Channel :=
  (ch.modCore g k (·.modDrain seq fun d => { d with asked := d.asked - 1 })).drainSettle g k

end Sys2Proof.Machine
end

