-- ==== Sys2Proof/Machine/Lantern.lean ====
section
/-! DEFINITION. The lantern's scratchpad port: the lantern pipe, one granted access, slot poison mode, bank power states
and the scratchpad window (R145 to R162, R174). -/

namespace Sys2Proof.Machine

/-! ### The lantern pipe (R151 to R155) -/

/-- Bank of a line (R145). -/
def bankOf (line : Nat) : Nat := line % 16

/-- Order of two pipe accesses (R152). -/
def Acc1.before (x y : Acc1) : Bool := decide (x.ord ≤ y.ord)

/-- Puts an access into the order in which the pipe serves it (R152). -/
def insAcc (x : Acc1) : List Acc1 → List Acc1
  | [] => [x]
  | y :: ys => if y.before x then y :: insAcc x ys else x :: y :: ys

/-- The order in which the pipe serves its accesses (R152). -/
def sortAcc (xs : List Acc1) : List Acc1 := xs.foldl (fun ys x => insAcc x ys) []

/-- The first access that the pipe holds for a bank, with the reads of the same line that merge with it (R151), and the
accesses that are left. -/
def takeMerged (b : Nat) (xs : List Acc1) : List Acc1 × List Acc1 :=
  match xs.find? (fun a => bankOf a.line == b) with
  | none => ([], xs)
  | some a =>
    if a.wr then ([a], (xs.span (fun x => !(x == a))).1 ++ ((xs.span (fun x => !(x == a))).2).drop 1)
    else
      let same := fun (x : Acc1) => !x.wr && x.line == a.line
      (xs.filter same, xs.filter fun x => !same x)

/-- Presents the first merged access of each bank; what is left waits for the stall cycles (R152). -/
def Lantern.present (l : Lantern) (xs : List Acc1) : Lantern :=
  (upto 16).foldl (fun l b =>
    let (now, rest) := takeMerged b l.pipeNow
    if now.isEmpty then l else { l.modBank b (fun k => { k with pipe := now }) with pipeNow := rest })
    { l with pipeNow := xs }

/-- The access fills a transpose buffer (R149). -/
def Acc1.gathers (a : Acc1) : Bool :=
  match a.dst with
  | .gather .. => true
  | _ => false

/-- While a transposing read waits for a buffer, the pipe presents only accesses that fill the buffers in use (R150, log entry 105). -/
def Lantern.presentGathers (l : Lantern) : Lantern :=
  let go := (l.pipeNow.filter Acc1.gathers) ++ sortAcc (l.pipeQ.filter Acc1.gathers)
  let stay := l.pipeNow.filter fun a => !a.gathers
  let l := { l with pipeQ := l.pipeQ.filter fun a => !a.gathers }.present go
  { l with pipeNow := l.pipeNow ++ stay }

/-- One cycle of the lantern pipe (R150 to R155): it presents nothing while an earlier access of it is withheld; a
conflict's remaining accesses are served one in each stall cycle, which is counted and is a schedule violation. -/
def Channel.pipeCycle (ch : Channel) (g : Nat) : Channel :=
  let l := ch.lan g
  if l.pipeAt = some ch.cyc ∨ l.arbStall = some ch.cyc ∨ l.banks.any (fun b => !b.2.pipe.isEmpty) then ch
  else if ch.tbufStall g then ch.modLan g fun l => { l.presentGathers with pipeAt := some ch.cyc }
  else if l.pipeNow.isEmpty then
    ch.modLan g fun l => { ({ l with pipeQ := [] }.present (sortAcc l.pipeQ)) with pipeAt := some ch.cyc }
  else
    let ch := (ch.linc g F.LN_CONFLICT_CNT_COUNT 0 1).schedViol g
    ch.modLan g fun l => { (l.present l.pipeNow) with pipeAt := some ch.cyc }

/-! ### Slot poison mode (R157, R158) -/

/-- The region that governs a line (R157). -/
def Lantern.poisonRegion (l : Lantern) (line : Nat) : Option Nat :=
  (upto 8).find? fun k =>
    let n := l.r F.LN_POISON_RGN_COUNT k
    n != 0 && decide (l.r F.LN_POISON_RGN_BASE k ≤ line) && decide (line < l.r F.LN_POISON_RGN_BASE k + n)

/-- EN changes from 0 to 1 (R157): every watched line takes its region's INIT and RPF. -/
def Lantern.poisonInit (l : Lantern) : Lantern :=
  { l with poison := (upto 4096).filterMap fun x =>
      (l.poisonRegion x).map fun k => (x, (l.r F.LN_POISON_RGN_INIT k = 1 : Bool), l.r F.LN_POISON_RGN_RPF k) }

/-- A slot violation is counted, captured and recorded (R158). -/
def Channel.slotViolation (ch : Channel) (g line k kind req : Nat) (ctx : Option Nat) : Channel :=
  let l := ch.lan g
  let first := l.r F.LN_POISON_STAT_RD_EMPTY = 0 ∧ l.r F.LN_POISON_STAT_WR_FULL = 0
  let l := if first then
      (((l.w F.LN_POISON_LINE_LINE 0 line).w F.LN_POISON_LINE_RGN 0 k).w F.LN_POISON_LINE_KIND 0 kind).w
        F.LN_POISON_LINE_REQ 0 req
    else l
  let l := (l.w (if kind = 0 then F.LN_POISON_STAT_RD_EMPTY else F.LN_POISON_STAT_WR_FULL) 0 1).inc
    F.LN_POISON_CNT_COUNT 0 1
  (ch.setLan g l).raiseOnce (onceKey 0x0D g) 0x0D (ch.lanUnit g) ctx 0

/-- Slot poison mode follows one access of one requester (R157). -/
def Channel.poisonTrack (ch : Channel) (g : Nat) (ctx : Option Nat) (a : Acc1) : Channel :=
  let l := ch.lan g
  if l.r F.LN_POISON_CTRL_EN = 0 then ch
  else match l.poisonRegion a.line with
    | none => ch
    | some k =>
      let rpf := l.r F.LN_POISON_RGN_RPF k
      let (v, n) := l.poison.getD a.line (false, 0)
      let put := fun (v : Bool) (n : Nat) => ch.modLan g fun l => { l with poison := l.poison.put a.line (v, n) }
      if a.wr then
        if !v then put true rpf
        else if rpf ≠ 0 then ch.slotViolation g a.line k 1 a.req ctx else ch
      else if !v then ch.slotViolation g a.line k 0 a.req ctx
      else if rpf = 0 then ch
      else put (decide (1 < n)) (n - 1)

/-! ### One granted access (R145 to R147, R161, R420) -/

/-- CTX of the task or stream that makes an access (R420). -/
def Channel.accCtx (ch : Channel) (g : Nat) (a : Acc1) : Option Nat :=
  let l := ch.lan g
  let ofTask := fun (k task : Nat) => ((l.core k).tasks.find? fun t => t.id == task).map (·.ctx)
  match a.dst with
  | .insn k t _ _ => ofTask k t
  | .oload k q _ => ((l.core k).loadQ.find? fun o => o.seq == q).bind fun o => ofTask k o.task
  | .gather k q _ => ((l.core k).loadQ.find? fun o => o.seq == q).bind fun o => ofTask k o.task
  | .drain k q => ((l.core k).drainQ.find? fun o => o.seq == q).bind fun o => ofTask k o.task
  | .vinsn .. => some (l.r F.VE_STATUS_CTX)
  | .vmem .. => some (l.r F.VE_STATUS_CTX)
  | .xferRead h _ x _ => ((ch.lan h).td.fq.find? fun t => t.xid == x).map (·.ctx)
  | .xferWrite h _ x _ => ((ch.lan h).td.fq.find? fun t => t.xid == x).map (·.ctx)
  | _ => none

/-- A bank serves no access (R160, R162). -/
def Bank.off (bk : Bank) (cyc : Nat) : Bool :=
  bk.retained || match bk.waking with
    | some c => decide (cyc < c)
    | none => false

/-- Sets one bit of a mask field. -/
def Lantern.setBit (l : Lantern) (f : Fld) (n : Nat) : Lantern := l.w f 0 (l.r f ||| 1 <<< n)
/-- Clears one bit of a mask field. -/
def Lantern.clrBit (l : Lantern) (f : Fld) (n : Nat) : Lantern := if isSet (l.r f) n then l.w f 0 (l.r f - 1 <<< n) else l

/-- Contents of bank `b` are lost (R160, R161). -/
def Lantern.bankLost (l : Lantern) (b : Nat) : Lantern :=
  ({ l with regs := l.regs.setBits F.LN_BANK_STAT_LOST 0 (2 ^ b) } : Lantern).w F.LN_STATUS_LOST 0 1

/-- An access that reaches a retained bank (R161): a read gives zeros, a write is dropped. -/
def Channel.offAccess (ch : Channel) (g b : Nat) (wr pipe : Bool) : Channel :=
  let ch := ch.modLan g fun l =>
    let l := if wr then l.bankLost b else l
    if wr && !pipe then l.inc F.LN_LATE_WR_CNT_COUNT 0 1 else l.inc F.LN_OFF_ACC_CNT_COUNT 0 1
  ch.schedViol g

/-- The check of a line that is read (R420): `chk` is what SECDED finds in word `w` of the line now. A bad word raises its
record at most once in a tick. -/
def Channel.spCheck (ch : Channel) (g line w : Nat) (chk : Check) (ctx : Option Nat) : Channel :=
  let unit := ch.lanUnit g
  let det := fun (w : Nat) => line + w <<< 12
  let ch := match chk with
    | .ok => ch
    | .corrected => ch.raise 0xA6 unit ctx (det (w % 8))
    | .uncorrectable => ch.modLan g fun l =>
        { l with spBad := if l.spBad.contains (8 * line + w % 8) then l.spBad else (8 * line + w % 8) :: l.spBad }
  ((ch.lan g).spBad.filter fun x => x / 8 == line).foldl (fun ch x =>
    ch.raiseOnce (onceKey 0xA7 (32768 * g + x)) 0xA7 unit ctx (det (x % 8))) ch

/-- The last line of a write whose header was counted has been written, or dropped (R159). -/
def Channel.writeEnd (ch : Channel) (g b : Nat) (a : Acc1) (pipe : Bool) : Channel :=
  if a.wr && a.lastOfWrite && !pipe then ch.modLan g (·.modBank b fun k => { k with writes := k.writes - 1 }) else ch

/-- One access to a bank at its grant, for all the requesters merged in it: the channel after it, and the line's bytes as
a read delivers them. `pipe` says that the lantern pipe made it. -/
def Channel.spAccess (ch : Channel) (g : Nat) (as : List Acc1) (pipe : Bool) (w : Nat) (chk : Check) :
    Channel × List (BitVec 8) :=
  match as with
  | [] => (ch, [])
  | a :: _ =>
    let b := bankOf a.line
    if ((ch.lan g).bank b).off ch.cyc then ((ch.offAccess g b a.wr pipe).writeEnd g b a pipe, List.replicate 64 0)
    else
      let ch := as.foldl (fun ch x => ch.poisonTrack g (ch.accCtx g x) x) ch
      if a.wr then
        ((ch.modLan g fun l => l.spWrite a.line a.data a.mask).writeEnd g b a pipe, [])
      else
        let ch := ch.spCheck g a.line w chk (ch.accCtx g a)
        (ch, (ch.lan g).spSee (64 * a.line) 64)

/-- Takes the head access of a port's queue at a bank: 0 lantern pipe, 1 tender, 2 fabric, 3 debug port (R170). -/
def Bank.pop (bk : Bank) (port : Nat) : List Acc1 × Bank :=
  if port = 0 then (bk.pipe, { bk with pipe := [] })
  else if port = 1 then (bk.tender.take 1, { bk with tender := bk.tender.drop 1 })
  else if port = 2 then (bk.fabric.take 1, { bk with fabric := bk.fabric.drop 1 })
  else (bk.dbg.take 1, { bk with dbg := bk.dbg.drop 1 })

/-- A port requests the bank (R163). -/
def Bank.asks (bk : Bank) (port : Nat) : Bool :=
  if port = 0 then !bk.pipe.isEmpty else if port = 1 then !bk.tender.isEmpty
  else if port = 2 then !bk.fabric.isEmpty else if port = 3 then !bk.dbg.isEmpty else false

/-- The tender's port presents a line to its bank. -/
def Lantern.tdPresent (l : Lantern) (a : Acc1) : Lantern :=
  l.modBank (bankOf a.line) fun bk => { bk with tender := bk.tender ++ [a] }

/-- An access joins the reads or the writes of the tender's port, which presents the first of each (R211). -/
def Lantern.tdQueue (l : Lantern) (a : Acc1) : Lantern :=
  let q := if a.wr then l.tdWr else l.tdRd
  let l := if a.wr then { l with tdWr := l.tdWr ++ [a] } else { l with tdRd := l.tdRd ++ [a] }
  if q.isEmpty then l.tdPresent a else l

/-- A line of the tender's port has moved, and the port presents the next one in that direction (R211). -/
def Lantern.tdNext (l : Lantern) (wr : Bool) : Lantern :=
  let l := if wr then { l with tdWr := l.tdWr.drop 1 } else { l with tdRd := l.tdRd.drop 1 }
  match if wr then l.tdWr else l.tdRd with
  | a :: _ => l.tdPresent a
  | [] => l

/-- The header of a write at the tender or the fabric port is counted, unless it came ahead of the write's first line (R159). -/
def Lantern.countHeader (l : Lantern) (port : Nat) (a : Acc1) : Lantern :=
  if a.wr && a.firstOfWrite && (port == 1 || port == 2) then
    l.modBank (bankOf a.line) fun bk =>
      if 0 < bk.headers then { bk with headers := bk.headers - 1 } else { bk with writes := bk.writes + 1 }
  else l

/-- Queues an access at a port of its bank. -/
def Lantern.queueAcc (l : Lantern) (port : Nat) (a : Acc1) : Lantern :=
  let l := l.countHeader port a
  if port = 1 then l.tdQueue a
  else l.modBank (bankOf a.line) fun bk =>
    if port = 2 then { bk with fabric := bk.fabric ++ [a] }
    else { bk with dbg := bk.dbg ++ [a] }

/-- A bank's arbiter decides for the next cycle (R164 to R170). A withheld pipe access stalls the pipe in that cycle,
which is counted once (R155). -/
def Channel.bankDecide (ch : Channel) (g b : Nat) : Channel :=
  let l := ch.lan g
  let bk := l.bank b
  if ch.cyc < bk.arb.from_ then ch
  else
    let (arb, note) := bk.arb.decide (lnArb.cfg l.regs 0) bk.asks
    let l := l.modBank b fun bk => { bk with arb := { arb with from_ := ch.cyc + 1 } }
    let l := { l with regs := lnArb.note l.regs 0 b note }
    let other := match arb.owner with
      | some o => o != 0
      | none => false
    let l := if other && !bk.pipe.isEmpty && l.arbStall != some (ch.cyc + 1) then
        { l.inc F.LN_ARB_STALL_CY_COUNT 0 1 with arbStall := some (ch.cyc + 1) }
      else l
    let ch := ch.setLan g l
    if note.cut.isSome then ch.raiseOnce (onceKey 0x0E g) 0x0E (ch.lanUnit g) none 0 else ch

/-! ### Bank power states (R159 to R162) -/

/-- A write header for a bank is accepted at the fabric or tender port, ahead of the write's lines (R159). -/
def Channel.writeHeader (ch : Channel) (g b : Nat) : Channel :=
  ch.modLan g (·.modBank b fun bk => { bk with writes := bk.writes + 1, headers := bk.headers + 1 })

/-- A bank is neither draining, retained nor waking. -/
def Bank.normal (bk : Bank) : Bool := bk.draining.isNone && !bk.retained && bk.waking.isNone

/-- REQ[n] has changed to 1: the bank enters draining (R160). -/
def Channel.bankPd (ch : Channel) (g b : Nat) : Channel :=
  let l := ch.lan g
  if isSet (l.eff F.LN_BANK_PD_REQ) b && (l.bank b).normal then
    ch.modLan g (·.modBank b fun bk => { bk with draining := some ch.cyc })
  else ch

/-- A granted access is pending at the bank (R160). -/
def Bank.granted (bk : Bank) : Bool :=
  match bk.arb.owner with
  | some o => !bk.arb.moved && bk.asks o
  | none => false

/-- The bank enters retention (R160). -/
def Lantern.retain (l : Lantern) (b : Nat) : Lantern :=
  (l.modBank b fun bk => { bk with draining := none, retained := true }).setBit F.LN_BANK_STAT_OFF b

/-- A draining bank with no outstanding write and no granted access enters retention (R160). -/
def Channel.bankRetention (ch : Channel) (g b : Nat) : Channel :=
  let bk := (ch.lan g).bank b
  match bk.draining with
  | none => ch
  | some t => if bk.writes = 0 ∧ !bk.granted ∧ t < ch.cyc then ch.modLan g (·.retain b) else ch

/-- LN_BANK_PD_TMO cycles pass first: the bank is forced into retention and its contents are lost (R160). -/
def Channel.bankTimeout (ch : Channel) (g b : Nat) : Channel :=
  let l := ch.lan g
  let bk := l.bank b
  let tmo := l.eff F.LN_BANK_PD_TMO_CYCLES
  match bk.draining with
  | none => ch
  | some t =>
    if t + tmo ≤ ch.cyc ∧ (bk.writes ≠ 0 ∨ bk.granted ∨ tmo = 0) then
      ch.modLan g fun l => ((l.modBank b fun bk => { bk with writes := 0, headers := 0 }).retain b).bankLost b
    else ch

/-- REQ[n] has changed to 0: a draining bank leaves draining at once, a retained bank begins to wake (R162). -/
def Channel.bankWake (ch : Channel) (g b : Nat) : Channel :=
  let l := ch.lan g
  let bk := l.bank b
  if isSet (l.eff F.LN_BANK_PD_REQ) b then ch
  else if bk.draining.isSome then ch.modLan g (·.modBank b fun bk => { bk with draining := none })
  else if bk.retained then
    ch.modLan g (·.modBank b fun bk => { bk with retained := false, waking := some (ch.cyc + 64) })
  else ch

/-- The 64th cycle after the wake request: the bank serves accesses again and OFF clears (R162). -/
def Channel.bankAwake (ch : Channel) (g b : Nat) : Channel :=
  match ((ch.lan g).bank b).waking with
  | none => ch
  | some c =>
    if ch.cyc < c then ch
    else ch.modLan g fun l => (l.modBank b fun bk => { bk with waking := none }).clrBit F.LN_BANK_STAT_OFF b

/-! ### Counters and the window (R173, R174) -/

/-- The counters that LN_CTRL.CLR_CNT clears (R173). -/
def lnCounters : List Fld :=
  [F.LN_CONFLICT_CNT_COUNT, F.LN_ARB_STALL_CY_COUNT, F.LN_TBUF_WAIT_CY_COUNT, F.LN_LATE_WR_CNT_COUNT,
   F.LN_OFF_ACC_CNT_COUNT, F.LN_POISON_CNT_COUNT, F.LN_ARB_FORCE_CNT_COUNT, F.LN_ARB_CUT_CNT_COUNT,
   F.LN_ARB_PREEMPT_CNT_COUNT, F.LN_ARB_STALE_CNT_COUNT]

/-- The line and byte of a window offset (R174). -/
def Lantern.windowLine (l : Lantern) (off : Nat) : Nat := 64 * l.eff F.LN_SPWIN_BLOCK + off / 64 % 64

/-- The scratchpad byte that an offset in the window names (R174). -/
def Lantern.winByte (l : Lantern) (off : Nat) : Nat := 64 * l.windowLine off + off % 64

/-- An access to the scratchpad window joins the fabric port's queue of its bank, whoever makes it (R174); `size` is 4 or 8 bytes. -/
def Channel.windowAccess (ch : Channel) (g : Nat) (req : Requester) (off size : Nat) (wr : Bool) (v : Nat) : Channel :=
  let o := off % 64
  let a : Acc1 := { line := (ch.lan g).windowLine off, wr := wr, req := 130, firstOfWrite := wr, lastOfWrite := wr,
                    dst := .window req off size,
                    data := List.replicate o 0 ++ toBytes size v ++ List.replicate (64 - o - size) 0,
                    mask := List.replicate o false ++ List.replicate size true ++ List.replicate (64 - o - size) false }
  ch.modLan g (·.queueAcc 2 a)

/-- A window read returns the bytes of its line at its grant (R174). -/
def Channel.windowAnswer (ch : Channel) (req : Requester) (off size : Nat) (data : List (BitVec 8)) : Channel :=
  { ch with answer := ch.answer.put req.num (ofBytes ((data.drop (off % 64)).take size)) }

end Sys2Proof.Machine
end

