-- ==== Sys2Proof/Machine/StreamProg.lean ====
section
/-! DEFINITION. Stream programs: their instructions and the static check (R215 to R219). -/

namespace Sys2Proof.Machine

/-- A stream program instruction (R216). -/
inductive SInsn where
  | end_
  | loop (level : Nat) (shape : Option Nat) (count body : Nat)
  | add (dst : Bool) (stride : Option Nat) (neg : Bool) (imm : Int)
  | set (dst : Bool) (imm : Int)
  | xfer (len : Nat) (dEnd sEnd incS incD : Bool)
  | fill (len : Nat) (dEnd incD : Bool)
  | skip (level shape rel n shift : Nat)
  deriving DecidableEq, Repr

/-- Reads an instruction word; none when it holds a reserved opcode, a non-zero reserved field or a field outside its range
(R216, R219). -/
def SInsn.decode (w : Nat) : Option SInsn :=
  match w % 16 with
  | 0 => if w / 16 = 0 then some .end_ else none
  | 1 =>
    let lv := bits w 6 4
    let body := bits w 28 24
    if 5 < lv ∨ body = 0 ∨ bits w 31 29 ≠ 0 then none
    else if isSet w 7 then
      if bits w 23 12 = 0 then some (.loop lv (some (bits w 11 8)) 0 body) else none
    else some (.loop lv none (bits w 23 8) body)
  | 2 => some (.add (isSet w 4) (if isSet w 5 then some (bits w 7 6) else none) (isSet w 8) (sext 23 (bits w 31 9)))
  | 3 => some (.set (isSet w 4) (sext 27 (bits w 31 5)))
  | 4 =>
    let len := bits w 18 4
    if len = 0 ∨ 16384 < len ∨ bits w 31 23 ≠ 0 then none
    else some (.xfer len (isSet w 19) (isSet w 20) (isSet w 21) (isSet w 22))
  | 5 =>
    let len := bits w 18 4
    if len = 0 ∨ 16384 < len ∨ bits w 31 23 ≠ 0 ∨ isSet w 20 ∨ isSet w 21 then none
    else some (.fill len (isSet w 19) (isSet w 22))
  | 6 =>
    if 5 < bits w 6 4 ∨ bits w 15 13 = 0 ∨ bits w 31 20 ≠ 0 then none
    else some (.skip (bits w 6 4) (bits w 10 7) (bits w 12 11) (bits w 15 13) (bits w 19 16))
  | _ => none

/-- The loops of a program: position, last position of the body, level. -/
def progLoops (ins : List SInsn) : List (Nat × Nat × Nat) :=
  (upto ins.length).filterMap fun p =>
    match (ins[p]? : Option SInsn) with
    | some (.loop lv _ _ b) => some (p, p + b, lv)
    | _ => none

/-- Bodies nest, and nested loops have levels of their own (R219). -/
def loopsNest (ls : List (Nat × Nat × Nat)) : Bool :=
  ls.all fun (p, e, lv) =>
    decide (e ≤ 31) && ls.all fun (q, f, lw) =>
      !(decide (p < q) && decide (q ≤ e) && decide (e < f)) && !(decide (p < q) && decide (f ≤ e) && lv == lw)

/-- The instructions that a SKIP passes over hold no LOOP and end inside the innermost body that contains it (R219). -/
def skipFits (ins : List SInsn) (ls : List (Nat × Nat × Nat)) (s n : Nat) : Bool :=
  let ends := (ls.filter fun (p, e, _) => decide (p < s) && decide (s ≤ e)).map (·.2.1)
  decide (s + n ≤ ends.foldl min 31) && (rangeFrom (s + 1) n).all fun k =>
    match (ins[k]? : Option SInsn) with
    | some (.loop ..) => false
    | _ => true

/-- The positions that one position can hand on to, apart from a body's repetition. -/
def SInsn.exits (i : SInsn) (p : Nat) : List Nat :=
  match i with
  | .end_ => []
  | .loop _ none c b => if c = 0 then [p + b + 1] else [p + 1]
  | .loop _ (some _) _ b => [p + 1, p + b + 1]
  | .skip _ _ _ n _ => [p + 1, p + n + 1]
  | _ => [p + 1]

/-- The positions that can be executed, found in ascending order. -/
def progReach (ins : List SInsn) : List Nat :=
  (upto ins.length).foldl (fun rs p => if rs.contains p then rs ++ ((ins.getD p .end_).exits p) else rs) [0]

/-- A program passes the static check of R219. `fmtEn` is FMT_EN. -/
def progOk (words : List Nat) (fmtEn : Bool) : Bool :=
  let ds := words.map SInsn.decode
  if ds.any (·.isNone) then false
  else
    let ins := ds.filterMap id
    let ls := progLoops ins
    loopsNest ls
      && ((upto ins.length).all fun p =>
        match (ins[p]? : Option SInsn) with
        | some (.skip _ _ _ n _) => skipFits ins ls p n
        | some (.fill ..) => fmtEn
        | _ => true)
      && !((progReach ins).contains ins.length)

end Sys2Proof.Machine
end

