-- ==== Sys2Proof/Machine/Tender.lean ====
section
/-! DEFINITION. The tender: streams, transfers and their data, slots, merging, regulation, moored streams, stops, faults and
spilling (R208 to R245, R350). -/

namespace Sys2Proof.Machine

/-! ### Access -/

/-- A stream of a lantern. -/
def Lantern.stm (l : Lantern) (n : Nat) : Stream := l.td.streams.getD n {}

/-- Applies `f` to the tender of a lantern. -/
def Channel.modTd (ch : Channel) (g : Nat) (f : Tender → Tender) : Channel := ch.modLan g fun l => { l with td := f l.td }

/-- Applies `f` to a stream. -/
def Channel.modStm (ch : Channel) (g n : Nat) (f : Stream → Stream) : Channel :=
  ch.modLan g fun l => { l with td := { l.td with streams := l.td.streams.put n (f (l.stm n)) } }

/-- Applies `f` to a transfer of the fetch queue. -/
def Channel.modXfer (ch : Channel) (g xid : Nat) (f : Xfer → Xfer) : Channel :=
  ch.modTd g fun t => { t with fq := t.fq.map fun x => if x.xid = xid then f x else x }

/-- A transfer of the fetch queue. -/
def Channel.xfer? (ch : Channel) (g xid : Nat) : Option Xfer := (ch.lan g).td.fq.find? fun x => x.xid == xid

/-- UNIT of a stream (R418). -/
def Channel.stmUnit (ch : Channel) (g n : Nat) : Nat := unitWord ch.no 5 g 0 n

/-- The stream's CTX (R212). -/
def Lantern.stmCtx (l : Lantern) (n : Nat) : Nat := l.r F.TD_S_DESC0_CTX n

/-- A stream raises a contained error (R243). -/
def Channel.stmErr (ch : Channel) (g n cause : Nat) : Channel :=
  ch.raise cause (ch.stmUnit g n) (some ((ch.lan g).stmCtx n)) 0

/-- STATE of a stream (R213). -/
def Lantern.stmState (l : Lantern) (n : Nat) : Nat := l.r F.TD_S_STAT_STATE n

/-- The registers that show the tender's queues follow them (R244, R245). -/
def Lantern.tdSync (l : Lantern) : Lantern :=
  let l := l.w F.TD_FQ_USED 0 l.td.fq.length
  let act := (upto 16).foldl (fun a n => if l.stmState n = 0 then a else a + 2 ^ n) 0
  let l := l.w F.TD_STATUS_ACTIVE 0 act
  (upto 16).foldl (fun l n =>
    let used := (l.td.fq.filter fun x => x.st == n).length
    let mine := l.td.spills.filter fun s => s.st == n
    let lines := mine.foldl (fun k s => k + s.parts.foldl (fun k p => k + p.lines.length) 0) 0
    ((l.w F.TD_S_POS_FQ_USED n used).w F.TD_S_STAT_SPILLED n (b2n (!mine.isEmpty))).w F.TD_S_SPILL_LINES n lines) l

/-- `tdSync` of a lantern of the channel. -/
def Channel.tdSync (ch : Channel) (g : Nat) : Channel := ch.modLan g Lantern.tdSync

/-- The wait of a stream ends: WAIT_CAUSE and STALL return to 0 (R230, R239). -/
def Channel.waitEnds (ch : Channel) (g n : Nat) : Channel :=
  let ch := (ch.lw g F.TD_S_STAT_WAIT_CAUSE n 0).lw g F.TD_S_STAT_STALL n 0
  ch.modStm g n fun s => { s with wait4 := none, notified := false, inCycle := false, stallErr := false }

/-- The stream takes a state; leaving WAIT ends the wait. -/
def Channel.setState (ch : Channel) (g n st : Nat) : Channel :=
  let ch := ch.lw g F.TD_S_STAT_STATE n st
  if st = 2 then ch else ch.waitEnds g n

/-! ### Endpoints and lines (R209, R210) -/

/-- An endpoint word. -/
inductive Endp where
  | dev (addr : Nat)
  | spad (g line : Nat)
  | fifoAt (node fifo : Nat)
  | pairAt (node bp row col : Nat)
  | fifo (n : Nat)
  | fill
  deriving DecidableEq, Repr

/-- Reads an endpoint word; none for a reserved kind, a non-zero unused bit or a lantern outside the grid. -/
def Endp.parse (own w : Nat) : Option Endp :=
  match bits w 63 61 with
  | 0 => if bits w 60 48 = 0 then some (.dev (bits w 47 0)) else none
  | 1 =>
    if bits w 60 24 ≠ 0 then none
    else if isSet w 23 then some (.spad own (bits w 11 0))
    else if bits w 22 17 < 48 then some (.spad (48 * bits w 16 12 + bits w 22 17) (bits w 11 0)) else none
  | 2 =>
    if isSet w 20 then
      if bits w 28 26 ≠ 0 ∨ bits w 60 40 ≠ 0 then none
      else some (.pairAt (bits w 19 0) (bits w 25 21) (bits w 33 29) (bits w 39 34))
    else if bits w 60 29 ≠ 0 then none
    else some (.fifoAt (bits w 19 0) (bits w 28 21))
  | 3 => if bits w 60 8 = 0 then some (.fifo (bits w 7 0)) else none
  | 4 => if bits w 60 0 = 0 then some .fill else none
  | _ => none

/-- The endpoint may be a source (R209). -/
def Endp.isSource : Endp → Bool
  | .fifoAt .. => false
  | .pairAt .. => false
  | _ => true

/-- The endpoint may be a destination (R209). -/
def Endp.isDest : Endp → Bool
  | .fifo _ => false
  | .fill => false
  | _ => true

/-- Kind 0 or 1 (R232, R241). -/
def Endp.plain : Endp → Bool
  | .dev _ => true
  | .spad .. => true
  | _ => false

/-- A line of one side of a transfer before translation: a place, a host-window address, an address that R471 refuses, or a
line outside the scratchpad (R210). -/
inductive Side where
  | at_ (p : Place)
  | host (addr : Nat)
  | refused (addr : Nat)
  | outside
  deriving DecidableEq, Repr

/-- What a device address names (R315, R470, R471). -/
def sideOfAddr (a : Nat) : Side :=
  if 0xF000000000 ≤ a then .refused a
  else if 0xC000000000 ≤ a then .host a
  else .at_ (.dev a)

/-- Line `i` of a side whose offset is `off` (R210). -/
def Endp.sideLine (e : Endp) (off : Int) (wrap i : Nat) : Side :=
  match e with
  | .dev a => sideOfAddr (((a : Int) + 64 * (off + i)) % ((2 ^ 48 : Nat) : Int)).toNat
  | .spad g line =>
    let o : Int := off + i
    let x : Int := (line : Int) + (if wrap = 0 then o else o % (wrap : Int))
    if x < 0 ∨ 4096 ≤ x then .outside else .at_ (.spad g x.toNat)
  | _ => .at_ .none

/-- All lines of a side. -/
def Endp.side (e : Endp) (off : Int) (wrap n : Nat) : List Side := (upto n).map (e.sideLine off wrap)

/-! ### Starting (R214, R215, R219) -/

/-- The outcome of the checks at START: the cause of the first that fails (R214, R243). -/
def Lantern.startCheck (l : Lantern) (g n : Nat) (prog : List Nat) : Option Nat :=
  let d := fun f => l.r f n
  let src := Endp.parse g (d F.TD_S_DESC1_SRC)
  let dst := Endp.parse g (d F.TD_S_DESC2_DST)
  let list := d F.TD_S_DESC0_MODE = 1
  let fmtEn := d F.TD_S_DESC0_FMT_EN = 1
  let skew := fun (e : Endp) => match e with
    | .dev a => a % 64 != 0
    | _ => false
  match src, dst with
  | some s, some t =>
    if !s.isSource || !t.isDest then some 0x20
    else if skew s || skew t || (list && d F.TD_S_DESC3_LIST_HBM = 1 && d F.TD_S_DESC3_LIST_ADDR % 64 != 0) then
      some 0x03
    else if fmtEn && (l.fmt (d F.TD_S_DESC0_FMT)).isNone then some 0x02
    else if s = .fill ∧ !fmtEn then some 0x20
    else
      let isDev := fun (e : Endp) => match e with
        | .dev _ => true
        | _ => false
      let isSpad := fun (e : Endp) => match e with
        | .spad .. => true
        | _ => false
      let badList := d F.TD_S_DESC6_LIST_LEN = 0 || 4096 < d F.TD_S_DESC6_LIST_LEN || d F.TD_S_DESC6_SLOT_LINES = 0
        || !(if d F.TD_S_DESC0_LIST_SIDE = 0 then isDev s && isSpad t else isDev t && isSpad s)
      let line := d F.TD_S_DESC3_PROG_LINE
      if list && badList then some 0x20
      else if d F.TD_S_DESC0_REG_EN = 1 ∧ d F.TD_S_DESC7_DEPTH = 0 then some 0x20
      else if !list && (4095 ≤ line || !progOk prog fmtEn) then some 0x20
      else none
  | _, _ => some 0x20

/-- The 32 instruction words at a stream's PROG_LINE (R215). -/
def Lantern.progWords (l : Lantern) (line : Nat) : List Nat :=
  (chunks 4 (l.spSee (64 * line) 128)).map ofBytes

/-- A stream loads its program, is checked, and enters RUN, or stays IDLE with its error recorded (R214). -/
def Channel.streamLoad (ch : Channel) (g n : Nat) : Channel :=
  let l := ch.lan g
  let prog := l.progWords (l.r F.TD_S_DESC3_PROG_LINE n)
  let ch := ch.modStm g n fun s => { s with restart := none }
  match l.startCheck g n prog with
  | some cause => ((ch.lw g F.TD_S_STAT_ERR n 1).stmErr g n cause).tdSync g
  | none =>
    let ch := [F.TD_S_POS_PC, F.TD_S_POS_LIST_IDX, F.TD_S_SO_SO, F.TD_S_DO_DO, F.TD_S_LOOPA_C0, F.TD_S_LOOPA_C1,
               F.TD_S_LOOPA_C2, F.TD_S_LOOPA_C3, F.TD_S_LOOPB_C4, F.TD_S_LOOPB_C5].foldl (fun ch f => ch.lw g f n 0) ch
    let ch := ch.lw g F.TD_S_TOKENS_TOKENS n (l.r F.TD_S_DESC7_DEPTH n)
    let ch := ch.modStm g n fun s =>
      { s with prog := prog, readyAt := ch.cyc + 9, loops := [], frac := 0, srcOpen := false, dstOpen := false,
               dstSpill := false, ending := false, stopping := false, aborting := false, byPark := false,
               listBuf := [], listReq := [], listBad := [], listErr := false, run := s.run + 1 }
    (ch.setState g n 1).tdSync g

/-- A stream of the tender's registers has been told to do what its state does not allow (R214, R235, R237). -/
def Channel.tdCfgErr (ch : Channel) (g : Nat) : Channel := ch.lw g F.TD_STATUS_CFG_ERR 0 1

/-- TD_Sn_CMD.START (R214). -/
def Channel.streamStart (ch : Channel) (g n : Nat) : Channel :=
  if (ch.lan g).stmState n = 0 then ch.streamLoad g n else ch.tdCfgErr g

/-! ### The data of a transfer -/

/-- Number of lines. -/
def Xfer.lines (t : Xfer) : Nat := ceilDiv t.len 64

/-- Bytes of line `i` that the transfer covers (R208). -/
def Xfer.lineLen (t : Xfer) (i : Nat) : Nat := min 64 (t.len - 64 * i)

/-- Byte mask of line `i` (R208). -/
def Xfer.mask (t : Xfer) (i : Nat) : List Bool :=
  List.replicate (t.lineLen i) true ++ List.replicate (64 - t.lineLen i) false

/-- Every line's data is here. -/
def Xfer.gotAll (t : Xfer) : Bool := t.data.length == t.lines

/-- The channel of an HBM device address. -/
def devChan (a : Nat) : Nat := a / 2 ^ 36

/-- Offset line o[35:6] of an HBM device address (R300). -/
def devLine (a : Nat) : Nat := a % 2 ^ 36 / 64

/-- The run of transfer lines around `i` that lie line after line in the same other channel: first line and count. -/
def runAt (own : Nat) (ps : List Place) (i : Nat) : Nat × Nat :=
  let addr := fun k => match ps.getD k .none with
    | .dev a => if devChan a = own then none else some a
    | _ => none
  let joined := fun k => match addr (k - 1), addr k with
    | some a, some b => k != 0 && b == a + 64 && devChan a == devChan b
    | _, _ => false
  let back := (upto i).foldl (fun m d => if m == d && joined (i - d) then m + 1 else m) 0
  let fwd := (upto (ps.length - i)).foldl (fun m d => if m == d && joined (i + d + 1) then m + 1 else m) 0
  (i - back, back + fwd + 1)

/-- The lowest free TAG of 1,024 (R350). -/
def Channel.freeTag (ch : Channel) : Option Nat := (upto 1024).find? fun t => (ch.link.tracked.find t).isNone

/-- Sends a tracked request under a tag. -/
def Channel.sendTracked (ch : Channel) (tag : Nat) (p : Packet) (t : Tracked) : Channel :=
  ({ ch with link := { ch.link with tracked := ch.link.tracked.put tag t } } : Channel).send { p with tag := tag } none

/-- Sends a tracked request, or lets it wait for a free tag behind those that wait already (R23, R350). -/
def Channel.request (ch : Channel) (p : Packet) (t : Tracked) : Channel :=
  match ch.freeTag, ch.link.waiting with
  | some tag, [] => ch.sendTracked tag p t
  | _, ws => { ch with link := { ch.link with waiting := ws ++ [(p, t)] } }

/-- Freed tags serve the requests that have waited longest (R23, R350). -/
def Channel.nextRequest (ch : Channel) : Channel :=
  match ch.freeTag, ch.link.waiting with
  | some tag, (p, t) :: rest => ({ ch with link := { ch.link with waiting := rest } } : Channel).sendTracked tag p t
  | _, _ => ch

/-- One line's write is done (R231). -/
def Channel.xferDone (ch : Channel) (g xid i : Nat) : Channel :=
  ch.modXfer g xid fun t => if t.done.contains i then t else { t with done := i :: t.done }

/-- Writes of lines are on their way. -/
def Channel.xferQueued (ch : Channel) (g : Nat) (ls : List (Nat × Nat)) : Channel :=
  ls.foldl (fun ch x => ch.modXfer g x.1 fun t => { t with queued := x.2 :: t.queued }) ch

/-- The lines of the request in which a transfer is sent, in order: transfer and line (R232). -/
def Lantern.requestLines (l : Lantern) (t : Xfer) : List (Nat × Nat) :=
  let xs := if t.group.isEmpty then [t.xid] else t.group
  xs.flatMap fun x => match l.td.fq.find? fun y => y.xid == x with
    | some y => (upto y.lines).map fun i => (x, i)
    | none => []

/-- The places of lines of a request on one side. -/
def Lantern.placesOf (l : Lantern) (dst : Bool) (ls : List (Nat × Nat)) : List Place :=
  ls.map fun x => match l.td.fq.find? fun y => y.xid == x.1 with
    | some y => (if dst then y.dst else y.src).getD x.2 .none
    | none => .none

/-- Bytes that lines of a request cover. -/
def Lantern.lenOf (l : Lantern) (ls : List (Nat × Nat)) : Nat :=
  ls.foldl (fun k x => k + match l.td.fq.find? fun y => y.xid == x.1 with
    | some y => y.lineLen x.2
    | none => 0) 0

/-- The data of lines of a request, of those that are here. -/
def Lantern.dataOf (l : Lantern) (ls : List (Nat × Nat)) : List (List (BitVec 8)) :=
  ls.filterMap fun x => (l.td.fq.find? fun y => y.xid == x.1).bind fun y => y.data.find x.2

/-- The run of a request's lines about line `i` of a transfer that goes to the same other channel in one packet: its lines, and the
address of the first. -/
def Channel.remoteRun (ch : Channel) (g : Nat) (dst : Bool) (t : Xfer) (i : Nat) : List (Nat × Nat) × Nat :=
  let l := ch.lan g
  let ls := l.requestLines t
  let ps := l.placesOf dst ls
  let (lo, n) := runAt ch.no ps (ls.findIdx fun x => x == (t.xid, i))
  ((ls.drop lo).take n, match ps.getD lo .none with
    | .dev a => a
    | _ => 0)

/-- The packet of a transfer to a link endpoint, once all its data is here (R209, R351, R360). -/
def Channel.xferPacket (ch : Channel) (g : Nat) (t : Xfer) : Channel :=
  match t.link with
  | none => ch
  | some w =>
    if t.packed || !t.gotAll then ch
    else
      let ch := ch.modXfer g t.xid fun t => { t with packed := true }
      let data := (t.data.map (·.2)).flatten.take t.len
      let base : Packet := { ptype := 0x10, dst := bits w 19 0, src := ch.node, len := t.len,
                             ctx := ch.wideCtx t.ctx, data := data }
      let p : Packet :=
        if isSet w 20 then
          { base with ptype := 0x11, flags := b2n t.dstEnd,
                      arg0 := bits w 25 21 + bits w 33 29 <<< 5 + bits w 39 34 <<< 10 + (t.linkOff % 4096) <<< 16 }
        else { base with arg0 := bits w 28 21 }
      ch.send p (some (g, t.xid))

/-- The channel's translated accesses stand still: PERST_N is asserted (R372), or the attachment that carries its host traffic has
failed (R28, R317). -/
def Channel.hostHeld (ch : Channel) : Bool := ch.hostStop || ch.attOut.contains (ch.r F.CH_INFO_HOST_VIA)

/-- Writes one line whose data is here to its destination. -/
def Channel.xferWriteLine (ch : Channel) (g xid i : Nat) : Channel :=
  match ch.xfer? g xid with
  | none => ch
  | some t =>
    if t.queued.contains i then ch
    else match t.data.find i with
    | none => ch
    | some d =>
      match t.dst.getD i .none with
      | .spad h line =>
        let own := h = g
        let bank := (upto t.lines).filter fun j => match t.dst.getD j .none with
          | .spad h' x => h' == h && x % 16 == line % 16
          | _ => false
        let a : Acc1 := { line := line, wr := true, data := d, mask := t.mask i, dst := .xferWrite g t.st xid i,
                          req := if own then 129 else 130, firstOfWrite := !bank.any t.queued.contains,
                          lastOfWrite := bank.all fun j => j == i || t.queued.contains j }
        (ch.xferQueued g [(xid, i)]).modLan h (·.queueAcc (if own then 1 else 2) a)
      | .dev a =>
        if devChan a = ch.no then
          (ch.xferQueued g [(xid, i)]).gatePush { cls := 1, line := devLine a, wr := true, data := d, mask := t.mask i,
                                                  dst := .xfer g t.st xid i, src := g, ctx := some t.ctx }
        else
          let (ls, first) := ch.remoteRun g true t i
          let ds := (ch.lan g).dataOf ls
          if ds.length < ls.length then ch
          else
            let len := (ch.lan g).lenOf ls
            (ch.xferQueued g ls).request { ptype := 2, dst := ch.module * 16 + devChan a, src := ch.node, len := len,
                                           ctx := ch.wideCtx t.ctx, arg0 := first, data := ds.flatten.take len }
              { g := g, parts := ls, wr := true, ctx := t.ctx }
      | .host _ hpa coh =>
        if ch.hostHeld then ch
        else (ch.xferQueued g [(xid, i)]).tell (.hostWr (if coh then .wrCur else .ioWrite) hpa d (t.mask i) (g, xid, i))
      | .none => ch.xferPacket g t

/-- The lines that wait to be written to host pages are written once translated accesses move again (R28, R372). -/
def Channel.hostGo (ch : Channel) : Channel :=
  if ch.hostHeld then ch
  else (SMap.keys ch.lans).foldl (fun ch g =>
    (ch.lan g).td.fq.foldl (fun ch t =>
      (upto t.lines).foldl (fun ch i =>
        match t.dst.getD i .none with
        | .host .. => if t.sent then ch.xferWriteLine g t.xid i else ch
        | _ => ch) ch) ch) ch

/-- The data of one line has come in, with or without an error indication (R311, R350). -/
def Channel.xferData (ch : Channel) (g xid i : Nat) (d : List (BitVec 8)) (bad : Bool := false) : Channel :=
  (ch.modXfer g xid fun t => { t with data := t.data.put i d, bad := if bad then i :: t.bad else t.bad }).xferWriteLine g xid i

/-- Reads one line from its source. -/
def Channel.xferReadLine (ch : Channel) (g : Nat) (t : Xfer) (i : Nat) : Channel :=
  match t.src.getD i .none with
  | .spad h line =>
    let own := h = g
    let a : Acc1 := { line := line, dst := .xferRead g t.st t.xid i, req := if own then 129 else 130 }
    ch.modLan h (·.queueAcc (if own then 1 else 2) a)
  | .dev a =>
    if devChan a = ch.no then
      ch.gatePush { cls := 0, line := devLine a, dst := .xfer g t.st t.xid i, src := g, ctx := some t.ctx }
    else
      let (ls, first) := ch.remoteRun g false t i
      if ls.head? = some (t.xid, i) then
        ch.request { ptype := 1, dst := ch.module * 16 + devChan a, src := ch.node, len := (ch.lan g).lenOf ls,
                     ctx := ch.wideCtx t.ctx, arg0 := first }
          { g := g, parts := ls, wr := false, ctx := t.ctx }
      else ch
  | _ => ch

/-- The tender sends a transfer's request (R232): reads are asked for, and data that is here already is written. A spilled
transfer's header line is written too (R241). -/
def Channel.xferSend (ch : Channel) (g xid : Nat) : Channel :=
  match ch.xfer? g xid with
  | none => ch
  | some t =>
    if t.sent then ch
    else
      let ch := ch.modXfer g xid fun t => { t with sent := true }
      let (ch, hd) := match t.head with
        | none => (ch, none)
        | some a =>
          let (v, ch) := ch.freeVal 512
          (ch, some (a, toBytes 64 v))
      let ch := match hd with
        | none => ch
        | some (a, d) => ch.gatePush { cls := 1, line := devLine a, wr := true, data := d, mask := List.replicate 64 true,
                                       dst := .xfer g t.st xid 4096, src := g, ctx := some t.ctx }
      (upto t.lines).foldl (fun ch i =>
        if (t.data.find i).isSome then ch.xferWriteLine g xid i else ch.xferReadLine g t i) ch

/-- The transfers held for a stream are sent, as one request (R232). -/
def Channel.holdSend (ch : Channel) (g n : Nat) : Channel :=
  match (ch.lan g).td.hold.find n with
  | none => ch
  | some h =>
    let ch := ch.modTd g fun t =>
      { t with hold := t.hold.del n,
               fq := t.fq.map fun x => if h.xids.contains x.xid then { x with group := h.xids } else x }
    h.xids.foldl (fun ch x => ch.xferSend g x) ch

/-- The cycles of a hold have passed (R232). -/
def Channel.mergeHoldEnd (ch : Channel) (g n : Nat) : Channel :=
  match (ch.lan g).td.hold.find n with
  | none => ch
  | some h => if h.until_ ≤ ch.cyc then ch.holdSend g n else ch

/-! ### Stops, ends and aborts (R224, R235, R237) -/

/-- Transfers of the stream that have not retired, apart from copies of spilled slots. -/
def Lantern.issuedOf (l : Lantern) (n : Nat) : List Xfer := l.td.fq.filter fun x => x.st == n && !x.copyBack

/-- Once its issued transfers have retired, a stopping stream is STOPPED and an aborting one IDLE with ERR set (R237). -/
def Channel.settleStop (ch : Channel) (g n : Nat) : Channel :=
  let l := ch.lan g
  let s := l.stm n
  if !(l.issuedOf n).isEmpty then ch
  else if s.aborting then
    let ch := ch.modStm g n fun s => { s with aborting := false, stopping := false, ending := false, srcOpen := false,
                                              dstOpen := false, dstSpill := false, victim := false }
    (ch.setState g n 0).lw g F.TD_S_STAT_ERR n 1
  else if s.stopping && !s.ending then
    (ch.modStm g n fun s => { s with stopping := false }).setState g n 4
  else ch

/-- TD_Sn_CMD.STOP, or lantern parking (R237). -/
def Channel.streamStop (ch : Channel) (g n : Nat) (park : Bool) : Channel :=
  let st := (ch.lan g).stmState n
  if st = 1 ∨ st = 2 then
    (((ch.xltForget (16 * g + n)).modStm g n fun s => { s with stopping := true, byPark := park && (!s.stopping || s.byPark) }).settleStop g n).tdSync g
  else ch

/-- TD_Sn_CMD.RESUME (R237). -/
def Channel.streamResume (ch : Channel) (g n : Nat) : Channel :=
  let st := (ch.lan g).stmState n
  if st = 3 ∨ st = 4 then
    ((ch.modStm g n fun s => { s with byPark := false }).setState g n 1).tdSync g
  else ch.tdCfgErr g

/-- TD_Sn_CMD.ABORT, and what acts as it (R237): the shadow is discarded, no END increment is made for an open slot, and
slots still in the spill reserve are given up. -/
def Channel.streamAbort (ch : Channel) (g n : Nat) : Channel :=
  let ch := (ch.xltForget (16 * g + n)).lw g F.TD_S_STAT_REARM_PEND n 0
  let ch := ch.modStm g n fun s => { s with aborting := true, shadow := none, restart := none }
  let ch := ch.modTd g fun t =>
    let gone := t.spills.filter fun s => s.st == n && !s.copying
    let used := gone.flatMap fun s => s.parts.flatMap (·.lines)
    { t with spills := t.spills.filter (fun s => !(s.st == n && !s.copying)),
             spillUsed := t.spillUsed.filter fun x => !used.contains x }
  (ch.settleStop g n).tdSync g

/-- Replaces the endpoints and restarts in the next cycle (R235). -/
def Channel.rearmNow (ch : Channel) (g n src dst : Nat) : Channel :=
  ((ch.lw g F.TD_S_DESC1_SRC n src).lw g F.TD_S_DESC2_DST n dst).modStm g n fun s =>
    { s with restart := some (ch.cyc + 1) }

/-- New words replace those of an accepted re-arm (R236). -/
def Channel.rearmOver (ch : Channel) (g n : Nat) : Channel :=
  (ch.lw g F.TD_S_STAT_REARM_OVW n 1).linc g F.TD_REARM_OVW_CNT_COUNT 0 1

/-- A re-arm with the staged source word and the written destination word (R235, R236). One that falls in the cycle of a stream end
counts as accepted before the end, which applies it. -/
def Channel.rearm (ch : Channel) (g n src dst : Nat) : Channel :=
  let l := ch.lan g
  if l.r F.TD_S_DESC0_MOORED n = 0 then ch.tdCfgErr g
  else if l.stmState n = 0 ∧ (l.stm n).shadow.isNone then
    match (l.stm n).endAt with
    | some (t, armed) =>
      if t = ch.cyc then
        let ch := if armed then ch.rearmOver g n else ch
        (ch.modStm g n fun s => { s with endAt := some (t, true) }).rearmNow g n src dst
      else ch.rearmNow g n src dst
    | none => ch.rearmNow g n src dst
  else
    let ch := if l.r F.TD_S_STAT_REARM_PEND n = 1 then ch.rearmOver g n else ch
    (ch.lw g F.TD_S_STAT_REARM_PEND n 1).modStm g n fun s => { s with shadow := some (src, dst) }

/-- A write of TD_Sn_REARM_DST (R235). -/
def Channel.rearmWrite (ch : Channel) (g n dst : Nat) : Channel :=
  ch.rearm g n ((ch.lan g).r F.TD_S_REARM_SRC_SRC n) dst

/-- The lantern is parked, or is to be (R143). -/
def Lantern.halted (l : Lantern) : Bool := l.r F.LN_STATUS_PARKED == 1 || l.r F.LN_STATUS_PARK_PEND == 1

/-- The shadow of an ended stream replaces its endpoints (R235). -/
def Channel.applyShadow (ch : Channel) (g n : Nat) : Channel :=
  match ((ch.lan g).stm n).shadow with
  | none => ch
  | some (a, b) =>
    let ch := (ch.lw g F.TD_S_STAT_REARM_PEND n 0).modStm g n fun s => { s with shadow := none }
    ch.rearmNow g n a b

/-- The cycle after an end or a re-arm: a moored stream restarts (R235), but not while its lantern parks (R143). -/
def Channel.streamRestart (ch : Channel) (g n : Nat) : Channel :=
  match ((ch.lan g).stm n).restart with
  | none => ch
  | some t => if t ≤ ch.cyc ∧ (ch.lan g).stmState n = 0 ∧ !(ch.lan g).halted then ch.streamLoad g n else ch

/-! ### Slots (R224, R230, R264) -/

/-- The buoy pair that a stream consumes from: pair SRC_BP of its own lantern; or, when its source lies in another lantern
whose pair of that number has CONS_KIND 3 and names this stream, that pair (R224, R264). -/
def Channel.srcPair (ch : Channel) (g n : Nat) : Nat × Nat :=
  let l := ch.lan g
  let bp := l.r F.TD_S_DESC0_SRC_BP n
  match Endp.parse g (l.r F.TD_S_DESC1_SRC n) with
  | some (.spad h _) =>
    let m := ch.lan h
    if h ≠ g ∧ m.r F.LN_BP_CFG_CONS_KIND bp = 3 ∧ m.r F.LN_BP_CFG_CONS_STREAM bp = n
        ∧ 48 * m.r F.LN_BP_CFG_CONS_ROW bp + m.r F.LN_BP_CFG_CONS_COL bp = g then (h, bp)
    else (g, bp)
  | _ => (g, bp)

/-- Spilled slots of a stream. -/
def Lantern.spillsOf (l : Lantern) (n : Nat) : List SpillSlot := l.td.spills.filter fun s => s.st == n

/-- Free lines of the spill reserve (R241). -/
def Lantern.spillRoom (l : Lantern) : Nat := l.r F.TD_SPILL_LINES_LINES - l.td.spillUsed.length

/-- A destination slot that must be opened now would be a spilled one (R241). -/
def Channel.wouldSpill (ch : Channel) (g n : Nat) (plain : Bool) : Bool :=
  let l := ch.lan g
  (l.stm n).victim && plain && (!(l.spillsOf n).isEmpty || ch.bpSeen g (l.r F.TD_S_DESC0_DST_BP n) false == 0)

/-- The first unmet condition of R230 for a transfer, or 0. `lines` and `len` are the transfer's, `fromSrc` says that it
reads a source, `claim` names a FIFO, `plain` says that its destination may spill. -/
def Channel.issueWait (ch : Channel) (g n lines len : Nat) (fromSrc : Bool) (claim : Option Nat) (plain : Bool) : Nat :=
  let l := ch.lan g
  let s := l.stm n
  let held := (l.td.fq.filter fun x => x.st == n).length
  let srcP := ch.srcPair g n
  let spilled := if s.dstOpen then s.dstSpill else ch.wouldSpill g n plain
  if 32 ≤ l.td.fq.length ∨ l.r F.TD_S_DESC0_FQ_MAX n + 1 ≤ held then 1
  else if l.r F.TD_S_DESC0_REG_EN n = 1 ∧ sext 24 (l.r F.TD_S_TOKENS_TOKENS n) ≤ 0 then 2
  else if fromSrc ∧ l.r F.TD_S_DESC0_SRC_BP_EN n = 1 ∧ !s.srcOpen ∧ ch.bpSeen srcP.1 srcP.2 true = 0 then 3
  else if l.r F.TD_S_DESC0_DST_BP_EN n = 1 ∧
      (if spilled then decide (l.spillRoom < lines + 1)
       else !s.dstOpen && ch.bpSeen g (l.r F.TD_S_DESC0_DST_BP n) false == 0) then 4
  else match claim with
    | some f => if 32 ≤ f ∨ (ch.fifo f).fill < len then 5 else 0
    | none => 0

/-- The last transfer of a stream that has not retired takes an END bit: the slot closes with it. With none left the
increment is made at once (R221, R224). -/
def Channel.closeSlot (ch : Channel) (g n : Nat) (dst : Bool) : Channel :=
  let l := ch.lan g
  let s := l.stm n
  if !(if dst then s.dstOpen else s.srcOpen) then ch
  else
    let ctx := some (l.stmCtx n)
    let ch' := ch.modStm g n fun s => if dst then { s with dstOpen := false } else { s with srcOpen := false }
    if dst && s.dstSpill then
      (ch'.modStm g n fun s => { s with dstSpill := false }).modTd g fun t =>
        { t with spills := t.spills.map fun x => if x.st = n ∧ !x.copying then { x with closed := true } else x }
    else match (l.issuedOf n).getLast? with
      | some x => ch'.modXfer g x.xid fun x => if dst then { x with dstEnd := true } else { x with srcEnd := true }
      | none =>
        if dst then ch'.bpInc g (l.r F.TD_S_DESC0_DST_BP n) true 1 ctx
        else ch'.bpInc (ch.srcPair g n).1 (ch.srcPair g n).2 false 1 ctx

/-! ### Issuing a transfer (R230, R232, R238, R241) -/

/-- The offset register SO or DO, signed (R215). -/
def Lantern.offReg (l : Lantern) (n : Nat) (dst : Bool) : Int :=
  sext 42 (l.r (if dst then F.TD_S_DO_DO else F.TD_S_SO_SO) n)

/-- Sets SO or DO. -/
def Channel.setOff (ch : Channel) (g n : Nat) (dst : Bool) (v : Int) : Channel :=
  ch.lw g (if dst then F.TD_S_DO_DO else F.TD_S_SO_SO) n (ofInt 42 v)

/-- A transfer on its way to the fetch queue. -/
structure Issue where
  len  : Nat
  src  : List Side
  dst  : List Side
  /-- The source supplies the padding value. -/
  fill : Bool
  /-- The instruction reads a source, and takes part in its slots (R224). -/
  reads : Bool
  claim : Option Nat
  link : Option Nat
  linkOff : Nat
  dEnd : Bool
  sEnd : Bool
  /-- Endpoint kinds 0 and 1 on both sides, and on the destination's. -/
  both : Bool
  plain : Bool

/-- What stands in the way of a transfer, apart from R230. -/
inductive Block where
  | clear
  | refused (addr : Nat) (wr : Bool)
  | outside
  | fault (addr : Nat)
  | miss (page : Nat)
  /-- Translated accesses stand still (R28, R372). -/
  | held
  deriving DecidableEq, Repr

/-- The first address that is refused or out of range; then the first translation fault or miss (R210, R238, R471). -/
def Channel.blockOf (ch : Channel) (who : Nat) (src dst : List Side) : Block :=
  let addrs := fun (wr : Bool) (b : Block) (s : Side) => match b, s with
    | .clear, .refused a => .refused a wr
    | .clear, .outside => .outside
    | b, _ => b
  let xlt := fun (wr : Bool) (b : Block) (s : Side) => match b, s with
    | .clear, .host a => if ch.hostHeld then .held else match ch.translate a who wr with
      | .at_ _ _ => .clear
      | .fault => .fault a
      | .miss => .miss (xltPage a)
    | b, _ => b
  let b := dst.foldl (addrs true) (src.foldl (addrs false) .clear)
  dst.foldl (xlt true) (src.foldl (xlt false) b)

/-- The place of a translated line. -/
def Channel.placeOf (ch : Channel) (who : Nat) (wr : Bool) : Side → Place
  | .at_ p => p
  | .host a => match ch.translate a who wr with
    | .at_ h coh => .host a h coh
    | _ => .none
  | _ => .none

/-- A stream's transfer breaks the address rules (R210, R243, R471): it acts as ABORT at that step. -/
def Channel.streamOutOfRange (ch : Channel) (g n : Nat) : Channel := (ch.stmErr g n 0x21).streamAbort g n

/-- A translation fault halts the stream at its step (R238). -/
def Channel.streamHalt (ch : Channel) (g n addr : Nat) : Channel :=
  let ch := (ch.lw g F.TD_S_STAT_FAULT n 1).lw g F.TD_STATUS_FAULT 0 1
  let ch := (ch.lw g F.TD_S_FAULT_ADDR_ADDR n addr).linc g F.TD_FAULT_CNT_COUNT 0 1
  ((ch.setState g n 3).pageFault addr (16 * g + n)).tdSync g

/-- The line after a place, for merging (R232). -/
def Place.follows (a b : Place) : Bool :=
  match a, b with
  | .spad g x, .spad h y => g == h && y == x + 1
  | .dev x, .dev y => y == x + 64
  | .host x _ _, .host y _ _ => y == x + 64
  | _, _ => false

/-- Lines `xs` of the reserve are taken: the lowest free ones (R241). -/
def Lantern.takeReserve (l : Lantern) (k : Nat) : List Nat :=
  ((upto (l.r F.TD_SPILL_LINES_LINES)).filter fun x => !l.td.spillUsed.contains x).take k

/-- Device address of a reserve line. -/
def Lantern.reserveAddr (l : Lantern) (x : Nat) : Nat := l.r F.TD_SPILL_BASE_ADDR + 64 * x

/-- A transfer enters the reserve instead of its destination: its record joins the stream's open spilled slot, or opens
one, which is counted and recorded (R241). -/
def Channel.spillXfer (ch : Channel) (g : Nat) (t : Xfer) (opening : Bool) : Channel × Xfer :=
  let l := ch.lan g
  let xs := l.takeReserve (t.lines + 1)
  let part : SpillPart := { xid := t.xid, dst := t.dst, len := t.len, lines := xs }
  let bp := l.r F.TD_S_DESC0_DST_BP t.st
  let t' := { t with dst := (xs.drop 1).map fun x => .dev (l.reserveAddr x), spill := true,
                     head := xs.head?.map l.reserveAddr }
  let ch := ch.modTd g fun d =>
    let d := { d with spillUsed := d.spillUsed ++ xs }
    if opening then { d with spills := d.spills ++ [{ st := t.st, bp := bp, parts := [part], closed := t.dstEnd }] }
    else { d with spills := d.spills.map fun s =>
      if s.st = t.st ∧ !s.closed then { s with parts := s.parts ++ [part], closed := t.dstEnd } else s }
  let ch := if opening then
      ((ch.linc g F.TD_SPILL_CNT_COUNT 0 1).lw g F.TD_STATUS_SPILL 0 1).raiseOnce (onceKey 0x28 g) 0x28
        (ch.stmUnit g t.st) (some t.ctx) 0
    else ch
  (ch, t')

/-- Puts an issued transfer into the request that its stream holds, or sends and holds anew (R232). `last` is the stream's
transfer before it, when that one is held. -/
def Channel.holdOrSend (ch : Channel) (g : Nat) (t : Xfer) (both : Bool) : Channel :=
  let td := (ch.lan g).td
  let held := td.hold.find t.st
  let last := held.bind fun h => h.xids.getLast?.bind fun x => td.fq.find? fun y => y.xid == x
  let joins := match held, last with
    | some h, some p =>
      both && decide (ch.cyc ≤ h.until_) && p.len % 64 == 0 && h.bytes + t.len ≤ 2048
        && (p.src.getLastD .none).follows (t.src.headD .none) && (p.dst.getLastD .none).follows (t.dst.headD .none)
    | _, _ => false
  match joins, held with
  | true, some h =>
    (ch.modTd g fun d => { d with hold := d.hold.put t.st { h with xids := h.xids ++ [t.xid], bytes := h.bytes + t.len } }).linc
      g F.TD_MERGE_CNT_COUNT 0 1
  | _, _ =>
    let ch := ch.holdSend g t.st
    if both && t.len ≤ 512 then
      ch.modTd g fun d => { d with hold := d.hold.put t.st { xids := [t.xid], bytes := t.len, until_ := ch.cyc + 4 } }
    else ch.xferSend g t.xid

/-- The bytes a transfer has at its issue: the padding value, a FIFO's bytes, or the bytes of host pages, which the host
returns (`host`, line after line). -/
def Channel.issueData (ch : Channel) (g n : Nat) (i : Issue) (src : List Place) (host : List (BitVec 8)) :
    Channel × SMap (List (BitVec 8)) :=
  let lines := ceilDiv i.len 64
  if i.fill then
    let l := ch.lan g
    let d := match l.fmt (l.r F.TD_S_DESC0_FMT n) with
      | some f => padLine f.vfmt.width (f.elemOf f.pad)
      | none => zeroLine
    (ch, (upto lines).map fun k => (k, d))
  else match i.claim with
    | some f =>
      let (ch, d) := ch.fifoClaim f i.len
      (ch, (upto lines).map fun k => (k, fitTo 64 0 ((d.drop (64 * k)).take 64)))
    | none =>
      let isHost := fun k => match src.getD k .none with
        | .host .. => true
        | _ => false
      let ks := (upto lines).filter isHost
      let ch := src.foldl (fun ch p => match p with
        | .host _ hpa coh => ch.tell (.hostRd (if coh then .rdCurr else .ioRead) hpa)
        | _ => ch) ch
      (ch, (ks.zip (upto ks.length)).map fun (k, j) => (k, fitTo 64 0 ((host.drop (64 * j)).take 64)))

/-- Issues one transfer, all of whose conditions hold: the acquisitions are made, the tokens taken, and the transfer enters
the fetch queue (R230, R231, R233, R241). -/
def Channel.issueXfer (ch : Channel) (g n : Nat) (i : Issue) (host : List (BitVec 8)) : Channel :=
  let l := ch.lan g
  let s := l.stm n
  let lines := ceilDiv i.len 64
  let touch := fun (ch : Channel) (x : Side) => match x with
    | .host a => ch.touchPage a
    | _ => ch
  let src := i.src.map (ch.placeOf (16 * g + n) false)
  let dst := i.dst.map (ch.placeOf (16 * g + n) true)
  let ch := (i.src ++ i.dst).foldl touch ch
  let ctx := l.stmCtx n
  let useSrc := i.reads && l.r F.TD_S_DESC0_SRC_BP_EN n == 1
  let useDst := l.r F.TD_S_DESC0_DST_BP_EN n == 1
  let openSrc := useSrc && !s.srcOpen
  let openDst := useDst && !s.dstOpen
  let spill := useDst && (if s.dstOpen then s.dstSpill else ch.wouldSpill g n i.plain)
  let srcP := ch.srcPair g n
  let ch := if openSrc then ch.bpTake srcP.1 srcP.2 true else ch
  let ch := if openDst && !spill then
      (ch.bpTake g (l.r F.TD_S_DESC0_DST_BP n) false).modStm g n fun s => { s with victim := false }
    else ch
  let ch := ch.modStm g n fun s =>
    { s with srcOpen := if useSrc then !i.sEnd else s.srcOpen, dstOpen := if useDst then !i.dEnd else s.dstOpen,
             dstSpill := spill && !i.dEnd }
  let ch := if l.r F.TD_S_DESC0_REG_EN n = 1 then
      ch.lw g F.TD_S_TOKENS_TOKENS n (ofInt 24 (sext 24 (l.r F.TD_S_TOKENS_TOKENS n) - (lines : Int)))
    else ch
  let (ch, data) := ch.issueData g n i src host
  let xid := l.td.nextXid
  let t : Xfer := { xid := xid, st := n, len := i.len, src := src, dst := dst, srcEnd := i.sEnd && useSrc,
                    dstEnd := i.dEnd, link := i.link, linkOff := i.linkOff, data := data, ctx := ctx }
  let (ch, t) := if spill then ch.spillXfer g t openDst else (ch, t)
  let t := if spill then { t with dstEnd := false } else { t with dstEnd := i.dEnd && (useDst || i.link.isSome) }
  let ch := ch.modTd g fun d => { d with nextXid := d.nextXid + 1, fq := d.fq ++ [t] }
  (ch.holdOrSend g t i.both).tdSync g

/-- A transfer's step (R210, R230, R238, R471): the Bool says that it was issued, so that the program moves on. -/
def Channel.tryIssue (ch : Channel) (g n : Nat) (i : Issue) (host : List (BitVec 8)) : Channel × Bool :=
  match ch.blockOf (16 * g + n) i.src i.dst with
  | .refused a wr => ((ch.tell (.miss a 5 wr false false)).streamOutOfRange g n, false)
  | .outside => (ch.streamOutOfRange g n, false)
  | .fault a => (ch.streamHalt g n a, false)
  | .miss p => (ch.xltMiss p (16 * g + n), false)
  | .held => (ch, false)
  | .clear =>
    if ch.issueWait g n (ceilDiv i.len 64) i.len i.reads i.claim i.plain = 0 then (ch.issueXfer g n i host, true)
    else (ch, false)

/-! ### The program (R216 to R218) -/

/-- The instruction a stream stands at. -/
def Lantern.stmInsn (l : Lantern) (n : Nat) : Option SInsn :=
  SInsn.decode ((l.stm n).prog.getD (l.r F.TD_S_POS_PC n) 0)

/-- The loop index of a level (R215). -/
def loopFld (lv : Nat) : Fld :=
  match lv with
  | 0 => F.TD_S_LOOPA_C0
  | 1 => F.TD_S_LOOPA_C1
  | 2 => F.TD_S_LOOPA_C2
  | 3 => F.TD_S_LOOPA_C3
  | 4 => F.TD_S_LOOPB_C4
  | _ => F.TD_S_LOOPB_C5

/-- Position `p` has been executed or passed over: the loops that end there count, and the answer is the next position, with
the loops that stay and the writes of the indices (R217). -/
def loopNext (idx : Nat → Nat) (p : Nat) : List (Nat × Nat × Nat × Nat) → Nat × List (Nat × Nat × Nat × Nat) × List (Nat × Nat)
  | [] => (p + 1, [], [])
  | (q, b, lv, cnt) :: ls =>
    if q + b ≠ p then (p + 1, (q, b, lv, cnt) :: ls, [])
    else if idx lv + 1 < cnt then (q + 1, (q, b, lv, cnt) :: ls, [(lv, idx lv + 1)])
    else
      let (t, rest, ws) := loopNext idx p ls
      (t, rest, (lv, idx lv + 1) :: ws)

/-- Moves on from position `p` (R217). -/
def Channel.advance (ch : Channel) (g n p : Nat) : Channel :=
  let l := ch.lan g
  let (t, ls, ws) := loopNext (fun lv => l.r (loopFld lv) n) p (l.stm n).loops
  let ch := ws.foldl (fun ch w => ch.lw g (loopFld w.1) n w.2) ch
  (ch.modStm g n fun s => { s with loops := ls }).lw g F.TD_S_POS_PC n t

/-- The stream that holds the step of this cycle, if its instruction satisfies `want` (R229). -/
def Channel.stepOf (ch : Channel) (g : Nat) (want : SInsn → Bool) : Option (Nat × SInsn) :=
  let l := ch.lan g
  match l.td.granted with
  | none => none
  | some (n, t) =>
    if t ≠ ch.cyc ∨ l.r F.TD_S_DESC0_MODE n = 1 then none
    else match l.stmInsn n with
      | some i => if want i then some (n, i) else none
      | none => none

/-- The step is used up. -/
def Channel.stepDone (ch : Channel) (g : Nat) : Channel := ch.modTd g fun t => { t with granted := none }

/-- LOOP (R217). -/
def Channel.doLoop (ch : Channel) (g : Nat) : Channel :=
  match ch.stepOf g fun i => match i with
    | .loop .. => true
    | _ => false with
  | some (n, .loop lv sh cnt b) =>
    let l := ch.lan g
    let p := l.r F.TD_S_POS_PC n
    let cnt := match sh with
      | some k => l.r F.LN_SHAPE_VALUE k
      | none => cnt
    let ch := ch.stepDone g
    if cnt = 0 then ch.advance g n (p + b)
    else
      let ch := ch.modStm g n fun s => { s with loops := (p, b, lv, cnt) :: s.loops }
      (ch.lw g (loopFld lv) n 0).lw g F.TD_S_POS_PC n (p + 1)
  | _ => ch

/-- A stride of the descriptor, signed (R212). -/
def Lantern.stride (l : Lantern) (n k : Nat) : Int :=
  sext 32 (l.r (match k with
    | 0 => F.TD_S_DESC4_STRIDE0
    | 1 => F.TD_S_DESC4_STRIDE1
    | 2 => F.TD_S_DESC5_STRIDE2
    | _ => F.TD_S_DESC5_STRIDE3) n)

/-- ADD (R216). -/
def Channel.doAdd (ch : Channel) (g : Nat) : Channel :=
  match ch.stepOf g fun i => match i with
    | .add .. => true
    | _ => false with
  | some (n, .add dst st neg imm) =>
    let l := ch.lan g
    let v := match st with
      | some k => if neg then -(l.stride n k) else l.stride n k
      | none => imm
    ((ch.stepDone g).setOff g n dst (l.offReg n dst + v)).advance g n (l.r F.TD_S_POS_PC n)
  | _ => ch

/-- SET (R216). -/
def Channel.doSet (ch : Channel) (g : Nat) : Channel :=
  match ch.stepOf g fun i => match i with
    | .set .. => true
    | _ => false with
  | some (n, .set dst imm) => ((ch.stepDone g).setOff g n dst imm).advance g n ((ch.lan g).r F.TD_S_POS_PC n)
  | _ => ch

/-- The condition of a SKIP holds (R216, R218). -/
def skipHolds (rel a b : Nat) : Bool :=
  match rel with
  | 0 => decide (a < b)
  | 1 => decide (b ≤ a)
  | 2 => a == b
  | _ => a != b

/-- SKIP (R218): the instructions passed over cost no step. -/
def Channel.doSkip (ch : Channel) (g : Nat) : Channel :=
  match ch.stepOf g fun i => match i with
    | .skip .. => true
    | _ => false with
  | some (n, .skip lv sh rel k shift) =>
    let l := ch.lan g
    let p := l.r F.TD_S_POS_PC n
    let holds := skipHolds rel (l.r (loopFld lv) n <<< shift) (l.r F.LN_SHAPE_VALUE sh)
    (ch.stepDone g).advance g n (if holds then p + k else p)
  | _ => ch

/-- The issue that an XFER or FILL asks for. -/
def Channel.progIssue (ch : Channel) (g n len : Nat) (fill dEnd sEnd : Bool) : Option Issue :=
  let l := ch.lan g
  match Endp.parse g (l.r F.TD_S_DESC1_SRC n), Endp.parse g (l.r F.TD_S_DESC2_DST n) with
  | some s, some d =>
    let lines := ceilDiv len 64
    let reads := !fill
    let fill := fill || s == .fill
    let link := match d with
      | .fifoAt .. => some (l.r F.TD_S_DESC2_DST n)
      | .pairAt .. => some (l.r F.TD_S_DESC2_DST n)
      | _ => none
    let claim := match s with
      | .fifo f => if fill then none else some f
      | _ => none
    some { len := len, fill := fill, reads := reads, claim := claim, link := link, dEnd := dEnd, sEnd := sEnd,
           src := if fill then [] else s.side (l.offReg n false) (l.r F.TD_S_DESC6_SRC_WRAP n) lines,
           dst := if link.isSome then [] else d.side (l.offReg n true) (l.r F.TD_S_DESC6_DST_WRAP n) lines,
           linkOff := ofInt 12 (l.offReg n true), both := !fill && s.plain && d.plain, plain := d.plain }
  | _, _ => none

/-- The lines an issued instruction adds to SO and DO (R216), and the next position. -/
def Channel.afterXfer (ch : Channel) (g n lines : Nat) (incS incD : Bool) : Channel :=
  let l := ch.lan g
  let ch := if incS then ch.setOff g n false (l.offReg n false + lines) else ch
  let ch := if incD then ch.setOff g n true (l.offReg n true + lines) else ch
  ch.advance g n (l.r F.TD_S_POS_PC n)

/-- XFER (R216, R230). -/
def Channel.doXfer (ch : Channel) (g : Nat) (host : List (BitVec 8)) : Channel :=
  match ch.stepOf g fun i => match i with
    | .xfer .. => true
    | _ => false with
  | some (n, .xfer len dEnd sEnd incS incD) =>
    match ch.progIssue g n len false dEnd sEnd with
    | none => ch
    | some i =>
      let (ch, ok) := (ch.stepDone g).tryIssue g n i host
      if ok then ch.afterXfer g n (ceilDiv len 64) incS incD else ch
  | _ => ch

/-- FILL (R216, R230). -/
def Channel.doFill (ch : Channel) (g : Nat) : Channel :=
  match ch.stepOf g fun i => match i with
    | .fill .. => true
    | _ => false with
  | some (n, .fill len dEnd incD) =>
    match ch.progIssue g n len true dEnd false with
    | none => ch
    | some i =>
      let (ch, ok) := (ch.stepDone g).tryIssue g n i []
      if ok then ch.afterXfer g n (ceilDiv len 64) false incD else ch
  | _ => ch

/-- END (R224): the stream issues nothing more. -/
def Channel.doProgEnd (ch : Channel) (g : Nat) : Channel :=
  match ch.stepOf g fun i => i == .end_ with
  | some (n, _) => (ch.stepDone g).modStm g n fun s => { s with ending := true }
  | none => ch

/-! ### Block lists (R220 to R222) -/

/-- A block-list entry (R220). -/
structure LEntry where
  addr : Nat
  len  : Nat
  slot : Nat
  off  : Nat
  slotEnd : Bool
  last : Bool
  /-- A reserved bit is not 0. -/
  junk : Bool

/-- Reads an entry (R220). -/
def LEntry.parse (b : List (BitVec 8)) : LEntry :=
  let w := ofBytes (b.take 16)
  { addr := bits w 47 0, len := bits w 63 48, slot := bits w 79 64, off := bits w 95 80,
    slotEnd := isSet w 96, last := isSet w 97, junk := bits w 127 98 != 0 }

/-- The line of a stream's block list: its place (R212). -/
def Lantern.listSide (l : Lantern) (g n k : Nat) : Side :=
  if l.r F.TD_S_DESC3_LIST_HBM n = 1 then sideOfAddr ((l.r F.TD_S_DESC3_LIST_ADDR n + 64 * k) % 2 ^ 48)
  else if 4096 ≤ l.r F.TD_S_DESC3_PROG_LINE n + k then .outside
  else .at_ (.spad g (l.r F.TD_S_DESC3_PROG_LINE n + k))

/-- List lines in use or ahead of it, at most 8 (R221). -/
def Lantern.listWindow (l : Lantern) (n : Nat) : List Nat :=
  let cur := l.r F.TD_S_POS_LIST_IDX n / 4
  (rangeFrom cur 8).filter fun k => decide (4 * k < l.r F.TD_S_DESC6_LIST_LEN n)

/-- Asks for the list lines that are neither held nor asked for (R221, R234). -/
def Channel.listAhead (ch : Channel) (g n : Nat) : Channel :=
  (((ch.lan g).listWindow n).filter fun k =>
      ((((ch.lan g).stm n).listBuf.find k).isNone && !((ch.lan g).stm n).listReq.contains k)).foldl (fun ch k =>
    let l := ch.lan g
    let ctx := l.stmCtx n
    let mark := fun (ch : Channel) => ch.modStm g n fun s => { s with listReq := k :: s.listReq }
    match l.listSide g n k with
    | .at_ (.spad _ line) =>
      (mark ch).modLan g (·.queueAcc 1 { line := line, dst := .list n (l.stm n).run k, req := 129 })
    | .at_ (.dev a) =>
      if devChan a = ch.no then
        (mark ch).gatePush { cls := 0, line := devLine a, dst := .list g n (l.stm n).run k, src := g, ctx := some ctx }
      else
        (mark ch).request { ptype := 1, dst := ch.module * 16 + devChan a, src := ch.node, len := 64,
                            ctx := ch.wideCtx ctx, arg0 := a }
          { g := g, parts := [((l.stm n).run, k)], wr := false, ctx := ctx, list := some n }
    | _ => ch) ch

/-- A list line that the stream's run asked for has come in, with or without an error indication; lines behind the one in use are
dropped (R221). -/
def Channel.listData (ch : Channel) (g n run k : Nat) (d : List (BitVec 8)) (bad : Bool := false) : Channel :=
  let cur := (ch.lan g).r F.TD_S_POS_LIST_IDX n / 4
  ch.modStm g n fun s =>
    if s.run = run ∧ s.listReq.contains k then
      { s with listBad := if bad then k :: s.listBad else s.listBad, listReq := s.listReq.filter (· != k), listBuf := SMap.put (s.listBuf.filter fun e => decide (cur ≤ e.1)) k d }
    else s

/-- A block list in host pages: the line in use is read through translation, its bytes given by the host (R315, R317). -/
def Channel.listHost (ch : Channel) (g n : Nat) (host : List (BitVec 8)) : Channel :=
  let l := ch.lan g
  let cur := l.r F.TD_S_POS_LIST_IDX n / 4
  if (l.stm n).listBuf.find cur |>.isSome then ch
  else match l.listSide g n cur with
    | .host a =>
      if ch.hostHeld then ch
      else match ch.translate a (16 * g + n) false with
      | .at_ hpa coh => ((ch.touchPage a).tell (.hostRd (if coh then .rdCurr else .ioRead) hpa)).modStm g n fun s =>
          { s with listBuf := SMap.put (s.listBuf.filter fun e => decide (cur ≤ e.1)) cur (fitTo 64 0 host) }
      | .fault => ch.streamHalt g n a
      | .miss => ch.xltMiss (xltPage a) (16 * g + n)
    | .refused a => (ch.tell (.miss a 5 false false false)).streamOutOfRange g n
    | .outside => ch.streamOutOfRange g n
    | _ => ch

/-- The entry a block-list stream stands at, if its line is held. -/
def Lantern.listEntry (l : Lantern) (n : Nat) : Option LEntry :=
  let i := l.r F.TD_S_POS_LIST_IDX n
  ((l.stm n).listBuf.find (i / 4)).map fun d => LEntry.parse (d.drop (16 * (i % 4)))

/-- The issue that an entry asks for (R221). -/
def Lantern.listIssue (l : Lantern) (g n : Nat) (e : LEntry) : Option Issue :=
  match Endp.parse g (l.r F.TD_S_DESC1_SRC n), Endp.parse g (l.r F.TD_S_DESC2_DST n) with
  | some s, some d =>
    let lines := ceilDiv e.len 64
    let off : Int := ((e.slot * l.r F.TD_S_DESC6_SLOT_LINES n + e.off : Nat) : Int)
    let a := Endp.dev e.addr
    let srcList := l.r F.TD_S_DESC0_LIST_SIDE n = 0
    some { len := e.len, fill := false, reads := true, claim := none, link := none, linkOff := 0,
           src := if srcList then a.side 0 0 lines else s.side off (l.r F.TD_S_DESC6_SRC_WRAP n) lines,
           dst := if srcList then d.side off (l.r F.TD_S_DESC6_DST_WRAP n) lines else a.side 0 0 lines,
           dEnd := e.slotEnd && srcList, sEnd := e.slotEnd && !srcList, both := true, plain := true }
  | _, _ => none

/-- An entry is invalid (R222). -/
def LEntry.invalid (e : LEntry) (i : Issue) : Bool :=
  e.addr % 64 != 0 || decide (16384 < e.len) || e.junk || (i.src ++ i.dst).contains .outside

/-- Moves to the next entry, or ends the list (R221). -/
def Channel.listNext (ch : Channel) (g n : Nat) (last : Bool) : Channel :=
  let l := ch.lan g
  let i := l.r F.TD_S_POS_LIST_IDX n + 1
  let ch := ch.lw g F.TD_S_POS_LIST_IDX n i
  if last ∨ l.r F.TD_S_DESC6_LIST_LEN n ≤ i then ch.modStm g n fun s => { s with ending := true } else ch

/-- One block-list entry (R221, R222). -/
def Channel.doListEntry (ch : Channel) (g : Nat) (host : List (BitVec 8)) : Channel :=
  let l := ch.lan g
  match l.td.granted with
  | none => ch
  | some (n, t) =>
    if t ≠ ch.cyc ∨ l.r F.TD_S_DESC0_MODE n = 0 then ch
    else match l.listEntry n with
      | none => ch
      | some e =>
        match l.listIssue g n e with
        | none => ch
        | some i =>
          let ch := ch.stepDone g
          let srcList := l.r F.TD_S_DESC0_LIST_SIDE n = 0
          if e.invalid i then
            let ch := ch.linc g F.TD_LIST_ERR_CNT_COUNT 0 1
            let ch := if (l.stm n).listErr then ch
              else (ch.modStm g n fun s => { s with listErr := true }).stmErr g n 0x22
            let ch := if e.slotEnd then ch.closeSlot g n srcList else ch
            (ch.listNext g n e.last).tdSync g
          else if e.len = 0 then
            let ch := if e.slotEnd then ch.closeSlot g n srcList else ch
            (ch.listNext g n e.last).tdSync g
          else
            let (ch, ok) := ch.tryIssue g n i host
            if ok then ch.listNext g n e.last else ch

/-! ### Stepping (R229, R230) -/

/-- The transfer that a stream's next step is to issue, if it issues one. -/
def Channel.stepIssue (ch : Channel) (g n : Nat) : Option Issue :=
  let l := ch.lan g
  if l.r F.TD_S_DESC0_MODE n = 1 then
    (l.listEntry n).bind fun e => (l.listIssue g n e).bind fun i => if e.len = 0 || e.invalid i then none else some i
  else match l.stmInsn n with
    | some (.xfer len dE sE _ _) => ch.progIssue g n len false dE sE
    | some (.fill len dE _) => ch.progIssue g n len true dE false
    | _ => none

/-- Why a stream's next step cannot proceed: none when it can, `some 0` for a list line that is not here, else the cause
of R230. -/
def Channel.stepWait (ch : Channel) (g n : Nat) : Option Nat :=
  let l := ch.lan g
  if l.r F.TD_S_DESC0_MODE n = 1 ∧ (l.listEntry n).isNone then some 0
  else match ch.stepIssue g n with
    | none => none
    | some i =>
      match ch.issueWait g n (ceilDiv i.len 64) i.len i.reads i.claim i.plain with
      | 0 => none
      | c => some c

/-- The stream may take steps: it is in RUN or WAIT, past its start, and not at its end (R213, R229). -/
def Channel.stepping (ch : Channel) (g n : Nat) : Bool :=
  let l := ch.lan g
  let s := l.stm n
  (l.stmState n == 1 || l.stmState n == 2) && decide (s.readyAt ≤ ch.cyc) && !s.ending && !s.stopping && !s.aborting

/-- A stream that cannot proceed enters WAIT with its cause; one that can is in RUN (R229, R230). -/
def Channel.noteWait (ch : Channel) (g n : Nat) : Channel :=
  match ch.stepWait g n with
  | none => if (ch.lan g).stmState n = 2 then ch.setState g n 1 else ch
  | some c =>
    let ch := (ch.setState g n 2).lw g F.TD_S_STAT_WAIT_CAUSE n c
    if c = 4 then ch.modStm g n fun s => { s with wait4 := some (s.wait4.getD ch.tick) }
    else (ch.waitEnds g n).lw g F.TD_S_STAT_WAIT_CAUSE n c

/-- The stream that wins the step of this cycle: among those that can proceed, the lowest PRIO value and then the least recent
winner (R229). -/
def Channel.stepWinner (ch : Channel) (g : Nat) : Option Nat :=
  let able := (ch.lan g).td.order.filter fun n => ch.stepping g n && (ch.stepWait g n).isNone
  (upto 4).findSome? fun p => able.find? fun n => (ch.lan g).r F.TD_S_DESC0_PRIO n == p

/-- The tender's step of this cycle is still to be made, and acquires READY or FREE of pair `bp`: streams come before the execute
side (R225). -/
def Channel.streamTakes (ch : Channel) (g bp : Nat) (ready : Bool) : Bool :=
  let l := ch.lan g
  let who := match l.td.granted with
    | some (n, t) => if t = ch.cyc then some n else if l.td.nextStep ≤ ch.cyc then ch.stepWinner g else none
    | none => if l.td.nextStep ≤ ch.cyc then ch.stepWinner g else none
  match who with
  | none => false
  | some n => match ch.stepIssue g n with
    | none => false
    | some i =>
      let s := l.stm n
      if ready then i.reads && l.r F.TD_S_DESC0_SRC_BP_EN n == 1 && !s.srcOpen && ch.srcPair g n == (g, bp)
      else l.r F.TD_S_DESC0_DST_BP_EN n == 1 && !s.dstOpen && !ch.wouldSpill g n i.plain && l.r F.TD_S_DESC0_DST_BP n == bp

/-- The tender gives this cycle's step (R229): each stream is tried, and among those that can proceed the one of lowest PRIO
value wins, the least recent winner first. -/
def Channel.streamStep (ch : Channel) (g : Nat) (host : List (BitVec 8)) : Channel :=
  if ch.cyc < (ch.lan g).td.nextStep then ch
  else
    let live := (ch.lan g).td.order.filter (ch.stepping g)
    let ch := live.foldl (fun ch n =>
      if (ch.lan g).r F.TD_S_DESC0_MODE n = 1 then (ch.listAhead g n).listHost g n host else ch) ch
    let ch := (live.filter (ch.stepping g)).foldl (fun ch n => ch.noteWait g n) ch
    match ch.stepWinner g with
    | none => ch
    | some n => ch.modTd g fun t =>
        { t with granted := some (n, ch.cyc), nextStep := ch.cyc + 1, order := t.order.filter (· != n) ++ [n] }

/-! ### Retirement and the end (R224, R231) -/

/-- A transfer's data has landed (R231). -/
def Xfer.landed (t : Xfer) : Bool :=
  if t.link.isSome then t.accepted
  else (upto t.lines).all (fun i => t.done.contains i) && (t.head.isNone || t.done.contains 4096)

/-- The oldest transfer of a stream retires (R231). -/
def Channel.retire (ch : Channel) (g n : Nat) : Channel :=
  let l := ch.lan g
  match l.td.fq.find? fun x => x.st == n with
  | none => ch
  | some t =>
    if !t.landed then ch
    else
      let ctx := some t.ctx
      let ch := ch.modTd g fun d => { d with fq := d.fq.filter fun x => x.xid != t.xid }
      let ch := (ch.linc g F.TD_LINES_COUNT 0 t.lines).linc g F.TD_S_LINES_COUNT n t.lines
      let ch := if t.copyBack then
          match l.td.spills.find? fun s => s.st == n && s.copying with
          | none => ch
          | some s =>
            if !t.dstEnd then ch
            else
              let used := s.parts.flatMap (·.lines)
              let ch := ch.modTd g fun d =>
                { d with spills := d.spills.erase s, spillUsed := d.spillUsed.filter fun x => !used.contains x }
              let ch := ch.bpInc g s.bp true 1 ctx
              if ((ch.lan g).spillsOf n).isEmpty then ch.modStm g n fun s => { s with victim := false } else ch
        else
          let ch := if t.dstEnd && l.r F.TD_S_DESC0_DST_BP_EN n == 1 then
              ch.bpInc g (l.r F.TD_S_DESC0_DST_BP n) true 1 ctx
            else ch
          if t.srcEnd then ch.bpInc (ch.srcPair g n).1 (ch.srcPair g n).2 false 1 ctx else ch
      (ch.settleStop g n).tdSync g

/-- A stream that has reached END with nothing outstanding closes its open slots and is IDLE; a staged re-arm restarts it
(R224, R235), once its lantern does not park (R143). -/
def Channel.streamEnd (ch : Channel) (g n : Nat) : Channel :=
  let l := ch.lan g
  let s := l.stm n
  if !s.ending || s.aborting || !(l.issuedOf n).isEmpty then ch
  else
    let ch := (ch.closeSlot g n true).closeSlot g n false
    let ch := ch.modStm g n fun t =>
      { t with ending := false, stopping := false, byPark := false, endAt := some (ch.cyc, s.shadow.isSome) }
    let ch := (ch.setState g n 0).lw g F.TD_S_STAT_DONE n 1
    (if (ch.lan g).halted then ch else ch.applyShadow g n).tdSync g

/-! ### Regulation (R233) -/

/-- The refill of one stream. -/
def Lantern.refillOne (l : Lantern) (n : Nat) : Lantern :=
  let st := l.stmState n
  if l.r F.TD_S_DESC0_REG_EN n = 0 ∨ st = 0 ∨ st = 4 then l
  else
    let s := l.stm n
    let depth : Int := l.r F.TD_S_DESC7_DEPTH n
    let sum : Int := sext 24 (l.r F.TD_S_TOKENS_TOKENS n) * 256 + (s.frac : Int) + (l.r F.TD_S_DESC7_RATE n : Int)
    let sum := if depth * 256 < sum then depth * 256 else sum
    let l := l.w F.TD_S_TOKENS_TOKENS n (ofInt 24 (sum / 256))
    { l with td := { l.td with streams := l.td.streams.put n { s with frac := (sum % 256).toNat } } }

/-- Every 64 cycles the regulated streams gain tokens (R233). -/
def Channel.tokenRefill (ch : Channel) (g : Nat) : Channel :=
  let l := ch.lan g
  if ch.cyc < l.td.nextRefill then ch
  else
    let l := (upto 16).foldl Lantern.refillOne l
    ch.setLan g { l with td := { l.td with nextRefill := ch.cyc - ch.cyc % 64 + 64 } }

/-- What one array cycle counts in the tender (R233, R244). -/
def Lantern.tdCycle (l : Lantern) : Lantern :=
  let waits := fun c => (upto 16).any fun n => l.stmState n == 2 && l.r F.TD_S_STAT_WAIT_CAUSE n == c
  let l' := if waits 1 then l.inc F.TD_FQ_FULL_CY_COUNT 0 1 else l
  if waits 2 then l'.inc F.TD_REG_WAIT_CY_COUNT 0 1 else l'

/-! ### Streams waiting on each other (R239 to R242) -/

/-- A tick boundary: STALL of each stream that waited with cause 4 throughout the tick just ended (R239). -/
def Channel.stallCount (ch : Channel) (g : Nat) : Channel :=
  if ch.tick ≤ (ch.lan g).td.stallTick then ch
  else
    let ch := ch.modTd g fun t => { t with stallTick := ch.tick }
    (upto 16).foldl (fun ch n =>
      match ((ch.lan g).stm n).wait4 with
      | some t => if t + 1 < ch.tick then ch.linc g F.TD_S_STAT_STALL n 1 else ch
      | none => ch) ch

/-- STALL has reached STALL_LIM (R239). -/
def Channel.stallLimit (ch : Channel) (g n : Nat) : Channel :=
  let l := ch.lan g
  let v := l.r F.TD_S_STAT_STALL n
  if v = 0 ∨ v < l.eff F.TD_CFG_STALL_LIM ∨ (l.stm n).notified then ch
  else (ch.lw g F.TD_STATUS_STALL 0 1).modStm g n fun s => { s with notified := true }

/-- A stream is notified and waits with cause 4 (R240). -/
def Lantern.stalled (l : Lantern) (n : Nat) : Bool :=
  (l.stm n).notified && l.stmState n == 2 && l.r F.TD_S_STAT_WAIT_CAUSE n == 4

/-- The stalled stream that consumes the pair a stream waits on (R240). -/
def Channel.waitsOn (ch : Channel) (v : Nat × Nat) : Option (Nat × Nat) :=
  let (g, n) := v
  let l := ch.lan g
  let bp := l.r F.TD_S_DESC0_DST_BP n
  let kind := l.r F.LN_BP_CFG_CONS_KIND bp
  let c := l.r F.LN_BP_CFG_CONS_STREAM bp
  let h := if kind = 3 then 48 * l.r F.LN_BP_CFG_CONS_ROW bp + l.r F.LN_BP_CFG_CONS_COL bp else g
  if (kind = 0 ∨ kind = 3) ∧ (ch.lan h).stalled c then some (h, c) else none

/-- The streams on the chain from `v`, up to `fuel` of them, until it ends or returns to one already on it. -/
def Channel.chain (ch : Channel) : Nat → List (Nat × Nat) → Nat × Nat → List (Nat × Nat) × Option (Nat × Nat)
  | 0, seen, _ => (seen, none)
  | fuel + 1, seen, v =>
    if seen.contains v then (seen, some v)
    else match ch.waitsOn v with
      | none => (seen ++ [v], none)
      | some w => ch.chain fuel (seen ++ [v]) w

/-- The loop that the chain from `v` closes, if it returns to a stream already on it (R240). -/
def Channel.cycleFrom (ch : Channel) (v : Nat × Nat) : List (Nat × Nat) :=
  match ch.chain 24577 [] v with
  | (seen, some w) => seen.dropWhile (· != w)
  | (_, none) => []

/-- The victim of a cycle: highest PRIO, then highest grid index, then highest stream number (R240). -/
def Channel.victimOf (ch : Channel) : List (Nat × Nat) → Option (Nat × Nat)
  | [] => none
  | v :: vs =>
    let key := fun (x : Nat × Nat) => ((ch.lan x.1).r F.TD_S_DESC0_PRIO x.2) * 2 ^ 20 + x.1 * 16 + x.2
    some (vs.foldl (fun b x => if key b < key x then x else b) v)

/-- A victim's next transfer needs reserve room that is not there (R242). -/
def Channel.reserveFull (ch : Channel) (g n : Nat) : Bool :=
  let l := ch.lan g
  match ch.stepIssue g n with
  | none => false
  | some i => (if (l.stm n).dstOpen then (l.stm n).dstSpill else ch.wouldSpill g n i.plain)
      && decide (l.spillRoom < ceilDiv i.len 64 + 1)

/-- The keeper deals with one cycle: the victim spills, or at the basic level is aborted when the cycle is found again with its
reserve full (R18, R240 to R242). -/
def Channel.breakCycle (ch : Channel) (cyc : List (Nat × Nat)) : Channel :=
  let ch := cyc.foldl (fun ch v => ch.modStm v.1 v.2 fun s => { s with inCycle := true }) ch
  match ch.victimOf cyc with
  | none => ch
  | some (g, n) =>
    if ((ch.lan g).stm n).victim then
      if ch.keepsStreams && ch.reserveFull g n then (ch.stmErr g n 0x26).streamAbort g n else ch
    else ch.modStm g n fun s => { s with victim := true }

/-- The keeper's wait-for check over the channel (R240). -/
def Channel.waitForCheck (ch : Channel) : Channel :=
  let all := (ch.lans.map fun gl => (((upto 16).filter fun n => gl.2.stalled n).map fun n => (gl.1, n))).flatten
  let ch := all.foldl (fun ch v => ch.modStm v.1 v.2 fun s => { s with inCycle := false }) ch
  (all.foldl (fun (p : Channel × List (Nat × Nat)) v =>
    let cyc := p.1.cycleFrom v
    if cyc.isEmpty ∨ cyc.any p.2.contains then p else (p.1.breakCycle cyc, p.2 ++ cyc)) (ch, [])).1

/-- STALL has reached STALL_ERR and no cycle was found (R242). -/
def Channel.streamStalled (ch : Channel) (g n : Nat) : Channel :=
  let l := ch.lan g
  let s := l.stm n
  let v := l.r F.TD_S_STAT_STALL n
  if v = 0 ∨ v < l.eff F.TD_CFG_STALL_ERR ∨ s.inCycle ∨ s.stallErr then ch
  else (ch.modStm g n fun s => { s with stallErr := true }).stmErr g n 0x27

/-- Issues the copy of one transfer of a spilled slot (R241). -/
def Channel.copyPart (ch : Channel) (g n : Nat) (p : SpillPart) (last : Bool) : Channel :=
  let l := ch.lan g
  let xid := l.td.nextXid
  let t : Xfer := { xid := xid, st := n, len := p.len, src := (p.lines.drop 1).map fun x => .dev (l.reserveAddr x),
                    dst := p.dst, dstEnd := last, copyBack := true, orig := some p.xid, ctx := l.stmCtx n }
  (ch.modTd g fun d => { d with nextXid := d.nextXid + 1, fq := d.fq ++ [t] }).xferSend g xid

/-- The oldest spilled slot of a stream is copied to its recorded lines: its pair's free slot is acquired, and as many of its
transfers as the fetch queue has room for are issued; the rest follow at a later step (R241). -/
def Channel.spillCopyBack (ch : Channel) (g n : Nat) : Channel :=
  let l := ch.lan g
  match l.spillsOf n with
  | [] => ch
  | s :: _ =>
    let todo := s.parts.filter fun p => !p.sent
    let now := todo.take (32 - l.td.fq.length)
    if now.isEmpty || !s.closed || (!s.copying && ch.bpSeen g s.bp false == 0)
        || s.parts.any (fun p => l.td.fq.any fun x => x.xid == p.xid) then ch
    else
      let ch := if s.copying then ch else ch.bpTake g s.bp false
      let ch := ch.modTd g fun t => { t with spills := t.spills.map fun x =>
        if x = s then { x with copying := true, parts := x.parts.map fun p => if now.contains p then { p with sent := true } else p }
        else x }
      (now.foldl (fun ch p => ch.copyPart g n p (todo.getLast? == some p)) ch).tdSync g

/-! ### Paging (R319) -/

/-- The halted streams whose fault lies on a page, in the keeper's order (R319). -/
def Channel.haltedOn (ch : Channel) (page : Nat) : List (Nat × Nat) :=
  (ch.lans.map fun gl => (((upto 16).filter fun n =>
    gl.2.stmState n == 3 && xltPage (gl.2.r F.TD_S_FAULT_ADDR_ADDR n) == page).map fun n => (gl.1, n))).flatten

/-- The host signals that a page is ready: at the basic level the keeper resumes the streams halted on it (R18, R319). -/
def Channel.pageReady (ch : Channel) (page : Nat) : Channel :=
  let vs := if ch.keepsStreams then ch.haltedOn page else []
  let ch := ch.modHbm fun h => { h with faults := h.faults.filter fun f => f.page != page }
  vs.foldl (fun ch v => ch.streamResume v.1 v.2) ch

/-- No ready signal within FAULT_TMO ticks: at the basic level the halted streams are aborted (R18, R238, R319). -/
def Channel.faultTimeout (ch : Channel) (page : Nat) : Channel :=
  match ch.hbm.faults.find? fun f => f.page == page with
  | none => ch
  | some f =>
    if ch.tick < f.tick + ch.r F.HM_XLT_CFG_FAULT_TMO then ch
    else
      let vs := if ch.keepsStreams then ch.haltedOn page else []
      let ch := ch.modHbm fun h => { h with faults := h.faults.filter fun f => f.page != page }
      vs.foldl (fun ch v => (ch.stmErr v.1 v.2 0x25).streamAbort v.1 v.2) ch

/-! ### Counters -/

/-- The counters of a tender that TD_CTRL.CLR_CNT clears beside those of its streams (R244). -/
def tdCounters : List Fld :=
  [F.TD_LINES_COUNT, F.TD_FQ_FULL_CY_COUNT, F.TD_REG_WAIT_CY_COUNT, F.TD_MERGE_CNT_COUNT, F.TD_SPILL_CNT_COUNT,
   F.TD_FAULT_CNT_COUNT, F.TD_REARM_OVW_CNT_COUNT, F.TD_LIST_ERR_CNT_COUNT]

/-- TD_CTRL.CLR_CNT (R244). -/
def Channel.tdClrCnt (ch : Channel) (g : Nat) : Channel :=
  ch.modLan g fun l =>
    { l with regs := (upto 16).foldl (fun r n => r.clear [F.TD_S_LINES_COUNT] n) (l.regs.clear tdCounters 0) }

end Sys2Proof.Machine
end

