-- ==== Sys2Proof/Machine/Blocks.lean ====
section
/-! DEFINITION. What the keeper moves through the memory controller: the blocks of weights that it loads from their HBM copies (R263,
R265), and the bytes that it writes to the stack (R301, R396, R436). -/

namespace Sys2Proof.Machine

/-- A resident block of the placement in force (R263): its lantern, the logical core that a pinned block is assigned to, its rotation
ring (0 for a pinned block), its first line, its lines, and the device address of its copy. -/
structure Resident where
  lan   : Nat
  core  : Nat
  ring  : Nat
  line  : Nat
  lines : Nat
  addr  : Nat
  deriving DecidableEq, Repr

/-- A block as table 1,025 of a placement gives it, in 16 bytes (log entry 24). -/
def Resident.parse (d : List (BitVec 8)) : Resident :=
  { lan := num d 0 2, core := num d 2 1, ring := num d 3 1, line := num d 4 2, lines := num d 6 2, addr := num d 8 8 }

/-- The blocks of the placement in force. -/
def Channel.blocks (ch : Channel) : List Resident :=
  ((chunks 16 (ch.ctx.tables.getD (ch.ctx.place * 65536 + 1025) [])).filter fun d => d.length == 16).map Resident.parse

/-- The blocks of a lantern, and the shares of the rotation rings to which it belongs. -/
def Channel.lanBlocks (ch : Channel) (g : Nat) : List Resident :=
  let rings := ((ch.blocks.filter fun b => b.lan == g).map (·.ring)).filter (· != 0)
  ch.blocks.filter fun b => b.lan == g || rings.contains b.ring

/-- The pinned blocks that the placement assigns to a logical core (R429). -/
def Channel.coreBlocks (ch : Channel) (g n : Nat) : List Resident :=
  ch.blocks.filter fun b => b.lan == g && b.core == n && b.ring == 0

/-- Source number of the keeper at the share gate (R303). -/
def keeperSrc : Nat := 100003

/-- The keeper reads the lines of blocks from their copies (R265, R301); each goes to its scratchpad line as it arrives. -/
def Channel.loadBlocks (ch : Channel) (bs : List Resident) : Channel :=
  bs.foldl (fun ch b => (upto b.lines).foldl (fun ch i =>
    (ch.modCtx fun x => { x with loads := x.loads ++ [(b.lan, b.line + i)] }).gatePush
      { cls := 0, line := devLine b.addr + i, dst := .reload b.lan (b.line + i), src := keeperSrc }) ch) ch

/-- A line of a copy has arrived: it is written through the fabric port of its lantern (R170). -/
def Channel.reloadLine (ch : Channel) (g line : Nat) (d : List (BitVec 8)) : Channel :=
  ch.modLan g (·.queueAcc 2 { line := line % 4096, wr := true, data := fitTo 64 0 d, mask := List.replicate 64 true,
                              dst := .reload, req := 130, firstOfWrite := true, lastOfWrite := true })

/-- A scratchpad line has been loaded. -/
def Channel.reloaded (ch : Channel) (g line : Nat) : Channel :=
  ch.modCtx fun x => { x with loads := x.loads.filter fun y => !(y.1 == g && y.2 % 4096 == line) }

/-- Loads into a lantern are under way. -/
def Channel.loading (ch : Channel) (g : Nat) : Bool := ch.ctx.loads.any fun x => x.1 == g

/-- The keeper writes bytes to the stack from a line-aligned offset, as class-1 requests (R301); `last` names the end of the last one,
`rest` of the others. -/
def Channel.keeperStore (ch : Channel) (o : Nat) (d : List (BitVec 8)) (rest last : HDst) : Channel :=
  let ps := chunks 64 d
  (ps.zip (upto ps.length)).foldl (fun ch p =>
    ch.gatePush { cls := 1, line := o / 64 + p.2, wr := true, data := fitTo 64 0 p.1,
                  mask := List.replicate p.1.length true ++ List.replicate (64 - p.1.length) false,
                  dst := if p.2 + 1 = ps.length then last else rest, src := keeperSrc }) ch

end Sys2Proof.Machine
end

