-- ==== Sys2Proof/Machine/LinkWire.lean ====
section
/-! DEFINITION. What a Chrobupra port puts on its lanes (R323 to R337): flit header, CRC, the two FECs, striping, scrambling,
marker blocks and training frame headers. -/

namespace Sys2Proof.Machine

/-! ### Flits (R333 to R335) -/

/-- The flit header word (R334). -/
def Flit.header (f : Flit) : Nat :=
  f.ftype % 4 + (f.vc % 4) <<< 2 + (f.cls % 2) <<< 4 + (b2n f.sop) <<< 5 + (b2n f.eop) <<< 6 + (f.vlen % 256) <<< 7
    + (f.seq % 4096) <<< 15 + (f.ack % 4096) <<< 27 + (b2n f.ackv) <<< 39 + (b2n f.nak) <<< 40 + (f.crVc % 4) <<< 41
    + (f.crCls % 2) <<< 43 + (f.crCnt % 256) <<< 44

/-- Reads bytes 0 to 231 of a flit (R333, R334). -/
def Flit.parse (b : List (BitVec 8)) : Flit :=
  let w := ofBytes (b.take 8)
  { ftype := bits w 1 0, vc := bits w 3 2, cls := bit w 4, sop := isSet w 5, eop := isSet w 6, vlen := bits w 14 7,
    seq := bits w 26 15, ack := bits w 38 27, ackv := isSet w 39, nak := isSet w 40, crVc := bits w 42 41,
    crCls := bit w 43, crCnt := bits w 51 44, body := (b.drop 8).take 224 }

/-- One bit of the CRC (R335). -/
def crcBit (c : Nat) (b : Bool) : Nat :=
  let top := Bool.xor (Nat.testBit c 63) b
  let c := (c * 2) % 2 ^ 64
  if top then c ^^^ 0x42F0E1EBA9EA3693 else c

/-- One byte of the CRC, most significant bit first (R335). -/
def crcByte (c : Nat) (b : BitVec 8) : Nat :=
  [7, 6, 5, 4, 3, 2, 1, 0].foldl (fun c i => crcBit c (Nat.testBit b.toNat i)) c

/-- The CRC of R335. -/
def crc64 (bs : List (BitVec 8)) : Nat := (bs.foldl crcByte (2 ^ 64 - 1)) ^^^ (2 ^ 64 - 1)

/-- Bytes 0 to 239 of a flit (R333). -/
def Flit.bytes (f : Flit) : List (BitVec 8) :=
  let b := toBytes 8 f.header ++ fitTo 224 0 f.body
  b ++ toBytes 8 (crc64 b)

/-- The CRC of a received flit is good (R338). -/
def crcGood (b : List (BitVec 8)) : Bool := ofBytes ((b.drop 232).take 8) == crc64 (b.take 232)

/-! ### The light FEC (R337) -/

/-- The 126 message symbols of code word `c`: bytes 0 to 251 whose index is `c` modulo 2. -/
def lightMsg (b : List (BitVec 8)) (c : Nat) : List Nat := (upto 126).map fun i => (b.getD (2 * i + c) 0).toNat

/-- Adds the FEC field of a flit under the light FEC. -/
def lightEncode (b240 : List (BitVec 8)) : List (BitVec 8) :=
  let b := b240 ++ List.replicate 12 0
  let p0 := rsLight.encode (lightMsg b 0)
  let p1 := rsLight.encode (lightMsg b 1)
  b ++ [BitVec.ofNat 8 (p0.getD 0 0), BitVec.ofNat 8 (p1.getD 0 0), BitVec.ofNat 8 (p0.getD 1 0), BitVec.ofNat 8 (p1.getD 1 0)]

/-- What an FEC decode gives: bytes 0 to 239 of each flit, the byte positions corrected (flit, byte), and the code words it
could not correct. -/
structure FecOut where
  flits : List (List (BitVec 8))
  fixed : List (Nat × Nat)
  bad   : Nat

/-- Decodes one flit of 256 bytes under the light FEC. -/
def lightDecode (b : List (BitVec 8)) : FecOut :=
  let word := fun c => lightMsg b c ++ [(b.getD (252 + c) 0).toNat, (b.getD (254 + c) 0).toNat]
  let dec := fun c => rsLight.decode (word c)
  let fix := fun (b : List (BitVec 8)) c => match dec c with
    | some es => es.foldl (fun b e => if e.1 < 126 then modAt b (2 * e.1 + c) (· ^^^ BitVec.ofNat 8 e.2) else b) b
    | none => b
  let pos := fun c => match dec c with
    | some es => es.map fun e => (0, if e.1 < 126 then 2 * e.1 + c else if e.1 = 126 then 252 + c else 254 + c)
    | none => []
  { flits := [(fix (fix b 0) 1).take 240], fixed := pos 0 ++ pos 1,
    bad := b2n (dec 0).isNone + b2n (dec 1).isNone }

/-! ### The RS FEC (R336) -/

/-- The bits of a byte string, each byte least significant bit first. -/
def bitsOf (b : List (BitVec 8)) : List Bool := (b.map fun x => (upto 8).map fun i => Nat.testBit x.toNat i).flatten

/-- A number from bits, the first bit lowest. -/
def natOfBits : List Bool → Nat
  | [] => 0
  | b :: bs => b2n b + 2 * natOfBits bs

/-- Bytes from bits. -/
def bytesOfBits (bs : List Bool) : List (BitVec 8) := (chunks 8 bs).map fun c => BitVec.ofNat 8 (natOfBits c)

/-- Entries of a list at even or odd positions. -/
def everyOther {α : Type} : Bool → List α → List α
  | _, [] => []
  | true, x :: xs => x :: everyOther false xs
  | false, _ :: xs => everyOther true xs

/-- Joins two lists entry by entry. -/
def interleave {α : Type} : List α → List α → List α
  | [], ys => ys
  | x :: xs, ys => match ys with
    | [] => x :: xs
    | y :: ys => x :: y :: interleave xs ys

/-- The message symbols of the two code words of a group (R336). -/
def rsMsg (group : List (List (BitVec 8))) : List Nat × List Nat :=
  let syms := (chunks 10 (bitsOf group.flatten ++ List.replicate 40 false)).map natOfBits
  (everyOther true syms, everyOther false syms)

/-- The bits of ten-bit symbols. -/
def symBits (ss : List Nat) : List Bool := (ss.map fun s => (upto 10).map fun i => Nat.testBit s i).flatten

/-- Adds the FEC fields of a group of five flits of 240 bytes (R336). -/
def rsEncode (group : List (List (BitVec 8))) : List (List (BitVec 8)) :=
  let (m0, m1) := rsMsg group
  let par := bytesOfBits (symBits (interleave (rsLink.encode m0) (rsLink.encode m1)) ++ List.replicate 40 false)
  (group.zip (chunks 16 par)).map fun (f, p) => f ++ p

/-- Decodes a group of five flits of 256 bytes (R336). A corrected symbol is placed at the byte that holds its first bit. -/
def rsDecode (group : List (List (BitVec 8))) : FecOut :=
  let msg := (group.map (·.take 240)).flatten
  let par := ((group.map fun f => (f.drop 240).take 16).flatten)
  let (m0, m1) := rsMsg (group.map (·.take 240))
  let ps := (chunks 10 ((bitsOf par).take 600)).map natOfBits
  let d0 := rsLink.decode (m0 ++ everyOther true ps)
  let d1 := rsLink.decode (m1 ++ everyOther false ps)
  let fix := fun (m : List Nat) (d : Option (List (Nat × Nat))) => match d with
    | some es => es.foldl (fun m e => modAt m e.1 (· ^^^ e.2)) m
    | none => m
  let out := bytesOfBits ((symBits (interleave (fix m0 d0) (fix m1 d1))).take (8 * msg.length))
  let place := fun (c : Nat) (e : Nat × Nat) =>
    if e.1 < 482 then let b := (10 * (2 * e.1 + c)) / 8; (min 4 (b / 240), b % 240)
    else let b := (10 * (2 * (e.1 - 482) + c)) / 8; (b / 16, 240 + b % 16)
  let pos := fun (c : Nat) (d : Option (List (Nat × Nat))) => match d with
    | some es => es.map (place c)
    | none => []
  { flits := chunks 240 out, fixed := pos 0 d0 ++ pos 1 d1, bad := b2n d0.isNone + b2n d1.isNone }

/-! ### Lanes (R323 to R327) -/

/-- One step of the scrambler: the output bit and the new state (R327). -/
def scrStep (s : Nat) : Bool × Nat :=
  let b := Bool.xor (Nat.testBit s 30) (Nat.testBit s 27)
  (b, (s * 2) % 2 ^ 31 + b2n b)

/-- Scrambles or descrambles one byte, least significant bit first (R326, R327). -/
def scrByte (s : Nat) (b : BitVec 8) : Nat × BitVec 8 :=
  let r := (upto 8).foldl (fun (r : Nat × Nat) i =>
    let (o, s) := scrStep r.1
    (s, r.2 + (b2n o) <<< i)) (s, 0)
  (r.1, b ^^^ BitVec.ofNat 8 r.2)

/-- Scrambles the bytes of one lane and slot. -/
def scrBytes : Nat → List (BitVec 8) → Nat × List (BitVec 8)
  | s, [] => (s, [])
  | s, b :: bs =>
    let (s, x) := scrByte s b
    let (s, xs) := scrBytes s bs
    (s, x :: xs)

/-- The seed of logical lane `k`, or of a lane that carries none under 4 (R327). -/
def scrSeed (k : Nat) : Nat := 0x2AAAAAA0 + k

/-- The bytes of a flit that logical lane `k` of `w` carries (R326, R330). -/
def laneShare (w k : Nat) (b : List (BitVec 8)) : List (BitVec 8) := (upto (256 / w)).map fun i => b.getD (w * i + k) 0

/-- A flit from its lanes' shares (R326, R330). -/
def laneJoin (w : Nat) (shares : List (List (BitVec 8))) : List (BitVec 8) :=
  (upto 256).map fun b => (shares.getD (b % w) []).getD (b / w) 0

/-- The marker block of a physical lane (R328). -/
def markerBlock (logical phys mcount rot : Nat) : List (BitVec 8) :=
  toBytes 8 0x4BD8270F953E6AC1 ++ toBytes 1 logical ++ toBytes 1 phys ++ toBytes 4 mcount ++ toBytes 1 rot
    ++ List.replicate 49 0

/-- PAM4 level of a bit pair (R323). -/
def pamLevel (a b : Bool) : Int :=
  match a, b with
  | false, false => -3
  | false, true => -1
  | true, true => 1
  | true, false => 3

/-- The levels of a bit string, in pairs (R323). -/
def pamLevels : List Bool → List Int
  | a :: b :: bs => pamLevel a b :: pamLevels bs
  | _ => []

/-- What the five transmit lanes of a port last carried, as levels on their pins (R323, R326). -/
def LPort.levels (p : LPort) : List (List (List Int)) := p.txOut.map fun slot => slot.map fun lane => pamLevels (bitsOf lane)

/-- A received training frame header (R329). -/
structure TrainHdr where
  phys : Nat
  step : Nat
  coefReq : Nat
  coefSt : Nat
  locked : Bool
  eq : Bool
  desk : Bool

/-- The 64 bytes of a training frame header (R329). -/
def TrainHdr.bytes (h : TrainHdr) : List (BitVec 8) :=
  toBytes 8 0x6E13C05BA7942DF8 ++ toBytes 1 h.phys ++ toBytes 1 h.step ++ toBytes 1 h.coefReq ++ toBytes 1 h.coefSt
    ++ toBytes 1 (b2n h.locked + b2n h.eq <<< 1 + b2n h.desk <<< 2) ++ List.replicate 51 0

/-- What arrives of bytes that were sent when the bits of `err` are changed on the way. -/
def noisy (sent err : List (BitVec 8)) : List (BitVec 8) := List.zipWith (· ^^^ ·) sent (fitTo sent.length 0 err)

/-- The oldest slot of a kind on the wires, and the wires without it: the five lanes of one training frame arrive in any order,
and nothing else overtakes (R32). -/
def takeWire (k : Nat) : List WireSlot → Option (List (List (BitVec 8)) × List WireSlot)
  | [] => none
  | x :: xs =>
    if x.kind = k then some (x.lanes, xs)
    else if x.kind < 5 ∧ k < 5 then (takeWire k xs).map fun r => (r.1, x :: r.2)
    else none

/-- Reads a training frame header, whose polarity may be inverted; the Bool says that it is (R325, R329). -/
def TrainHdr.parse (b : List (BitVec 8)) : Option (TrainHdr × Bool) :=
  let read := fun (b : List (BitVec 8)) =>
    let at_ := fun i => (b.getD i 0).toNat
    if ofBytes (b.take 8) = 0x6E13C05BA7942DF8 ∧ at_ 8 < 5 then
      some { phys := at_ 8, step := at_ 9, coefReq := at_ 10, coefSt := at_ 11, locked := isSet (at_ 12) 0,
             eq := isSet (at_ 12) 1, desk := isSet (at_ 12) 2 }
    else none
  match read b with
  | some h => some (h, false)
  | none => match read (b.map fun x => ~~~x) with
    | some (h : TrainHdr) => some (h, true)
    | none => none

end Sys2Proof.Machine
end

