-- ==== Sys2Proof/Machine/Link.lean ====
section
/-! DEFINITION. A Chrobupra port: training, slots, markers, flit reception, replay, credits and lane rotation (R323 to R346,
R364 to R366). -/

namespace Sys2Proof.Machine

/-- UNIT of a port (R418). -/
def Channel.portUnit (ch : Channel) (p : Nat) : Nat := unitWord ch.no 9 0 p 0

/-- Lanes that carry flits: 4, or 2 at width x2 (R330). -/
def Channel.width (ch : Channel) (p : Nat) : Nat := if ch.r F.LK_STAT_WIDTH p = 1 then 2 else 4

/-- STATE of a port (R367). -/
def Channel.lkState (ch : Channel) (p : Nat) : Nat := ch.r F.LK_STAT_STATE p

/-- The port uses the light FEC (R338). -/
def Channel.lightFec (ch : Channel) (p : Nat) : Bool := p != 2 || ch.r F.LK_CFG_FEC_SEL p == 1

/-- Entry `k` of a lane map (R367). -/
def mapLane (m k : Nat) : Nat := bits m (3 * k + 2) (3 * k)

/-- A lane map from the physical lanes of logical lanes 0, 1, … (R367). -/
def mapOf (ls : List Nat) : Nat := ((upto 4).zip ls).foldl (fun m (k, l) => m + l <<< (3 * k)) 0

/-- CH_INFO shows which ports are trained and carry traffic (R38). -/
def Channel.portsSync (ch : Channel) : Channel :=
  let up := fun p => b2n (ch.lkState p == 5)
  ((ch.w F.CH_INFO_P0_UP 0 (up 0)).w F.CH_INFO_P1_UP 0 (up 1)).w F.CH_INFO_P2_UP 0 (up 2)

/-! ### Training (R329 to R332, R341) -/

/-- Subtype of a LINK flit's body (R346). -/
def linkSub (b : List (BitVec 8)) : Nat := (b.headD 0).toNat

/-- A first training begins with empty buffers and new sequence numbers; a retrain keeps the replay buffer, the credits and the LINK
flits that wait or have been accepted, but for those of T4, which is run again, and of the rotation, which has ended (R341). -/
def LPort.afresh (q : LPort) : LPort :=
  if q.again then
    { q with linkQ := q.linkQ.filter (fun x => !([1, 2, 3, 5, 6].contains (linkSub x.1))),
             linkIn := q.linkIn.filter (fun b => !([1, 2, 3].contains (linkSub b))), replay := [] }
  else
    { q with seq := 0, held := [], acked := none, replay := [], linkQ := [], linkIn := [], exp := 0, any := false, got := false,
             nak := false, sendNak := false, asm := [], owed := [], leaving := [] }

/-- An attempt begins with T1 (R329, R330). -/
def Channel.trainStart (ch : Channel) (p : Nat) : Channel :=
  let ch := (ch.w F.LK_STAT_STATE p 1).w F.LK_STAT_FEC p (b2n (ch.lightFec p))
  let ch := (ch.w F.LK_STAT_ROT_LANE p 7).w F.LK_STAT_ROT_PHASE p 0
  (ch.modPort p fun q =>
    { q.afresh with wait := false, due := false, rxLock := [], rxEq := [], rxInv := [], rxDesk := false, peerLock := [],
                    peerEq := [], peerDesk := false, rxName := [], initIn := false, pongs := 0, latSum := 0, piece := 0,
                    frDesk := false, flits := false, slot := 0, mcount := 0, txGroup := [], rxGroup := [], txRot := 0,
                    txRotLane := 7, txPlan := [], rxPlan := [], missed := [] }).portsSync

/-- A port retrains: its replay buffer and credits stay (R341). -/
def Channel.retrain (ch : Channel) (p : Nat) : Channel :=
  let ch := ch.modPort p fun q => { q with again := true, tries := 0 }
  let ch := (ch.trainStart p).inc F.LK_RETRAIN_CNT_COUNT p 1
  ch.raise 0x82 (ch.portUnit p) none 0

/-- A case of R341 that the port has met is acted on. -/
def Channel.retrainDue (ch : Channel) (p : Nat) : Channel :=
  if (ch.lport p).due ∧ ch.lkState p = 5 then ch.retrain p else ch

/-- A packet that can no longer leave is discarded: its flits leave their buffers, its transfer is let go, and a request is answered
as one that has no route (R341, R359). -/
def Channel.dropOut (ch : Channel) (o : OutPkt) : Channel :=
  let ch := (ch.pktAccepted o.xfer).creditsBack o.p o.come.length
  if o.p.isReq then
    let ch := ch.noRoute o.p.ctx
    let a := o.p.answer ch.node 4
    if o.transit then ch.sendAnswer a else ch.arrive a
  else ch

/-- What is left of a transit packet at an egress port is discarded (R348). -/
def Channel.passCut (ch : Channel) (pid e : Nat) : Channel :=
  let mine := fun (o : OutPkt) => o.pid == some pid
  let q := ch.lport e
  let os := (q.leaving.map fun l => l.2.o) ++ (upto 4).flatMap fun vc => ch.link.egress.getD (4 * e + vc) []
  let ch := ch.modPort e fun q => { q with leaving := q.leaving.filter fun l => !mine l.2.o }
  let eg := (upto 4).foldl (fun (m : SMap (List OutPkt)) vc =>
    if (m.getD (4 * e + vc) []).any mine then m.put (4 * e + vc) ((m.getD (4 * e + vc) []).filter fun o => !mine o) else m)
    ch.link.egress
  (os.filter mine).foldl (fun ch o => ch.creditsBack o.p o.come.length) { ch with link := { ch.link with egress := eg } }

/-- The packets that were coming in by a port have lost their rest: one that is passing through is discarded where it waits, and a
place reserved in a FIFO is given up. -/
def Channel.asmLost (ch : Channel) (a : Asm) : Channel :=
  let ch := match a.way with
    | .passing pid e => ch.passCut pid e
    | _ => ch
  match a.resv with
  | some (n, pid) => if n < 32 then ch.fifoDrop n pid else ch
  | none => ch

/-- A port goes down (R330, R341): its replay buffer and the packets waiting for its egress are discarded. -/
def Channel.portDown (ch : Channel) (p : Nat) : Channel :=
  let q := ch.lport p
  let ch := ch.modPort p fun q =>
    { q with again := false, wait := false, held := [], replay := [], leaving := [], asm := [], acked := none }
  let ch := ((ch.w F.LK_STAT_STATE p 0).w F.LK_STAT_DOWN_EV p 1).portsSync
  let ch := ch.raise 0x80 (ch.portUnit p) none 0
  let ch := q.asm.foldl (fun ch a => ch.asmLost a.2) ch
  let os := (q.leaving.map fun l => l.2.o) ++ (upto 4).flatMap fun vc => ch.link.egress.getD (4 * p + vc) []
  let eg := (upto 4).foldl (fun (m : SMap (List OutPkt)) vc => m.del (4 * p + vc)) ch.link.egress
  os.foldl Channel.dropOut { ch with link := { ch.link with egress := eg } }

/-- An attempt has failed: 10 ms later the port tries again, and after the third failure it is down (R330). -/
def Channel.attemptFails (ch : Channel) (p : Nat) : Channel :=
  let q := ch.lport p
  if 3 ≤ q.tries + 1 then (ch.modPort p fun q => { q with tries := 0 }).portDown p
  else (ch.modPort p fun q => { q with tries := q.tries + 1, wait := true }).w F.LK_STAT_STATE p 0

/-- Ten milliseconds after a failed attempt (R330). -/
def Channel.linkRetry (ch : Channel) (p : Nat) : Channel := if (ch.lport p).wait then ch.trainStart p else ch

/-- LK_CTRL.RETRAIN retrains a port, or retries one that is down (R330, R341); an unused P2 port stays in reset (R33). -/
def Channel.lkRetrain (ch : Channel) (p : Nat) : Channel :=
  if ch.lkState p = 5 then ch.retrain p
  else if ch.lkState p = 0 ∧ !(ch.lport p).wait ∧ !(p == 2 && ch.p2Off) then (ch.modPort p fun q => { q with tries := 0 }).trainStart p
  else ch

/-- Tap `i` after a request, and the answer: 1 increments, 2 decrements, and a tap at its limit stays (R329). -/
def tapStep (i : Nat) (v : Int) (r : Nat) : Int × Nat :=
  if r = 1 then if (Config.ffeRange i).2 ≤ v then (v, 2) else (v + 1, 1)
  else if r = 2 then if v ≤ (Config.ffeRange i).1 then (v, 2) else (v - 1, 1)
  else (v, 0)

/-- Applies a coefficient request to a lane's transmitter, and keeps the answer (R329, R364). -/
def LPort.coef (q : LPort) (lane req : Nat) : LPort :=
  let (a, b, c) := q.taps.getD lane (0, 0, 0)
  let x := tapStep 0 a (bits req 1 0)
  let y := tapStep 1 b (bits req 3 2)
  let z := tapStep 2 c (bits req 5 4)
  { q with taps := q.taps.put lane (x.1, y.1, z.1), coefSt := q.coefSt.put lane (x.2 + y.2 <<< 2 + z.2 <<< 4) }

/-- A free request for the taps of a transmitter (R329, R364): each field 0 to 2 (log entry 118). -/
def coefReqOf (x : Nat) : Nat :=
  let f := fun v => if v = 3 then 0 else v
  f (bits x 1 0) + f (bits x 3 2) <<< 2 + f (bits x 5 4) <<< 4

/-- Adds a lane to a list once. -/
def addLane (n : Nat) (xs : List Nat) : List Nat := if xs.contains n then xs else n :: xs

/-- A receiver takes a training frame on physical lane `lane`: it locks the lane, and acts on the header (R329). `eq` and
`desk` say that its own equalisation of the lane and its deskew are done. -/
def Channel.trainingFrame (ch : Channel) (p lane : Nat) (hdr : List (BitVec 8)) (eq desk : Bool) : Channel :=
  let st := ch.lkState p
  if st = 0 ∨ 4 ≤ st ∨ 5 ≤ lane ∨ (ch.lport p).rxLost.contains lane then ch
  else match TrainHdr.parse hdr with
    | none => ch
    | some (h, inv) =>
      ch.modPort p fun q =>
        let q := { q with rxLock := addLane lane q.rxLock, rxName := q.rxName.put lane h.phys }
        let q := if inv then { q with rxInv := addLane lane q.rxInv } else q
        let q := if eq ∧ 2 ≤ st then { q with rxEq := addLane lane q.rxEq } else q
        let q := if desk ∧ 3 ≤ st then { q with rxDesk := true } else q
        let q := if h.locked then { q with peerLock := addLane h.phys q.peerLock } else q
        let q := if h.eq then { q with peerEq := addLane h.phys q.peerEq } else q
        let q := if h.desk then { q with peerDesk := true } else q
        if st = 2 ∧ h.coefReq ≠ 0 then q.coef h.phys h.coefReq else q

/-- The lane maps that follow from the good lanes (R330), or none when fewer than two are good in a direction. -/
def Channel.buildMaps (ch : Channel) (p : Nat) : Option Channel :=
  let q := ch.lport p
  let tx := (upto 5).filter fun n => q.peerEq.contains n
  let rx := (upto 5).filter fun n => q.rxEq.contains n && !q.rxLost.contains n
  if tx.length < 2 ∨ rx.length < 2 then none
  else
    let narrow := tx.length < 4 || rx.length < 4
    let k := if narrow then 2 else 4
    let out := fun (ls : List Nat) => (upto 5).foldl (fun m n => if ls.contains n then m else m + 2 ^ n) 0
    let ch := (ch.w F.LK_LANEMAP_TX_MAP p (mapOf (tx.take k))).w F.LK_LANEMAP_RX_MAP p (mapOf (rx.take k))
    let ch := (ch.w F.LK_LANEMAP_TX_RETIRED p (out tx)).w F.LK_LANEMAP_RX_RETIRED p (out rx)
    some ((ch.w F.LK_STAT_WIDTH p (b2n narrow)).w F.LK_STAT_SPARE p (b2n (decide (5 ≤ rx.length))))

/-- Credits the device advertises, by 2 × VC + class (R342). -/
def advertised (p : Nat) : List Nat :=
  let c1 := fun n => if p = 2 then 0 else n
  [64, c1 64, 128, c1 128, 256, c1 256, 16, 0]

/-- The body of the port's INIT (R346). -/
def Channel.initBody (ch : Channel) (p : Nat) : List (BitVec 8) :=
  let q := ch.lport p
  let last := (q.exp + 4095) % 4096
  toBytes 1 1 ++ toBytes 1 1 ++ toBytes 3 ch.node
    ++ toBytes 1 (p + b2n (ch.lightFec p) <<< 2 + ch.r F.LK_STAT_WIDTH p <<< 3) ++ toBytes 2 512
    ++ ((advertised p).map (toBytes 2)).flatten ++ List.replicate 16 0
    ++ toBytes 2 (if q.got then last + 0x8000 else 0)

/-- T4 begins: INIT waits to be sent before any other LINK flit, and markers count from 0 (R328, R329). -/
def Channel.enterT4 (ch : Channel) (p : Nat) : Channel :=
  let init := ch.initBody p
  (ch.w F.LK_STAT_STATE p 4).modPort p fun q =>
    { q with linkQ := (init, 0, 0) :: q.linkQ, any := false, mcount := 0, flits := true, slot := if q.flits then q.slot else 4095 }

/-- Both ends report what a step needs, on every lane the step names (R329). -/
def LPort.stepEnds (q : LPort) (st : Nat) : Bool :=
  match st with
  | 1 => !q.rxLock.isEmpty && !q.peerLock.isEmpty && q.peerLock.length == q.rxLock.length
  | 2 => !q.rxEq.isEmpty && q.rxLock.all q.rxEq.contains && q.peerLock.all q.peerEq.contains
  | 3 => q.rxDesk && q.peerDesk
  | _ => q.initIn && decide (64 ≤ q.pongs)

/-- A step's end condition is met, or its timeout lets it go on with the good lanes (R329, R330). -/
def Channel.trainNext (ch : Channel) (p : Nat) : Channel :=
  match ch.lkState p with
  | 1 => ch.w F.LK_STAT_STATE p 2
  | 2 => match ch.buildMaps p with
    | some ch => ch.w F.LK_STAT_STATE p 3
    | none => ch.attemptFails p
  | 3 => ch.enterT4 p
  | 4 =>
    let q := ch.lport p
    let ch := ch.w F.LK_LAT_LAT p (q.latSum / 8)
    let ch := ch.modPort p fun q => { q with tries := 0, again := false }
    (ch.w F.LK_STAT_STATE p 5).portsSync
  | _ => ch

/-- LINK_TRAIN_STEP_DONE (R329). -/
def Channel.trainStepDone (ch : Channel) (p : Nat) : Channel :=
  let st := ch.lkState p
  if 1 ≤ st ∧ st ≤ 4 ∧ (ch.lport p).stepEnds st then ch.trainNext p else ch

/-- A step times out (R329, R330): lanes that failed T1 or T2 are excluded, and the attempt goes on with two or more. -/
def Channel.trainTimeout (ch : Channel) (p : Nat) : Channel :=
  let q := ch.lport p
  match ch.lkState p with
  | 1 => if 2 ≤ q.rxLock.length ∧ 2 ≤ q.peerLock.length then ch.trainNext p else ch.attemptFails p
  | 2 => if 2 ≤ q.rxEq.length ∧ 2 ≤ q.peerEq.length then ch.trainNext p else ch.attemptFails p
  | 3 => ch.attemptFails p
  | 4 => ch.attemptFails p
  | _ => ch

/-! ### Lanes in use (R326, R327, R365) -/

/-- The good lane of a direction that carries no logical lane (R324). -/
def spareOf (map retired w : Nat) : Option Nat :=
  (upto 5).find? fun n => !isSet retired n && !((upto w).any fun k => mapLane map k == n)

/-- The logical lane that a physical transmit lane carries now, if any (R324, R365). -/
def Channel.txCarries (ch : Channel) (p n : Nat) : Option Nat :=
  let q := ch.lport p
  let map := ch.r F.LK_LANEMAP_TX_MAP p
  let w := ch.width p
  let base := fun n => (upto w).find? fun k => mapLane map k == n
  let spare := spareOf map (ch.r F.LK_LANEMAP_TX_RETIRED p) w
  if q.txRot = 0 ∨ q.txRot = 4 then base n
  else if spare = some n then base q.txRotLane
  else if q.txRot = 2 ∧ n = q.txRotLane then none
  else base n

/-- The physical lane from which the receiver takes a logical lane (R365). -/
def Channel.rxFrom (ch : Channel) (p k : Nat) : Nat :=
  let map := ch.r F.LK_LANEMAP_RX_MAP p
  let lane := mapLane map k
  let ph := ch.r F.LK_STAT_ROT_PHASE p
  if (ph = 2 ∨ ph = 3) ∧ ch.r F.LK_STAT_ROT_LANE p = lane then
    (spareOf map (ch.r F.LK_LANEMAP_RX_RETIRED p) (ch.width p)).getD lane
  else lane

/-- The slot's bytes on the five physical lanes, scrambled (R326, R327, R365). -/
def Channel.putLanes (ch : Channel) (p : Nat) (flit : List (BitVec 8)) : Channel :=
  let w := ch.width p
  let q := ch.lport p
  let outs := (upto 5).map fun n =>
    let plain := match ch.txCarries p n with
      | some k => laneShare w k flit
      | none => List.replicate (256 / w) 0
    scrBytes (q.txScr.getD n 0) plain
  ch.modPort p fun q =>
    { q with txScr := outs.map (·.1), txOut := q.txOut ++ [outs.map (·.2)],
             wire := if p = 2 then [] else q.wire ++ [{ kind := 6, lanes := outs.map (·.2) }] }

/-- A flit of 240 bytes goes to the lanes: with the light FEC at once, with RS when its group of five is complete (R336,
R337). -/
def Channel.putFlit (ch : Channel) (p : Nat) (b : List (BitVec 8)) : Channel :=
  let ch := ch.modPort p fun q => { q with slot := q.slot + 1 }
  if ch.lightFec p then (ch.modPort p fun q => { q with txOut := [] }).putLanes p (lightEncode b)
  else
    let g := (ch.lport p).txGroup ++ [b]
    if g.length < 5 then ch.modPort p fun q => { q with txGroup := g }
    else (rsEncode g).foldl (fun ch f => ch.putLanes p f) (ch.modPort p fun q => { q with txGroup := [], txOut := [] })

/-- The transmit direction enters the phases that begin at marker `m` or before it (R365). -/
def LPort.txPhase (q : LPort) (m : Nat) : LPort :=
  match q.txPlan with
  | s :: rest =>
    if s.at_ ≤ m then { q with txRot := if s.phase = 4 then 0 else s.phase, txRotLane := s.lane, txPlan := rest } else q
  | [] => q

/-- After 4,095 flit slots each lane sends a marker block, and its scrambler is loaded for the slots that follow (R327,
R328). A rotation phase that names this marker begins with it (R365). -/
def Channel.markerSend (ch : Channel) (p : Nat) : Channel :=
  if ch.lkState p < 3 ∨ !(ch.lport p).flits ∨ (ch.lport p).slot < 4095 then ch
  else
    let ch := ch.modPort p fun q => q.txPhase q.mcount
    let q := ch.lport p
    let carries := fun n => ch.txCarries p n
    let out := (upto 5).map fun n =>
      markerBlock ((carries n).getD 0x0F) n q.mcount (if n = q.txRotLane then q.txRot else 0)
    let scr := (upto 5).map fun n => scrSeed ((carries n).getD 4)
    ch.modPort p fun q =>
      { q with slot := 0, mcount := (q.mcount + 1) % 2 ^ 32, txScr := scr, txOut := [out],
               wire := if p = 2 then [] else q.wire ++ [{ kind := 5, lanes := out }] }

/-- One slot of a training frame, 64 bytes on each physical lane (R329): its header reports what the receiver has reached, answers
the peer's last request and in T2 makes one of its own for a lane that is not yet equalised; 63 slots of scrambled zeros follow.
The transmitter goes over to flit slots when a frame of T3 has carried its DESKEW_DONE, beginning with a marker (log entry 117). -/
def Channel.trainSlot (ch : Channel) (p : Nat) : Channel :=
  let q := ch.lport p
  let st := ch.lkState p
  if q.piece = 0 then
    let (x, ch) := ch.freeVal 30
    let hdr := fun n => TrainHdr.bytes
      { phys := n, step := st, coefReq := if st = 2 ∧ ¬ q.rxEq.contains n then coefReqOf (bits x (6 * n + 5) (6 * n)) else 0,
        coefSt := q.coefSt.getD n 0, locked := q.rxLock.contains n, eq := q.rxEq.contains n, desk := q.rxDesk }
    let out := (upto 5).map hdr
    ch.modPort p fun q =>
      { q with piece := 1, frDesk := q.rxDesk && st == 3, txScr := List.replicate 5 (scrSeed 4), txOut := [out],
               wire := if p = 2 then [] else q.wire ++ (upto 5).map fun n => { kind := n, lanes := [hdr n] } }
  else
    let outs := (upto 5).map fun n => scrBytes (q.txScr.getD n 0) (List.replicate 64 0)
    let done := decide (63 ≤ q.piece)
    let go := done && q.frDesk && st == 3
    ch.modPort p fun q =>
      { q with piece := if done then 0 else q.piece + 1, txScr := outs.map (·.1), txOut := [outs.map (·.2)],
               flits := go, slot := if go then 4095 else q.slot }

/-! ### What a slot sends (R339 to R345) -/

/-- The next source in rotation that has a packet in this class: 3 local, else the ingress port (R345). -/
def OutPkt.source (o : OutPkt) : Nat :=
  if o.transit then match o.p.via with
    | some (q, _, _) => q
    | none => 3
  else 3

/-- The next packet of a VC and class at a port, in rotation from the sources, and the queue without it (R345). -/
def nextOut (last cls : Nat) (os : List OutPkt) : Option (OutPkt × List OutPkt) :=
  let turn := (upto 4).map fun i => (last + 1 + i) % 4
  match turn.findSome? fun s => os.find? fun o => o.cls == cls && o.source == s with
  | none => none
  | some o => some (o, os.erase o)

/-- The 32-byte header and the payload of a packet (R347). -/
def Packet.bytes (p : Packet) : List (BitVec 8) :=
  toBytes 4 (p.dst % 2 ^ 20 + (p.ptype % 256) <<< 20 + (p.hops % 16) <<< 28) ++ toBytes 4 (p.src % 2 ^ 20)
    ++ toBytes 2 p.len ++ toBytes 2 p.tag ++ toBytes 2 p.ctx ++ toBytes 1 p.status ++ toBytes 1 p.flags
    ++ toBytes 8 p.arg0 ++ toBytes 8 p.arg1 ++ fitTo p.payload 0 p.data

/-- A flit of a packet is there to be sent: of a transit packet, one that has come in (R345). -/
def OutPkt.ready (o : OutPkt) : Bool := o.pid.isNone || !o.come.isEmpty

/-- A VC and class has a flit to send and a credit for it (R343). -/
def Channel.canSend (ch : Channel) (p vc cls : Nat) : Bool :=
  let q := ch.lport p
  let key := 2 * vc + cls
  decide (0 < q.credit.getD key 0)
    && match q.leaving.find key with
      | some l => l.o.ready
      | none => (ch.link.egress.getD (4 * p + vc) []).any fun o => o.cls == cls

/-- A VC requests the egress: 0 to 2, and VC 3 as the emergency source (R170, R345). -/
def Channel.vcAsks (ch : Channel) (p vc : Nat) : Bool :=
  ch.lkState p == 5 && vc < 4 && (ch.canSend p vc 0 || ch.canSend p vc 1)

/-- The ACK, NAK and credit fields that the next flit carries (R339, R340, R343). -/
def Channel.stamp (ch : Channel) (p : Nat) (f : Flit) : Channel × Flit :=
  let q := ch.lport p
  let f := { f with ack := if q.any then (q.exp + 4095) % 4096 else 0, ackv := q.any, nak := q.sendNak }
  let ch := ch.modPort p fun q => { q with sendNak := false }
  if f.ftype = 0 then (ch, f)
  else match (ch.lport p).owed.find? fun e => e.2 != 0 with
    | none => (ch, f)
    | some (key, n) =>
      let k := min n 255
      (ch.modPort p fun q => { q with owed := q.owed.put key (n - k), owedFor := 0 },
       { f with crVc := key / 2, crCls := key % 2, crCnt := k })

/-- Sends a new DATA or LINK flit: it takes the next SEQ and is held until an ACK covers it (R339). -/
def Channel.sendNew (ch : Channel) (p : Nat) (f : Flit) : Channel :=
  let (ch, f) := ch.stamp p { f with seq := (ch.lport p).seq }
  (ch.modPort p fun q => { q with seq := (q.seq + 1) % 4096, held := q.held ++ [(f, 1)] }).putFlit p f.bytes

/-- The body of a waiting LINK flit as it leaves: a PING takes its time, a PONG its HOLD (R346). -/
def linkBody (b : List (BitVec 8)) (now from_ : Nat) : List (BitVec 8) :=
  let b := fitTo 224 0 b
  if b.headD 0 = 2 then b.take 8 ++ toBytes 8 now ++ b.drop 16
  else if b.headD 0 = 3 then b.take 16 ++ toBytes 4 (now - from_) ++ b.drop 20
  else b

/-- Sends a waiting LINK flit (R339, R346). -/
def Channel.sendLink (ch : Channel) (p now : Nat) : Channel :=
  match (ch.lport p).linkQ with
  | [] => ch
  | (b, _, from_) :: rest =>
    let ch := ch.modPort p fun q => { q with linkQ := rest }
    ch.sendNew p { ftype := 2, vlen := 224, body := linkBody b now from_ }

/-- The body of the next flit of a packet that leaves, whether it is the last, and what is left of the packet. A transit packet's
flits leave as they have come, but for the header with HOPS decremented (R345, R347, R357). -/
def Leaving.next (l : Leaving) : List (BitVec 8) × Bool × Leaving :=
  match l.o.pid, l.o.come with
  | some _, (b, e) :: more =>
    (if l.first then l.o.p.bytes.take 32 ++ b.drop 32 else b, e, { l with o := { l.o with come := more }, first := false })
  | _, _ =>
    let rest := l.rest.drop 224
    (l.rest.take 224, rest.isEmpty, { l with rest := rest, first := false })

/-- Sends one DATA flit of a VC (R343 to R345). The flit of a transit packet leaves its receive buffer. -/
def Channel.sendData (ch : Channel) (p vc : Nat) : Channel :=
  let cls := if ch.canSend p vc 0 then 0 else 1
  let key := 2 * vc + cls
  let q := ch.lport p
  let (ch, cur) := match q.leaving.find key with
    | some l => (ch, some l)
    | none => match nextOut (q.turn.getD key 3) cls (ch.link.egress.getD (4 * p + vc) []) with
      | none => (ch, none)
      | some (o, rest) =>
        (({ ch with link := { ch.link with egress := ch.link.egress.put (4 * p + vc) rest } }).modPort p fun q =>
          { q with turn := q.turn.put key o.source }, some { o := o, rest := o.p.bytes })
  match cur with
  | none => ch
  | some l =>
    let (body, eop, left) := l.next
    let ch := ch.modPort p fun q =>
      { q with credit := q.credit.put key (q.credit.getD key 0 - 1),
               leaving := if eop then q.leaving.del key else q.leaving.put key left }
    let ch := (ch.inc F.LK_FLITS_TX_COUNT p 1).sendNew p
      { ftype := 1, vc := vc, cls := cls, sop := l.first, eop := eop, vlen := body.length, body := body }
    let ch := if l.o.pid.isSome then ch.creditsBack l.o.p 1 else ch
    if eop then ch.pktAccepted l.o.xfer else ch

/-- One slot (R345), or of a training frame in T1 to T3 (R329). `now` is the port's timebase count, which PING and PONG carry. -/
def Channel.flitSlot (ch : Channel) (p now : Nat) : Channel :=
  let st := ch.lkState p
  let q := ch.lport p
  if st = 0 then ch
  else if !q.flits then ch.trainSlot p
  else if 4095 ≤ q.slot then ch.markerSend p
  else
    let owing := q.owed.any fun e => e.2 != 0
    let ch := ch.modPort p fun q =>
      { q with linkQ := q.linkQ.map (fun x => (x.1, x.2.1 + 1, x.2.2)), owedFor := if owing then q.owedFor + 1 else 0,
               nakFor := if q.nak then q.nakFor + 1 else 0 }
    let replay := q.replay.filter fun s => q.held.any fun h => h.1.seq == s
    let ready := decide (q.held.length < 512)
    let null := fun (ch : Channel) =>
      let (ch, f) := ch.stamp p {}
      ch.putFlit p f.bytes
    let other := fun (ch : Channel) => if ready && !q.linkQ.isEmpty && 4 ≤ st then ch.sendLink p now else null ch
    if 4 ≤ st then
      match replay with
      | s :: rest =>
        match q.held.find? fun h => h.1.seq == s with
        | none => ch
        | some (f, n) =>
          let f := { f with ack := if q.any then (q.exp + 4095) % 4096 else 0, ackv := q.any, nak := q.sendNak }
          let lim := ch.eff F.LK_REPLAY_CFG_REPLAY_LIM p
          (ch.modPort p fun q =>
            { q with replay := rest, sendNak := false, due := q.due || decide (lim ≤ n + 1),
                     held := q.held.map fun h => if h.1.seq = s then (f, n + 1) else h }).putFlit p f.bytes
      | [] =>
        let ch := ch.modPort p fun q => { q with replay := [] }
        if st = 4 then other ch
        else if ready && (q.linkQ.any fun x => decide (16 ≤ x.2.1)) then ch.sendLink p now
        else
          let ch := ch.modPort p fun q => { q with open_ := ready }
          match q.arb.owner with
          | some vc =>
            if ready && ch.vcAsks p vc then
              (ch.sendData p vc).modPort p fun q => { q with arb := q.arb.beat }
            else other ch
          | none => other ch
    else other ch

/-- The egress arbiter decides (R164 to R170); only slots that could carry DATA count (R345). -/
def Channel.portDecide (ch : Channel) (p : Nat) : Channel :=
  let q := ch.lport p
  if !q.open_ then ch
  else
    let (arb, note) := q.arb.decide (lkArb.cfg ch.regs p) (ch.vcAsks p)
    let ch := { ch with regs := lkArb.note ch.regs p p note }
    let ch := ch.modPort p fun q => { q with arb := arb, open_ := false }
    if note.cut.isSome then ch.raiseOnce (onceKey 0x0E (20000 + p)) 0x0E (ch.portUnit p) none 0 else ch

/-! ### Reception (R338 to R340, R348) -/

/-- The body of a CREDIT flit with every credit that waits (R346). -/
def LPort.creditBody (q : LPort) : List (BitVec 8) :=
  toBytes 8 4 ++ ((upto 8).map fun k => toBytes 2 (min (q.owed.getD k 0) 65535)).flatten

/-- Credits waited 32 slots, or 16 have gathered: a CREDIT flit is queued (R343). -/
def Channel.creditTimeout (ch : Channel) (p : Nat) : Channel :=
  let q := ch.lport p
  let sum : Nat := q.owed.foldl (fun n (e : Nat × Nat) => n + e.2) 0
  if ch.lkState p = 5 ∧ 0 < sum ∧ (16 ≤ sum ∨ 32 ≤ q.owedFor) then
    ch.modPort p fun q => { q with linkQ := q.linkQ ++ [(q.creditBody, 0, 0)], owed := [], owedFor := 0 }
  else ch

/-- Credits come back (R343). -/
def Channel.creditIn (ch : Channel) (p key n : Nat) : Channel :=
  if n = 0 then ch else ch.modPort p fun q => { q with credit := q.credit.put key (q.credit.getD key 0 + n) }

/-- An ACK covers the held flits up to its SEQ; a value outside the held window causes a retrain (R339, R340). -/
def Channel.ackIn (ch : Channel) (p ack : Nat) : Channel :=
  let q := ch.lport p
  if q.acked = some ack ∧ !(q.held.any fun h => h.1.seq == ack) then ch
  else match findIdx (fun (h : Flit × Nat) => h.1.seq == ack) q.held with
    | none => ch.modPort p fun q => { q with due := true }
    | some i => ch.modPort p fun q =>
        { q with acked := some ack, held := q.held.drop (i + 1) }

/-- A NAK: every held flit after ACK is sent again (R340). -/
def Channel.nakIn (ch : Channel) (p : Nat) : Channel :=
  (ch.modPort p fun q => { q with replay := q.held.map fun h => h.1.seq }).inc F.LK_REPLAY_CNT_COUNT p 1

/-- A flit has failed (R340). -/
def Channel.flitFails (ch : Channel) (p : Nat) : Channel :=
  (ch.inc F.LK_CRC_ERR_CNT_COUNT p 1).modPort p fun q => { q with nak := true, sendNak := true, nakFor := 0 }

/-- The expected SEQ has not come within NAK_TMO slots (R340). -/
def Channel.nakTimeout (ch : Channel) (p : Nat) : Channel :=
  let q := ch.lport p
  if q.nak ∧ ch.eff F.LK_REPLAY_CFG_NAK_TMO p ≤ q.nakFor then
    ch.modPort p fun q => { q with sendNak := true, nakFor := 0 }
  else ch

/-- Reads a packet from its bytes (R347). -/
def Packet.parse (b : List (BitVec 8)) : Packet :=
  let at_ := fun o n => ofBytes ((b.drop o).take n)
  let w := at_ 0 4
  { ptype := bits w 27 20, dst := bits w 19 0, hops := bits w 31 28, src := bits (at_ 4 4) 19 0, len := at_ 8 2,
    tag := at_ 10 2, ctx := bits (at_ 12 2) 13 0, status := at_ 14 1, flags := at_ 15 1, arg0 := at_ 16 8,
    arg1 := at_ 24 8, data := b.drop 32 }

/-- LEN is in the range of the packet's type (R348). -/
def Packet.lenOk (p : Packet) : Bool :=
  if p.ptype = 1 ∨ p.ptype = 2 ∨ p.ptype = 0x10 ∨ p.ptype = 0x11 then decide (1 ≤ p.len) && decide (p.len ≤ 16384)
  else if p.ptype = 3 then if p.status < 2 then decide (1 ≤ p.len) && decide (p.len ≤ 16384) else p.len == 0
  else p.len == 0

/-- Flits of a packet (R347). -/
def Packet.flits (p : Packet) : Nat :=
  if p.payload ≤ 192 then 1 else 1 + ceilDiv (p.payload - 192) 224

/-- VLEN of a packet's last flit (R347). -/
def Packet.lastVlen (p : Packet) : Nat :=
  if p.payload ≤ 192 then 32 + p.payload else (p.payload - 193) % 224 + 1

/-- The `n`-th flit of a packet disagrees with its LEN: it ends the packet early or late, or its VLEN as the last one is wrong
(R348). -/
def Packet.badFlit (p : Packet) (n vlen : Nat) (eop : Bool) : Bool :=
  eop != (n == p.flits) || (eop && vlen != p.lastVlen)

/-- A packet's header is invalid at the node that receives it (R348, R353, R360). -/
def Channel.badPacket (ch : Channel) (p : Packet) (vc : Nat) : Bool :=
  ptypeVc p.ptype != some vc || !p.lenOk
    || (p.dst / 16 == 0xFFFF && vc != 3) || (p.dst / 16 != 0xFFFF && vc == 3)
    || (p.isReq && p.arg0 % 64 != 0)
    || (p.ptype == 0x10 && p.dst == ch.node && decide (32 ≤ p.arg0 % 256))

/-- An invalid packet is counted and dropped, and a request is answered with STATUS 6 (R348). -/
def Channel.packetBad (ch : Channel) (p : Packet) : Channel :=
  let ch := ch.inc F.LK_BADPKT_CNT_COUNT 0 1
  if p.isReq then ch.sendAnswer (p.answer ch.node 6) else ch

/-- The packet ends at this node: it is addressed to it, or to every module (R34, R353). -/
def Channel.isHere (ch : Channel) (p : Packet) : Bool := p.dst == ch.node || p.dst / 16 == 0xFFFF

/-- A whole packet has come in for this node; one that its FIFO dropped ends here (R360). -/
def Channel.packetIn (ch : Channel) (p : Packet) : Channel :=
  if p.resv = some (32, 0) then ch.creditBack p else ch.arrive p

/-- What a port knows of the packet that comes in on a VC and class, after a flit: nothing once the packet has ended. -/
def Channel.asmPut (ch : Channel) (p key : Nat) (a : Asm) (eop : Bool) : Channel :=
  ch.modPort p fun q => { q with asm := if eop then q.asm.del key else q.asm.put key a }

/-- The first flit of a FIFO_DATA packet for this node reserves its place; 32 stands for a packet that found none (R360). -/
def Channel.reserveIn (ch : Channel) (h : Packet) : Channel × Option (Nat × Nat) :=
  if h.ptype = 0x10 then
    let pid := ch.link.nextPid + 1
    let (ch, ok) := ch.fifoReserve (h.arg0 % 256) pid h.len
    ({ ch with link := { ch.link with nextPid := pid } }, some (if ok then (h.arg0 % 256, pid) else (32, 0)))
  else (ch, none)

/-- The first flit of a packet: an invalid packet is dropped, one for this node is put together, and any other is a transit
packet, which may leave before it has come in whole (R34, R345, R348). Every flit but a packet's last leaves its receive buffer
as it joins the packet, and that of a transit packet as it leaves by its egress (R343, log entry 116). -/
def Channel.firstFlit (ch : Channel) (p key : Nat) (f : Flit) (part : List (BitVec 8)) : Channel :=
  let h := { Packet.parse part with via := some (p, key, 1) }
  if ch.badPacket h f.vc || h.badFlit 1 f.vlen f.eop then
    ((ch.asmPut p key { way := .dropped, p := h } f.eop).creditBack h).packetBad h
  else if ch.isHere h then
    let (ch, resv) := ch.reserveIn h
    let ch := ch.asmPut p key { way := .whole, p := h, bytes := part, resv := resv } f.eop
    if f.eop then ch.packetIn { h with resv := resv } else ch.creditBack h
  else
    let pid := ch.link.nextPid + 1
    let ch := { ch with link := { ch.link with nextPid := pid } }
    let (ch, e) := ch.transit h pid part f.eop
    ch.asmPut p key { way := match e with
      | some q => .passing pid q
      | none => .dropped, p := h } f.eop

/-- A later flit of a transit packet joins it at its egress port; if that port has discarded the packet, the flit is discarded. -/
def Channel.passMore (ch : Channel) (h : Packet) (pid e : Nat) (part : List (BitVec 8)) (eop : Bool) : Channel :=
  let add := fun (o : OutPkt) => if o.pid = some pid then { o with come := o.come ++ [(part, eop)] } else o
  let vc := (ptypeVc h.ptype).getD 0
  let q := ch.lport e
  let os := ch.link.egress.getD (4 * e + vc) []
  if q.leaving.any fun l => l.2.o.pid == some pid then
    ch.modPort e fun q => { q with leaving := q.leaving.mapV fun _ l => { l with o := add l.o } }
  else if os.any fun o => o.pid == some pid then
    { ch with link := { ch.link with egress := ch.link.egress.put (4 * e + vc) (os.map add) } }
  else ch.creditBack h

/-- A later flit of a packet (R347, R348). -/
def Channel.nextFlit (ch : Channel) (p key : Nat) (f : Flit) (part : List (BitVec 8)) (a : Asm) : Channel :=
  let n := a.n + 1
  if a.way = .dropped then (ch.asmPut p key a f.eop).creditBack a.p
  else if a.p.badFlit n f.vlen f.eop then
    (((ch.asmLost a).asmPut p key { a with way := .dropped, resv := none } f.eop).creditBack a.p).packetBad a.p
  else
    let bytes := a.bytes ++ part
    match a.way with
    | .passing pid e => (ch.asmPut p key { a with n := n } f.eop).passMore a.p pid e part f.eop
    | _ =>
      let ch := ch.asmPut p key { a with n := n, bytes := bytes } f.eop
      if f.eop then ch.packetIn { Packet.parse bytes with via := some (p, key, n), resv := a.resv } else ch.creditBack a.p

/-- A DATA flit is accepted: it joins the packet of its VC and class (R347, R360). A first flit that comes before the last packet has
ended, and a later flit of no packet, show that a packet's flit count is wrong (R348). -/
def Channel.dataIn (ch : Channel) (p : Nat) (f : Flit) : Channel :=
  let key := 2 * f.vc + f.cls
  let ch := ch.inc F.LK_FLITS_RX_COUNT p 1
  let part := if f.eop then f.body.take f.vlen else f.body
  match f.sop, (ch.lport p).asm.find key with
  | true, none => ch.firstFlit p key f part
  | true, some a =>
    let ch := if a.way = .dropped then ch else (ch.asmLost a).packetBad a.p
    ch.firstFlit p key f part
  | false, some a => ch.nextFlit p key f part a
  | false, none =>
    let h : Packet := { ptype := 0, dst := 0, src := 0, via := some (p, key, 1) }
    ((ch.asmPut p key { way := .dropped, p := h } f.eop).creditBack h).packetBad h

/-- INIT is taken whatever its SEQ while the port trains: it settles from which SEQ the two ends go on (R331, R341, log entry 62). -/
def Channel.initNow (ch : Channel) (p : Nat) (f : Flit) : Bool :=
  (ch.lkState p == 3 || ch.lkState p == 4) && f.ftype == 2 && linkSub f.body == 1 && !(ch.lport p).initIn
    && !((ch.lport p).linkIn.any fun b => linkSub b == 1)

/-- One flit of 240 bytes after its FEC (R338 to R340). -/
def Channel.flitIn (ch : Channel) (p : Nat) (b : List (BitVec 8)) (failed : Bool) : Channel :=
  if failed || !crcGood b then ch.flitFails p
  else
    let f := Flit.parse b
    let ch := if f.ackv then ch.ackIn p f.ack else ch
    if f.ftype = 0 then ch
    else
      let ch := if f.nak ∧ !(ch.lport p).due then ch.nakIn p else ch
      let init := ch.initNow p f
      let ch := if init then ch.modPort p fun q => { q with linkIn := q.linkIn ++ [f.body] } else ch
      if f.seq ≠ (ch.lport p).exp then ch
      else
        let ch := ch.modPort p fun q => { q with exp := (q.exp + 1) % 4096, any := true, got := true, nak := false }
        let ch := ch.creditIn p (2 * f.crVc + f.crCls) f.crCnt
        if f.ftype = 1 then ch.dataIn p f
        else if f.ftype = 2 ∧ !init then ch.modPort p fun q => { q with linkIn := q.linkIn ++ [f.body] }
        else ch

/-- Corrected symbols are counted for the port and for the lanes they came on (R366, R367). -/
def Channel.fecCount (ch : Channel) (p : Nat) (o : FecOut) : Channel :=
  let ch := (ch.inc F.LK_FEC_CORR_CNT_COUNT p o.fixed.length).inc F.LK_FEC_UNCORR_CNT_COUNT p o.bad
  let fld := fun n => match n with
    | 0 => F.LK_LANE0_CORR_CNT_COUNT
    | 1 => F.LK_LANE1_CORR_CNT_COUNT
    | 2 => F.LK_LANE2_CORR_CNT_COUNT
    | 3 => F.LK_LANE3_CORR_CNT_COUNT
    | _ => F.LK_LANE4_CORR_CNT_COUNT
  o.fixed.foldl (fun ch e =>
    let n := ch.rxFrom p (e.2 % ch.width p)
    (ch.inc (fld n) p 1).modPort p fun q => { q with leaky := q.leaky.put n (q.leaky.getD n 0 + 1) }) ch

/-- One slot arrives on the five physical lanes (R326, R327, R336 to R340). -/
def Channel.flitReceive (ch : Channel) (p : Nat) (lanes : List (List (BitVec 8))) : Channel :=
  if ch.lkState p < 3 then ch
  else
    let w := ch.width p
    let q := ch.lport p
    let seen := (upto 5).map fun n =>
      let b := fitTo (256 / w) 0 (lanes.getD n [])
      let b := if q.rxInv.contains n then b.map fun x => ~~~x else b
      scrBytes (q.rxScr.getD n 0) b
    let ch := ch.modPort p fun q => { q with rxScr := seen.map (·.1) }
    let flit := laneJoin w ((upto w).map fun k => (seen.getD (ch.rxFrom p k) (0, [])).2)
    if ch.lightFec p then
      let o := lightDecode flit
      o.flits.foldl (fun ch b => ch.flitIn p b false) (ch.fecCount p o)
    else
      let g := (ch.lport p).rxGroup ++ [flit]
      if g.length < 5 then ch.modPort p fun q => { q with rxGroup := g }
      else
        let ch := ch.modPort p fun q => { q with rxGroup := [] }
        let o := rsDecode g
        o.flits.foldl (fun ch b => ch.flitIn p b (o.bad != 0)) (ch.fecCount p o)

/-! ### Markers (R328) -/

/-- The spare of the receive direction. -/
def Channel.rxSpare (ch : Channel) (p : Nat) : Option Nat :=
  spareOf (ch.r F.LK_LANEMAP_RX_MAP p) (ch.r F.LK_LANEMAP_RX_RETIRED p) (ch.width p)

/-- The body of a ROT flit (R346). -/
def rotBody (s : RotStep) : List (BitVec 8) := toBytes 1 5 ++ toBytes 1 s.lane ++ toBytes 1 s.phase ++ toBytes 1 0 ++ toBytes 4 s.at_

/-- Proposes rotation steps to the peer, a ROT flit for each (R365). -/
def Channel.propose (ch : Channel) (p : Nat) (steps : List RotStep) : Channel :=
  ch.modPort p fun q => { q with rxPlan := steps, linkQ := q.linkQ ++ steps.map fun s => (rotBody s, 0, 0) }

/-- The lane that goes next: one that RECAL_TH has named, else the lane of the next logical lane in turn (R365, R366). -/
def Channel.rotLane (ch : Channel) (p : Nat) : Nat :=
  let q := ch.lport p
  q.rotWant.getD (mapLane (ch.r F.LK_LANEMAP_RX_MAP p) (q.rotNext % ch.width p))

/-- At a marker an idle receive direction counts its gap, and then proposes the phases of the next lane: DUP two markers
later, SWAP and CAL for DWELL periods, RDUP and RETURN (R365). -/
def Channel.rotIdle (ch : Channel) (p : Nat) : Channel :=
  let q := ch.lport p
  let on := ch.lkState p == 5 && ch.eff F.LK_CFG_ROT_EN p == 1 && ch.r F.LK_STAT_SPARE p == 1
    && (ch.rxSpare p).isSome && q.rxPlan.isEmpty && ch.r F.LK_STAT_ROT_PHASE p == 0
  if !on then ch
  else if 0 < q.rotGap then ch.modPort p fun q => { q with rotGap := q.rotGap - 1 }
  else
    let m := q.rxMark + 2
    let lane := ch.rotLane p
    let d := ch.eff F.LK_CFG_DWELL p
    ch.propose p [{ lane := lane, phase := 1, at_ := m }, { lane := lane, phase := 2, at_ := m + 1 },
                  { lane := lane, phase := 3, at_ := m + 1 + d }, { lane := lane, phase := 4, at_ := m + 2 + d }]

/-- A receiver takes a marker slot (R328): it checks PATTERN, learns the logical order, loads its scramblers, aligns its groups
(R336), and counts. -/
def Channel.markerReceive (ch : Channel) (p : Nat) (blocks : List (List (BitVec 8))) : Channel :=
  if ch.lkState p < 3 then ch
  else
    let q := ch.lport p
    let seen := (upto 5).map fun n =>
      let b := blocks.getD n []
      let b := if q.rxInv.contains n then b.map fun x => ~~~x else b
      let at_ := fun o k => ofBytes ((b.drop o).take k)
      if at_ 0 8 = 0x4BD8270F953E6AC1 then some (at_ 8 1, at_ 10 4) else none
    let logical := fun n => (seen.getD n none).map (·.1)
    let missed := (upto 5).foldl (fun m n =>
      let used := (upto (ch.width p)).any fun k => ch.rxFrom p k == n
      if (seen.getD n none).isSome ∨ !used then SMap.del m n else SMap.put m n (SMap.getD m n 0 + 1)) q.missed
    let count := match seen.findSome? id with
      | some (_, c) => c
      | none => q.rxMark + 1
    let order := (upto (ch.width p)).filterMap fun k => (upto 5).find? fun n => logical n == some k
    let idle := ch.r F.LK_STAT_ROT_PHASE p = 0
    let ch := if order.length = ch.width p ∧ idle then ch.w F.LK_LANEMAP_RX_MAP p (mapOf order) else ch
    let ch := ch.modPort p fun q =>
      { q with missed := missed, rxMark := count, rxGroup := [],
               rxScr := (upto 5).map fun n => match logical n with
                 | some k => scrSeed (if k < 4 then k else 4)
                 | none => scrSeed (((upto (ch.width p)).find? fun k => ch.rxFrom p k == n).getD 4) }
    ch.rotIdle p

/-- PATTERN was missed on a logical lane at three consecutive markers (R328, R341). -/
def Channel.markerLost (ch : Channel) (p : Nat) : Channel :=
  if ch.lkState p = 5 ∧ (ch.lport p).missed.any (fun e => decide (3 ≤ e.2)) then ch.retrain p else ch

/-! ### LINK flits (R331, R332, R341, R346, R364, R365) -/

/-- Takes the oldest accepted LINK flit if it has the subtype. -/
def Channel.takeLink (ch : Channel) (p sub : Nat) (f : Channel → List (BitVec 8) → Channel) : Channel :=
  match (ch.lport p).linkIn with
  | b :: rest =>
    if linkSub b = sub then
      let ch := ch.modPort p fun q => { q with linkIn := rest }
      f ch b
    else ch
  | [] => ch

/-- A number at a body offset. -/
def bodyNat (b : List (BitVec 8)) (o n : Nat) : Nat := ofBytes ((b.drop o).take n)

/-- The peer's INIT is checked; its credits are loaded at a first training, and after a retrain the held flits up to its
LAST_SEQ are dropped and the rest are sent again (R331, R341, R343). 64 PINGs wait to be sent (R332). An INIT that comes in T3 waits
for T4. -/
def Channel.initIn (ch : Channel) (p : Nat) : Channel :=
  if ch.lkState p = 3 then ch else
  ch.takeLink p 1 fun ch b =>
    let node := bodyNat b 2 3 % 2 ^ 20
    let x := bodyNat b 5 1
    let near := if p = 0 then ch.module * 16 + (ch.no + 11) % 12 else ch.module * 16 + (ch.no + 1) % 12
    let bad := bodyNat b 1 1 ≠ 1 ∨ bit x 2 ≠ b2n (ch.lightFec p) ∨ bit x 3 ≠ ch.r F.LK_STAT_WIDTH p
      ∨ (p ≠ 2 ∧ (node ≠ near ∨ x % 4 ≠ 1 - p))
    if ch.lkState p ≠ 4 ∨ (ch.lport p).initIn then ch
    else if bad then (ch.raise 0x81 (ch.portUnit p) none 0).attemptFails p
    else
      let ch := ((ch.w F.LK_PEER_NODE p node).w F.LK_PEER_PORT p (x % 4)).w F.LK_PEER_VALID p 1
      let last := bodyNat b 40 2
      ch.modPort p fun q =>
        let q := { q with initIn := true, linkQ := q.linkQ ++ List.replicate 64 (toBytes 1 2, 0, 0) }
        if q.again then
          let i := if isSet last 15 then findIdx (fun (h : Flit × Nat) => h.1.seq == last % 4096) q.held else none
          let q := match i with
            | some i => { q with held := q.held.drop (i + 1), acked := some (last % 4096) }
            | none => q
          { q with replay := q.held.map fun h => h.1.seq }
        else { q with credit := (upto 8).map fun k => (k, bodyNat b (8 + 2 * k) 2) }

/-- PING is answered with PONG (R332). `now` is the timebase count of its arrival. -/
def Channel.pingIn (ch : Channel) (p now : Nat) : Channel :=
  ch.takeLink p 2 fun ch b =>
    ch.modPort p fun q => { q with linkQ := q.linkQ ++ [(toBytes 8 3 ++ (b.drop 8).take 8, 0, now)] }

/-- PONG adds one exchange to the latency measurement (R332). -/
def Channel.pongIn (ch : Channel) (p now : Nat) : Channel :=
  ch.takeLink p 3 fun ch b =>
    ch.modPort p fun q => { q with pongs := q.pongs + 1, latSum := q.latSum + (now - bodyNat b 8 8 - bodyNat b 16 4) }

/-- CREDIT returns credits (R343). -/
def Channel.creditFlit (ch : Channel) (p : Nat) : Channel :=
  ch.takeLink p 4 fun ch b => (upto 8).foldl (fun ch k => ch.creditIn p k (bodyNat b (8 + 2 * k) 2)) ch

/-- The step a ROT or ROT_ACK flit names. -/
def rotOf (b : List (BitVec 8)) : RotStep := { lane := bodyNat b 1 1, phase := bodyNat b 2 1, at_ := bodyNat b 4 4 }

/-- ROT: the transmitter accepts a phase whose marker it has still to send, on one of its lanes (R365). -/
def Channel.rotIn (ch : Channel) (p : Nat) : Channel :=
  ch.takeLink p 5 fun ch b =>
    let s := rotOf b
    let q := ch.lport p
    let ok := ch.lkState p = 5 ∧ s.lane < 5 ∧ s.phase < 5 ∧ q.mcount ≤ s.at_
      ∧ (spareOf (ch.r F.LK_LANEMAP_TX_MAP p) (ch.r F.LK_LANEMAP_TX_RETIRED p) (ch.width p)).isSome
    let ack := toBytes 1 6 ++ (fitTo 8 0 b).drop 1 ++ toBytes 1 (if ok then 0 else 1)
    ch.modPort p fun q =>
      { q with linkQ := q.linkQ ++ [(ack, 0, 0)], txPlan := if ok then q.txPlan ++ [{ s with acked := true }] else q.txPlan }

/-- ROT_ACK accepts or refuses a phase; after a refusal the rotation returns to idle (R365). -/
def Channel.rotAckIn (ch : Channel) (p : Nat) : Channel :=
  ch.takeLink p 6 fun ch b =>
    let s := rotOf b
    ch.modPort p fun q =>
      { q with rxPlan := if bodyNat b 8 1 = 0 then
          q.rxPlan.map fun x => if x.phase = s.phase ∧ x.at_ = s.at_ then { x with acked := true } else x
        else q.rxPlan.filter fun x => !(x.phase == s.phase && x.at_ == s.at_) }

/-- TXEQ: in the CAL phase of the lane's rotation a request is applied to its transmitter; it is answered (R364). -/
def Channel.txeqIn (ch : Channel) (p : Nat) : Channel :=
  ch.takeLink p 7 fun ch b =>
    let lane := bodyNat b 1 1
    let req := bodyNat b 2 1
    if req = 0 then ch
    else ch.modPort p fun q =>
      let q := q.coef lane (if q.txRot = 2 ∧ q.txRotLane = lane then req else 0)
      { q with linkQ := q.linkQ ++ [(toBytes 1 7 ++ toBytes 1 lane ++ toBytes 1 0 ++ toBytes 1 (q.coefSt.getD lane 0), 0, 0)] }

/-- RETRAIN: the peer asks for a retrain (R341). -/
def Channel.retrainIn (ch : Channel) (p : Nat) : Channel :=
  ch.takeLink p 8 fun ch _ => if ch.lkState p = 5 then ch.retrain p else ch

/-! ### Lane rotation (R365, R366) -/

/-- The receive direction enters a phase (R365): what it has counted on the spare decides whether the rotation goes on. -/
def Channel.rxPhase (ch : Channel) (p : Nat) (s : RotStep) : Channel :=
  if s.phase = 0 ∨ s.phase = 4 then
    let ch := (ch.w F.LK_STAT_ROT_PHASE p 0).w F.LK_STAT_ROT_LANE p 7
    let gap := ch.eff F.LK_CFG_GAP p
    let ch := if s.phase = 4 then ch.inc F.LK_ROT_CNT_COUNT p 1 else ch
    ch.modPort p fun q =>
      { q with rotGap := gap, rotNext := q.rotNext + 1, rxPlan := [],
               recal := if q.rotWant = some s.lane then addLane s.lane q.recal else q.recal,
               rotWant := if q.rotWant = some s.lane then none else q.rotWant,
               leaky := if q.rotWant = some s.lane then q.leaky.put s.lane 0 else q.leaky }
  else
    let ch := (ch.w F.LK_STAT_ROT_PHASE p s.phase).w F.LK_STAT_ROT_LANE p s.lane
    let bad : Bool := match ch.rxSpare p with
      | some n => decide (ch.eff F.LK_CFG_RECAL_TH p ≤ (ch.lport p).leaky.getD n 0)
      | none => true
    if s.phase == 2 && bad then
      let m := (ch.lport p).rxMark + 2
      ((ch.w F.LK_STAT_ROT_PHASE p 0).w F.LK_STAT_ROT_LANE p 7).propose p [{ lane := s.lane, phase := 0, at_ := m }]
    else if s.phase = 2 then
      let (x, ch) := ch.freeVal 6
      let req := coefReqOf x
      if req = 0 then ch
      else ch.modPort p fun q => { q with linkQ := q.linkQ ++ [(toBytes 1 7 ++ toBytes 1 s.lane ++ toBytes 1 req, 0, 0)] }
    else ch

/-- At the marker a ROT flit named, the rotation enters its next phase in the direction it concerns; a phase of the receive
direction that has not been accepted by then returns it to idle (R365). -/
def Channel.rotationPhase (ch : Channel) (p : Nat) : Channel :=
  let q := ch.lport p
  let ch := if 0 < q.mcount then ch.modPort p fun q => q.txPhase (q.mcount - 1) else ch
  match q.rxPlan with
  | s :: rest =>
    if s.at_ ≤ q.rxMark then
      let ch := ch.modPort p fun q => { q with rxPlan := rest }
      if s.acked then ch.rxPhase p s
      else ((ch.w F.LK_STAT_ROT_PHASE p 0).w F.LK_STAT_ROT_LANE p 7).modPort p fun q => { q with rxPlan := [] }
    else ch
  | [] => ch

/-- UNIT of a lane (R418). -/
def Channel.laneUnit (ch : Channel) (p n : Nat) : Nat := unitWord ch.no 10 0 p n

/-- A lane's counter has reached a threshold (R366): a lane recalibrated in this window and at RETIRE_TH is retired, with its
logical lane left on the spare, or the port goes to width x2 when no spare is left; a lane at RECAL_TH goes next in
rotation. -/
def Channel.laneThreshold (ch : Channel) (p n : Nat) : Channel :=
  let q := ch.lport p
  let c := q.leaky.getD n 0
  let retired := ch.r F.LK_LANEMAP_RX_RETIRED p
  if ch.lkState p ≠ 5 ∨ 5 ≤ n ∨ isSet retired n then ch
  else if ch.eff F.LK_CFG_RETIRE_TH p ≤ c ∧ (ch.rxSpare p).isNone then
    let ch := (ch.w F.LK_LANEMAP_RX_RETIRED p (retired + 2 ^ n)).raise 0x84 (ch.portUnit p) none 0
    (ch.modPort p fun q => { q with rxLost := addLane n q.rxLost }).retrain p
  else if ch.eff F.LK_CFG_RETIRE_TH p ≤ c ∧ q.recal.contains n then
    match ch.rxSpare p with
    | none => ch
    | some s =>
      let w := ch.width p
      let lanes := (upto w).map fun k =>
        let l := mapLane (ch.r F.LK_LANEMAP_RX_MAP p) k
        if l = n then s else l
      let ch := (ch.w F.LK_LANEMAP_RX_MAP p (mapOf lanes)).w F.LK_LANEMAP_RX_RETIRED p (retired + 2 ^ n)
      let ch := ((ch.w F.LK_STAT_RETIRE p 1).w F.LK_STAT_SPARE p 0).w F.LK_STAT_ROT_PHASE p 0
      let ch := (ch.w F.LK_STAT_ROT_LANE p 7).modPort p fun q => { q with rxPlan := [], rotWant := none, rxLost := addLane n q.rxLost }
      ch.raise 0x83 (ch.laneUnit p n) none 0
  else if ch.eff F.LK_CFG_RECAL_TH p ≤ c then
    let ch := ch.modPort p fun q => { q with rotWant := some n }
    let ph := ch.r F.LK_STAT_ROT_PHASE p
    let lane := ch.r F.LK_STAT_ROT_LANE p
    if ph = 1 ∨ ph = 2 then
      let m := q.rxMark + 2
      ch.propose p [{ lane := lane, phase := 3, at_ := m }, { lane := lane, phase := 4, at_ := m + 1 }]
    else ch
  else ch

/-- The window of the lane counters ends: they are halved (R366, R427). -/
def Channel.laneWindow (ch : Channel) : Channel :=
  (upto 3).foldl (fun ch p => ch.modPort p fun q => { q with leaky := q.leaky.mapV fun _ v => v / 2, recal := [] }) ch

/-! ### Settling and counters -/

/-- SETTLE cycles after a change of egress, the held packets for a destination are released (R358). -/
def Channel.settleEnd (ch : Channel) (dst : Nat) : Channel :=
  let os := ch.link.held.filter fun o => o.p.dst == dst
  let ch := { ch with link := { ch.link with held := ch.link.held.filter (fun o => o.p.dst != dst),
                                             settling := ch.link.settling.filter (· != dst) } }
  os.foldl Channel.forward1 ch

/-- The counters that LK_CTRL.CLR_CNT clears (R367). -/
def lkCounters : List Fld :=
  [F.LK_CRC_ERR_CNT_COUNT, F.LK_REPLAY_CNT_COUNT, F.LK_RETRAIN_CNT_COUNT, F.LK_FEC_UNCORR_CNT_COUNT, F.LK_ROT_CNT_COUNT,
   F.LK_FEC_CORR_CNT_COUNT, F.LK_FLITS_TX_COUNT, F.LK_FLITS_RX_COUNT, F.LK_LANE0_CORR_CNT_COUNT, F.LK_LANE1_CORR_CNT_COUNT,
   F.LK_LANE2_CORR_CNT_COUNT, F.LK_LANE3_CORR_CNT_COUNT, F.LK_LANE4_CORR_CNT_COUNT, F.LK_ARB_FORCE_CNT_COUNT,
   F.LK_ARB_CUT_CNT_COUNT, F.LK_ARB_PREEMPT_CNT_COUNT, F.LK_ARB_STALE_CNT_COUNT]

/-- LK_CTRL.CLR_CNT (R367). -/
def Channel.lkClrCnt (ch : Channel) (p : Nat) : Channel := { ch with regs := ch.regs.clear lkCounters p }

/-- The counters of the route block that LK_RT_CTRL.CLR_CNT clears (R368). -/
def rtCounters : List Fld := [F.LK_NOROUTE_CNT_COUNT, F.LK_REQ_TMO_CNT_COUNT, F.LK_LATE_RSP_CNT_COUNT, F.LK_BADPKT_CNT_COUNT]

/-- The counters of each FIFO that it clears too (R368). -/
def fifoCounters : List Fld := [F.LK_FIFO_OVF_CNT_COUNT, F.LK_FIFO_CUT_CNT_COUNT, F.LK_FIFO_RX_BYTES_COUNT]

/-- LK_RT_CTRL.CLR_CNT (R368). -/
def Channel.rtClrCnt (ch : Channel) : Channel :=
  { ch with regs := (upto 32).foldl (fun r n => r.clear fifoCounters n) (ch.regs.clear rtCounters 0) }

end Sys2Proof.Machine
end

