-- ==== Sys2Proof/Machine/Tasks.lean ====
section
/-! DEFINITION. The task queue, promotion and binding of tasks, and the work counters with their claims, steals and
replays (R246 to R267). -/

namespace Sys2Proof.Machine

/-- Applies `f` to the task unit of the lantern `g`. -/
def Channel.modTq (ch : Channel) (g : Nat) (f : TaskUnit → TaskUnit) : Channel := ch.modLan g fun l => { l with tq := f l.tq }

/-- A write that the lantern refuses sets LN_STATUS.CFG_ERR (R15). -/
def Channel.lnCfgErr (ch : Channel) (g : Nat) : Channel := ch.lw g F.LN_STATUS_CFG_ERR 0 1

/-! ### Entries (R246 to R248, R254) -/

/-- An entry is invalid (R248). -/
def teInvalid (w : Nat) : Bool :=
  isSet w 3 || bits w 127 69 != 0
    || (decide (60 ≤ teCore w) && teCore w != 63) || (teVector w && teCore w != 63)
    || decide (4095 < teLine w + teVars w * teVstep w)
    || (teSpec w && tePool w)

/-- A write of LN_TQ_PUSH_HI pushes an entry (R246, R248). -/
def Channel.taskPush (ch : Channel) (g hi : Nat) : Channel :=
  let l := ch.lan g
  let w := l.r F.LN_TQ_PUSH_LO_ENTRY + (hi % 2 ^ 64) <<< 64
  if teInvalid w then
    (ch.lw g F.LN_TQ_STAT_INV 0 1).raise 0x2A (ch.lanUnit g) (some (teCtx w)) 0
  else if 64 ≤ l.tq.entries.length then
    (ch.lw g F.LN_TQ_STAT_OVF 0 1).raise 0x29 (ch.lanUnit g) (some (teCtx w)) 0
  else ch.modLan g fun l =>
    { l with tq := { l.tq with entries := l.tq.entries ++ [({ num := l.tq.pushes, w := w } : TqEntry)], pushes := l.tq.pushes + 1 } }.tqSync

/-- LN_TQ_CTRL.SQUASH removes every unpromoted speculative entry, without a buoy-pair update (R254). -/
def Channel.squash (ch : Channel) (g : Nat) : Channel := ch.modLan g fun l =>
  { l with tq := { l.tq with entries := l.tq.entries.filter fun e => !(teSpec e.w && !e.promoted) } }.tqSync

/-! ### Promotion (R249, R250) -/

/-- The entry has a task that awaits promotion (R250, condition 2). -/
def TqEntry.awaits (e : TqEntry) : Bool := if tePool e.w then !e.claims.isEmpty else !e.promoted

/-- The buoy pairs that an entry names. -/
def tePairs (w : Nat) : List Nat :=
  (if teWaitEn w then [teWaitBp w] else []) ++ (if teOutEn w then [teOutBp w] else [])

/-- Slots of pair `n` that the execute side may acquire in this cycle, after the streams (R225). -/
def Channel.bpLeft (ch : Channel) (g n : Nat) (ready : Bool) : Nat := ch.bpSeen g n ready - b2n (ch.streamTakes g n ready)

/-- The pairs that an entry waits on have a filled and a free slot (R250, condition 3). -/
def Channel.pairsReady (ch : Channel) (g w : Nat) : Bool :=
  (!teWaitEn w || decide (1 ≤ ch.bpLeft g (teWaitBp w) true)) && (!teOutEn w || decide (1 ≤ ch.bpLeft g (teOutBp w) false))

/-- The entries that meet conditions 2 to 4 of R250, each with whether an earlier entry awaits promotion: `blocked` are the
pairs that an earlier entry with a task awaiting promotion names. -/
def Channel.promotable (ch : Channel) (g : Nat) : List TqEntry → List Nat → Bool → List (TqEntry × Bool)
  | [], _, _ => []
  | e :: es, blocked, passed =>
    if e.awaits then
      let ps := tePairs e.w
      let rest := ch.promotable g es (ps ++ blocked) true
      if ps.any blocked.contains || !ch.pairsReady g e.w then rest else (e, passed) :: rest
    else ch.promotable g es blocked passed

/-- The promotion that R250 makes in this cycle: a non-speculative task before a speculative one. -/
def Channel.promotion (ch : Channel) (g : Nat) : Option (TqEntry × Bool) :=
  let q := (ch.lan g).tq
  if 8 ≤ (q.tasks.filter fun t => t.on.isNone).length then none
  else
    let ps := ch.promotable g q.entries [] false
    match ps.find? fun p => !teSpec p.1.w with
    | some p => some p
    | none => ps.head?

/-- One acquisition of a promoted task: the count falls by 1, LN_XACQ counts it, and the answer is owed (R250, R252). -/
def Channel.taskAcquire (ch : Channel) (g n task ctx : Nat) (cons : Bool) : Channel :=
  let f := if cons then F.LN_XACQ_CONS else F.LN_XACQ_PROD
  let ch := ch.bpTake g n cons
  let ch := ch.lw g f n ((ch.lan g).r f n + 1)
  ch.modTq g fun q => { q with acqs := q.acqs.put n (q.acqs.getD n [] ++ [({ task := task, cons := cons, ctx := ctx } : Acq)]) }

/-- The lantern promotes one task (R249, R250). -/
def Channel.taskPromote (ch : Channel) (g : Nat) : Channel :=
  let l := ch.lan g
  if l.halted || decide (ch.cyc < l.tq.nextPromote) then ch
  else match ch.promotion g with
    | none => ch
    | some (e, passed) =>
      let w := e.w
      let claim := if tePool w then e.claims.head? else none
      let v := if teWaitEn w then l.r F.LN_XACQ_CONS (teWaitBp w) else match claim with
        | some (i, _) => i
        | none => 0
      let line := teLine w + v % (teVars w + 1) * teVstep w
      let id := l.tq.nextId
      let ch := if teWaitEn w then ch.taskAcquire g (teWaitBp w) id (teCtx w) true else ch
      let ch := if teOutEn w then ch.taskAcquire g (teOutBp w) id (teCtx w) false else ch
      let ch := if passed then ch.linc g F.LN_PASS_CNT_COUNT 0 1 else ch
      ch.modLan g fun l =>
        let q := l.tq
        let es := q.entries.map fun x =>
          if x.num = e.num then
            (if tePool w then { x with claims := x.claims.drop 1 } else { x with promoted := true })
          else x
        { l with tq := { q with entries := es, nextId := id + 1, nextPromote := ch.cyc + 1,
                                tasks := q.tasks ++ [({ id := id, entry := e.num, w := w, line := line, index := claim } : LTask)] } }.tqSync

/-! ### Binding (R251, R254) -/

/-- A unit with these tasks is free in this cycle: it has no open task, or its last open task's END line was requested in
this cycle (R251). -/
def unitFree (ts : List CTask) (asked : Bool) : Bool :=
  let open_ := ts.filter fun t => !t.ended && !t.stopped
  match open_.getLast? with
  | none => true
  | some t => t.endReq && asked

/-- Physical core `k` can take a new task in this cycle. -/
def Channel.coreFree (ch : Channel) (g k : Nat) : Bool :=
  let l := ch.lan g
  let co := l.core k
  !l.tq.barred.contains k && unitFree co.tasks (co.nextFetch == ch.cyc + 1)

/-- The vector engine can take a new task in this cycle. -/
def Channel.veFree (ch : Channel) (g : Nat) : Bool :=
  let ve := (ch.lan g).ve
  unitFree ve.tasks (ve.fetchAt == some ch.cyc)

/-- The physical core of a logical core (R140). -/
def Lantern.physOf (l : Lantern) (n : Nat) : Option Nat :=
  if n < 60 ∧ l.r F.LN_CORE_BIND_VALID n = 1 then some (l.r F.LN_CORE_BIND_PHYS n) else none

/-- The unit that a ready task goes to in this cycle, if one is free: a physical core, or 64 for the vector engine. -/
def Channel.unitFor (ch : Channel) (g w : Nat) : Option Nat :=
  let l := ch.lan g
  if teVector w then (if ch.veFree g then some 64 else none)
  else
    let ns := if teCore w = 63 then upto 60 else [teCore w]
    (ns.filterMap l.physOf).find? (ch.coreFree g)

/-- A task is bound to a unit, which requests its first line in the following cycle (R251). -/
def Channel.bindTask (ch : Channel) (g : Nat) (t : LTask) (k : Nat) : Channel :=
  let ct : CTask := { id := t.id, ctx := teCtx t.w, fetch := t.line }
  let ch := ch.modTq g fun q =>
    { q with tasks := q.tasks.map fun x => if x.id = t.id then { x with on := some k } else x }
  if k = 64 then ch.modLan g fun l => { l with ve := { l.ve with tasks := l.ve.tasks ++ [ct], lastAcc := some ch.cyc } }
  else ch.modCore g k fun co => { co with tasks := co.tasks ++ [ct], nextFetch := max co.nextFetch (ch.cyc + 1) }

/-- Binds the ready tasks of a list, oldest first (R251). -/
def Channel.bindEach (ch : Channel) (g : Nat) : List LTask → Channel
  | [] => ch
  | t :: ts => match ch.unitFor g t.w with
    | some k => (ch.bindTask g t k).bindEach g ts
    | none => ch.bindEach g ts

/-- The lantern binds ready tasks to its free units (R251); a speculative task only where no other is eligible (R254). -/
def Channel.taskBind (ch : Channel) (g : Nat) : Channel :=
  let ready := (ch.lan g).tq.tasks.filter fun t => t.on.isNone
  let ch := ch.bindEach g (ready.filter fun t => !teSpec t.w)
  (ch.bindEach g (ready.filter fun t => teSpec t.w)).modLan g Lantern.tqSync

/-- The free cores of a lantern with a non-empty queue for which no ready task is eligible (R251). -/
def Channel.coresWaiting (ch : Channel) (g : Nat) : Nat :=
  let l := ch.lan g
  if l.tq.entries.isEmpty then 0
  else
    let ready := l.tq.tasks.filter fun t => t.on.isNone && !teVector t.w
    ((upto 60).filter fun n => match l.physOf n with
      | some k => ch.coreFree g k && !ready.any fun t => teCore t.w == 63 || teCore t.w == n
      | none => false).length

/-- The task that unit `k` has completed is answered (R252). -/
def Channel.taskComplete (ch : Channel) (g k : Nat) : Channel :=
  match (ch.lan g).tq.tasks.find? fun t => t.on == some k && t.done with
  | some t => ch.finishTask g t.id true
  | none => ch

/-! ### Work counters (R256 to R261) -/

/-- OUTST and REPLAYS of a counter follow its state. -/
def Lantern.wcShow (l : Lantern) (w : Nat) : Lantern := l.w F.LN_WC_STAT_REPLAYS w (l.wc w).replays.length

/-- A write of LN_WCw_ARM arms counter `w` (R256). -/
def Channel.wcArm (ch : Channel) (g w head tail : Nat) : Channel :=
  let l := ch.lan g
  let head := head % 8192
  let tail := tail % 8192
  if l.r F.LN_WC_STAT_FIN w ≠ 1 ∨ l.tq.entries.any (fun e => tePool e.w && teWc e.w == w) ∨ tail < head ∨ 4096 < tail - head then
    ch.lnCfgErr g
  else ch.modLan g fun l =>
    let l := (l.w F.LN_WC_RANGE_HEAD w head).w F.LN_WC_RANGE_TAIL w tail
    let l := (l.w F.LN_WC_BASE_BASE w head).w F.LN_WC_BASE_COUNT w (tail - head)
    let l := (l.w F.LN_WC_STAT_DONE w 0).w F.LN_WC_STAT_FIN w (b2n (tail == head))
    l.modWc w fun c => { c with bitmap := 0 }

/-- The queue entry that draws on counter `w`. -/
def Lantern.poolEntry (l : Lantern) (w : Nat) : Option TqEntry := l.tq.entries.find? fun e => tePool e.w && teWc e.w == w

/-- Neither stream of counter `w` has a shadow waiting, or a re-arm on its way (R258). -/
def Lantern.feedsIdle (l : Lantern) (w : Nat) : Bool :=
  let idle := fun s => l.r F.TD_S_STAT_REARM_PEND s == 0 && !l.tq.rearms.any fun r => r.2.1 == s
  (l.r F.LN_WC_CFG_FEED_EN w == 0 || idle (l.r F.LN_WC_CFG_FEED_S w)) && (l.r F.LN_WC_CFG_OUT_EN w == 0 || idle (l.r F.LN_WC_CFG_OUT_S w))

/-- An index claimed for the pool entry of counter `w`: its task awaits promotion, and its streams re-arm in the next cycle
(R258, R259). -/
def Channel.claimed (ch : Channel) (g w i issuer : Nat) : Channel :=
  ch.modLan g fun l => match l.poolEntry w with
    | none => l
    | some e =>
      let es := l.tq.entries.map fun x => if x.num = e.num then { x with claims := x.claims ++ [(i, issuer)], open_ := x.open_ + 1 } else x
      let at_ := fun b s => (b + i * s * 64) % 2 ^ 48
      let feed := if l.r F.LN_WC_CFG_FEED_EN w = 1 then
          [(ch.cyc + 1, l.r F.LN_WC_CFG_FEED_S w, true, at_ (l.r F.LN_WC_FEED_BASE w) (l.r F.LN_WC_FEED_STEP w))] else []
      let out := if l.r F.LN_WC_CFG_OUT_EN w = 1 then
          [(ch.cyc + 1, l.r F.LN_WC_CFG_OUT_S w, false, at_ (l.r F.LN_WC_OUTB_BASE w) (l.r F.LN_WC_OUTB_STEP w))] else []
      { l with tq := { l.tq with entries := es, rearms := l.tq.rearms ++ feed ++ out } }

/-- The lantern may make an owner claim on counter `w` in this cycle (R257, R258, R261). -/
def Channel.mayClaim (ch : Channel) (g w : Nat) : Bool :=
  let l := ch.lan g
  (l.poolEntry w).isSome && !l.halted && decide (l.tq.nextOwner ≤ ch.cyc)
    && decide (l.r F.LN_WC_STAT_OUTST w < l.r F.LN_WC_CFG_AHEAD w + 1) && l.feedsIdle w
    && (!(l.wc w).replays.isEmpty || l.r F.LN_WC_RANGE_HEAD w != l.r F.LN_WC_RANGE_TAIL w)

/-- An owner claim on counter `w`: a replay index before HEAD (R257, R258, R261). -/
def Channel.ownerClaim (ch : Channel) (g w : Nat) : Channel :=
  if ch.mayClaim g w then
    let l := ch.lan g
    let i := match (l.wc w).replays with
      | r :: _ => r
      | [] => l.r F.LN_WC_RANGE_HEAD w
    let ch := ch.modLan g fun l =>
      let l := if (l.wc w).replays.isEmpty then l.w F.LN_WC_RANGE_HEAD w (l.r F.LN_WC_RANGE_HEAD w + 1)
        else (l.modWc w fun c => { c with replays := c.replays.drop 1 }).wcShow w
      let l := l.inc F.LN_WC_STAT_OUTST w 1
      { l with tq := { l.tq with nextOwner := ch.cyc + 1 } }
    ch.claimed g w i g
  else ch

/-- The re-arms of claims made in the cycle before take place (R258, R235). -/
def Channel.claimRearms (ch : Channel) (g : Nat) : Channel :=
  let rs := (ch.lan g).tq.rearms
  let due := rs.filter fun r => decide (r.1 ≤ ch.cyc)
  let ch := if due.isEmpty then ch else ch.modTq g fun q => { q with rearms := rs.filter fun r => !decide (r.1 ≤ ch.cyc) }
  due.foldl (fun ch r =>
    let l := ch.lan g
    if r.2.2.1 then ch.rearm g r.2.1 r.2.2.2 (l.r F.TD_S_DESC2_DST r.2.1)
    else ch.rearm g r.2.1 (l.r F.TD_S_DESC1_SRC r.2.1) r.2.2.2) ch

/-- The conditions under which a lantern steals for counter `w`, but for the wait (R259). -/
def Channel.maySteal (ch : Channel) (g w : Nat) : Bool :=
  let l := ch.lan g
  l.eff F.LN_STEAL_CFG_EN == 1 && !l.halted
    && !l.tq.tasks.any (fun t => t.on.isNone) && (ch.promotion g).isNone
    && (l.poolEntry w).isSome && l.r F.LN_WC_RANGE_HEAD w == l.r F.LN_WC_RANGE_TAIL w
    && l.feedsIdle w && (l.wc w).thief.held == 0

/-- The valid victims of counter `w` in rotating order (R259). -/
def Lantern.victims (l : Lantern) (w : Nat) : List Nat :=
  ((upto 8).map fun j => ((l.wc w).thief.victim + j) % 8).filter fun k =>
    l.r F.LN_STEAL_VALID k == 1 && isSet (l.r F.LN_STEAL_MASK k) w

/-- Per cycle, the thief notes how long its conditions have held (R259). -/
def Channel.thiefCycle (ch : Channel) (g : Nat) : Channel :=
  let l := ch.lan g
  if l.eff F.LN_STEAL_CFG_EN = 0 ∧ l.tq.wcs.isEmpty then ch
  else (l.tq.entries.filter fun e => tePool e.w).foldl (fun ch e =>
    let w := teWc e.w
    let ok := ch.maySteal g w
    ch.modLan g (·.modWc w fun c =>
      { c with thief := { c.thief with since := if !ok then none else match c.thief.since with
          | some s => some s
          | none => some ch.cyc } })) ch

/-- A steal arrives in the order of the fabric, and of two in one cycle the lower grid index first (R257). -/
def stealIn (x : Steal) : List Steal → List Steal
  | [] => [x]
  | y :: ys => if x.at_ = y.at_ ∧ x.thief < y.thief then x :: y :: ys else y :: stealIn x ys

/-- A lantern sends a steal for counter `w` to its next victim; a full queue answers "empty" at once (R257, R259). -/
def Channel.stealRequest (ch : Channel) (g w : Nat) : Channel :=
  let l := ch.lan g
  let t := (l.wc w).thief
  let waited := match t.since with
    | some s => decide (s + l.eff F.LN_STEAL_CFG_WAIT ≤ ch.cyc)
    | none => false
  match l.victims w with
  | [] => ch
  | k :: _ =>
    if ch.maySteal g w && waited && !t.waiting && t.backoff.isNone then
      let v := 48 * l.r F.LN_STEAL_ROW k + l.r F.LN_STEAL_COL k
      let full := decide (8 ≤ (ch.lan v).tq.steals.length)
      let ch := ch.modLan g fun l =>
        l.modWc w fun c =>
          { c with thief := { c.thief with victim := (k + 1) % 8, waiting := true, answer := if full then some (none, v) else none } }
      if full then ch
      else ch.modTq v fun q => { q with steals := stealIn { thief := g, w := w, at_ := ch.cyc } q.steals }
    else ch

/-- The counter unit serves one queued steal a cycle, after any owner claim of the cycle (R257). -/
def Channel.stealServe (ch : Channel) (g : Nat) : Channel :=
  let l := ch.lan g
  match l.tq.steals with
  | [] => ch
  | x :: rest =>
    if ch.cyc < l.tq.nextSteal ∨ (upto 16).any (ch.mayClaim g) then ch
    else
      let got := l.r F.LN_WC_RANGE_HEAD x.w != l.r F.LN_WC_RANGE_TAIL x.w
      let i := l.r F.LN_WC_RANGE_TAIL x.w - 1
      let ch := ch.modLan g fun l =>
        let l := { l with tq := { l.tq with steals := rest, nextSteal := ch.cyc + 1 } }
        if got then (l.w F.LN_WC_RANGE_TAIL x.w i).inc F.LN_STOLEN_CNT_COUNT 0 1 else l
      ch.modLan x.thief fun l => l.modWc x.w fun c =>
        { c with thief := { c.thief with answer := some (if got then some i else none, g) } }

/-- The response to a steal for counter `w` arrives at the thief (R259). -/
def Channel.stealResponse (ch : Channel) (g w : Nat) : Channel :=
  let l := ch.lan g
  match (l.wc w).thief.answer with
  | none => ch
  | some (some i, v) =>
    let ch := ch.modLan g fun l =>
      (l.inc F.LN_STEAL_OK_CNT_COUNT 0 1).modWc w fun c =>
        { c with thief := { c.thief with answer := none, waiting := false, asked := 0, held := c.thief.held + 1 } }
    ch.claimed g w i v
  | some (none, _) =>
    let n := (l.wc w).thief.asked + 1
    let round := decide ((l.victims w).length ≤ n)
    ch.modLan g fun l =>
      ((l.inc F.LN_STEAL_EMPTY_CNT_COUNT 0 1).modWc w fun c =>
        { c with thief := { c.thief with answer := none, waiting := false, asked := if round then 0 else n,
                                         backoff := if round then some (ch.cyc + l.eff F.LN_STEAL_CFG_BACKOFF) else none } }).poolLeave.tqSync

/-- The back-off of counter `w` ends (R259). -/
def Channel.stealBackoffEnd (ch : Channel) (g w : Nat) : Channel :=
  match ((ch.lan g).wc w).thief.backoff with
  | some t => if t ≤ ch.cyc then ch.modLan g (·.modWc w fun c => { c with thief := { c.thief with backoff := none } }) else ch
  | none => ch

/-- A completed index reaches the counter that issued it (R260, R261). -/
def Channel.indexDone (ch : Channel) (g w i : Nat) (own : Bool) : Channel := ch.modLan g fun l =>
  let l := if own then l.w F.LN_WC_STAT_OUTST w (l.r F.LN_WC_STAT_OUTST w - 1) else l
  let b := l.r F.LN_WC_BASE_BASE w
  let n := l.r F.LN_WC_BASE_COUNT w
  if i < b ∨ b + n ≤ i ∨ isSet (l.wc w).bitmap (i - b) then
    (l.inc F.LN_DUP_CNT_COUNT 0 1).w F.LN_TQ_STAT_DUP 0 1
  else
    let d := l.r F.LN_WC_STAT_DONE w + 1
    let l := (l.modWc w fun c => { c with bitmap := c.bitmap + 1 <<< (i - b) }).w F.LN_WC_STAT_DONE w d
    (l.w F.LN_WC_STAT_FIN w (b2n (d == n))).poolLeave.tqSync

/-- The oldest completion that the lantern `g` has sent reaches the counter that issued its index (R260). -/
def Channel.indexComplete (ch : Channel) (g : Nat) : Channel :=
  match (ch.lan g).tq.sent with
  | [] => ch
  | (iss, w, i) :: rest => ((ch.modTq g fun q => { q with sent := rest }).indexDone iss w i (iss == g))

/-- A write of LN_WCw_REPLAY returns an index for the owner to run again (R261). -/
def Channel.wcReplay (ch : Channel) (g w i : Nat) : Channel :=
  let l := ch.lan g
  let i := i % 8192
  let b := l.r F.LN_WC_BASE_BASE w
  if i < b ∨ b + l.r F.LN_WC_BASE_COUNT w ≤ i ∨ isSet (l.wc w).bitmap (i - b) ∨ 4 ≤ (l.wc w).replays.length then ch.lnCfgErr g
  else ch.modLan g fun l =>
    ((l.modWc w fun c => { c with replays := c.replays ++ [i] }).wcShow w).inc F.LN_REPLAY_CNT_COUNT 0 1

/-- What a lantern's task unit does in each array cycle: re-arms due, the thief's wait, idle cores, finished entries. -/
def Channel.tqCycle (ch : Channel) (g : Nat) : Channel :=
  let ch := (ch.claimRearms g).thiefCycle g
  let n := ch.coresWaiting g
  let ch := if n = 0 then ch else ch.linc g F.LN_CORE_WAIT_CY_COUNT 0 n
  if (ch.lan g).tq.entries.any (fun e => tePool e.w) then ch.modLan g fun l => l.poolLeave.tqSync else ch

/-- The counters of the task queue area (R266). -/
def tqCounters : List Fld :=
  [F.LN_TASK_DONE_COUNT, F.LN_PASS_CNT_COUNT, F.LN_STEAL_OK_CNT_COUNT, F.LN_STEAL_EMPTY_CNT_COUNT, F.LN_STOLEN_CNT_COUNT,
   F.LN_DUP_CNT_COUNT, F.LN_REPLAY_CNT_COUNT, F.LN_CORE_WAIT_CY_COUNT]

/-- LN_CTRL.CLR_CNT clears the lantern's counters and those of its arbiters and its task queue (R173, R266). -/
def Channel.lnClrCnt (ch : Channel) (g : Nat) : Channel := ch.modLan g fun l =>
  { l with regs := l.regs.clear (lnCounters ++ tqCounters) 0 }

end Sys2Proof.Machine
end

