-- ==== Sys2Proof/Machine/Parking.lean ====
section
/-! DEFINITION. Parking of a lantern (R142 to R144). -/

namespace Sys2Proof.Machine

/-- LN_CTRL.PARK (R143): the park is pending, and every stream finishes its transfer and stops. -/
def Channel.park (ch : Channel) (g : Nat) : Channel :=
  (upto 16).foldl (fun ch n => ch.streamStop g n true)
    ((ch.modLan g fun l => { l with parkReady := false }).lw g F.LN_STATUS_PARK_PEND 0 1)

/-- The streams that parking stopped go on from their positions; a moored stream that ended during the park takes its shadow and
restarts (R143, R235). -/
def Channel.unstop (ch : Channel) (g : Nat) : Channel :=
  (upto 16).foldl (fun ch n =>
    let s := (ch.lan g).stm n
    if s.byPark then
      if (ch.lan g).stmState n = 4 then ch.streamResume g n
      else ch.modStm g n fun s => { s with stopping := false, byPark := false }
    else if (ch.lan g).stmState n = 0 then ch.applyShadow g n
    else ch) ch

/-- LN_CTRL.RESUME (R143, R144). -/
def Channel.lanResume (ch : Channel) (g : Nat) : Channel :=
  let l := ch.lan g
  let ch := ch.lw g F.LN_STATUS_PARK_PEND 0 0
  if l.r F.LN_STATUS_PARKED = 1 then ch.modLan g fun l => { l with resumeReq := some ch.tick }
  else if l.r F.LN_STATUS_PARK_PEND = 1 then ch.unstop g
  else ch

/-- Nothing of the lantern is in progress: no task promoted, every stream idle, halted or stopped, and no vector
instruction (R143). -/
def Lantern.quiet (l : Lantern) : Bool :=
  l.tq.tasks.isEmpty && l.ve.tasks.isEmpty && l.ve.mem.isEmpty &&
    (upto 16).all fun n => (l.stmState n == 0 || l.stmState n == 3 || l.stmState n == 4) && (l.issuedOf n).isEmpty

/-- A tick begins: each lantern with a pending park and no open work may now complete it (R143). -/
def Channel.parkTick (ch : Channel) : Channel :=
  { ch with lans := ch.lans.mapV fun _ l => { l with parkReady := l.r F.LN_STATUS_PARK_PEND == 1 && l.quiet } }

/-- The pending park completes in the first tick that began with no open work (R143). -/
def Channel.parkReached (ch : Channel) (g : Nat) : Channel :=
  if (ch.lan g).r F.LN_STATUS_PARK_PEND = 1 ∧ (ch.lan g).parkReady ∧ (ch.lan g).quiet then
    (ch.lw g F.LN_STATUS_PARK_PEND 0 0).lw g F.LN_STATUS_PARKED 0 1
  else ch

/-- The lantern leaves parking (R142, R143). Its streams stay stopped while another park is pending. -/
def Channel.release (ch : Channel) (g : Nat) : Channel :=
  let ch := (ch.modLan g fun l => { l with resumeReq := none }).lw g F.LN_STATUS_PARKED 0 0
  if (ch.lan g).r F.LN_STATUS_PARK_PEND = 1 then ch else ch.unstop g

/-- The start of the tick after RESUME was written (R143). -/
def Channel.lanUnpark (ch : Channel) (g : Nat) : Channel :=
  match (ch.lan g).resumeReq with
  | some t => if (ch.lan g).r F.LN_STATUS_PARKED = 1 ∧ t ≠ ch.tick then ch.release g else ch
  | none => ch

end Sys2Proof.Machine
end

