-- ==== Sys2Proof/Machine/Timebase.lean ====
section
/-! DEFINITION. The bridge timebase: edges, lock, holdover and markers (R269 to R280). Times count cycles of 250 MHz. -/

namespace Sys2Proof.Machine

/-- UNIT of the bridge timebase (R418). -/
def tbUnit : Nat := unitWord 0 12 0 0 0

/-- P, in 1/16 cycle (R269). -/
def Bridge.tbP (b : Bridge) : Nat := b.r F.TB_PERIOD_P

/-- Applies `f` to the timebase. -/
def Bridge.modTb (b : Bridge) (f : Timebase → Timebase) : Bridge := { b with tb := f b.tb }

/-- The phase, in steps, of time `at_` in a tick that began at `ts`, in 1/16 cycles (R269). -/
def Bridge.phaseOf (b : Bridge) (ts at_ : Nat) : Nat := (16 * at_ - ts) * 1024 / b.tbP

/-- The phase of the present time in a tick that began at `ts`, in 1/16 cycles (R269). -/
def Bridge.phaseNow (b : Bridge) (ts : Nat) : Nat := (16 * (17 * b.tb.now + b.tb.sub) - 17 * ts) * 1024 / (17 * b.tbP)

/-- The phase that registers report stops at 1,023 (R269). -/
def Bridge.showPhase (b : Bridge) : Bridge :=
  match b.tb.tickAt with
  | some ts => b.w F.TB_TICK_PHASE 0 (min 1023 (b.phaseNow ts))
  | none => b

/-- An event of the timebase at time `at_`; the time that has passed is kept. -/
def Timebase.advance (t : Timebase) (at_ : Nat) : Timebase :=
  { t with now := at_, sub := 17 * t.now + t.sub - 17 * at_ }

/-- The time of one array cycle passes in the bridge: 5/17 cycle of 250 MHz (log entry 29). -/
def Bridge.cycle (b : Bridge) : Bridge := (b.modTb fun t => { t with sub := t.sub + 5 }).showPhase

/-- A tick begins: the count, the phase, the count of holdover ticks, and the values written in the tick before (R12,
R271, R274); its message is due to every channel (R276). -/
def Bridge.tickBegin (b : Bridge) (count ts : Nat) (hold : Bool) : Bridge :=
  let b := (b.w F.TB_TICK_TICK 0 count).modTb fun t => { t with tickAt := some ts, due := upto 12 }
  let b := if hold then b.inc F.TB_HOLD_TICKS_COUNT 0 1 else b
  { b with regs := b.regs.tickStart }.showPhase

/-- An accepted interval enters the mean (R269). -/
def Bridge.interval (b : Bridge) (d : Nat) : Bridge :=
  let xs := d :: b.tb.ivals.take 15
  (b.modTb fun t => { t with ivals := xs }).w F.TB_PERIOD_P 0 (xs.foldl (· + ·) 0)

/-- The interval since the last edge, outside holdover, enters P (R270). -/
def Bridge.follow (b : Bridge) (at_ : Nat) : Bridge :=
  match b.tb.last with
  | some l => b.interval (at_ - l)
  | none => b

/-- The interval from the last edge to one at `at_` lies within P ± W steps (R274). -/
def Bridge.intervalOk (b : Bridge) (at_ : Nat) : Bool :=
  match b.tb.last with
  | some l => let p := (at_ - l) * 16384 / b.tbP; decide (1024 ≤ p + b.r F.TB_CFG_WIN) && decide (p < 1024 + b.r F.TB_CFG_WIN)
  | none => false

/-- An edge placed at time `at_`, known at time `now`, with the tick count that a marker gives, if any (R270 to R274, R279). Ticks
that began without lock take edges by their interval, as before the lock (R274, log entry 114). The Bool says whether it is
accepted. -/
def Bridge.edge (b : Bridge) (now at_ : Nat) (count : Option Nat) : Bridge × Bool :=
  if now < b.tb.now then (b, false)
  else
    let w := b.r F.TB_CFG_WIN
    let b0 := b.modTb fun t => t.advance now
    if b.r F.TB_STAT_EN = 0 then (b0.modTb fun t => { t with last := some at_ }, false)
    else match b.tb.tickAt with
    | none =>
      let ok := b.intervalOk at_
      let b1 := if ok then (b0.follow at_).modTb fun t => { t with good := t.good + 1, count := count.getD 0 }
        else b0.modTb fun t => { t with good := 0 }
      (b1.modTb fun t => { t with last := some at_ }, ok)
    | some ts =>
      let p := b.phaseOf ts at_
      let free := b.r F.TB_STAT_LOCKED == 0
      if p < 1024 + w ∧ free ∧ !b.intervalOk at_ then ((b0.modTb fun t => { t with last := some at_, good := 0 }).showPhase, false)
      else if !free ∧ p + w < 1024 then ((b0.inc F.TB_SPUR_CNT_COUNT 0 1).w F.TB_STAT_SPUR 0 1 |>.showPhase, false)
      else if p < 1024 + w then
        let good := b.tb.good + 1
        let holding := b.r F.TB_STAT_HOLDOVER == 1
        let ends := holding && decide (b.r F.TB_CFG_RELOCK ≤ good)
        let b1 := (b0.w F.TB_PHASE_ERR_ERR 0 (ofInt 12 ((p : Int) - 1024))).w F.TB_STAT_MISS_RUN 0 0
        let b1 := if holding then b1 else b1.follow at_
        let b1 := b1.modTb fun t => { t with last := some at_, good := good, rang := false }
        let next := (b.r F.TB_TICK_TICK + 1) % 2 ^ 48
        let b1 := match count with
          | some c => if c = next then b1 else (b1.inc F.TB_REALIGN_CNT_COUNT 0 1).raise 0x41 tbUnit 0
          | none => b1
        (b1.tickBegin (count.getD next) (16 * at_) (holding && !ends), true)
      else (b, false)

/-- An FSYNC edge; ignored while ticks come from markers (R270, R279). -/
def Bridge.fsync (b : Bridge) (at_ : Nat) : Bridge := if b.r F.TB_CFG_SRC = 1 then b else (b.edge at_ at_ none).1

/-- A tick marker that arrives at the P2 port of channel TB_CFG.SRC_CH (R279): latency in 1/16 cycles. -/
def Bridge.marker (b : Bridge) (at_ lat arg0 epoch : Nat) : Bridge :=
  if b.r F.TB_CFG_SRC = 0 then b
  else
    let t := at_ - lat / 16 - bits arg0 57 48 * b.tbP / 16384
    let (b1, ok) := b.edge at_ t (some (bits arg0 47 0))
    if ok then (b1.modTb fun x => { x with hops := bits arg0 63 60 + 1 }).w F.TB_EPOCH_EPOCH 0 epoch else b1

/-- LOCKED sets after RELOCK consecutive accepted edges, and tick 0 begins at the last of them (R274, R279). -/
def Bridge.lock (b : Bridge) : Bridge :=
  match b.tb.tickAt, b.tb.last with
  | none, some l =>
    if b.r F.TB_STAT_EN = 1 ∧ b.r F.TB_CFG_RELOCK ≤ b.tb.good then
      (b.w F.TB_STAT_LOCKED 0 1).tickBegin b.tb.count (16 * l) false
    else b
  | _, _ => b

/-- The alarm and ALERT_N, and one record for each holdover episode (R272). -/
def Bridge.soundAlarm (b : Bridge) : Bridge :=
  let b1 := { (b.w F.TB_STAT_ALARM 0 1).modTb (fun t => { t with alarmed := true, rang := true }) with alert := true }
  if b.tb.alarmed then b1 else b1.raise 0x40 tbUnit 0

/-- With FREERUN set and no lock within 16,000 × P after EN, tick 0 begins in holdover with the alarm (R274). -/
def Bridge.freerun (b : Bridge) (at_ : Nat) : Bridge :=
  if b.r F.TB_STAT_EN = 1 ∧ b.r F.TB_CFG_FREERUN = 1 ∧ b.tb.tickAt.isNone ∧ b.tb.now ≤ at_ ∧ b.tb.enAt + 1000 * b.tbP ≤ at_ then
    let b := (b.modTb fun t => { t.advance at_ with good := 0 }).w F.TB_STAT_HOLDOVER 0 1
    (b.tickBegin 0 (16 * at_) true).soundAlarm
  else b

/-- At phase 1,024 + W without an accepted edge a holdover tick begins with phase W (R271). -/
def Bridge.holdoverTick (b : Bridge) : Bridge :=
  match b.tb.tickAt with
  | none => b
  | some ts =>
    let due := ceilDiv (ts + ceilDiv (b.tbP * (1024 + b.r F.TB_CFG_WIN)) 1024) 16
    let b := b.modTb fun t => { t.advance (max t.now due) with good := 0 }
    let b := (b.inc F.TB_MISS_CNT_COUNT 0 1).inc F.TB_STAT_MISS_RUN 0 1
    (b.w F.TB_STAT_HOLDOVER 0 1).tickBegin ((b.r F.TB_TICK_TICK + 1) % 2 ^ 48) (ts + b.tbP) true

/-- MISS_RUN has reached MISS_ALARM: the alarm, once for each run of misses (R272). -/
def Bridge.clockAlarm (b : Bridge) : Bridge :=
  if b.r F.TB_STAT_HOLDOVER = 1 ∧ !b.tb.rang ∧ b.r F.TB_CFG_MISS_ALARM ≤ b.r F.TB_STAT_MISS_RUN then b.soundAlarm else b

/-- HOLDOVER clears after RELOCK consecutive accepted edges (R273); LOCKED sets then if it had not. -/
def Bridge.holdoverEnd (b : Bridge) : Bridge :=
  if b.r F.TB_STAT_HOLDOVER = 1 ∧ b.r F.TB_CFG_RELOCK ≤ b.tb.good then
    ((b.w F.TB_STAT_HOLDOVER 0 0).w F.TB_STAT_LOCKED 0 1).modTb fun t => { t with alarmed := false, rang := false }
  else b

/-- The counters of the timebase (R280). -/
def tbCounters : List Fld :=
  [F.TB_SPUR_CNT_COUNT, F.TB_MISS_CNT_COUNT, F.TB_HOLD_TICKS_COUNT, F.TB_REALIGN_CNT_COUNT]

/-- TB_CTRL.CLR_CNT (R280). -/
def Bridge.tbClrCnt (b : Bridge) : Bridge := { b with regs := b.regs.clear tbCounters 0 }

/-! ### Ticks of a channel (R276, R277) -/

/-- A tick message arrives over a working attachment: the count and the port mask, and the channel's copy of P follows (R276, R277,
R355, log entry 115). -/
def Channel.tickMessage (ch : Channel) (count mask p : Nat) : Channel :=
  if ch.r F.CH_INFO_A0_UP = 1 ∨ ch.r F.CH_INFO_A1_UP = 1 then
    { ch with ctx := { ch.ctx with msg := some (count, mask), perP := p } }
  else ch

/-- The array clock of an operating point, in MHz (R445). -/
def opMhz (code : Nat) : Nat := if code = 0 then 850 else if code = 1 then 700 else if code = 2 then 550 else 400

/-- The phase of the channel's tick, which continues past 1,023 while the next is late (R269, R276). -/
def Channel.tickPhase (ch : Channel) : Nat := ch.ctx.tickTm * 16384 / (17 * ch.ctx.perP)

/-- The phase that registers report stops at 1,023 (R269). -/
def Channel.showPhase (ch : Channel) : Channel :=
  if ch.ctx.ticking then ch.w F.CH_TICK_PHASE 0 (min 1023 ch.tickPhase) else ch

/-- A channel tick begins with the given count, `tm` ago in 1/17 cycles of 250 MHz (R276, R277): the port mask of the message applies (R355), the values
written in the tick before take effect (R12), and the limits of one record a tick begin again (R154). -/
def Channel.tickBegin (ch : Channel) (count tm : Nat) : Channel :=
  let ch := match ch.ctx.msg with
    | some (_, m) => ch.w F.LK_RT_STAT_MASK 0 m
    | none => ch
  let ch := { ch with ctx := { ch.ctx with msg := none, ticking := true, tickTm := tm },
                      regs := ch.regs.tickStart, err := { ch.err with once := [] },
                      lans := ch.lans.mapV fun _ l => { l with regs := l.regs.tickStart } }
  (ch.w F.CH_TICK_TICK 0 count).showPhase

/-- UNIT of the channel's timebase. -/
def Channel.tbUnit (ch : Channel) : Nat := unitWord ch.no 12 0 1 0

/-- The tick that a message announces begins; a count that differs from the channel's own is recorded (R277). -/
def Channel.tickOfMessage (ch : Channel) (count : Nat) : Channel :=
  let off := ch.ctx.ticking && count != (ch.tick + 1) % 2 ^ 48
  let ch := (ch.tickBegin count 0).w F.CH_TICK_HOLD 0 0
  if off then ch.raise 0x41 ch.tbUnit none 0 else ch

/-- A holdover tick of the channel's own timebase, placed one P after the last (R271, R277). -/
def Channel.tickAlone (ch : Channel) : Channel :=
  (ch.tickBegin ((ch.tick + 1) % 2 ^ 48) (ch.ctx.tickTm - 17 * ch.ctx.perP / 16)).w F.CH_TICK_HOLD 0 1

end Sys2Proof.Machine
end

