-- ==== Sys2Proof/Machine/Power.lean ====
section
/-! DEFINITION. Supplies, operating points, temperature and the power cap (R441 to R458). -/

namespace Sys2Proof.Machine

/-! ### Operating points (R445 to R450) -/

/-- Applies `f` to the power state of a channel. -/
def Channel.modPwr (ch : Channel) (f : Pwr → Pwr) : Channel := { ch with pwr := f ch.pwr }

/-- The highest-numbered of the codes that apply before the neighbour limit (R447). -/
def Channel.opAlone (ch : Channel) : Nat :=
  max (ch.r F.CH_OP_TARGET) (max (ch.r F.CH_OP_THERM_CAP) (ch.r F.CH_OP_PWR_CAP))

/-- The highest-numbered of the four codes (R446). -/
def Channel.opWanted (ch : Channel) : Nat := max ch.opAlone (ch.r F.CH_OP_NB_CAP)

/-- At the start of a tick the effective point becomes the one wanted, and a change begins (R446, R448). -/
def Channel.opTick (ch : Channel) : Channel :=
  if ch.opWanted = ch.r F.CH_OP_EFFECTIVE then ch
  else (((ch.w F.CH_OP_EFFECTIVE 0 ch.opWanted).w F.CH_OP_TRANS 0 1).inc F.CH_OP_CHG_CNT_COUNT 0 1).modPwr
    fun p => { p with stage := 1 }

/-- Either end of the 0.5 µs for which the array clock stops to switch its frequency (R448). -/
def Channel.clockSwitch (ch : Channel) : Channel :=
  if ch.pwr.stage = 1 then { (ch.modPwr fun p => { p with stage := 2 }) with clkOn := false }
  else if ch.pwr.stage = 2 then
    { (ch.modPwr fun p => { p with stage := 3, code := ch.r F.CH_OP_EFFECTIVE }) with clkOn := true }
  else ch

/-- The change of the operating point ends (R448). -/
def Channel.opChangeDone (ch : Channel) : Channel :=
  if 2 ≤ ch.pwr.stage then
    let x := (ch.w F.CH_OP_TRANS 0 0).modPwr fun p => { p with stage := 0, code := ch.r F.CH_OP_EFFECTIVE }
    { x with clkOn := true }
  else ch

/-- VCORE falls more than 40 mV below its setpoint (R450). -/
def Channel.vcoreDroop (ch : Channel) : Channel :=
  (ch.w F.CH_PWR_STAT_DROOP 0 1).modPwr fun p => { p with droop := true }

/-- VCORE recovers (R450). -/
def Channel.droopRecover (ch : Channel) : Channel := ch.modPwr fun p => { p with droop := false }

/-- VCORE of an operating point before TRIM, in units of 0.1 mV (R445). -/
def opVolt (code : Nat) : Int :=
  if code = 0 then 7500 else if code = 1 then 6800 else if code = 2 then 6200 else 5600

/-- A channel's VCORE setpoint at a code, TRIM included, in units of 0.1 mV (R442, R445). -/
def Channel.vcore (ch : Channel) (code : Nat) : Int := opVolt code + 25 * sext 4 (ch.r F.CH_OP_TRIM)

/-- The neighbours of a channel (R32, R447). -/
def neighbours (c : Nat) : List Nat := [(c + 11) % 12, (c + 1) % 12]

/-- A neighbour that runs has a setpoint more than 150 mV lower (R447). -/
def State.nbLimited (s : State) (c : Nat) : Bool :=
  (neighbours c).any fun d => !s.mod.holds d &&
    decide ((s.chan d).vcore (s.chan d).opAlone + 1500 < (s.chan c).vcore (s.chan c).opAlone)

/-- Before a tick the lit half sets NB_CAP of every channel (R447). -/
def State.nbVoltage (s : State) : State :=
  s.eachChan fun c ch =>
    let lim := s.nbLimited c
    let ch := ch.w F.CH_OP_NB_CAP 0 (b2n lim)
    if lim && ch.opAlone == 0 then ch.tell (.pwrLog 3 1) else ch

/-! ### Temperature (R451 to R453) -/

/-- The largest of a list of readings, at least `m`. -/
def maxOf (m : Int) : List Int → Int
  | [] => m
  | x :: xs => maxOf (if m < x then x else m) xs

/-- The hottest reading. -/
def hottest : List Int → Int
  | [] => 0
  | x :: xs => maxOf x xs

/-- TJ_C in degrees. -/
def Channel.tj (ch : Channel) : Int := sext 8 (ch.r F.CH_TEMP_TJ_C)

/-- The keeper reads the sensors of the logic die, the base die and the stack (R308, R451, R453). -/
def Channel.tempSample (ch : Channel) (logic base : List Int) (stack : Int) : Channel :=
  let ch := (ch.w F.CH_TEMP_TJ_C 0 (ofInt 8 (hottest logic))).w F.CH_TEMP_BASE_C 0 (ofInt 8 (hottest base))
  let ch := (ch.w F.HM_TEMP_STACK_C 0 (ofInt 8 stack)).hotSync
  ch.modPwr fun p => { p with hot := if 105 ≤ hottest logic then p.hot + 1 else 0 }

/-- The keeper raises THERM_CAP by one code (R451, R452). -/
def Channel.thermUp (ch : Channel) (reason : Nat) : Channel :=
  let ch := ch.w F.CH_OP_THERM_CAP 0 (ch.r F.CH_OP_THERM_CAP + 1)
  ch.tell (.pwrLog reason ch.opWanted)

/-- The end of a millisecond with TJ_C at or above THR_HI (R451). -/
def Channel.thermalRaise (ch : Channel) : Channel :=
  if (ch.eff F.CH_THERM_CFG_THR_HI : Int) ≤ ch.tj ∧ ch.r F.CH_OP_THERM_CAP < 3 then
    (((ch.thermUp 1).w F.CH_PWR_STAT_THROTTLED 0 1).inc F.CH_THROTTLE_CNT_COUNT 0 1)
  else ch

/-- The end of 10 ms below THR_LO (R451). -/
def Channel.thermalLower (ch : Channel) : Channel :=
  if ch.tj < (ch.eff F.CH_THERM_CFG_THR_LO : Int) ∧ !ch.pwr.diff ∧ 0 < ch.r F.CH_OP_THERM_CAP then
    ch.w F.CH_OP_THERM_CAP 0 (ch.r F.CH_OP_THERM_CAP - 1)
  else ch

/-- A neighbour that runs is cooler by more than `k` degrees (R452). -/
def State.hotterBy (s : State) (c : Nat) (k : Int) : Bool :=
  (neighbours c).any fun d => !s.mod.holds d && decide ((s.chan d).tj + k < (s.chan c).tj)

/-- The lit half compares the neighbours' temperatures at the end of a millisecond (R452). -/
def State.nbTemp (s : State) : State :=
  s.eachChan fun c ch =>
    if s.hotterBy c 35 then
      let ch := ch.modPwr fun p => { p with diff := true }
      if ch.r F.CH_OP_THERM_CAP < 3 then
        (((ch.thermUp 2).w F.CH_PWR_STAT_DIFF_T 0 1).inc F.CH_DIFF_T_CNT_COUNT 0 1)
      else ch
    else if s.hotterBy c 30 then ch
    else ch.modPwr fun p => { p with diff := false }

/-- UNIT of a record about the whole module (R418). -/
def modUnit : Nat := unitWord 0 14 0 0 0

/-- Ten consecutive samples at 105 °C or more (R453). -/
def State.overTemp (s : State) (c : Nat) : State :=
  if 10 ≤ (s.chan c).pwr.hot then { s with mod := s.mod.raise 0xE3 modUnit c } else s

/-- The counters that CH_PWR_CTRL.CLR_CNT clears (R457). -/
def pwrCounters : List Fld := [F.CH_THROTTLE_CNT_COUNT, F.CH_DIFF_T_CNT_COUNT, F.CH_DROOP_CNT_COUNT, F.CH_OP_CHG_CNT_COUNT]

/-- CH_PWR_CTRL.CLR_CNT (R457). -/
def Channel.pwrClrCnt (ch : Channel) : Channel := { ch with regs := ch.regs.clear pwrCounters 0 }

/-! ### Supplies (R441 to R443) -/

/-- Setpoint in units of 0.1 mV of a rail: the row of the table of R442 from 0, and the supply within row 4. -/
def State.railSet (s : State) (c row sub : Nat) : Int :=
  if row = 0 then (s.chan c).vcore ((s.chan c).r F.CH_OP_EFFECTIVE)
  else if row = 1 then 8000
  else if row = 2 then 7500
  else if row = 3 then 7500
  else if row = 4 then (if sub = 0 then 7000 else if sub = 1 then 10500 else 18000)
  else if row = 5 then 8000
  else 18000

/-- A sampled rail, its voltage in units of 0.1 mV, is more than 5 % from its setpoint (R443). -/
def State.railBad (s : State) (c row sub : Nat) (v : Int) : Bool :=
  decide (s.railSet c row sub < 20 * (v - s.railSet c row sub)) || decide (s.railSet c row sub < 20 * (s.railSet c row sub - v))

/-- The keys of the supplies that a sample finds out of limits: 4 × (16 × channel + row) + the supply within the row, with 15 for the
bridge and the inputs (R443). VIN and VAUX are in mV. The rails of a channel in reset or powered down are not sampled. -/
def State.outOfLimits (s : State) (vin vaux : Nat) (rails : List (Nat × Nat × Nat × Int)) : List Nat :=
  (if vin < 38000 || 60000 < vin then [4 * (15 * 16 + 15)] else []) ++
  (if vaux < 3000 || 3600 < vaux then [4 * (15 * 16 + 14)] else []) ++
  (rails.filter fun x => !(decide (x.1 < 12) && s.mod.holds x.1) && s.railBad x.1 x.2.1 x.2.2.1 x.2.2.2).map fun x =>
    4 * (x.1 % 16 * 16 + x.2.1 % 16) + x.2.2.1 % 4

/-- The lit half and the keepers sample the inputs and the rails (R443). -/
def State.supplySample (s : State) (vin vaux : Nat) (rails : List (Nat × Nat × Nat × Int)) : State :=
  let bad := s.outOfLimits vin vaux rails
  let counts : SMap Nat := bad.foldl (fun (m : SMap Nat) k => SMap.put m k (s.mod.boot.supply.getD k 0 + 1)) []
  let b := s.mod.modBoot fun x => { x with supply := counts }
  let margin := (38000 ≤ vin && vin < 40000) || (58000 < vin && vin ≤ 60000)
  { s with mod := if margin then b.w F.MOD_PWR_STAT_VIN_MARGIN 0 1 else b }

/-- A supply has been out of limits for 100 µs, ten samples in a row (R443). -/
def Bridge.supplyFault (b : Bridge) : Bridge :=
  match b.boot.supply.find? (fun kv => decide (10 ≤ kv.2)) with
  | some kv => b.raise 0xE2 modUnit (kv.1 / 64 + (kv.1 / 4 % 16) <<< 4)
  | none => b

/-! ### The power cap (R454) -/

/-- The averages of a millisecond: voltage and current in mV and mA, power in W. -/
def Bridge.average (b : Bridge) (mv ma w : Nat) : Bridge :=
  ((b.w F.MOD_PWR_STAT_VIN 0 (mv / 10)).w F.MOD_PWR_STAT_IIN 0 (ma / 100)).w F.MOD_PWR_W_POWER 0 w

/-- The current limit in mA and the power limit in W. -/
def Bridge.powerLimits (b : Bridge) : Nat × Nat := (b.eff F.MOD_PWR_CFG_ILIM * 1000, b.eff F.MOD_PWR_CFG_PLIM * 10)

/-- The channel with the highest measured power among those whose effective code is below 3, the lowest-numbered among
equals (R454). -/
def State.capVictim (s : State) (watts : List Nat) : Option Nat :=
  (upto 12).foldl (fun best c =>
    if s.mod.holds c || 3 ≤ (s.chan c).r F.CH_OP_EFFECTIVE then best
    else match best with
      | some d => if watts.getD d 0 < watts.getD c 0 then some c else best
      | none => some c) none

/-- PWR_CAP of a channel changes by the lit half (R454). -/
def State.setCap (s : State) (c reason v : Nat) : State :=
  let ch := (s.chan c).w F.CH_OP_PWR_CAP 0 v
  let s := s.setChan c (ch.tell (.pwrLog reason ch.opWanted))
  { s with mod := (s.mod.inc F.MOD_PCAP_CNT_COUNT 0 1).modBoot fun x => { x with lowMs := 0 } }

/-- The end of a millisecond (R454): the averages are kept, and a limit exceeded raises the cap of one channel. -/
def State.capRaise (s : State) (mv ma w : Nat) (watts : List Nat) : State :=
  let s := { s with mod := s.mod.average mv ma w }
  let (il, pl) := s.mod.powerLimits
  if il < ma ∨ pl < w then
    let s := { s with mod := s.mod.modBoot fun x => { x with lowMs := 0 } }
    match s.capVictim watts with
    | some c => s.setCap c 0 (min 3 ((s.chan c).r F.CH_OP_PWR_CAP + 1))
    | none => s
  else
    let low := decide (ma * 100 < il * 95) && decide (w * 100 < pl * 95)
    { s with mod := s.mod.modBoot fun x => { x with lowMs := if low then x.lowMs + 1 else 0 } }

/-- After 10 ms below 95 % of both limits the cap of the lowest-numbered capped channel falls (R454). -/
def State.capLower (s : State) : State :=
  if s.mod.boot.lowMs < 10 then s
  else match (upto 12).find? (fun c => !s.mod.holds c && decide (0 < (s.chan c).r F.CH_OP_PWR_CAP)) with
    | some c => s.setCap c 4 ((s.chan c).r F.CH_OP_PWR_CAP - 1)
    | none => s

/-! ### Loss of power and module reset (R389, R390, R456) -/

/-- All module state is lost: what lies outside the module stays, which is the flash devices, the host's memory and the
level of LIGHT_PREF. -/
def State.wipe (s : State) (noPower : Bool) : State :=
  { s with
    chans := []
    mod := { boot := { inReset := true, noPower := noPower, pref := s.mod.boot.pref, flash := s.mod.boot.flash,
                       dead := s.mod.boot.dead },
             hostMem := s.mod.hostMem } }

/-- MOD_RESET_N rises with the supplies in tolerance: start-up begins with every channel held in reset, and both halves sample
LIGHT_PREF (R390, R403). -/
def State.release (s : State) (pref : Nat) : State :=
  if s.mod.boot.inReset then
    { s with mod := s.mod.modBoot fun x => { x with inReset := false, noPower := false, pref := pref % 2, resetCh := upto 12 } }
  else s

end Sys2Proof.Machine
end

