-- ==== Sys2Proof/Machine/Errors.lean ====
section
/-! DEFINITION. What the keeper does with its records: forwarding, remedies, health windows and the retirement of a core
(R421 to R429), and the counters of the error blocks. -/

namespace Sys2Proof.Machine

/-- Applies `f` to a channel's error state. -/
def Channel.modErr (ch : Channel) (f : ErrSt → ErrSt) : Channel := { ch with err := f ch.err }

/-- A record stops being pending (R422). -/
def Channel.pendEnd (ch : Channel) (seq : Nat) : Channel :=
  ch.modErr fun e => { e with pend := e.pend.filter fun p => p.seq != seq }

/-- The records pending for a unit's remedy stop being pending: the remedy has taken effect (R422). -/
def Channel.remedyEnd (ch : Channel) (unit : Nat) : Channel :=
  ch.modErr fun e => { e with pend := e.pend.filter fun p => !(p.remedy && p.unit == unit) }

/-- The record is taken, and a remedy has begun for it. -/
def Channel.remedyBegin (ch : Channel) (seq : Nat) : Channel :=
  ch.modErr fun e => { e with pend := e.pend.map fun p => if p.seq = seq then { p with taken := true, remedy := true } else p }

/-- Grid index of a UNIT (R418, R473). -/
def unitGrid (u : Nat) : Nat := bits u 8 4 * 48 + bits u 14 9

/-- Logical number of a physical core, if it is bound. -/
def Lantern.boundTo (l : Lantern) (k : Nat) : Option Nat := (upto 60).find? fun n => l.physOf n == some k

/-- The channel's spares after a spare core has been used (R39): `l` is the lantern before, and `gone` the core. -/
def Channel.useSpare (ch : Channel) (g k : Nat) : Channel :=
  let ch := ch.modLan g fun l => l.clrBit F.LN_CORE_SPARE_MASK k
  let ch := ch.w F.CH_SPARES_CO_FREE 0 (ch.r F.CH_SPARES_CO_FREE - 1)
  if (ch.lan g).r F.LN_CORE_SPARE_MASK = 0 then ch.inc F.CH_SPARES_LN_NO_CORE 0 1 else ch

/-- A core leaves service (R141): its bit of LN_CORE_BAD. -/
def Channel.coreBad (ch : Channel) (g k : Nat) : Channel := ch.modLan g fun l => l.setBit F.LN_CORE_BAD_MASK k

/-- A lantern replacement becomes due at the next channel boundary (R428). -/
def Channel.lanternDue (ch : Channel) (g unit : Nat) : Channel :=
  if ch.err.replaceDue.any fun x => x.1 == g then ch
  else ch.modErr fun e => { e with replaceDue := e.replaceDue ++ [(g, unit)] }

/-- The remedy of a lasting fault of core `k` (R428): retirement at the next boundary when the core is bound, or lantern
replacement when no spare core is left; a usable spare core goes at once. -/
def Channel.coreRemedy (ch : Channel) (g k : Nat) (p : PendRec) : Channel :=
  let l := ch.lan g
  match l.boundTo k with
  | some n =>
    if ch.err.retiring.any (fun x => x.g == g && x.phys == k) || ch.err.retireDue.any (fun x => x.1 == g && x.2.1 == n)
    then ch.pendEnd p.seq
    else if l.r F.LN_CORE_SPARE_MASK = 0 then (ch.remedyBegin p.seq).lanternDue g p.unit
    else (ch.remedyBegin p.seq).modErr fun e => { e with retireDue := e.retireDue ++ [(g, n, p.unit)] }
  | none =>
    if isSet (l.r F.LN_CORE_SPARE_MASK) k then
      ((((ch.pendEnd p.seq).useSpare g k).coreBad g k).raise 0xAB (unitWord ch.no 2 g k 0) none 0)
    else ch.pendEnd p.seq

/-- The remedy of a lasting fault of slice `s` of core `k` (R428). -/
def Channel.sliceRemedy (ch : Channel) (g k s : Nat) (p : PendRec) : Channel :=
  let l := ch.lan g
  let sf := l.r F.CO_SLICEMAP_SPARE_FOR k
  let bad := l.r F.CO_SLICEMAP_SLICE_BAD k
  if isSet bad s then ch.pendEnd p.seq
  else if sf = 0x1F ∧ s = 16 then (ch.lw g F.CO_SLICEMAP_SLICE_BAD k (bad + 2 ^ 16)).pendEnd p.seq
  else if sf = 0x1F ∧ !isSet bad 16 then
    let ch := (ch.lw g F.CO_SLICEMAP_SPARE_FOR k s).lw g F.CO_SLICEMAP_SLICE_BAD k (bad + 2 ^ s)
    (ch.pendEnd p.seq).raise 0xAA p.unit none 0
  else ch.coreRemedy g k p

/-- The remedy that a taken record starts, or the end of its pending (R421, R422, R428). -/
def Channel.actOn (ch : Channel) (p : PendRec) : Channel :=
  if 2 ≤ p.cls then ch.modErr fun e => { e with pend := e.pend.map fun x => if x.seq = p.seq then { x with taken := true } else x }
  else if !p.lasting then ch.pendEnd p.seq
  else
    let g := unitGrid p.unit
    match causeHealth p.cause with
    | some 1 => ch.sliceRemedy g (bits p.unit 20 15) (bits p.unit 25 21) p
    | some 2 => ch.coreRemedy g (bits p.unit 20 15) p
    | some _ => (ch.remedyBegin p.seq).lanternDue g p.unit
    | none => ch.pendEnd p.seq

/-- Four words of a repeated 64-bit field, from entry `n`. -/
def Regs.getWords (r : Regs) (f : Fld) (n k : Nat) : List Nat := (rangeFrom n k).map fun i => r.get f i

/-- The class below which records are not forwarded (R421, R439). -/
def Channel.fwdMin (ch : Channel) : Nat := if ch.r F.ERR_CFG_FWD_MIN = 3 then 2 else ch.r F.ERR_CFG_FWD_MIN

/-- The keeper takes the record at the head of the ring (R421). -/
def Channel.takeRecord (ch : Channel) : Channel :=
  if ch.entries = 0 then ch
  else
    let h := ch.r F.ERR_RING_PTR_HEAD
    let ws := ch.regs.getWords F.ERR_RING_REC (4 * (h % 64)) 4
    let w0 := ws.getD 0 0
    let ch := if ch.fwdMin ≤ bits w0 33 32 then ch.tell (.forward ws) else ch
    let ch := (ch.w F.ERR_RING_PTR_HEAD 0 (h + 1)).w F.ERR_STATUS_ENTRIES 0 (ch.entries - 1)
    match ch.err.pend.find? (fun p => p.seq == w0 % 2 ^ 32 && !p.taken) with
    | some p => ch.actOn p
    | none => ch

/-- The lit half takes the record at the head of the module ring and writes it to the event ring (R421). -/
def Bridge.takeRecord (b : Bridge) : Bridge :=
  let n := b.r F.ERR_MOD_STATUS_ENTRIES
  if n = 0 then b
  else
    let h := b.r F.ERR_MOD_RING_PTR_HEAD
    let ws := b.regs.getWords F.ERR_MOD_RING_REC (4 * (h % 64)) 4
    let seq := ws.getD 0 0 % 2 ^ 32
    let b := (b.event 2 ws).w F.ERR_MOD_RING_PTR_HEAD 0 (h + 1)
    { b.w F.ERR_MOD_STATUS_ENTRIES 0 (n - 1) with pend := b.pend.filter fun p => 3 ≤ p.cls || p.seq != seq }

/-- The window boundary of the health counts and of the lane counts, once in its tick (R366, R427). -/
def Channel.healthWindow (ch : Channel) : Channel :=
  if ch.tick % 2 ^ ch.r F.ERR_CFG_WIN_LOG2 = 0 ∧ ch.err.halved ≠ some ch.tick then
    (ch.modErr fun e => { e with health := e.health.mapV fun _ v => v / 2, halved := some ch.tick }).laneWindow
  else ch

/-! ### Core retirement (R429) -/

/-- A retirement that is due begins at the channel boundary: the lantern binds no new task to the core. -/
def Channel.retireBegin (ch : Channel) (x : Nat × Nat × Nat) : Channel :=
  let (g, n, unit) := x
  match (ch.lan g).physOf n with
  | none => ch
  | some k =>
    let ch := ch.modTq g fun q => { q with barred := if q.barred.contains k then q.barred else q.barred ++ [k] }
    let t : Retire := { g := g, logical := n, phys := k, unit := unit, limit := ch.tick + ch.r F.CH_CHAR_PERIOD }
    ch.modErr fun e => { e with retiring := e.retiring ++ [t] }

/-- Every retirement that is due begins (R433). -/
def Channel.retireAll (ch : Channel) : Channel :=
  let due := ch.err.retireDue
  due.foldl Channel.retireBegin (ch.modErr fun e => { e with retireDue := [] })

/-- A task is open on physical core `k`. -/
def Lantern.coreOpen (l : Lantern) (k : Nat) : Bool :=
  l.tq.tasks.any (fun t => t.on == some k) || !(l.core k).tasks.isEmpty

/-- The retirement under way of logical core `n`. -/
def Channel.retireOf (ch : Channel) (g n : Nat) : Option Retire :=
  ch.err.retiring.find? fun x => x.g == g && x.logical == n

/-- The retirement of a logical core is over. -/
def Channel.retireEnd (ch : Channel) (g n : Nat) : Channel :=
  ch.modErr fun e => { e with retiring := e.retiring.filter fun y => !(y.g == g && y.logical == n) }

/-- Once its pinned blocks are loaded, 0xAB is raised and the lantern binds tasks to the core again (R429, step 4). -/
def Channel.retireSettle (ch : Channel) (g n : Nat) : Channel :=
  match ch.retireOf g n with
  | some { phys := k, unit := unit, spare := some sp, .. } =>
    if ch.loading g then ch
    else
      let ch := (ch.retireEnd g n).modTq g fun q => { q with barred := q.barred.filter (· != sp) }
      (ch.remedyEnd unit).raise 0xAB (unitWord ch.no 2 g k 0) none 0
  | _ => ch

/-- No task of the core remains open: the spare is bound, the core is marked, its blocks are loaded, and 0xAB is raised (R429, steps
2 to 4). -/
def Channel.retireComplete (ch : Channel) (g n : Nat) : Channel :=
  match ch.retireOf g n with
  | none => ch
  | some x =>
    if x.spare.isSome then ch.retireSettle g n
    else if (ch.lan g).coreOpen x.phys then ch
    else match lowestSet 64 0 ((ch.lan g).r F.LN_CORE_SPARE_MASK) with
      | none => (ch.retireEnd g n).lanternDue g x.unit
      | some sp =>
        let ch := (ch.lw g F.LN_CORE_BIND_PHYS n sp).coreBad g x.phys
        let ch := ch.useSpare g sp
        let ch := ch.modTq g fun q => { q with barred := sp :: q.barred.filter (· != x.phys) }
        let ch := ch.modErr fun e =>
          { e with retiring := e.retiring.map fun y => if y.g = g ∧ y.logical = n then { y with spare := some sp } else y }
        (ch.loadBlocks (ch.coreBlocks g n)).retireSettle g n

/-- An index that lantern `g` holds and will not complete returns to the counter that issued it (R261). -/
def Channel.replayIndex (ch : Channel) (g w i iss : Nat) : Channel :=
  let ch := if iss = g then ch.modLan g fun l => l.w F.LN_WC_STAT_OUTST w (l.r F.LN_WC_STAT_OUTST w - 1)
    else ch.modLan g (·.modWc w fun c => { c with thief := { c.thief with held := c.thief.held - 1 } })
  ch.wcReplay iss w i

/-- A task that its core will not complete is abandoned (R253, R261): its acquisitions are answered, and its index is replayed. -/
def Channel.dropTask (ch : Channel) (g : Nat) (t : LTask) : Channel :=
  let ch := if teOutEn t.w then ch.bpAnswer g (teOutBp t.w) t.id false else ch
  let ch := if teWaitEn t.w then ch.bpAnswer g (teWaitBp t.w) t.id true else ch
  let ch := match t.index with
    | some (i, iss) => ch.replayIndex g (teWc t.w) i iss
    | none => ch
  let ch := ch.modTq g fun q =>
    let es := match t.index with
      | none => q.entries.filter fun e => e.num != t.entry
      | some _ => q.entries.map fun e => if e.num = t.entry then { e with open_ := e.open_ - 1 } else e
    { q with tasks := q.tasks.filter (fun u => u.id != t.id), entries := es }
  ch.modLan g fun l => l.poolLeave.tqSync

/-- A task that a reset ends is abandoned, and the record carries its context (R429). -/
def Channel.abandon (ch : Channel) (g : Nat) (t : LTask) : Channel :=
  (ch.dropTask g t).raise 0xAD (ch.lanUnit g) (some (teCtx t.w)) 0

/-- A task stays open past the end of the boundary's period: the keeper resets the core (R429). -/
def Channel.retireTimeout (ch : Channel) (g n : Nat) : Channel :=
  match ch.retireOf g n with
  | none => ch
  | some x =>
    if ch.tick < x.limit ∨ !(ch.lan g).coreOpen x.phys then ch
    else
      let ch := ((ch.lan g).tq.tasks.filter fun t => t.on == some x.phys).foldl (fun ch t => ch.abandon g t) ch
      let ch := ch.modCore g x.phys fun _ => {}
      (ch.lw g F.CO_STATUS_BUSY x.phys 0).lw g F.CO_STATUS_CTX x.phys 0

/-! ### Other raises and counters -/

/-- A lockstep mismatch of the keeper (R420). -/
def Channel.keeperFault (ch : Channel) : Channel := ch.raise 0xC1 (unitWord ch.no 7 0 0 0) none 0

/-- A parity error on the channel fabric (R420). -/
def Channel.fabricFault (ch : Channel) : Channel := ch.raise 0xC2 (unitWord ch.no 0 0 0 0) none 0

/-- The counters that ERR_CTRL.CLR_CNT clears (R439). -/
def errCounters : List Fld := [F.ERR_CE_CNT_COUNT, F.ERR_CT_CNT_COUNT, F.ERR_ESC_CNT_COUNT, F.ERR_LOST_CNT_COUNT]

/-- ERR_CTRL.CLR_CNT (R439). -/
def Channel.errClrCnt (ch : Channel) : Channel := { ch with regs := ch.regs.clear errCounters 0 }

/-- The counters that ERR_MOD_CTRL.CLR_CNT clears (R440). -/
def errModCounters : List Fld := [F.ERR_MOD_DROP_CNT_COUNT, F.ERR_FOG_RX_CNT_COUNT]

/-- ERR_MOD_CTRL.CLR_CNT (R440). -/
def Bridge.errClrCnt (b : Bridge) : Bridge := { b with regs := b.regs.clear errModCounters 0 }

/-- MOD_MAP_CTRL.CLR_CNT (R474). -/
def Bridge.mapClrCnt (b : Bridge) : Bridge := { b with regs := b.regs.clear [F.MOD_DECODE_MISS_CNT_COUNT] 0 }

/-- What a read of ERR_HEALTH shows of the unit that ERR_HEALTH_SEL names: the count, and whether a record is pending
(R422, R439). -/
def Channel.healthShow (ch : Channel) : Nat × Nat :=
  let u := ch.r F.ERR_HEALTH_SEL_UNIT
  (ch.err.health.getD u 0, b2n (ch.err.pend.any fun p => p.unit == u))

end Sys2Proof.Machine
end

