-- ==== Sys2Proof/Machine/HostPort.lean ====
section
/-! DEFINITION. The CXL host port: link and reset, configuration space, rings, completions, interrupts, host memory accesses
and the device mailbox (R370 to R388). Host commands stand in HostCmd. -/

namespace Sys2Proof.Machine

/-! ### Link and reset (R371 to R374, R407) -/

/-- Registers of the ring pairs lie between these offsets of the bridge block (R388). -/
def ringKey (k : Nat) : Bool := decide (0x40100 * 64 ≤ k) && decide (k < 0x40500 * 64)

/-- The registers of the ring pairs return to their reset values. -/
def Regs.ringReset (r : Regs) : Regs :=
  { r with cur := r.cur.filter fun kv => !ringKey kv.1
           live := r.live.filter fun kv => !ringKey kv.1
           hold := r.hold.filter fun kv => !ringKey (kv.1 * 8)
           capt := r.capt.filter fun kv => !ringKey (kv.1 * 8) }

/-- The host-port state is reset (R372, R373): configuration space, BARs, the MSI-X table, the HDM decoders and the rings.
Events that wait for their write are dropped. -/
def Bridge.hostReset (b : Bridge) : Bridge :=
  let b := b.events.foldl (fun b e => b.dropEvent e.type e.payload) b
  { b with
    regs := b.regs.ringReset
    events := []
    hp := { b.hp with cfg := [], cxl := [], msix := [], pba := [], fmask := false, rings := [], cache := [],
                      cfgAns := none } }

/-- The link goes down (R371). -/
def Bridge.linkDrop (b : Bridge) : Bridge :=
  if b.r F.HP_STATUS_LINK_UP = 1 then (b.w F.HP_STATUS_LINK_UP 0 0).inc F.HP_LINKDN_CNT_COUNT 0 1 else b

/-- Training can go on: a half holds the light and PERST_N is deasserted (R407). -/
def Bridge.mayTrain (b : Bridge) : Bool := b.boot.grant.isSome && !b.hp.perst

/-- A link-down event (R371): the lit half trains the link again. -/
def Bridge.linkDown (b : Bridge) : Bridge :=
  let b := b.linkDrop
  b.modHp fun h => { h with training := b.mayTrain }

/-- PERST_N is asserted (R372). -/
def Bridge.perstAssert (b : Bridge) : Bridge :=
  b.hostReset.linkDrop.modHp fun h => { h with perst := true, training := false }

/-- PERST_N is deasserted: training starts while the light is held (R407). -/
def Bridge.perstDeassert (b : Bridge) : Bridge :=
  let b := b.modHp fun h => { h with perst := false }
  b.modHp fun h => { h with training := b.mayTrain && b.r F.HP_STATUS_LINK_UP == 0 }

/-- The first of the codes 0 to 3 that a mask holds. -/
def firstCode (mask : Nat) : Option Nat := (upto 4).find? fun k => isSet mask k

/-- Training completes at the highest rate and width that both ends support (R370, R371): the host's rates and widths are
masks of the codes of HP_STATUS, and `flit68` says that it needs the 68-byte flit, which 64 GT/s does not have. -/
def Bridge.linkUp (b : Bridge) (rates widths : Nat) (flit68 : Bool) : Bridge :=
  let rates := if flit68 then rates - rates % 2 else rates
  match firstCode (rates % 16), firstCode (widths % 8) with
  | some r, some w =>
    if b.hp.training then
      let b := ((b.w F.HP_STATUS_LINK_UP 0 1).w F.HP_STATUS_RATE 0 r).w F.HP_STATUS_WIDTH 0 w
      (b.w F.HP_STATUS_FLIT68 0 (b2n flit68)).modHp fun h => { h with training := false }
    else b
  | _, _ => b

/-- The bridge's next free value of `w` bits (log entry 4). -/
def Bridge.freeVal (b : Bridge) (w : Nat) : Nat × Bridge :=
  (Config.free 12 b.fresh % 2 ^ w, { b with fresh := b.fresh + 1 })

/-- What a configuration read returns at a 4-byte offset (R374, R375): the identification, the class code with the silicon
stepping, the two 64-bit BARs with their sizes; elsewhere what the host has written, or a free value. -/
def Bridge.cfgRead (b : Bridge) (o : Nat) : Nat × Bridge :=
  let v := b.hp.cfg.getD o 0
  if o = 0x00 then (0xB1201D7A, b)
  else if o = 0x08 then (0x12000000 + Config.stepping % 256, b)
  else if o = 0x10 then (v / 2 ^ 26 * 2 ^ 26 + 4, b)
  else if o = 0x18 then (v / 2 ^ 20 * 2 ^ 20 + 4, b)
  else if o = 0x14 ∨ o = 0x1C then (v, b)
  else match b.hp.cfg.find o with
    | some v => (v, b)
    | none => b.freeVal 32

/-- A configuration request (R407): Configuration Request Retry Status until verification has passed. -/
def Bridge.configRequest (b : Bridge) (o : Nat) (wr : Bool) (v : Nat) : Bridge :=
  let o := o - o % 4
  if !b.boot.cfgOk then b.modHp fun h => { h with cfgAns := none }
  else if wr then b.modHp fun h => { h with cfg := h.cfg.put o (v % 2 ^ 32), cfgAns := some 0 }
  else
    let (x, b) := b.cfgRead o
    b.modHp fun h => { h with cfgAns := some x }

/-! ### MSI-X (R377) -/

/-- Sends the pending messages whose masks are clear (R377). -/
def Bridge.sendPending (b : Bridge) : Bridge :=
  let now := b.hp.pba.filter b.unmasked
  now.foldl Bridge.signal (b.modHp fun h => { h with pba := h.pba.filter fun v => !now.contains v })

/-- A write of a word of the MSI-X table (R375, R377). -/
def Bridge.msixWrite (b : Bridge) (vec w v : Nat) : Bridge :=
  if vec < 2048 ∧ w < 4 then (b.modHp fun h => { h with msix := h.msix.put (4 * vec + w) (v % 2 ^ 32) }).sendPending else b

/-- The mask of a vector, or the function mask, is written (R377). -/
def Bridge.msixMask (b : Bridge) (vec : Option Nat) (mask : Bool) : Bridge :=
  match vec with
  | some n => b.msixWrite n 3 (b2n mask)
  | none => (b.modHp fun h => { h with fmask := mask }).sendPending

/-! ### Rings (R380 to R382) -/

/-- HP_STATUS.CFG_ERR. -/
def Bridge.hpCfgErr (b : Bridge) : Bridge := b.w F.HP_STATUS_CFG_ERR 0 1

/-- Ring registers. -/
def Bridge.crHead (b : Bridge) (r : Nat) : Nat := b.r F.HP_RING_STAT_CR_HEAD r
def Bridge.cpTail (b : Bridge) (r : Nat) : Nat := b.r F.HP_RING_STAT_CP_TAIL r

/-- The completion ring has room for one entry (R381). -/
def Bridge.cpRoom (b : Bridge) (r : Nat) : Bool :=
  let n := 2 ^ (b.ring r).cpLog
  decide ((b.cpTail r + 1) % n ≠ (b.ring r).cpHead)

/-- A ring error (R381): the pair stops, and an error event is raised, of which the spec gives no record, so that its words
are free values. -/
def Bridge.ringError (b : Bridge) (r : Nat) : Bridge :=
  let b := (b.w F.HP_RING_STAT_ERR r 1).w F.HP_STATUS_RING_ERR 0 1
  let b := b.modRing r fun q => { q with stopped := true }
  let (w0, b) := b.freeVal 64
  let (w1, b) := b.freeVal 64
  let (w2, b) := b.freeVal 64
  let (w3, b) := b.freeVal 64
  b.event 2 [w0, w1, w2, w3]

/-- A doorbell: `off` is the offset in the page of ring pair `r`, `size` the width (R380, R381). -/
def Bridge.doorbell (b : Bridge) (r off size v : Nat) : Bridge :=
  let q := b.ring r
  let i := v % 2 ^ 16
  if 16 ≤ r then b
  else if size ≠ 4 ∨ (off ≠ 0 ∧ off ≠ 8) then b.hpCfgErr
  else if b.eff F.HP_RING_CFG_EN r = 0 ∨ q.stopped then b
  else if off = 0 then
    let n := 2 ^ q.crLog
    let used := (q.tail + n - b.crHead r) % n
    let add := (i + n - q.tail) % n
    if n ≤ i ∨ n ≤ used + add then b.ringError r else b.modRing r fun q => { q with tail := i }
  else if 2 ^ q.cpLog ≤ i then b.ringError r
  else
    let n := 2 ^ q.cpLog
    let b := b.modRing r fun q =>
      { q with cpHead := i, mirror := q.mirror.filter fun e => decide ((e.1 + n - i) % n < (b.cpTail r + n - i) % n) }
    if b.cpRoom r then b.w F.HP_RING_STAT_CP_FULL r 0 else b

/-- A write of EN from 0 to 1 (R381): heads, tails and PHASE restart, and the sizes take effect (R388). -/
def Bridge.ringStart (b : Bridge) (r : Nat) : Bridge :=
  let b := (b.w F.HP_RING_STAT_CR_HEAD r 0).w F.HP_RING_STAT_CP_TAIL r 0
  let b := (b.w F.HP_RING_STAT_PHASE r 1).w F.HP_RING_STAT_CP_FULL r 0
  b.modRing r fun _ => { crLog := b.r F.HP_RING_CFG_CR_LOG2 r, cpLog := b.r F.HP_RING_CFG_CP_LOG2 r }

/-- Host address of entry `i` of the command ring, and of the completion ring. -/
def Bridge.crAddr (b : Bridge) (r i : Nat) : Nat := b.r F.HP_CR_BASE_ADDR r * 4096 + 64 * i
def Bridge.cpAddr (b : Bridge) (r i : Nat) : Nat := b.r F.HP_CP_BASE_ADDR r * 4096 + 64 * i

/-- The bridge reads the next command entry with RdShared; `entry` is the line as the host holds it, which the device cache
keeps until the host's write snoops it out (R382). -/
def Bridge.commandFetch (b : Bridge) (r : Nat) (entry : List (BitVec 8)) : Bridge :=
  let q := b.ring r
  let h := b.crHead r
  if 16 ≤ r ∨ b.eff F.HP_RING_CFG_EN r = 0 ∨ q.stopped ∨ h = q.tail ∨ b.hp.perst then b
  else
    let a := b.crAddr r h
    let e := match b.hp.cache.find a with
      | some e => e
      | none => fitTo 64 0 entry
    let b := b.modHp fun p => { p with cache := p.cache.put a e, nextId := p.nextId + 1 }
    let b := b.modRing r fun q => { q with cmds := q.cmds ++ [{ id := b.hp.nextId - 1, entry := e }] }
    b.w F.HP_RING_STAT_CR_HEAD r ((h + 1) % 2 ^ q.crLog)

/-- A host snoop removes a line from the device cache (R382). -/
def Bridge.snoopOut (b : Bridge) (addr : Nat) : Bridge :=
  b.modHp fun h => { h with cache := h.cache.del (addr - addr % 64) }

/-! ### Completions and interrupts (R384 to R387) -/

/-- The 64 bytes of an entry (R384). -/
def Bridge.entryBytes (b : Bridge) (r : Nat) (e : HEntry) : List (BitVec 8) :=
  toBytes 2 e.cid ++ toBytes 1 e.type ++ toBytes 1 e.status ++ toBytes 2 (b.crHead r) ++ toBytes 1 r ++
    toBytes 1 (b.r F.HP_RING_STAT_PHASE r) ++ toBytes 8 (b.r F.TB_TICK_TICK) ++ fitTo 48 0 e.payload

/-- Writes an entry at the tail, which the dark half has copied first, and signals it (R384 to R386). -/
def Bridge.writeEntry (b : Bridge) (r : Nat) (e : HEntry) : Bridge :=
  let t := b.cpTail r
  let d := b.entryBytes r e
  let b := { b with hostMem := b.hostMem.wrN (b.cpAddr r t) d }
  let b := b.modRing r fun q => { q with mirror := q.mirror ++ [(t, d)], unsig := q.unsig + 1 }
  let t := (t + 1) % 2 ^ (b.ring r).cpLog
  let b := b.w F.HP_RING_STAT_CP_TAIL r t
  let b := if t = 0 then b.w F.HP_RING_STAT_PHASE r (1 - b.r F.HP_RING_STAT_PHASE r) else b
  if b.eff F.HP_RING_CFG_COAL r + 1 ≤ (b.ring r).unsig then
    (b.modRing r fun q => { q with unsig := 0 }).signal (b.r F.HP_RING_CFG_VEC r)
  else b

/-- Writes the next completion of a ring pair, or on the event ring the next event. A completion without room waits and
sets CP_FULL; an event without room is dropped (R382, R384). -/
def Bridge.completionWrite (b : Bridge) (r : Nat) : Bridge :=
  if 16 ≤ r ∨ b.eff F.HP_RING_CFG_EN r = 0 ∨ b.hp.perst then b
  else match (b.ring r).done with
  | e :: es =>
    if b.cpRoom r then (b.modRing r fun q => { q with done := es }).writeEntry r e
    else b.w F.HP_RING_STAT_CP_FULL r 1
  | [] =>
    if b.eff F.HP_EVT_RING ≠ r then b
    else match b.events with
      | [] => b
      | e :: es =>
        let b := { b with events := es }
        if b.cpRoom r then b.writeEntry r e else b.dropEvent e.type e.payload

/-- The end of a tick that leaves unsignalled entries (R385). -/
def Bridge.coalesceFlush (b : Bridge) (r : Nat) : Bridge :=
  if r < 16 ∧ 0 < (b.ring r).unsig then
    (b.modRing r fun q => { q with unsig := 0 }).signal (b.r F.HP_RING_CFG_VEC r)
  else b

/-- The light has moved (R387): the copied entries are written again, commands started without a completion start anew, and
a light-change event is raised. -/
def Bridge.replay (b : Bridge) (half : Nat) : Bridge :=
  let b := b.hp.rings.foldl (fun b rq =>
    let b := rq.2.mirror.foldl (fun b e => { b with hostMem := b.hostMem.wrN (b.cpAddr rq.1 e.1) e.2 }) b
    b.modRing rq.1 fun q => { q with cmds := q.cmds.map fun x => { x with started := false, left := 0, status := 0 } }) b
  b.event 3 [half, b.r F.HP_LIGHT_COUNT]

/-! ### Host memory accesses (R378) -/

/-- Channel of a device address in the HBM range. -/
def hbmChan (d : Nat) : Nat := d / 2 ^ 36

/-- The channel cannot answer a host access: not usable, or held in reset (R378). -/
def Bridge.hostBlocked (b : Bridge) (c : Nat) : Bool := b.holds c || !(b.r F.MOD_BOOT_CH_USABLE).testBit c

/-- A host read of the line at device address `d`; `enter` says that the meta-value asks for the shared or any state. -/
def State.hdmRead (s : State) (d tag : Nat) (enter : Bool) : State :=
  let c := hbmChan d
  if s.mod.hp.perst then s
  else if s.mod.hostBlocked c then
    let b := s.mod.inc F.HP_POISON_CNT_COUNT 0 1
    { s with mod := b.modHp fun h => { h with poisoned := h.poisoned ++ [tag] } }
  else
    let r : HReq := { cls := 0, line := d % 2 ^ 36 / 64, dst := .host tag, src := 100000, ctx := none, enter := enter }
    s.setChan c ((s.chan c).gatePush r)

/-- A host write of bytes under a mask to the line at device address `d`. -/
def State.hdmWrite (s : State) (d tag : Nat) (data : List (BitVec 8)) (mask : List Bool) : State :=
  let c := hbmChan d
  if s.mod.hp.perst then s
  else if s.mod.hostBlocked c then
    let b := s.mod.inc F.HP_POISON_CNT_COUNT 0 1
    { s with mod := b.modHp fun h => { h with written := h.written ++ [tag] } }
  else
    let r : HReq := { cls := 1, line := d % 2 ^ 36 / 64, wr := true, data := fitTo 64 0 data, mask := fitTo 64 false mask,
                      dst := .host tag, src := 100000, ctx := none }
    s.setChan c ((s.chan c).gatePush r)

/-! ### The device mailbox and the counters -/

/-- A device mailbox command (R370): the opcodes of the CXL specification stand behind the rows' names. -/
def Bridge.mailbox (b : Bridge) (k : Nat) : Bridge :=
  if k = 0 then b.modBoot fun x => { x with mbox := some (.identify 3072 0) }
  else if k = 4 then b.modBoot fun x => { x with mbox := some .unsupported }
  else
    let (v, b) := b.freeVal 64
    b.modBoot fun x => { x with mbox := some (if k = 1 then .logs v else if k = 2 then .log v else .health v) }

/-- The counters that HP_CTRL.CLR_CNT clears (R388). -/
def hpCounters : List Fld :=
  [F.HP_CMD_CNT_COUNT, F.HP_EVT_DROP_CNT_COUNT, F.HP_BI_SNP_CNT_COUNT, F.HP_BI_TMO_CNT_COUNT, F.HP_POISON_CNT_COUNT,
   F.HP_LINKDN_CNT_COUNT]

/-- HP_CTRL.CLR_CNT (R388). -/
def Bridge.hpClrCnt (b : Bridge) : Bridge := { b with regs := b.regs.clear hpCounters 0 }

end Sys2Proof.Machine
end

