-- ==== Sys2Proof/Machine/Light.lean ====
section
/-! DEFINITION. The light: token frames, the election, the grant of the port select and its moves (R401 to R405), and the
bridge attachments (R27, R28). -/

namespace Sys2Proof.Machine

/-- A half of the bridge. -/
def Bridge.half (b : Bridge) (h : Nat) : Half := if h = 0 then b.boot.half0 else b.boot.half1

/-- Applies `f` to a half. -/
def Bridge.modHalf (b : Bridge) (h : Nat) (f : Half → Half) : Bridge :=
  b.modBoot fun x => if h = 0 then { x with half0 := f x.half0 } else { x with half1 := f x.half1 }

/-- One bit enters the CRC-8 of a token frame (R401). -/
def crc8Bit (c : Nat) (b : Bool) : Nat :=
  let top := isSet c 7 != b
  let c := c * 2 % 256
  if top then c ^^^ 0x07 else c

/-- CRC-8 over bits [55:0], in the order of the line (R401). -/
def crc8 (w : Nat) : Nat := (upto 56).foldl (fun c i => crc8Bit c (isSet w i)) 0

/-- The token frame that a half sends (R401). -/
def Bridge.tokenFrame (b : Bridge) (h : Nat) : Nat :=
  let x := b.half h
  let mir := if x.role = 0 then b.r F.HP_LIGHT_DARK_OK else 0
  let w := 0xA5 + x.role <<< 8 + mir <<< 10 + (x.held % 2 ^ 32) <<< 12 + (b.r F.HP_LIGHT_COUNT % 4096) <<< 44
  w + crc8 w <<< 56

/-- A frame is valid (R401). -/
def tokenValid (w : Nat) : Bool := bits w 7 0 == 0xA5 && bits w 63 56 == crc8 (bits w 55 0)

/-- A frame time: every half that is not silent sends its frame (R401). -/
def Bridge.frameSend (b : Bridge) (silent : List Nat) : Bridge :=
  let b := b.modBoot fun x => { x with ms := x.ms + 1 }
  [0, 1].foldl (fun b h =>
    if silent.contains h then b
    else b.modHalf h fun x => { x with line := b.tokenFrame h, sentAt := b.boot.ms }) b

/-- A half qualifies for the grant (R402). -/
def Bridge.qualifies (b : Bridge) (h : Nat) : Bool :=
  let x := b.half h
  if b.boot.grant = some h then
    match x.last with
    | some (t, role) => decide (b.boot.ms ≤ t + 8) && role == 1
    | none => false
  else decide (3 ≤ x.run)

/-- The half that the port select grants (R402). -/
def Bridge.choice (b : Bridge) : Option Nat :=
  let q0 := b.qualifies 0
  let q1 := b.qualifies 1
  if q0 && q1 then some (if (b.half 0).seq < (b.half 1).seq then 1 else 0)
  else if q0 then some 0
  else if q1 then some 1
  else none

/-- A half that qualifies and is left without the grant at two frames of its own in a row goes dark (R402). -/
def Bridge.yield (b : Bridge) (h : Nat) : Bridge :=
  if b.qualifies h && b.boot.grant != some h then
    b.modHalf h fun x => if 2 ≤ x.passed + 1 then { x with passed := 0, role := 0, run := 0 } else { x with passed := x.passed + 1 }
  else b.modHalf h fun x => { x with passed := 0 }

/-- A flash command that runs when the light moves ends with ERR (R415). -/
def Bridge.flashLost (b : Bridge) : Bridge :=
  if b.boot.fcmd.isSome then
    ((b.w F.SEC_FLASH_STAT_BUSY 0 0).w F.SEC_FLASH_STAT_ERR 0 1).modBoot fun x => { x with fcmd := none, fpage := [] }
  else b

/-- No image is in force: every channel is in reset, nothing of MODULE_CFG stands, and every function is at the basic level (R20,
R40, R399, R401, R411). -/
def Bridge.noImage (b : Bridge) : Bridge :=
  let b := ((b.w F.MOD_LEVEL_LEVEL 0 0).w F.MOD_NODE_MODULE 0 0).w F.MOD_NODE_VALID 0 0
  let b := ((b.w F.MOD_IMAGE_SEQ 0 0).w F.MOD_IMAGE_SVN 0 0).w F.MOD_IMAGE_FLOOR 0 0
  let b := (b.modHalf 0 fun x => { x with held := 0 }).modHalf 1 fun x => { x with held := 0 }
  b.modBoot fun x => { x with image := none, resetCh := upto 12, landed := [], reported := [], failedCh := [], modNo := none,
                              autoGo := false, p2 := 0, tables := [] }

/-- Verification starts again at step 1 on the primary device, with every channel in reset (R398, R404). -/
def Bridge.verifyAgain (b : Bridge) : Bridge := ((b.w F.MOD_BOOT_STAGE 0 1).w F.MOD_BOOT_SOURCE 0 0).noImage

/-- The light has moved to a half (R387, R404). -/
def Bridge.lightMoved (b : Bridge) (h : Nat) : Bridge :=
  let b := b.w F.HP_LIGHT_COUNT 0 (b.r F.HP_LIGHT_COUNT + 1)
  let b := b.raise 0x45 (unitWord 0 13 0 h 0) 0
  let b := b.flashLost.linkDrop.w F.HP_LIGHT_DARK_OK 0 0
  let b := b.modBoot fun x => { x with spdm := none }
  let b := b.modHp fun p => { p with training := !p.perst }
  let b := b.replay h
  if (b.half h).held = 0 then b.verifyAgain else b

/-- The grant goes to a half (R402, R403). -/
def Bridge.grantTo (b : Bridge) (h : Nat) : Bridge :=
  let old := b.r F.HP_LIGHT_LIT
  let first := !b.boot.granted
  let b := b.modBoot fun x => { x with grant := some h, granted := true }
  let b := ((b.w F.HP_LIGHT_LIT 0 h).w F.MOD_NODE_LIT 0 h).modHalf h fun x => { x with fresh := false }
  if first then
    let b := (b.w F.MOD_BOOT_STAGE 0 1).modBoot fun x => { x with resetCh := upto 12 }
    b.modHp fun p => { p with training := !p.perst }
  else if old = h then b.modHp fun p => { p with training := !p.perst }
  else b.lightMoved h

/-- The port select decides (R402). -/
def Bridge.select (b : Bridge) : Bridge :=
  let c := b.choice
  if c = b.boot.grant then b
  else match c with
    | some h => b.grantTo h
    | none => (b.modBoot fun x => { x with grant := none }).linkDrop.modHp fun p => { p with training := false }

/-- A frame arrives from a half's line (R402). -/
def Bridge.frameIn (b : Bridge) (h w : Nat) : Bridge :=
  let ms := b.boot.ms
  let ok := tokenValid w
  let role := bits w 9 8
  let b := b.modHalf h fun x =>
    if !ok then { x with run := 0 }
    else if role = 1 then
      let next := match x.last with
        | some (t, 1) => if t + 1 = ms then x.run + 1 else 1
        | _ => 1
      { x with run := next, last := some (ms, 1), seq := bits w 43 12 }
    else { x with run := 0, last := some (ms, role), seq := bits w 43 12 }
  let b := if ok && role == 1 then b.modHalf (1 - h) fun x => { x with heard := some ms, role := if x.fresh && x.role == 1 then 0 else x.role }
    else b
  b.select.yield h

/-- The lit half has passed the image and the identity to the dark half, which holds a current mirror from then on (R386,
R403, R405). -/
def Bridge.passItems (b : Bridge) : Bridge :=
  match b.boot.grant, b.boot.image with
  | some lit, some img =>
    let b := b.modHalf lit fun x => { x with held := img.seq }
    if (b.half (1 - lit)).test = some true then
      (b.modHalf (1 - lit) fun x => { x with held := img.seq, fresh := false }).w F.HP_LIGHT_DARK_OK 0 1
    else b
  | _, _ => b

/-- A half finishes its ROM self-test and the read of the PUF (R403, R412): `idOk` says that the digest of the derived public
key agrees with the helper record. A half that its watchdog has reset claims nothing while it receives LIT frames, and the lit half
passes it the image (R405). -/
def Bridge.selfTest (b : Bridge) (h : Nat) (pass idOk : Bool) (id : Nat) : Bridge :=
  let b := b.modHalf h fun x => { x with test := some pass }
  let b := if pass && idOk then (b.w F.MOD_BOOT_ID_OK 0 1).w F.SEC_DEVID_ID 0 id else b
  if !pass then (b.modHalf h fun x => { x with role := 2 }).w F.MOD_BOOT_HALF_FAIL 0 1
  else if (b.half h).fresh && (b.half h).heard.isSome then b.passItems
  else if b.boot.pref = h then b.modHalf h fun x => { x with role := 1 }
  else b

/-- The other half has received no valid LIT frame within 20 ms of starting mask ROM (R403). -/
def Bridge.electionTimeout (b : Bridge) (h : Nat) : Bridge :=
  let x := b.half h
  if h < 2 ∧ b.boot.pref ≠ h ∧ x.test = some true ∧ x.role = 0 ∧ x.heard = none ∧ x.start + 20 ≤ b.boot.ms then
    b.modHalf h fun x => { x with role := 1 }
  else b

/-- A dark half has received no valid LIT frame for 8 ms (R404): it claims the light. -/
def Bridge.takeover (b : Bridge) (h : Nat) : Bridge :=
  let x := b.half h
  match x.heard with
  | some t =>
    if x.test = some true ∧ x.role = 0 ∧ b.boot.grant ≠ some h ∧ t + 8 ≤ b.boot.ms then
      b.modHalf h fun x => { x with role := 1, run := 0 }
    else b
  | none => b

/-- The watchdog resets a half that has sent no frame for 16 ms (R405). -/
def Bridge.watchdog (b : Bridge) (h : Nat) : Bridge :=
  if (b.half h).sentAt + 16 ≤ b.boot.ms then
    (b.modHalf h fun _ => { start := b.boot.ms, sentAt := b.boot.ms, fresh := true }).w F.HP_LIGHT_DARK_OK 0 0
  else b

/-! ### Attachments (R27, R28) -/

/-- The requester reaches a channel over its host attachment. -/
def overAttachment : Requester → Bool
  | .host => true
  | .hostCmd => true
  | .i3c => true
  | .keeper => false
  | .debug => false

/-- A scratchpad access is one that a host attachment has brought. -/
def Acc1.fromHost (a : Acc1) : Bool :=
  match a.dst with
  | .window req .. => overAttachment req
  | _ => false

/-- A memory request is one that a host attachment has brought. -/
def HReq.fromHost (r : HReq) : Bool :=
  match r.dst with
  | .host _ => true
  | .move .. => true
  | _ => false

/-- An access accepted on the attachment in use is not complete (R27). -/
def Channel.hostBusy (ch : Channel) : Bool :=
  ch.hbm.gate.any HReq.fromHost ||
    (ch.hbm.ports.any fun kp => kp.2.cmd.any HReq.fromHost || kp.2.q.any fun kq => kq.2.any HReq.fromHost) ||
    ch.lans.any fun gl => gl.2.banks.any fun kb => kb.2.fabric.any Acc1.fromHost

/-- Host traffic that moves to another attachment does so once the accesses accepted on the old one are complete (R27). -/
def Channel.hostSettle (ch : Channel) : Channel :=
  match ch.hostNext with
  | some a => if ch.hostBusy then ch else ({ ch with hostNext := none }.w F.CH_INFO_HOST_VIA 0 a).hostGo
  | none => ch

/-- Host traffic of a channel goes over the lit half's attachment (R27). -/
def Channel.moveHost (ch : Channel) (lit : Nat) : Channel :=
  if ch.r F.CH_INFO_HOST_VIA = lit then { ch with hostNext := none }.hostGo
  else { ch with hostNext := some lit }.hostSettle

/-- UNIT of an attachment (R418). -/
def Channel.attUnit (ch : Channel) (a : Nat) : Nat := unitWord ch.no 11 0 a 0

/-- Attachment `a` of a channel fails at time `ms` (R28): the dark half's failure is a corrected error of the channel; the lit
half's stops its host traffic, and the outcome waits for the light. A light that moves to a half whose attachment had failed
before stops the host traffic with no record and no 8 ms of its own (DESIGN CHOICE, log entry 99: R28 times only a failure of
the lit half's attachment). -/
def Channel.attachFails (ch : Channel) (a lit ms : Nat) : Channel :=
  let ch := ch.w (if a = 0 then F.CH_INFO_A0_UP else F.CH_INFO_A1_UP) 0 0
  let ch := { ch with attOut := if ch.attOut.contains a then ch.attOut else ch.attOut ++ [a] }
  let other := ch.r (if a = 0 then F.CH_INFO_A1_UP else F.CH_INFO_A0_UP)
  if a = lit then { ch with attDue := ch.attDue ++ [(a, ms, false)] }
  else if other = 1 then ch.raise 0x89 (ch.attUnit a) none 0
  else ch

/-- The light has moved to the half `lit` at time `ms`: a failure of the other half's attachment no more than 8 ms before is one that
the light's move has answered (R28). -/
def Channel.lightMoves (ch : Channel) (lit ms : Nat) : Channel :=
  ({ ch with attDue := ch.attDue.map fun x => (x.1, x.2.1, x.2.2 || (x.1 != lit && decide (ms ≤ x.2.1 + 8))) } : Channel).moveHost lit

/-- The outcome of a failure of the lit half's attachment (R28): the light has moved within 8 ms, and the failure is corrected; or it
has not, and the loss is channel-fatal. -/
def Channel.attachLost (ch : Channel) (a lit ms : Nat) : Channel :=
  match ch.attDue.find? (fun x => x.1 == a) with
  | none => ch
  | some (_, t, moved) =>
    if !moved ∧ ms < t + 8 then ch
    else
      let ch := ({ ch with attDue := ch.attDue.filter fun x => x.1 != a } : Channel).moveHost lit
      if moved then ch.raise 0x89 (ch.attUnit a) none 0 else ch.raise 0xC4 (ch.attUnit a) none 0

end Sys2Proof.Machine
end

