-- ==== Sys2Proof/Machine/Packets.lean ====
section
/-! DEFINITION. What a channel does with each packet type: remote requests and their answers, stream data, marks and
broadcasts (R227, R347 to R354). -/

namespace Sys2Proof.Machine

/-! ### The packets that have arrived -/

/-- Position of the next packet of a type: no earlier packet of the same source and VC waits before it, since one VC
delivers in order. -/
def inboxPick (t : Nat) : List Packet → List (Nat × Nat) → Option (Packet × List Packet)
  | [], _ => none
  | p :: ps, seen =>
    let k := (p.src, (ptypeVc p.ptype).getD 0)
    if p.ptype = t ∧ !seen.contains k then some (p, ps)
    else (inboxPick t ps (k :: seen)).map fun r => (r.1, p :: r.2)

/-- Takes the next packet of a type; its last flit leaves the receive buffer (R343). -/
def Channel.takeInbox (ch : Channel) (t : Nat) : Option (Packet × Channel) :=
  (inboxPick t ch.link.inbox []).map fun r =>
    (r.1, ({ ch with link := { ch.link with inbox := r.2 } } : Channel).creditBack r.1)

/-- Acts on the next packet of a type, if there is one. -/
def Channel.onPacket (ch : Channel) (t : Nat) (f : Channel → Packet → Channel) : Channel :=
  match ch.takeInbox t with
  | some (p, ch) => f ch p
  | none => ch

/-- UNIT of the channel as a whole. -/
def Channel.wholeUnit (ch : Channel) : Nat := unitWord ch.no 0 0 0 0

/-! ### Serving remote requests (R349) -/

/-- The answer leaves: its status, and for a read with STATUS 0 or 1 every line's data. -/
def Channel.serveEnd (ch : Channel) (s : Served) : Channel :=
  let a := s.p.answer ch.node s.status
  let a := if s.p.ptype = 1 ∧ s.status < 2 then
      { a with len := s.p.len,
               data := ((upto (ceilDiv s.p.len 64)).flatMap fun i => s.data.getD i zeroLine).take s.p.len }
    else a
  ch.send a none

/-- A remote request that has arrived is served from the remote share (R301, R349). -/
def Channel.serve (ch : Channel) (p : Packet) : Channel :=
  let a := bits p.arg0 47 0
  let n := ceilDiv p.len 64
  if a / 2 ^ 36 ≠ ch.no ∨ 2 ^ 36 < a % 2 ^ 36 + p.len then ch.serveEnd { p := p, left := 0, status := 2 }
  else
    let sid := ch.hbm.nextSid
    let ch := ch.modHbm fun h => { h with served := SMap.put h.served sid { p := p, left := n }, nextSid := sid + 1 }
    (upto n).foldl (fun ch i =>
      let k := min 64 (p.len - 64 * i)
      let req : HReq := { cls := 2, line := devLine a + i, wr := p.ptype == 2,
                          data := if p.ptype = 2 then fitTo 64 0 ((p.data.drop (64 * i)).take 64) else [],
                          mask := if p.ptype = 2 then (upto 64).map fun j => decide (j < k) else [],
                          dst := .remote sid i, src := 4096 + p.src, ctx := some (p.ctx % 1024) }
      ch.gatePush req) ch

/-- One line of a remote request is done: read, or accepted (R349). -/
def Channel.remoteLine (ch : Channel) (sid idx : Nat) (data : List (BitVec 8)) (bad prot : Bool) : Channel :=
  match ch.hbm.served.find sid with
  | none => ch
  | some s =>
    let st := if prot then 3 else if bad then max s.status 1 else s.status
    let s := { s with left := s.left - 1, status := st, data := s.data.put idx (if bad then zeroLine else data) }
    if s.left = 0 then (ch.modHbm fun h => { h with served := h.served.del sid }).serveEnd s
    else ch.modHbm fun h => { h with served := h.served.put sid s }

/-- RD_REQ. -/
def Channel.rdReq (ch : Channel) : Channel := ch.onPacket 1 Channel.serve
/-- WR_REQ. -/
def Channel.wrReq (ch : Channel) : Channel := ch.onPacket 2 Channel.serve

/-! ### Answers to the channel's own requests (R350) -/

/-- A line of a completed request came with an error: every line of a response without lines, and the lines of zeros of one that
reports uncorrectable lines (R349, R350, log entry 110). -/
def lineBad (status : Nat) (data line : List (BitVec 8)) : Bool :=
  status != 0 && (data.isEmpty || line.all (· == 0))

/-- A tracked request completes with a status and the data of its lines; its tag serves the request that has waited longest
(R23, R350). -/
def Channel.requestDone (ch : Channel) (tag : Nat) (t : Tracked) (status : Nat) (data : List (BitVec 8)) : Channel :=
  let ch := ({ ch with link := { ch.link with tracked := ch.link.tracked.del tag } } : Channel).nextRequest
  let ch := if status = 0 then ch
    else
      let cause := if status = 5 then 0x86 else 0x85
      ch.raiseOnce (onceKey cause 0) cause ch.wholeUnit (some t.ctx) 0
  (t.parts.zip (upto t.parts.length)).foldl (fun ch x =>
    let d := fitTo 64 0 ((data.drop (64 * x.2)).take 64)
    let bad := lineBad status data d
    match t.list with
    | some st => ch.listData t.g st x.1.1 x.1.2 d bad
    | none =>
      if t.wr then (if bad then ch.modXfer t.g x.1.1 fun y => { y with bad := x.1.2 :: y.bad } else ch).xferDone t.g x.1.1 x.1.2
      else ch.xferData t.g x.1.1 x.1.2 d bad) ch

/-- A response completes the request of its TAG; a late one is discarded and counted (R350). -/
def Channel.response (wr : Bool) (ch : Channel) (p : Packet) : Channel :=
  match ch.link.tracked.find p.tag with
  | some t => if t.wr = wr then ch.requestDone p.tag t p.status p.data else ch.inc F.LK_LATE_RSP_CNT_COUNT 0 1
  | none => ch.inc F.LK_LATE_RSP_CNT_COUNT 0 1

/-- RD_RSP. -/
def Channel.rdRsp (ch : Channel) : Channel := ch.onPacket 3 (Channel.response false)
/-- WR_ACK. -/
def Channel.wrAck (ch : Channel) : Channel := ch.onPacket 4 (Channel.response true)

/-- REQ_TMO has passed for a tracked request: it completes with STATUS 5 (R350). -/
def Channel.requestTimeout (ch : Channel) (tag : Nat) : Channel :=
  match ch.link.tracked.find tag with
  | some t => (ch.inc F.LK_REQ_TMO_CNT_COUNT 0 1).requestDone tag t 5 []
  | none => ch

/-! ### Buoy updates and stream data (R227, R351, R360) -/

/-- The lantern is active: neither failed nor a spare. -/
def Channel.lanActive (ch : Channel) (g : Nat) : Bool :=
  decide (g < 1536) && !ch.err.failed.contains g && !ch.err.spares.contains g

/-- Grid index named by a packet: row and column. -/
def Packet.grid (p : Packet) : Nat := 48 * bits p.arg0 9 5 + bits p.arg0 15 10

/-- The packet names a lantern of the grid: its column exists (R30). -/
def Packet.onGrid (p : Packet) : Bool := decide (bits p.arg0 15 10 < 48)

/-- BP_UPDATE: the proxy's FREE increments (R227). -/
def Channel.bpUpdate (ch : Channel) : Channel := ch.onPacket 5 fun ch p =>
  if p.onGrid && ch.lanActive p.grid then ch.bpInc p.grid (bits p.arg0 4 0) false (bits p.arg0 31 16) (some (p.ctx % 1024))
  else ch.inc F.LK_BADPKT_CNT_COUNT 0 1

/-- FIFO_DATA: the packet's bytes are written into the FIFO that reserved room for them, or a local packet reserves now
(R360). -/
def Channel.fifoData (ch : Channel) : Channel := ch.onPacket 0x10 fun ch p =>
  match p.resv with
  | some (n, pid) => ch.fifoWrite n pid p.data
  | none =>
    let n := p.arg0 % 256
    if 32 ≤ n then ch.inc F.LK_BADPKT_CNT_COUNT 0 1
    else
      let pid := ch.link.nextPid + 1
      let (ch, ok) := ({ ch with link := { ch.link with nextPid := pid } }).fifoReserve n pid p.len
      if ok then ch.fifoWrite n pid p.data else ch

/-- The landing state of a pair. -/
def Channel.landing (ch : Channel) (g bp : Nat) : Landing := ch.link.land.getD (32 * g + bp) {}

/-- Replaces the landing state of a pair. -/
def Channel.setLanding (ch : Channel) (g bp : Nat) (x : Landing) : Channel :=
  { ch with link := { ch.link with land := ch.link.land.put (32 * g + bp) x } }

/-- A packet for a landing pair is dropped as a landing overflow (R227). -/
def Channel.landDrop (ch : Channel) (g bp ctx : Nat) : Channel :=
  (ch.lw g F.LN_BP_STAT_LAND_ERR bp 1).raise 0x24 (unitWord ch.no 6 g 0 bp) (some ctx) 0

/-- Complete slots become ready in slot order (R227). -/
def Channel.landSettle (ch : Channel) (g bp : Nat) : List LandSlot → Channel
  | [] => ch.setLanding g bp { ch.landing g bp with slots := [] }
  | s :: ss =>
    if s.ended && s.writing = 0 then (ch.bpInc g bp true 1 (some s.ctx)).landSettle g bp ss
    else ch.setLanding g bp { ch.landing g bp with slots := s :: ss }

/-- One line of a stream-data packet has been written. -/
def Channel.landWritten (ch : Channel) (g bp slot src : Nat) : Channel :=
  let x := ch.landing g bp
  let ch := { ch with link := { ch.link with landOut := ch.link.landOut.put src (ch.link.landOut.getD src 0 - 1) } }
  ch.landSettle g bp (x.slots.map fun s => if s.slot = slot then { s with writing := s.writing - 1 } else s)

/-- The lines of a stream-data packet go to the fabric port of the lantern. -/
def Channel.landLines (ch : Channel) (g bp slot line : Nat) (p : Packet) : Channel :=
  let n := ceilDiv p.len 64
  (upto n).foldl (fun ch i =>
    let k := min 64 (p.len - 64 * i)
    let a : Acc1 := { line := line + i, wr := true, data := fitTo 64 0 ((p.data.drop (64 * i)).take 64),
                      mask := (upto 64).map fun j => decide (j < k), dst := .landing bp slot p.src, req := 130,
                      firstOfWrite := decide (i < 16), lastOfWrite := decide (n ≤ i + 16) }
    ch.modLan g (·.queueAcc 2 a)) ch

/-- A packet for an open slot of a landing pair. One that writes past its slot is dropped; as a slot-end packet it still ends its slot,
which is ready once its other packets are written (R227, log entry 111). -/
def Channel.landPacket (ch : Channel) (g bp : Nat) (p : Packet) : Channel :=
  let l := ch.lan g
  let last := p.flags % 2 == 1
  let n := ceilDiv p.len 64
  let off := bits p.arg0 27 16
  let slotLines := l.r F.LN_BP_CFG_SLOT_LINES bp
  let w := l.r F.LN_BP_STAT_WIDX bp
  let line := l.r F.LN_BP_CFG_RING_BASE bp + w * slotLines + off
  let past := decide (slotLines < off + n) || decide (4096 < line + n)
  let x := ch.landing g bp
  let slot := x.next - 1
  let slots := x.slots.map fun s => if s.slot = slot then
    { s with ended := last, writing := s.writing + (if past then 0 else n), ctx := p.ctx % 1024 } else s
  let ch := ch.setLanding g bp { x with slots := slots, open_ := !last }
  let cap := l.r F.LN_BP_CFG_CAP bp
  let ch := if last then ch.lw g F.LN_BP_STAT_WIDX bp (if cap ≤ w + 1 then 0 else w + 1) else ch
  if past then (ch.landDrop g bp (p.ctx % 1024)).landSettle g bp slots
  else
    let ch := { ch with link := { ch.link with landOut := ch.link.landOut.put p.src (ch.link.landOut.getD p.src 0 + n) } }
    ch.landLines g bp slot line p

/-- BP_DATA: a stream-data packet for a landing pair (R227, R351). -/
def Channel.bpData (ch : Channel) : Channel := ch.onPacket 0x11 fun ch p =>
  let g := p.grid
  let bp := bits p.arg0 4 0
  let ctx := p.ctx % 1024
  let last := p.flags % 2 == 1
  if !p.onGrid || !ch.lanActive g || (ch.lan g).r F.LN_BP_CFG_LINK bp == 0 then
    (ch.inc F.LK_BADPKT_CNT_COUNT 0 1).raise 0x24 ch.wholeUnit (some ctx) 0
  else
    let x := ch.landing g bp
    if x.dropping then (ch.setLanding g bp { x with dropping := !last }).landDrop g bp ctx
    else if x.open_ then ch.landPacket g bp p
    else if ch.bpSeen g bp false = 0 then (ch.setLanding g bp { x with dropping := !last }).landDrop g bp ctx
    else
      let ch := ch.bpTake g bp false
      (ch.setLanding g bp { x with open_ := true, next := x.next + 1, slots := x.slots ++ [{ slot := x.next, ctx := ctx }] }).landPacket g bp p

/-! ### Marks and broadcasts (R352 to R354) -/

/-- CTX_MARK: applied once the earlier stream data of its source has been written in full (R352). -/
def Channel.ctxMark (ch : Channel) : Channel :=
  match ch.takeInbox 0x12 with
  | some (p, ch') =>
    if 0 < ch.link.landOut.getD p.src 0 then ch else ch'.addMarks (bits p.arg0 9 0) (bits p.arg0 17 10)
  | none => ch

/-- TICK: the packet, for the bridge (R353). -/
def Channel.tickPacket (ch : Channel) : Option (Packet × Channel) := ch.takeInbox 0x20

/-- The port by which a packet came in. -/
def Packet.port (p : Packet) : Option Nat := p.via.map (·.1)

/-- FOG: a new one is recorded, goes to the bridge and is forwarded (R354). The packet is given when it is new. -/
def Channel.fogPacket (ch : Channel) : Channel × Option Packet :=
  match ch.takeInbox 0x21 with
  | none => (ch, none)
  | some (p, ch) =>
    let k := (p.src, p.arg0 % 256)
    if ch.link.fogs.contains k then (ch, none)
    else
      let ch := { ch with link := { ch.link with fogs := (k :: ch.link.fogs).take 16 } }
      if p.hops = 0 then (ch, some p)
      else
        let out := (upto 3).filter fun q => ch.portUp q && p.port != some q
        let ch := out.foldl (fun ch q => ch.queuePkt q { p := { p with hops := p.hops - 1, via := none } }) ch
        (ch, some p)

/-- This channel's tick marker, when its P2 port relays (R278): `hops` is the hop count that the module's markers carry. -/
def Channel.sendMarker (ch : Channel) (phase locked holdover hops epoch : Nat) : Channel :=
  if 15 < hops then ch
  else
    let arg0 := ch.tick + (phase % 1024) <<< 48 + locked <<< 58 + holdover <<< 59 + hops <<< 60
    let left := ch.r F.LK_RT_CFG_HOPS
    if left ≤ 1 then ch.noRoute 0
    else ch.queuePkt 2 { p := { ptype := 0x20, dst := 0xFFFFF, src := ch.node, hops := left - 1, arg0 := arg0, arg1 := epoch } }

end Sys2Proof.Machine
end

