-- ==== Sys2Proof/Machine/RegAccess.lean ====
section
/-! DEFINITION. Register accesses, whatever the block: which fields an offset reaches, widths, halves of 64-bit registers,
access codes and refusals (R4 to R16, R19, R475). -/

namespace Sys2Proof.Machine

/-- The entry of a field's register at block offset `o`, if it lies there. -/
def Fld.at (f : Fld) (o : Nat) : Option Nat :=
  if o < f.base then none
  else if f.stride = 0 then (if o = f.base then some 0 else none)
  else if (o - f.base) % f.stride = 0 ∧ (o - f.base) / f.stride < f.count then some ((o - f.base) / f.stride)
  else none

/-- The fields of the register at an offset, each with its entry number. -/
def regAt (fs : List Fld) (o : Nat) : List (Fld × Nat) :=
  fs.filterMap fun f => (f.at o).map fun n => (f, n)

/-- What a read of a field returns (R10). -/
def Regs.show (r : Regs) (f : Fld) (n : Nat) : Nat :=
  match f.acc with
  | .wo => 0
  | _ => r.get f n

/-- The value of a register of which `sh` gives the fields; reserved bits are 0 (R8). -/
def regValue (sh : Fld → Nat → Nat) : List (Fld × Nat) → Nat
  | [] => 0
  | (f, n) :: xs => (sh f n % 2 ^ f.wid) <<< f.lo + regValue sh xs

/-- An access that R7 counts: its offset, and whether it is narrow or misaligned. -/
structure Miss where
  off   : Nat
  narrow : Bool := false
  misal : Bool := false
  deriving DecidableEq, Repr

/-- The register that holds the 4 bytes at offset `o`: its offset, its fields, and whether `o` is its high half. -/
def regHolding (fs : List Fld) (o : Nat) : Option (Nat × List (Fld × Nat) × Bool) :=
  match regAt fs o with
  | x :: xs => some (o, x :: xs, false)
  | [] =>
    if o % 8 = 4 then
      match regAt fs (o - 4) with
      | x :: xs => if x.1.wide then some (o - 4, x :: xs, true) else none
      | [] => none
    else none

/-- The 64-bit register at an offset. -/
def wideAt (fs : List Fld) (o : Nat) : Option (List (Fld × Nat)) :=
  match regAt fs o with
  | x :: xs => if x.1.wide then some (x :: xs) else none
  | [] => none

/-- A 32-bit read (R4, R5) by requester number `q`. -/
def Regs.read32 (r : Regs) (fs : List Fld) (sh : Fld → Nat → Nat) (q o : Nat) : Regs × Nat × List Miss :=
  match regHolding fs o with
  | none => (r, 0, [{ off := o }])
  | some (ro, xs, hi) =>
    let v := regValue sh xs
    if hi then
      match r.capt.find (8 * ro + q) with
      | some c => ({ r with capt := r.capt.del (8 * ro + q) }, c, [])
      | none => (r, v >>> 32, [])
    else if (wideAt fs ro).isSome then ({ r with capt := r.capt.put (8 * ro + q) (v >>> 32) }, v % 2 ^ 32, [])
    else (r, v, [])

/-- A read of 1, 2, 4 or 8 bytes: the registers after it, the value, and the accesses that R7 counts. -/
def Regs.read (r : Regs) (fs : List Fld) (sh : Fld → Nat → Nat) (q o size : Nat) : Regs × Nat × List Miss :=
  if size < 4 then
    match regHolding fs (o - o % 4) with
    | none => (r, 0, [{ off := o, narrow := true }])
    | some (_, xs, hi) =>
      let v := regValue sh xs
      let v := if hi then v >>> 32 else v % 2 ^ 32
      (r, (v >>> (8 * (o % 4))) % 2 ^ (8 * size), [{ off := o, narrow := true }])
  else if size = 4 then
    if o % 4 = 0 then r.read32 fs sh q o else (r, 0, [{ off := o, misal := true }])
  else if o % 8 ≠ 0 then (r, 0, [{ off := o, misal := true }])
  else
    match wideAt fs o with
    | some xs => (r, regValue sh xs, [])
    | none =>
      let (r, lo, m1) := r.read32 fs sh q o
      let (r, hi, m2) := r.read32 fs sh q (o + 4)
      (r, lo + hi <<< 32, m1 ++ m2)

/-- One write of a whole register that an access leads to: its offset, the value, and whether the low half was formed field
by field (R6). -/
structure RegWr where
  off   : Nat
  v     : Nat
  formed : Bool := false
  deriving DecidableEq, Repr

/-- The value of a field that the block puts into a low half that nobody wrote (R6). -/
def Regs.present (r : Regs) (f : Fld) (n : Nat) : Nat :=
  match f.acc with
  | .rw => r.get f n
  | .rwi => r.get f n
  | .rwl => r.waiting f n
  | _ => 0

/-- A 32-bit write (R4, R6). -/
def Regs.write32 (r : Regs) (fs : List Fld) (q o v : Nat) : Regs × List RegWr × List Miss :=
  match regHolding fs o with
  | none => (r, [], [{ off := o }])
  | some (ro, xs, hi) =>
    if hi then
      match r.hold.find (8 * ro + q) with
      | some lo => ({ r with hold := r.hold.del (8 * ro + q) }, [{ off := ro, v := lo + v <<< 32 }], [])
      | none => (r, [{ off := ro, v := regValue r.present xs % 2 ^ 32 + v <<< 32, formed := true }], [])
    else if (wideAt fs ro).isSome then ({ r with hold := r.hold.put (8 * ro + q) v }, [], [])
    else (r, [{ off := ro, v := v }], [])

/-- A write of 1, 2, 4 or 8 bytes: the registers with their held halves, the register writes that it leads to in order,
and the accesses that R7 counts. -/
def Regs.writes (r : Regs) (fs : List Fld) (q o size v : Nat) : Regs × List RegWr × List Miss :=
  if size < 4 then (r, [], [{ off := o, narrow := true }])
  else if size = 4 then
    if o % 4 = 0 then r.write32 fs q o (v % 2 ^ 32) else (r, [], [{ off := o, misal := true }])
  else if o % 8 ≠ 0 then (r, [], [{ off := o, misal := true }])
  else
    match wideAt fs o with
    | some _ => (r, [{ off := o, v := v % 2 ^ 64 }], [])
    | none =>
      let (r, w1, m1) := r.write32 fs q o (v % 2 ^ 32)
      let (r, w2, m2) := r.write32 fs q (o + 4) ((v >>> 32) % 2 ^ 32)
      (r, w1 ++ w2, m1 ++ m2)

/-- What a block does with the value written to a field: takes it, refuses it as R475 says, discards it and sets
CFG_ERR in any case, or was not written there at all. -/
inductive Verdict where
  | take | refuse | discard | leave
  deriving DecidableEq, Repr

/-- Effects of a register write: the registers, whether CFG_ERR is set, and the values in the fields whose write performs
an action. -/
structure WrOut where
  regs : Regs
  err  : Bool := false
  acts : List (Fld × Nat) := []
  deriving DecidableEq, Repr

/-- A write to a refused field would have had an effect (R475). -/
def Regs.differs (r : Regs) (f : Fld) (n x : Nat) : Bool :=
  match f.acc with
  | .ro => false
  | .rw => x != r.get f n
  | .rwi => x != r.get f n
  | .rwl => x != r.waiting f n
  | _ => x != 0

/-- A field takes the value written to it (R10 to R14). A bit of a `W1C` field that hardware has set in this cycle stays set (R11). -/
def WrOut.take (w : WrOut) (f : Fld) (n x : Nat) : WrOut :=
  let r := w.regs
  let k := f.key n
  match f.acc with
  | .ro => w
  | .rw =>
    let live : SMap Nat := if (r.live.find k).isSome then r.live else SMap.put r.live k (r.get f n)
    { w with regs := { r with live := live, cur := SMap.put r.cur k x } }
  | .rwi => { w with regs := r.put f n x }
  | .rwl => { w with regs := { r with shadow := SMap.put r.shadow k x } }
  | .w1c =>
    let gone := x &&& (x ^^^ (r.evs.getD k 0 &&& x))
    { w with regs := r.store f n (r.get f n - (r.get f n &&& gone)) }
  | .w1s => { w with acts := w.acts ++ [(f, x)] }
  | .wo => { w with acts := w.acts ++ [(f, x)] }

/-- One field of a register takes or refuses its part of the value. -/
def WrOut.field (w : WrOut) (verdict : Fld → Nat → Nat → Verdict) (v : Nat) (fn : Fld × Nat) : WrOut :=
  let x := (v >>> fn.1.lo) % 2 ^ fn.1.wid
  match verdict fn.1 fn.2 x with
  | .take => w.take fn.1 fn.2 x
  | .refuse => { w with err := w.err || w.regs.differs fn.1 fn.2 x }
  | .discard => { w with err := true }
  | .leave => w

/-- A whole register is written (R475). -/
def Regs.writeReg (r : Regs) (fs : List Fld) (verdict : Fld → Nat → Nat → Verdict) (x : RegWr) : WrOut :=
  (regAt fs x.off).foldl (fun w fn => w.field verdict x.v fn) { regs := r, err := x.formed }

/-- The value written to an action field, 0 where it was refused. -/
def WrOut.val (w : WrOut) (f : Fld) : Nat :=
  match w.acts.find? (fun a => decide (a.1 = f)) with
  | some a => a.2
  | none => 0

/-- R19: the level of the field's function refuses the requester. `lv` is MOD_LEVEL.LEVEL. -/
def levelRefuses (lv : Nat) (req : Requester) (f : Fld) : Bool :=
  match req with
  | .keeper => false
  | .debug => false
  | _ => f.expert && decide (f.fn < 13) && !lv.testBit f.fn

/-- At the expert level the keeper does not write the function's E fields (R18). -/
def keeperLeaves (lv : Nat) (req : Requester) (f : Fld) : Bool :=
  decide (req = .keeper) && f.expert && decide (f.fn < 13) && lv.testBit f.fn

/-- The verdict that the level and idleness give (R15, R18, R19). -/
def baseVerdict (lv : Nat) (req : Requester) (idle : Bool) (f : Fld) : Verdict :=
  if keeperLeaves lv req f then .leave
  else if levelRefuses lv req f then .refuse
  else match f.acc with
    | .rwi => if idle then .take else .refuse
    | _ => .take

/-- The keeper's maintenance path and the image store read-only fields too (R110, R112, R173). -/
def Regs.maintain (r : Regs) (fs : List Fld) (o v : Nat) : Regs :=
  (regAt fs o).foldl (fun r fn => match fn.1.acc with
    | .ro => r.put fn.1 fn.2 (v >>> fn.1.lo)
    | _ => r) r

end Sys2Proof.Machine
end

