-- ==== Sys2Proof/Machine/VecMath.lean ====
section
/-! DEFINITION. The arithmetic of one vector lane: FP32 and INT32 operations with the outcomes that are counted
(R192, R193), the transcendental functions within their bounds (R194), and fixed reduction trees (R190). -/

namespace Sys2Proof.Machine

/-! ### Results that are counted -/

/-- Numbers of the VE_ counters: bit `n` of VE_STATUS and the counter at 0x010 + 4 (n − 1) (R206). -/
def cINVALID : Nat := 1
/-- VE_DIVZ_CNT. -/
def cDIVZ : Nat := 2
/-- VE_OVF_CNT. -/
def cOVF : Nat := 3
/-- VE_UNF_CNT. -/
def cUNF : Nat := 4
/-- VE_IOVF_CNT. -/
def cIOVF : Nat := 5
/-- VE_SAT_CNT. -/
def cSAT : Nat := 6
/-- VE_NAN0_CNT. -/
def cNAN0 : Nat := 7
/-- VE_PERM_CNT. -/
def cPERM : Nat := 8
/-- VE_ADDR_CNT. -/
def cADDR : Nat := 9
/-- VE_SMX_NAN_CNT. -/
def cSMXNAN : Nat := 10
/-- VE_SMX_INF_CNT. -/
def cSMXINF : Nat := 11
/-- VE_EMPTY_CNT. -/
def cEMPTY : Nat := 12
/-- VE_STALE_CNT. -/
def cSTALE : Nat := 13
/-- VE_PMODE_CNT. -/
def cPMODE : Nat := 14
/-- VE_STAT_CNT. -/
def cSTAT : Nat := 15
/-- VE_EMPTY_TASK_CNT. -/
def cEMPTYTASK : Nat := 16
/-- VE_SHAPE_OVF_CNT. -/
def cSHAPE : Nat := 17

/-- A lane result: the 32 bits, and the counters it increments. -/
structure Lane where
  v : Nat
  c : List Nat := []
  deriving DecidableEq, Repr

/-- The canonical NaN (R45). -/
def qnan : Nat := 0x7FC00000

/-- An FP32 code read as a value. -/
def f32 (x : Nat) : Num := VFmt.decode .fp32 x

/-- An exact result rounded once to FP32, with overflow and inexact underflow counted (R192). NaN here is the propagated
one. -/
def fpRound (x : Num) : Lane :=
  match x with
  | .nan => { v := qnan }
  | .inf s => { v := if s then 0xFF800000 else 0x7F800000 }
  | .fin _ m _ =>
    let c := (VFmt.encode .fp32 false x).code
    if m = 0 then { v := c }
    else if c % 2 ^ 31 = 0x7F800000 then { v := c, c := [cOVF] }
    else if c % 2 ^ 31 < 2 ^ 23 ∧ !Num.eqv (f32 c) x then { v := c, c := [cUNF] }
    else { v := c }

/-- An FP32 operation whose exact outcome is `r`: NaN operands give the canonical NaN uncounted, and a NaN that none of
the operands brought is an invalid operation (R192). -/
def fpOp (ops : List Num) (r : Num) : Lane :=
  if ops.any Num.isNan then { v := qnan }
  else if r.isNan then { v := qnan, c := [cINVALID] }
  else fpRound r

/-- FP32 addition. -/
def fpAdd (a b : Nat) : Lane := fpOp [f32 a, f32 b] (Num.add (f32 a) (f32 b))
/-- FP32 subtraction. -/
def fpSub (a b : Nat) : Lane := fpOp [f32 a, f32 b] (Num.sub (f32 a) (f32 b))
/-- FP32 multiplication. -/
def fpMul (a b : Nat) : Lane := fpOp [f32 a, f32 b] (Num.mul (f32 a) (f32 b))
/-- FP32 a × b + c with one rounding (R182). -/
def fpFma (a b c : Nat) : Lane := fpOp [f32 a, f32 b, f32 c] (Num.add (Num.mul (f32 a) (f32 b)) (f32 c))
/-- FP32 a × b − c with one rounding (R182). -/
def fpFms (a b c : Nat) : Lane := fpOp [f32 a, f32 b, f32 c] (Num.sub (Num.mul (f32 a) (f32 b)) (f32 c))

/-- FP32 division (R192). -/
def fpDiv (a b : Nat) : Lane :=
  let x := f32 a
  let y := f32 b
  let r := fpOp [x, y] (Num.div x y)
  if x.isFin && !x.isZero && y.isZero then { r with c := [cDIVZ] } else r

/-- FP32 square root (R192). -/
def fpSqrt (a : Nat) : Lane := fpOp [f32 a] (Num.sqrt (f32 a))

/-- FP32 maximum: +0 is above −0 (R192). -/
def fpMax (a b : Nat) : Lane :=
  let x := f32 a
  let y := f32 b
  if x.isNan || y.isNan then { v := qnan }
  else if x.isZero && y.isZero then { v := if x.sign && y.sign then 0x80000000 else 0 }
  else { v := if Num.lt x y then b else a }

/-- FP32 minimum: −0 is below +0 (R192). -/
def fpMin (a b : Nat) : Lane :=
  let x := f32 a
  let y := f32 b
  if x.isNan || y.isNan then { v := qnan }
  else if x.isZero && y.isZero then { v := if x.sign || y.sign then 0x80000000 else 0 }
  else { v := if Num.lt y x then b else a }

/-- FP32 absolute value and negation. -/
def fpAbs (a : Nat) : Lane := if (f32 a).isNan then { v := qnan } else { v := a % 2 ^ 31 }
/-- FP32 negation. -/
def fpNeg (a : Nat) : Lane := if (f32 a).isNan then { v := qnan } else { v := (a + 2 ^ 31) % 2 ^ 32 }

/-- A power-of-two factor as far as it can matter to a 32-bit or 96-bit operand. -/
def clampExp (k : Int) : Int := max (-1000) (min 1000 k)

/-- VA × 2^VB with one rounding (R182). -/
def fpLdexp (a b : Nat) : Lane := fpOp [f32 a] ((f32 a).scale (clampExp (sext 32 b)))

/-- A signed result wrapped to 32 bits, counted when it wraps (R193). -/
def intWrap (i : Int) : Lane :=
  let v := ofInt 32 i
  { v := v, c := if sext 32 v = i then [] else [cIOVF] }

/-- Signed reading of a lane. -/
def i32 (x : Nat) : Int := sext 32 x

/-- VSHL (R193). -/
def shlOp (a b : Nat) : Lane := if 31 < b then { v := 0, c := [cIOVF] } else { v := a * 2 ^ b % 2 ^ 32 }
/-- VSHR, logical or arithmetic (R193). -/
def shrOp (arith : Bool) (a b : Nat) : Lane :=
  let neg := arith && isSet a 31
  if 31 < b then { v := if neg then 0xFFFFFFFF else 0, c := [cIOVF] }
  else { v := if neg then ofInt 32 (i32 a / (2 ^ b : Nat)) else a / 2 ^ b }

/-- The outcome of a conversion as lane counters (R75). -/
def Conv.lane (k : Conv) (v : Nat) : Lane := { v := v, c := (if k.sat then [cSAT] else []) ++ (if k.nanz then [cNAN0] else []) }

/-- An element of a format as a lane value: integer formats as INT32, floating-point formats as FP32 (R184). -/
def toLane (f : VFmt) (unsigned : Bool) (code : Nat) : Nat :=
  if f.isInt then (if unsigned then code % 2 ^ f.width else ofInt 32 (sext f.width code))
  else (VFmt.encode .fp32 false (f.decode code)).code

/-- A lane value read as type TY. -/
def laneNum (ty : Bool) (x : Nat) : Num := if ty then Num.int (i32 x) else f32 x

/-- A value rounded into a format and kept in an FP32 lane (R182, VCVT FN 2). -/
def roundTo (f : VFmt) (sat : Bool) (x : Num) : Lane :=
  let k := f.encode sat x
  k.lane (VFmt.encode .fp32 false (f.decode k.code)).code

/-! ### Comparisons (R186) -/

/-- The comparison that FN names, on FP32 or INT32 values. -/
def cmpOp (fn : Nat) (ty : Bool) (a b : Nat) : Bool :=
  let x := laneNum ty a
  let y := laneNum ty b
  let un := x.isNan || y.isNan
  let lt := Num.lt x y
  let gt := Num.lt y x
  match fn with
  | 0 => !un && !lt && !gt
  | 1 => un || lt || gt
  | 2 => !un && lt
  | 3 => !un && !gt
  | 4 => !un && gt
  | 5 => !un && !lt
  | 6 => un
  | _ => !un

/-! ### Real functions over fixed point with 240 fraction bits -/

/-- Fraction bits of the working precision. -/
def fxP : Nat := 240

/-- A fraction as a fixed-point integer. -/
def fxDiv (a b : Int) : Int := a * ((2 ^ fxP : Nat) : Int) / b

/-- Product of two fixed-point numbers. -/
def fxMul (a b : Int) : Int := a * b / ((2 ^ fxP : Nat) : Int)

/-- The sum of z^(2n+1) / (2n+1) over `n` from `k` up, for `fuel` terms: `t` is z^(2k+1). -/
def atanhF : Nat → Nat → Int → Int → Int
  | 0, _, _, _ => 0
  | fuel + 1, k, t, z2 => t / ((2 * k + 1 : Nat) : Int) + atanhF fuel (k + 1) (fxMul t z2) z2

/-- atanh of a fixed-point number of magnitude up to 1/3. -/
def fxAtanh (z : Int) : Int := atanhF 90 0 z (fxMul z z)

/-- ln 2. -/
def fxLn2 : Int := 2 * fxAtanh (fxDiv 1 3)

/-- The sum of r^n / n! over `n` from `k` up: `t` is r^k / k!. -/
def expF : Nat → Nat → Int → Int → Int
  | 0, _, _, _ => 0
  | fuel + 1, k, t, r => t + expF fuel (k + 1) (fxMul t r / ((k + 1 : Nat) : Int)) r

/-- e^x for a fixed-point x, as m × 2^e. -/
def fxExp (x : Int) : Num :=
  let k := (2 * x + fxLn2) / (2 * fxLn2)
  let r := x - k * fxLn2
  .fin false (expF 70 0 ((2 ^ fxP : Nat) : Int) r).toNat (k - fxP)

/-- A finite value as a fixed-point integer. -/
def fxOf (x : Num) : Int :=
  match x with
  | .fin s m e =>
    let v : Int := if -(fxP : Int) ≤ e then ((m <<< (e + fxP).toNat : Nat) : Int) else ((m >>> (-(e + fxP)).toNat : Nat) : Int)
    if s then -v else v
  | _ => 0

/-- ln of a positive finite value, as fixed point. -/
def fxLog (x : Num) : Int :=
  match x with
  | .fin _ m e =>
    let n := Nat.log2 m
    -- m × 2^e = y × 2^k with y from 3/4 up to 3/2
    let up := decide (3 * 2 ^ n ≤ 2 * m)
    let k : Int := e + n + (if up then 1 else 0)
    let d : Nat := 2 ^ (if up then n + 1 else n)
    k * fxLn2 + 2 * fxAtanh (fxDiv ((m : Int) - d) ((m : Int) + d))
  | _ => 0

/-- A fixed-point integer as a value. -/
def ofFx (i : Int) : Num := Num.ofInt i (-(fxP : Int)) false

/-- The operations of R194. -/
inductive Transc where
  | exp | exp2 | log | log2 | rcp | rsqrt | tanh | sigm
  deriving DecidableEq, Repr

/-- Opcode of a transcendental operation (R182). -/
def Transc.code : Transc → Nat
  | .exp => 0x38 | .exp2 => 0x39 | .log => 0x3A | .log2 => 0x3B | .rcp => 0x3C | .rsqrt => 0x3D | .tanh => 0x3E | .sigm => 0x3F

/-- Bound in ulp (R194). -/
def Transc.ulps : Transc → Nat
  | .exp => 2 | .log => 2 | .tanh => 2 | .sigm => 2 | _ => 1

/-- `a / b` of two values, to the working precision. -/
def numQuot (a b : Num) : Num := Num.div a b

/-- The exact function to the working precision, for a finite input inside the special limits. -/
def Transc.real (t : Transc) (x : Num) : Num :=
  let one : Num := .fin false 1 0
  match t with
  | .exp => fxExp (fxOf x)
  | .exp2 =>
    let v := fxOf x
    let k := (v + ((2 ^ (fxP - 1) : Nat) : Int)) / ((2 ^ fxP : Nat) : Int)
    (fxExp (fxMul (v - k * ((2 ^ fxP : Nat) : Int)) fxLn2)).scale k
  | .log => ofFx (fxLog x)
  | .log2 => ofFx (fxDiv (fxLog x) fxLn2)
  | .rcp => numQuot one x
  | .rsqrt => Num.sqrt (numQuot one x)
  | .tanh =>
    if Num.lt (.fin false 64 0) x.abs then .fin x.sign 1 0
    else
      let e := fxExp (fxOf (x.abs.scale 1))
      let r := numQuot (Num.sub e one) (Num.add e one)
      if x.sign then r.neg else r
  | .sigm =>
    if Num.lt x (.fin true 200 0) then .fin false 1 (-288)
    else if Num.lt (.fin false 200 0) x then one
    else numQuot one (Num.add one (fxExp (fxOf x.neg)))

/-- A code is a permitted result: within `b` ulp of the value, where an ulp is that of `r`, the value rounded (R194). -/
def withinUlp (x : Num) (r c b : Nat) : Bool :=
  let ulp : Int := (max (bits r 30 23) 1 : Nat) - 150
  let d := (Num.sub (f32 c) x).abs
  (f32 c).isFin && !Num.lt (.fin false b ulp) d

/-- Two values are not the same. -/
def Num.differ (x y : Num) : Bool := Num.lt x y || Num.lt y x

/-- The result of a transcendental operation on an input whose value no table fixes exactly: any permitted one, chosen
by `Config.transc` (log entry 5). An overflow of the result is counted, and a non-zero value that becomes a subnormal or zero
inexactly (R192). -/
def Transc.pick (t : Transc) (a : Nat) (x : Num) : Lane :=
  let r := (VFmt.encode .fp32 false x).code
  if r % 2 ^ 31 = 0x7F800000 then { v := r, c := [cOVF] }
  else
    let d := Config.transc t.code a % 5
    let c := r + d - 2
    let v := if isSet c 31 = isSet r 31 ∧ withinUlp x r c t.ulps then c else r
    { v := v, c := if v % 2 ^ 31 < 2 ^ 23 ∧ Num.differ x (f32 v) ∧ Num.differ x (.fin false 0 0) then [cUNF] else [] }

/-- A decimal limit of R194 with five decimals: is the input above `n / 10^5`. -/
def aboveDec (x : Num) (n : Nat) : Bool := Num.lt (.fin false n 0) (Num.mul x (.fin false 100000 0))
/-- Is the input below `−n / 10^5`. -/
def belowDec (x : Num) (n : Nat) : Bool := Num.lt (Num.mul x (.fin false 100000 0)) (.fin true n 0)

/-- A finite value is a whole number. -/
def isWhole (x : Num) : Bool :=
  match x with
  | .fin _ m e => decide (0 ≤ e) || decide (m % 2 ^ (-e).toNat = 0)
  | _ => false

/-- A positive finite value is a power of two. -/
def isPow2 (x : Num) : Bool :=
  match x with
  | .fin _ m _ => m != 0 && m == 2 ^ Nat.log2 m
  | _ => false

/-- e^x or 2^x, with its limits (R194). -/
def expLike (t : Transc) (a : Nat) (x : Num) (hi lo : Nat) : Lane :=
  match x with
  | .nan => { v := qnan }
  | .inf s => { v := if s then 0 else 0x7F800000 }
  | .fin .. =>
    if aboveDec x hi then { v := 0x7F800000, c := [cOVF] }
    else if belowDec x lo then { v := 0, c := [cUNF] }
    else if t = .exp2 ∧ isWhole x ∧ !belowDec x 14900000 ∧ !aboveDec x 12700000 then { v := (VFmt.encode .fp32 false (t.real x)).code }
    else t.pick a (t.real x)

/-- ln x or log2 x (R194). -/
def logLike (t : Transc) (a : Nat) (x : Num) : Lane :=
  match x with
  | .nan => { v := qnan }
  | .inf s => if s then { v := qnan, c := [cINVALID] } else { v := 0x7F800000 }
  | .fin s m e =>
    if m = 0 then { v := 0xFF800000, c := [cDIVZ] }
    else if s then { v := qnan, c := [cINVALID] }
    else if t = .log2 ∧ isPow2 x then fpRound (Num.int (Nat.log2 m + e))
    else t.pick a (t.real x)

/-- A transcendental operation on one lane (R194). -/
def Transc.eval (t : Transc) (a : Nat) : Lane :=
  let x := f32 a
  match t with
  | .exp => expLike t a x 8872284 10397208
  | .exp2 => expLike t a x 12800000 15000000
  | .log => logLike t a x
  | .log2 => logLike t a x
  | .rcp =>
    match x with
    | .nan => { v := qnan }
    | .inf s => { v := if s then 0x80000000 else 0 }
    | .fin s m _ =>
      if m = 0 then { v := if s then 0xFF800000 else 0x7F800000, c := [cDIVZ] } else t.pick a (t.real x)
  | .rsqrt =>
    match x with
    | .nan => { v := qnan }
    | .inf s => if s then { v := qnan, c := [cINVALID] } else { v := 0 }
    | .fin s m _ =>
      if m = 0 then { v := if s then 0xFF800000 else 0x7F800000, c := [cDIVZ] }
      else if s then { v := qnan, c := [cINVALID] }
      else t.pick a (t.real x)
  | .tanh =>
    match x with
    | .nan => { v := qnan }
    | .inf s => { v := if s then 0xBF800000 else 0x3F800000 }
    | .fin .. => if Num.lt x.abs (.fin false 1 (-12)) then fpRound x else t.pick a (t.real x)
  | .sigm =>
    match x with
    | .nan => { v := qnan }
    | .inf s => { v := if s then 0 else 0x3F800000 }
    | .fin .. => t.pick a (t.real x)

/-! ### Reduction trees (R190) -/

/-- One level of a tree over present operands: adjacent results combine, and a node with one present operand passes it
on. -/
def treeLevel (op : Nat → Nat → Lane) : List (Option Nat) → List (Option Nat) × List Nat
  | a :: b :: xs =>
    let (r, c) := treeLevel op xs
    match a, b with
    | some x, some y => let l := op x y; (some l.v :: r, l.c ++ c)
    | some x, none => (some x :: r, c)
    | none, y => (y :: r, c)
  | [a] => ([a], [])
  | [] => ([], [])

/-- A tree of `n` levels. -/
def treeF (op : Nat → Nat → Lane) : Nat → List (Option Nat) → Option Nat × List Nat
  | 0, xs => (xs.head?.getD none, [])
  | n + 1, xs =>
    let (ys, c) := treeLevel op xs
    let (r, d) := treeF op n ys
    (r, c ++ d)

/-- The node operation of a reduction: FN 0 SUM, 1 MAX, 2 MIN, 3 AND, 4 OR, 5 XOR. -/
def redOp (fn : Nat) (ty : Bool) (a b : Nat) : Lane :=
  match fn with
  | 0 => if ty then intWrap (i32 a + i32 b) else fpAdd a b
  | 1 => if ty then { v := if i32 a < i32 b then b else a } else fpMax a b
  | 2 => if ty then { v := if i32 b < i32 a then b else a } else fpMin a b
  | 3 => { v := a &&& b }
  | 4 => { v := a ||| b }
  | _ => { v := a ^^^ b }

/-- The result of an empty reduction (R190). -/
def redEmpty (fn : Nat) (ty : Bool) : Nat :=
  match fn with
  | 0 => 0
  | 1 => if ty then 0x80000000 else 0xFF800000
  | 2 => if ty then 0x7FFFFFFF else 0x7F800000
  | 3 => 0xFFFFFFFF
  | _ => 0

/-- A reduction over lanes of which the absent ones are none: the lane result (R190). -/
def reduce (fn : Nat) (ty : Bool) (xs : List (Option Nat)) : Lane :=
  match treeF (redOp fn ty) 6 xs with
  | (some v, c) => { v := v, c := c }
  | (none, c) => { v := redEmpty fn ty, c := c }

end Sys2Proof.Machine
end

