-- ==== Sys2Proof/Machine/Vector.lean ====
section
/-! DEFINITION. The vector engine: registers and masks, every operation of R182, and the fetch, issue and memory access of
vector programs (R175 to R207). -/

namespace Sys2Proof.Machine

/-! ### Instruction fields (R180) -/

/-- OP. -/
def vOp (w : Nat) : Nat := w % 256
/-- VD. -/
def vVd (w : Nat) : Nat := bits w 12 8
/-- VA. -/
def vVa (w : Nat) : Nat := bits w 17 13
/-- VB. -/
def vVb (w : Nat) : Nat := bits w 22 18
/-- VC. -/
def vVc (w : Nat) : Nat := bits w 27 23
/-- MR. -/
def vMr (w : Nat) : Nat := bits w 30 28
/-- ME. -/
def vMe (w : Nat) : Bool := isSet w 31
/-- MI. -/
def vMi (w : Nat) : Bool := isSet w 32
/-- MZ. -/
def vMz (w : Nat) : Bool := isSet w 33
/-- TY: INT32. -/
def vTy (w : Nat) : Bool := isSet w 34
/-- FN. -/
def vFn (w : Nat) : Nat := bits w 37 35
/-- FMT. -/
def vFmt (w : Nat) : Nat := bits w 43 38
/-- IMM. -/
def vImm (w : Nat) : Nat := bits w 63 44
/-- LINE of a load or store. -/
def vLine (w : Nat) : Nat := vImm w % 4096
/-- STRIDE, or PITCH of a tile load or store. -/
def vStride (w : Nat) : Nat := vImm w / 4096

/-- Opcodes of the Vector operations table (R182). -/
def vKnown (op : Nat) : Bool :=
  decide (op ≤ 3) || (decide (8 ≤ op) && decide (op ≤ 0x12)) || (decide (0x20 ≤ op) && decide (op ≤ 0x34))
    || (decide (0x38 ≤ op) && decide (op ≤ 0x42)) || (decide (0x48 ≤ op) && decide (op ≤ 0x4B))
    || (decide (0x50 ≤ op) && decide (op ≤ 0x55)) || (decide (0x58 ≤ op) && decide (op ≤ 0x5B)) || op == 0x60 || op == 0x61

/-- The largest FN that an operation defines; 7 where it does not use FN (R181). -/
def vFnMax (op : Nat) : Nat :=
  if op = 0x03 ∨ op = 0x2C then 2
  else if op = 0x08 ∨ op = 0x31 ∨ op = 0x33 ∨ op = 0x5A then 1
  else if op = 0x41 ∨ op = 0x54 ∨ op = 0x55 then 4
  else if op = 0x50 ∨ op = 0x51 then 5
  else 7

/-- The operations that exist in FP32 only (R181). -/
def vFpOnly (op : Nat) : Bool := op == 0x29 || op == 0x2A || op == 0x2B || (decide (0x38 ≤ op) && decide (op ≤ 0x3F))

/-- An instruction that R181 calls invalid; `first` says that it is the first of its task, `mxShort` that FMT has MX set
while VL is not 64 (R204). -/
def vecInvalid (w : Nat) (first mxShort : Bool) : Bool :=
  let op := vOp w
  let off4 := fun (r : Nat) => r % 4 != 0
  let inSrc := fun (r : Nat) => decide (vVa w ≤ r) && decide (r ≤ vVa w + 3)
  !vKnown op || (first != (op == 1)) || (op == 1 && (bits w 43 18 != 0 || bits w 63 60 != 0))
    || decide (vFnMax op < vFn w)
    || (op == 0x10 && off4 (vVd w)) || ((op == 0x11 || op == 0x61) && off4 (vVa w))
    || (op == 0x60 && (off4 (vVd w) || off4 (vVa w) || off4 (vVb w)))
    || ((op == 0x58 || op == 0x61) && vVd w == 31)
    || (op == 0x61 && (inSrc (vVd w) || inSrc (vVd w + 1) || mxShort))
    || (vFpOnly op && vTy w)

/-! ### Registers and masks -/

/-- Element `i` of a vector register. -/
def VecEng.e (ve : VecEng) (r i : Nat) : Nat := ve.v.getD (64 * r + i) 0
/-- Writes element `i` of a vector register. -/
def VecEng.setE (ve : VecEng) (r i x : Nat) : VecEng := { ve with v := ve.v.put (64 * (r % 32) + i) x }
/-- Element `i` of row `r` of a tile register. -/
def VecEng.te (ve : VecEng) (t r i : Nat) : Nat := ve.t.getD ((16 * (t % 8) + r) * 64 + i) 0
/-- Writes an element of a tile register. -/
def VecEng.setT (ve : VecEng) (t r i x : Nat) : VecEng := { ve with t := ve.t.put ((16 * (t % 8) + r) * 64 + i) x }
/-- A mask register. -/
def VecEng.mk_ (ve : VecEng) (r : Nat) : Nat := ve.m.getD (r % 8) 0
/-- Writes a mask register. -/
def VecEng.setM (ve : VecEng) (r x : Nat) : VecEng := { ve with m := ve.m.put (r % 8) x }

/-- VL (R175). -/
def Lantern.vl (l : Lantern) : Nat := l.r F.VE_VL_VL

/-- Bit `i` of MR with MI applied. -/
def Lantern.maskOf (l : Lantern) (w i : Nat) : Bool := isSet (l.ve.mk_ (vMr w)) i != vMi w

/-- Element `i` is active (R176). -/
def Lantern.active (l : Lantern) (w i : Nat) : Bool := decide (i < l.vl) && (!vMe w || l.maskOf w i)

/-- The active elements in ascending order. -/
def Lantern.actives (l : Lantern) (w : Nat) : List Nat := (upto 64).filter (l.active w)

/-- What an operation leaves: the engine, the counters it increments, and whether its format word is refused (R184). -/
structure VOut where
  ve  : VecEng
  cnt : List Nat := []
  bad : Bool := false
  vl  : Option Nat := none

/-- A vector result by element: active elements take theirs, inactive ones below VL follow MZ, the tail stays (R185). -/
def Lantern.lanes (l : Lantern) (w : Nat) (f : Nat → Lane) : VOut :=
  (upto 64).foldl (fun (o : VOut) i =>
    if l.active w i then
      let x := f i
      { o with ve := o.ve.setE (vVd w) i x.v, cnt := o.cnt ++ x.c }
    else if i < l.vl ∧ vMz w then { o with ve := o.ve.setE (vVd w) i 0 }
    else o) { ve := l.ve }

/-- A mask result bit by bit (R185). -/
def Lantern.maskLanes (l : Lantern) (w : Nat) (f : Nat → Bool) : VOut :=
  let old := l.ve.mk_ (vVd w)
  let new := (upto 64).foldl (fun m i =>
    let b := if l.active w i then f i else if i < l.vl ∧ vMz w then false else isSet old i
    m + b2n b * 2 ^ i) 0
  { ve := l.ve.setM (vVd w) new }

/-- A tile result by row and element. `mz` says that MZ acts on inactive elements. -/
def Lantern.tileLanes (l : Lantern) (w : Nat) (rows : List Nat) (mz : Bool) (f : Nat → Nat → Lane) : VOut :=
  rows.foldl (fun (o : VOut) r => (upto 64).foldl (fun (o : VOut) i =>
    if l.active w i then
      let x := f r i
      { o with ve := o.ve.setT (vVd w) r i x.v, cnt := o.cnt ++ x.c }
    else if i < l.vl ∧ mz then { o with ve := o.ve.setT (vVd w) r i 0 }
    else o) o) { ve := l.ve }

/-- Source elements. -/
def Lantern.a (l : Lantern) (w i : Nat) : Nat := l.ve.e (vVa w) i
/-- Second source element. -/
def Lantern.b (l : Lantern) (w i : Nat) : Nat := l.ve.e (vVb w) i
/-- Third source element. -/
def Lantern.c (l : Lantern) (w i : Nat) : Nat := l.ve.e (vVc w) i

/-- A two-operand operation with its FP32 and INT32 forms. -/
def Lantern.op2 (l : Lantern) (w : Nat) (fp int : Nat → Nat → Lane) : VOut :=
  l.lanes w fun i => if vTy w then int (l.a w i) (l.b w i) else fp (l.a w i) (l.b w i)

/-- A one-operand operation with its FP32 and INT32 forms. -/
def Lantern.op1 (l : Lantern) (w : Nat) (fp int : Nat → Lane) : VOut :=
  l.lanes w fun i => if vTy w then int (l.a w i) else fp (l.a w i)

/-! ### Arithmetic (R182, R192, R193) -/

/-- VADD. -/
def Lantern.vadd (l : Lantern) (w : Nat) : VOut := l.op2 w fpAdd fun a b => intWrap (i32 a + i32 b)
/-- VSUB. -/
def Lantern.vsub (l : Lantern) (w : Nat) : VOut := l.op2 w fpSub fun a b => intWrap (i32 a - i32 b)
/-- VMUL. -/
def Lantern.vmul (l : Lantern) (w : Nat) : VOut := l.op2 w fpMul fun a b => intWrap (i32 a * i32 b)
/-- VFMA. -/
def Lantern.vfma (l : Lantern) (w : Nat) : VOut :=
  l.lanes w fun i => if vTy w then intWrap (i32 (l.a w i) * i32 (l.b w i) + i32 (l.c w i)) else fpFma (l.a w i) (l.b w i) (l.c w i)
/-- VFMS. -/
def Lantern.vfms (l : Lantern) (w : Nat) : VOut :=
  l.lanes w fun i => if vTy w then intWrap (i32 (l.a w i) * i32 (l.b w i) - i32 (l.c w i)) else fpFms (l.a w i) (l.b w i) (l.c w i)
/-- VMIN. -/
def Lantern.vmin (l : Lantern) (w : Nat) : VOut := l.op2 w fpMin (redOp 2 true)
/-- VMAX. -/
def Lantern.vmax (l : Lantern) (w : Nat) : VOut := l.op2 w fpMax (redOp 1 true)
/-- VABS. -/
def Lantern.vabs (l : Lantern) (w : Nat) : VOut := l.op1 w fpAbs fun a => intWrap (if i32 a < 0 then -i32 a else i32 a)
/-- VNEG. -/
def Lantern.vneg (l : Lantern) (w : Nat) : VOut := l.op1 w fpNeg fun a => intWrap (-i32 a)
/-- VDIV. -/
def Lantern.vdiv (l : Lantern) (w : Nat) : VOut := l.lanes w fun i => fpDiv (l.a w i) (l.b w i)
/-- VSQRT. -/
def Lantern.vsqrt (l : Lantern) (w : Nat) : VOut := l.lanes w fun i => fpSqrt (l.a w i)
/-- VLDEXP. -/
def Lantern.vldexp (l : Lantern) (w : Nat) : VOut := l.lanes w fun i => fpLdexp (l.a w i) (l.b w i)
/-- VAND. -/
def Lantern.vand (l : Lantern) (w : Nat) : VOut := l.lanes w fun i => { v := l.a w i &&& l.b w i }
/-- VOR. -/
def Lantern.vor (l : Lantern) (w : Nat) : VOut := l.lanes w fun i => { v := l.a w i ||| l.b w i }
/-- VXOR. -/
def Lantern.vxor (l : Lantern) (w : Nat) : VOut := l.lanes w fun i => { v := l.a w i ^^^ l.b w i }
/-- VSHL. -/
def Lantern.vshl (l : Lantern) (w : Nat) : VOut := l.lanes w fun i => shlOp (l.a w i) (l.b w i)
/-- VSHR. -/
def Lantern.vshr (l : Lantern) (w : Nat) : VOut := l.lanes w fun i => shrOp (vFn w == 1) (l.a w i) (l.b w i)
/-- A transcendental operation (R194). -/
def Lantern.vtransc (l : Lantern) (t : Transc) (w : Nat) : VOut := l.lanes w fun i => t.eval (l.a w i)

/-- VSEL chooses by MR whatever ME holds, for every element below VL (R182). -/
def Lantern.vsel (l : Lantern) (w : Nat) : VOut :=
  { ve := (upto 64).foldl (fun ve i =>
      if i < l.vl then ve.setE (vVd w) i (if l.maskOf w i then l.a w i else l.b w i) else ve) l.ve }

/-- VMOVI. -/
def Lantern.vmovi (l : Lantern) (w : Nat) : VOut :=
  l.lanes w fun _ => { v := if vFn w = 0 then ofInt 32 (sext 20 (vImm w)) else vImm w * 4096 }

/-- VBCAST. -/
def Lantern.vbcast (l : Lantern) (w : Nat) : VOut := l.lanes w fun _ => { v := l.a w (vImm w % 64) }

/-- A format word that memory operations, VCVT FN 2 and WFIN accept: valid, ENC 0, not ternary (R184). -/
def Lantern.memFmt (l : Lantern) (w : Nat) : Option FmtWord :=
  match l.fmt (vFmt w) with
  | some f => if f.enc = .dense ∧ f.vfmt ≠ .ternary then some f else none
  | none => none

/-- A format word that VEXPD, VPERM and VSLIDE accept: valid and not ternary (R184). -/
def Lantern.permFmt (l : Lantern) (w : Nat) : Option FmtWord :=
  match l.fmt (vFmt w) with
  | some f => if f.vfmt ≠ .ternary then some f else none
  | none => none

/-- VCVT (R182, R193). -/
def Lantern.vcvt (l : Lantern) (w : Nat) : VOut :=
  if vFn w = 0 then l.lanes w fun i => let k := VFmt.int32.encode false (f32 (l.a w i)); k.lane k.code
  else if vFn w = 1 then l.lanes w fun i => { v := (VFmt.fp32.encode false (Num.int (i32 (l.a w i)))).code }
  else match l.memFmt w with
    | none => { ve := l.ve, bad := true }
    | some f => l.lanes w fun i => roundTo f.vfmt f.sat (f32 (l.a w i))

/-! ### Masks, permutation and reductions (R185 to R191) -/

/-- VCMP. -/
def Lantern.vcmp (l : Lantern) (w : Nat) : VOut := l.maskLanes w fun i => cmpOp (vFn w) (vTy w) (l.a w i) (l.b w i)

/-- MLOGIC. -/
def Lantern.mlogic (l : Lantern) (w : Nat) : VOut :=
  l.maskLanes w fun i =>
    let a := isSet (l.ve.mk_ (vVa w)) i
    let b := isSet (l.ve.mk_ (vVb w)) i
    match vFn w with
    | 0 => a && b
    | 1 => a || b
    | 2 => a != b
    | 3 => a && !b
    | _ => !a

/-- The elements of VD that an operation does not write: inactive ones below VL follow MZ (R185). -/
def Lantern.unwritten (l : Lantern) (w : Nat) (ve : VecEng) (is : List Nat) : VecEng :=
  is.foldl (fun ve i => if i < l.vl ∧ vMz w ∧ !l.active w i then ve.setE (vVd w) i 0 else ve) ve

/-- MPOPC (R182, R185). -/
def Lantern.mpopc (l : Lantern) (w : Nat) : VOut :=
  { ve := l.unwritten w (l.ve.setE (vVd w) 0 (l.actives w).length) (rangeFrom 1 63) }

/-- VCOMP (R187). -/
def Lantern.vcomp (l : Lantern) (w : Nat) : VOut :=
  let xs := (l.actives w).map (l.a w)
  { ve := (upto 64).foldl (fun ve i => match xs[i]? with
      | some x => ve.setE (vVd w) i x
      | none => if vMz w then ve.setE (vVd w) i 0 else ve) l.ve }

/-- VEXPD (R188). -/
def Lantern.vexpd (l : Lantern) (w : Nat) : VOut :=
  match l.permFmt w with
  | none => { ve := l.ve, bad := true }
  | some f =>
    let bg := toLane f.vfmt false (f.elemOf f.background)
    { ve := (upto l.vl).foldl (fun ve i =>
        let j := ((upto i).filter (l.active w)).length
        ve.setE (vVd w) i (if l.active w i then l.a w j else bg)) l.ve }

/-- VPERM (R189). -/
def Lantern.vperm (l : Lantern) (w : Nat) : VOut :=
  match l.permFmt w with
  | none => { ve := l.ve, bad := true }
  | some f =>
    let pad := toLane f.vfmt false (f.elemOf f.pad)
    l.lanes w fun i => if l.b w i < l.vl then { v := l.a w (l.b w i) } else { v := pad, c := [cPERM] }

/-- VSLIDE (R189). -/
def Lantern.vslide (l : Lantern) (w : Nat) : VOut :=
  match l.permFmt w with
  | none => { ve := l.ve, bad := true }
  | some f =>
    let pad := toLane f.vfmt false (f.elemOf f.pad)
    let s := sext 7 (vImm w)
    l.lanes w fun i =>
      let j : Int := i - s
      if 0 ≤ j ∧ j < l.vl then { v := l.a w j.toNat } else { v := pad }

/-- VRED (R190). -/
def Lantern.vred (l : Lantern) (w : Nat) : VOut :=
  let r := reduce (vFn w) (vTy w) ((upto 64).map fun i => if l.active w i then some (l.a w i) else none)
  { ve := l.ve.setE (vVd w) 0 r.v, cnt := r.c }

/-- TRED (R191): on axis 1 elements 0 to 15 are written, and the inactive ones of the others follow MZ (R185). -/
def Lantern.tred (l : Lantern) (w : Nat) : VOut :=
  let t := vVa w
  if isSet (vImm w) 0 then
    (upto 16).foldl (fun (o : VOut) r =>
      let x := reduce (vFn w) (vTy w) ((upto 64).map fun i => if l.active w i then some (l.ve.te t r i) else none)
      { o with ve := o.ve.setE (vVd w) r x.v, cnt := o.cnt ++ x.c }) { ve := l.unwritten w l.ve (rangeFrom 16 48) }
  else l.lanes w fun i =>
    reduce (vFn w) (vTy w) ((upto 16).map (fun r => some (l.ve.te t r i)) ++ List.replicate 48 none)

/-- TGET. -/
def Lantern.tget (l : Lantern) (w : Nat) : VOut := l.lanes w fun i => { v := l.ve.te (vVa w) (vImm w % 16) i }

/-- TPUT. -/
def Lantern.tput (l : Lantern) (w : Nat) : VOut :=
  l.tileLanes w [vImm w % 16] (vMz w) fun _ i => { v := l.a w i }

/-- The operation of TOPV and TOPT: FN 0 ADD, 1 SUB, 2 MUL, 3 MAX, 4 MIN. -/
def tileOp (fn : Nat) (ty : Bool) (a b : Nat) : Lane :=
  match fn with
  | 0 => if ty then intWrap (i32 a + i32 b) else fpAdd a b
  | 1 => if ty then intWrap (i32 a - i32 b) else fpSub a b
  | 2 => if ty then intWrap (i32 a * i32 b) else fpMul a b
  | 3 => redOp 1 ty a b
  | _ => redOp 2 ty a b

/-- TOPV (R191). -/
def Lantern.topv (l : Lantern) (w : Nat) : VOut :=
  l.tileLanes w (upto 16) false fun r i =>
    tileOp (vFn w) (vTy w) (l.ve.te (vVa w) r i) (if isSet (vImm w) 0 then l.b w r else l.b w i)

/-- TOPT. -/
def Lantern.topt (l : Lantern) (w : Nat) : VOut :=
  l.tileLanes w (upto 16) (vMz w) fun r i => tileOp (vFn w) (vTy w) (l.ve.te (vVa w) r i) (l.ve.te (vVb w) r i)

/-! ### Statistics records in registers (R195 to R198) -/

/-- A record slot (R195). -/
structure RecSlot where
  sum   : Nat
  sumsq : Nat
  max_  : Nat
  count : Nat
  flags : Nat
  pinf  : Nat
  deriving DecidableEq, Repr

/-- The empty record (R131). -/
def RecSlot.empty : RecSlot := { sum := 0, sumsq := 0, max_ := 0xFF800000, count := 0, flags := 0, pinf := 0 }

/-- Slot `j` of a vector register. -/
def VecEng.slot (ve : VecEng) (r j : Nat) : RecSlot :=
  let e := fun i => ve.e r (8 * (j % 8) + i)
  { sum := e 0 + e 1 <<< 32 + e 2 <<< 64, sumsq := e 3 + e 4 <<< 32 + e 5 <<< 64, max_ := e 6,
    count := bits (e 7) 15 0, flags := bits (e 7) 23 16, pinf := bits (e 7) 31 24 }

/-- The eight words of a record. -/
def RecSlot.words (s : RecSlot) : List Nat :=
  [bits s.sum 31 0, bits s.sum 63 32, bits s.sum 95 64, bits s.sumsq 31 0, bits s.sumsq 63 32, bits s.sumsq 95 64, s.max_,
   s.count + s.flags <<< 16 + s.pinf <<< 24]

/-- Writes slot `j` of a vector register. -/
def VecEng.setSlot (ve : VecEng) (r j : Nat) (ws : List Nat) : VecEng :=
  ((ws.take 8).zip (upto 8)).foldl (fun ve xi => ve.setE r (8 * (j % 8) + xi.2) xi.1) ve

/-- A 96-bit fixed-point sum that saturates at the ends of the range (R197). -/
def satAdd96 (a b : Nat) : Nat × Bool :=
  let s := acc96 a + acc96 b
  let lim : Int := ((2 ^ 95 : Nat) : Int)
  if s < -lim then (ofInt 96 (-lim), true) else if lim ≤ s then (ofInt 96 (lim - 1), true) else (ofInt 96 s, false)

/-- The combination of two records, and how many of its 96-bit sums saturated (R197). -/
def RecSlot.comb (x y : RecSlot) : RecSlot × Nat :=
  let (s, o1) := satAdd96 x.sum y.sum
  let (q, o2) := satAdd96 x.sumsq y.sumsq
  let n := x.count + y.count
  let p := x.pinf + y.pinf
  let sat := o1 || o2 || decide (65535 < n) || decide (255 < p)
  ({ sum := s, sumsq := q, max_ := (fpMax x.max_ y.max_).v, count := min n 65535, pinf := min p 255,
     flags := x.flags ||| y.flags ||| (if sat then 4 else 0) }, b2n o1 + b2n o2)

/-- RSTAT (R196). -/
def Lantern.rstat (l : Lantern) (w : Nat) : VOut :=
  let (bs, n) := statRecord ((l.actives w).map fun i => f32 (l.a w i))
  { ve := l.ve.setSlot (vVd w) (vImm w % 8) ((chunks 4 bs).map ofBytes), cnt := List.replicate n cSTAT }

/-- RCOMB (R197). -/
def Lantern.rcomb (l : Lantern) (w : Nat) : VOut :=
  if vFn w = 0 then
    (upto 8).foldl (fun (o : VOut) j =>
      let (s, n) := (l.ve.slot (vVa w) j).comb (l.ve.slot (vVb w) j)
      { o with ve := o.ve.setSlot (vVd w) j s.words, cnt := o.cnt ++ List.replicate n cSTAT }) { ve := l.ve }
  else
    let js := (upto 8).filter (isSet (vImm w))
    let (s, n) := match js with
      | [] => (RecSlot.empty, 0)
      | j :: rest => rest.foldl (fun (acc : RecSlot × Nat) j =>
          let (s, n) := acc.1.comb (l.ve.slot (vVa w) j)
          (s, acc.2 + n)) (l.ve.slot (vVa w) j, 0)
    { ve := l.ve.setSlot (vVd w) 0 s.words, cnt := List.replicate n cSTAT }

/-- Mean and variance of a record as FP32, and whether it was empty (R198). -/
def RecSlot.meanVar (s : RecSlot) : Nat × Nat × Bool :=
  if isSet s.flags 0 then (qnan, qnan, false)
  else if s.count = 0 then (0, 0, true)
  else
    let n := s.count
    let mean := Num.div (Num.ofInt (acc96 s.sum) (-40) false) (.fin false n 0)
    let num : Int := acc96 s.sumsq * ((2 ^ 40 : Nat) : Int) * n - acc96 s.sum * acc96 s.sum
    let var := Num.div (Num.ofInt num (-80) false) (.fin false (n * n) 0)
    ((fpRound mean).v, (fpRound var).v, false)

/-- RMV (R198). -/
def Lantern.rmv (l : Lantern) (w : Nat) : VOut :=
  (upto 8).foldl (fun (o : VOut) j =>
    let (m, v, e) := (l.ve.slot (vVa w) j).meanVar
    { o with ve := (o.ve.setE (vVd w) (2 * j) m).setE (vVd w) (2 * j + 1) v, cnt := if e then o.cnt ++ [cEMPTY] else o.cnt })
    { ve := l.ve }

/-! ### Softmax (R199 to R201) -/

/-- One pass of the normal case for a maximum `m`: the exponentials of the active elements by element, and their tree
sum. -/
def smxPass (m : Nat) (xs : List (Option Nat)) : List (Option Nat) × Nat :=
  let es := xs.map fun x => x.map fun x =>
    if x = 0xFF800000 then 0 else (Transc.exp.eval (fpSub x m).v).v
  (es, (reduce 0 false es).v)

/-- SMX. -/
def Lantern.smx (l : Lantern) (w : Nat) : VOut :=
  let r := l.ve.slot (vVb w) (vImm w % 8)
  let xs := (upto 64).map fun i => if l.active w i then some (l.a w i) else none
  let act := xs.filterMap id
  let fins := act.filter fun x => (f32 x).isFin
  let ninf := act.countP (· == 0x7F800000)
  let write := fun (f : Nat → Nat) (s : Nat) (c : List Nat) =>
    ({ ve := ((upto l.vl).foldl (fun ve i => ve.setE (vVd w) i (f i)) l.ve).setE (vVd w + 1) 0 s, cnt := c } : VOut)
  if isSet r.flags 0 || (f32 r.max_).isNan || act.any fun x => (f32 x).isNan then
    write (fun _ => qnan) qnan [cSMXNAN]
  else if ninf ≠ 0 then
    let p := (fpRound (Num.div (.fin false 1 0) (.fin false ninf 0))).v
    write (fun i => if xs.getD i none = some 0x7F800000 then p else 0) 0x7F800000 [cSMXINF]
  else if fins.isEmpty then write (fun _ => 0) 0 [cEMPTY]
  else
    let top := fins.foldl (fun m x => if Num.lt (f32 m) (f32 x) then x else m) (fins.headD 0)
    let (es, s) := smxPass r.max_ xs
    let again := Num.lt (f32 r.max_) (f32 top) || s == 0
    let (es, s) := if again then smxPass top xs else (es, s)
    write (fun i => match es.getD i none with
      | some e => (fpDiv e s).v
      | none => 0) s (if again then [cSTALE] else [])

/-! ### Split reductions (R202 to R205) -/

/-- Lane `i` of a group of four registers as an accumulator cell. -/
def VecEng.part (ve : VecEng) (r i : Nat) : Cell :=
  let s := ve.e (r + 3) i
  { v := ve.e r i + (ve.e (r + 1) i) <<< 32 + (ve.e (r + 2) i) <<< 64, tag := bits s 1 0, fp := isSet s 2 }

/-- Writes lane `i` of a group. -/
def VecEng.setPart (ve : VecEng) (r i : Nat) (x : Cell) : VecEng :=
  (((ve.setE r i (bits x.v 31 0)).setE (r + 1) i (bits x.v 63 32)).setE (r + 2) i (bits x.v 95 64)).setE (r + 3) i
    (x.tag + 4 * b2n x.fp)

/-- TAG of a sum of two long-mode partials (R118, R135). -/
def tagComb (a b : Nat) : Nat := if a = 0 then b else if b = 0 then a else if a = b then a else 3

/-- WADD on one lane (R203). TAG is combined in FP32 mode too: it is 0 there but for the sum of two modes (log entry 112). -/
def partAdd (x y : Cell) : Cell × List Nat :=
  if x.fp ≠ y.fp then ({ v := 0, fp := x.fp, tag := 3 }, [cPMODE])
  else if x.fp then
    let r := fpAdd (x.v % 2 ^ 32) (y.v % 2 ^ 32)
    ({ v := r.v, fp := true, tag := tagComb x.tag y.tag }, r.c)
  else ({ v := (x.v + y.v) % 2 ^ 96, fp := false, tag := tagComb x.tag y.tag }, [])

/-- WADD (R203). -/
def Lantern.wadd (l : Lantern) (w : Nat) : VOut :=
  (upto 64).foldl (fun (o : VOut) i =>
    if l.active w i then
      let (x, c) := partAdd (l.ve.part (vVa w) i) (l.ve.part (vVb w) i)
      { o with ve := o.ve.setPart (vVd w) i x, cnt := o.cnt ++ c }
    else if i < l.vl ∧ vMz w then { o with ve := o.ve.setPart (vVd w) i {} }
    else o) { ve := l.ve }

/-- The value of a partial times 2^VB (R204). -/
def Lantern.wfinVal (l : Lantern) (w i : Nat) : Num :=
  (l.ve.part (vVa w) i).value.scale (clampExp (i32 (l.b w i)))

/-- A rounded code in its lane: FP32, or INT32 for an integer format (R204). -/
def Conv.inLane (k : Conv) (f : FmtWord) : Lane := k.lane (toLane f.vfmt false k.code)

/-- WFIN (R204). -/
def Lantern.wfin (l : Lantern) (w : Nat) : VOut :=
  match l.memFmt w with
  | none => { ve := l.ve, bad := true }
  | some f =>
    if !f.mx then l.lanes w fun i => (f.vfmt.encode f.sat (l.wfinVal w i)).inLane f
    else
      let half := fun (h : Nat) => blockScale f.vfmt ((rangeFrom (32 * h) 32).filterMap fun i =>
        if l.active w i then some (l.wfinVal w i) else none)
      let o := l.lanes w fun i => match (half (i / 32)).2 with
        | some s => (mxConvert f s (l.wfinVal w i)).inLane f
        | none => { v := 0 }
      let ve := (upto 64).foldl (fun ve i => if (half (i / 32)).2.isNone then ve.setE (vVd w) i 0 else ve) o.ve
      { o with ve := (ve.setE (vVd w + 1) 0 (half 0).1).setE (vVd w + 1) 1 (half 1).1 }

/-- VSLE (R205). -/
def Lantern.vsle (l : Lantern) (w : Nat) : VOut :=
  let base := l.r F.LN_FMT_SL_BASE (vFmt w)
  let en := fun (i : Nat) => l.slEntry base (vImm w % 2 ^ 16 + i * (vImm w / 2 ^ 16))
  let o := l.lanes w fun i => { v := ofInt 32 (en i).1 }
  { o with cnt := if (l.actives w).any fun i => (en i).2 then [cADDR] else []
           ve := { o.ve with slSeen := if o.ve.slSeen.contains base then o.ve.slSeen else base :: o.ve.slSeen } }

/-! ### The engine's bookkeeping -/

/-- The VE_ counter of a number (R206). -/
def veCounter (n : Nat) : Fld :=
  [F.VE_INVALID_CNT_COUNT, F.VE_DIVZ_CNT_COUNT, F.VE_OVF_CNT_COUNT, F.VE_UNF_CNT_COUNT, F.VE_IOVF_CNT_COUNT,
   F.VE_SAT_CNT_COUNT, F.VE_NAN0_CNT_COUNT, F.VE_PERM_CNT_COUNT, F.VE_ADDR_CNT_COUNT, F.VE_SMX_NAN_CNT_COUNT,
   F.VE_SMX_INF_CNT_COUNT, F.VE_EMPTY_CNT_COUNT, F.VE_STALE_CNT_COUNT, F.VE_PMODE_CNT_COUNT, F.VE_STAT_CNT_COUNT,
   F.VE_EMPTY_TASK_CNT_COUNT].getD (n - 1) F.VE_SHAPE_OVF_CNT_COUNT

/-- UNIT of a vector engine (R418). -/
def Channel.veUnit (ch : Channel) (g : Nat) : Nat := unitWord ch.no 4 g 0 0

/-- Counter `n` increments by `k` and sets its sticky bit; the first increment in a tick of the three special-value counts is
recorded (R206, R207). -/
def Channel.veCountOne (ch : Channel) (g ctx n k : Nat) : Channel :=
  let ch := ch.modLan g fun l =>
    let l := l.inc (veCounter n) 0 k
    { l with regs := l.regs.setBits F.VE_STATUS_STICKY 0 (2 ^ (n - 1)) }
  if n = cINVALID ∨ n = cPMODE ∨ n = cSMXNAN then ch.raiseOnce (onceKey 0x0B g) 0x0B (ch.veUnit g) (some ctx) 0 else ch

/-- The special outcomes of an instruction are counted (R206). -/
def Channel.veCount (ch : Channel) (g ctx : Nat) (cs : List Nat) : Channel :=
  cs.eraseDups.foldl (fun ch n => ch.veCountOne g ctx n (cs.countP (· == n))) ch

/-- Changes the engine of a lantern. -/
def Channel.modVe (ch : Channel) (g : Nat) (f : VecEng → VecEng) : Channel := ch.modLan g fun l => { l with ve := f l.ve }

/-- Changes one task of the engine. -/
def VecEng.modTask (ve : VecEng) (id : Nat) (f : CTask → CTask) : VecEng :=
  { ve with tasks := ve.tasks.map fun t => if t.id = id then f t else t }

/-- The engine signals the completion of every ended task whose instructions are done (R177), and BUSY shows whether a
task is open or an instruction is not done. -/
def Channel.veSettle (ch : Channel) (g : Nat) : Channel :=
  ch.modLan g fun l =>
    let ve := l.ve
    let idle := fun (t : CTask) => !ve.mem.any (fun m => m.task == t.id) && decide (t.doneAt ≤ ch.cyc)
    let fin := (ve.tasks.filter fun t => t.ended && idle t).map (·.id)
    let ts := ve.tasks.filter fun t => !((t.ended || t.stopped) && idle t)
    let q := { l.tq with tasks := l.tq.tasks.map fun t => if fin.contains t.id then { t with done := true } else t }
    let l := { l with ve := { ve with tasks := ts }, tq := q }
    l.w F.VE_STATUS_BUSY 0 (b2n (ts.any (fun t => t.opened || t.stopped) || !ve.mem.isEmpty))

/-- An invalid vector instruction or the end of a task without a VEND (R177, R181, R251). -/
def Channel.veInvalid (ch : Channel) (g : Nat) (t : CTask) : Channel :=
  let ch := ch.modVe g fun ve =>
    { ve.modTask t.id (fun t => { t with stopped := true }) with
      ibuf := ve.ibuf.filter (fun i => i.task != t.id), ipos := 0 }
  let ch := (ch.lw g F.VE_STATUS_INV_INSN 0 1).raise 1 (ch.veUnit g) (some t.ctx) 0
  (ch.finishTask g t.id false).veSettle g

/-- The next instruction that may issue in this cycle. -/
def VecEng.nextWord (ve : VecEng) (cyc : Nat) : Option (CTask × Nat) :=
  match ve.tasks.find? fun t => !t.ended && !t.stopped, ve.ibuf with
  | some t, i :: _ =>
    if i.task = t.id ∧ (t.empty ∨ ve.nextIssue ≤ cyc) then
      match i.ready with
      | some r => if r ≤ cyc then (i.words[ve.ipos]?).map fun w => (t, w) else none
      | none => none
    else none
  | _, _ => none

/-- The engine passes the instruction it has issued. -/
def VecEng.advance (ve : VecEng) (cyc : Nat) : VecEng :=
  let ve := { ve with nextIssue := cyc + 1 }
  if ve.ipos = 7 then { ve with ipos := 0, ibuf := ve.ibuf.drop 1 } else { ve with ipos := ve.ipos + 1 }

/-- Four registers of a group. -/
def group4 (r : Nat) : List Nat := [r, r + 1, r + 2, r + 3]

/-- Destination registers of an instruction: vector registers 0 to 31, tiles from 32, masks from 40 (R182). -/
def vDsts (w : Nat) : List Nat :=
  let d := vVd w
  let op := vOp w
  if op ≤ 3 ∨ op = 0x09 ∨ op = 0x0B ∨ op = 0x0D ∨ op = 0x0F ∨ op = 0x11 then []
  else if op = 0x0C ∨ op = 0x40 ∨ op = 0x41 then [40 + d % 8]
  else if op = 0x0E ∨ op = 0x53 ∨ op = 0x54 ∨ op = 0x55 then [32 + d % 8]
  else if op = 0x10 ∨ op = 0x60 then group4 d
  else if op = 0x58 ∨ op = 0x61 then [d, d + 1]
  else [d]

/-- Source registers that an instruction reads: MR where its outcome depends on activity (R176, R182, R195). -/
def vSrcs (w : Nat) : List Nat :=
  let op := vOp w
  let a := vVa w
  let b := vVb w
  let m := if op = 0x32 ∨ (vMe w ∧ !(decide (op ≤ 3) || op == 0x0D || op == 0x5A || op == 0x5B)) then [40 + vMr w] else []
  let r : List Nat :=
    if op ≤ 2 ∨ op = 0x08 ∨ op = 0x0C ∨ op = 0x0E ∨ op = 0x10 ∨ op = 0x12 ∨ op = 0x33 ∨ op = 0x42 then []
    else if op = 0x03 then (if vFn w = 2 then [a] else [])
    else if op = 0x0A then [b]
    else if op = 0x0B then [a, b]
    else if op = 0x0D then [40 + a % 8]
    else if op = 0x0F ∨ op = 0x51 ∨ op = 0x52 then [32 + a % 8]
    else if op = 0x11 then group4 a
    else if op = 0x41 then (if vFn w = 4 then [40 + a % 8] else [40 + a % 8, 40 + b % 8])
    else if op = 0x5A then (if vFn w = 1 then [a] else [a, b])
    else if op = 0x54 then [32 + a % 8, b]
    else if op = 0x55 then [32 + a % 8, 32 + b % 8]
    else if op = 0x60 then group4 a ++ group4 b
    else if op = 0x61 then group4 a ++ [b]
    else if op = 0x23 ∨ op = 0x24 then [a, b, vVc w]
    else if op = 0x09 ∨ op = 0x27 ∨ op = 0x28 ∨ op = 0x2A ∨ op = 0x2C ∨ op = 0x34 ∨ (0x38 ≤ op ∧ op ≤ 0x3F) ∨ op = 0x48
        ∨ op = 0x49 ∨ op = 0x4B ∨ op = 0x50 ∨ op = 0x53 ∨ op = 0x59 ∨ op = 0x5B then [a]
    else [a, b]
  r ++ m

/-- Result latency in cycles (R183); VSLE as a load that sends no request. -/
def vLatency (w : Nat) (smxAgain : Bool) : Nat :=
  let op := vOp w
  if op = 0x33 ∨ op = 0x34 ∨ op = 0x32 ∨ (0x2D ≤ op ∧ op ≤ 0x31) ∨ op = 0x41 ∨ op = 0x42 then 1
  else if op = 0x60 ∨ (vTy w ∧ (op = 0x20 ∨ op = 0x21 ∨ op = 0x25 ∨ op = 0x26 ∨ op = 0x27 ∨ op = 0x28)) then 2
  else if op = 0x4A ∨ op = 0x4B ∨ op = 0x48 ∨ op = 0x49 ∨ op = 0x52 ∨ op = 0x53 then 3
  else if op = 0x50 then 6
  else if (0x38 ≤ op ∧ op ≤ 0x3F) ∨ op = 0x51 ∨ op = 0x59 ∨ op = 0x61 then 8
  else if op = 0x5B then 12
  else if op = 0x29 ∨ op = 0x2A then 16
  else if op = 0x58 then (if smxAgain then 30 else 24)
  else if (8 ≤ op ∧ op ≤ 0x12) then 7
  else if op ≤ 3 then 0
  else 4

/-- A source or destination register of an instruction awaits an earlier result, or the divider is not free (R183). -/
def VecEng.held (ve : VecEng) (w cyc : Nat) : Bool :=
  let rs := vSrcs w ++ vDsts w
  rs.any (fun r => decide (cyc < ve.ready.getD r 0))
    || ve.mem.any (fun m => (vDsts m.w).any rs.contains)
    || ((vOp w == 0x29 || vOp w == 0x2A) && decide (cyc < ve.nextDiv))

/-- The line as it stands holds a VEND. -/
def Lantern.holdsVend (l : Lantern) (line : Nat) : Bool :=
  ((chunks 8 (l.sp.rdN (64 * line) 64)).map ofBytes).any fun w => vOp w == 2

/-- After the last word of a line: a task whose VEND should have come is stopped (R177, R251). -/
def Channel.veAfter (ch : Channel) (g : Nat) (t : CTask) (line : Nat) (last atEnd : Bool) : Channel :=
  if atEnd && (last || line == 4095) then ch.veInvalid g t else ch

/-- WFIN whose format word has MX set while VL is not 64 (R204). -/
def Lantern.mxShort (l : Lantern) (w : Nat) : Bool :=
  vOp w == 0x61 && l.vl != 64 && (match l.memFmt w with
    | some f => f.mx
    | none => false)

/-- The next instruction is held in this cycle (R183). -/
def Lantern.veHeld (l : Lantern) (cyc : Nat) : Bool :=
  match l.ve.nextWord cyc with
  | some (t, w) => !vecInvalid w (!t.opened) (l.mxShort w && !t.empty) && !(t.empty && vOp w != 2) && l.ve.held w cyc
  | none => false

/-- One issue slot of the engine: an invalid word stops the task whatever instruction the command names; a word with
another opcode leaves the state as it is; in an empty task the instruction is passed over; an instruction whose registers
are not ready is held; otherwise it issues by `body` (R177, R179, R183). -/
def Channel.vissue (ch : Channel) (g op : Nat) (body : Channel → CTask → Nat → Channel) : Channel :=
  let l := ch.lan g
  match l.ve.nextWord ch.cyc with
  | none => ch
  | some (t, w) =>
    let line := (l.ve.ibuf.head?.map (·.line)).getD 0
    let last := (l.ve.ibuf.head?.map (·.last)).getD false
    let atEnd := l.ve.ipos == 7
    if vecInvalid w (!t.opened) (l.mxShort w && !t.empty) then ch.veInvalid g t
    else if vOp w ≠ op then ch
    else if t.empty ∧ op ≠ 2 then (ch.modVe g (·.advance ch.cyc)).veAfter g t line last atEnd
    else if l.ve.held w ch.cyc then ch
    else
      let ch := (body ch t w).linc g F.VE_ISSUED_COUNT 0 1
      if op = 2 then ch.veSettle g
      else ((ch.modVe g (·.advance ch.cyc)).veAfter g t line last atEnd).veSettle g

/-- The result registers of an issued instruction are ready after its latency. -/
def VecEng.results (ve : VecEng) (t w cyc : Nat) (again : Bool) : VecEng :=
  let at_ := cyc + vLatency w again
  let ve := { ve with ready := (vDsts w).foldl (fun m r => m.put r at_) ve.ready,
                      nextDiv := if vOp w = 0x29 ∨ vOp w = 0x2A then cyc + 4 else ve.nextDiv }
  ve.modTask t fun t => { t with doneAt := max t.doneAt at_ }

/-- Issues an operation on registers (R182). -/
def Channel.vexec (ch : Channel) (g op : Nat) (f : Lantern → Nat → VOut) : Channel :=
  ch.vissue g op fun ch t w =>
    let o := f (ch.lan g) w
    if o.bad then ch.raise 2 (ch.veUnit g) (some t.ctx) 0
    else
      let again := o.cnt.contains cSTALE
      (ch.modVe g fun _ => o.ve.results t.id w ch.cyc again).veCount g t.ctx o.cnt

/-- As `vexec`, for the lane's multiply and add: `chk` is what the residue check of lane `lane` finds (R420). -/
def Channel.vexecChk (ch : Channel) (g op lane : Nat) (chk : Check) (f : Lantern → Nat → VOut) : Channel :=
  ch.vissue g op fun ch t w =>
    let l := ch.lan g
    let o := f l w
    let hit := l.active w lane
    let det := lane % 64 + (vVd w) <<< 6
    let ch := (ch.modVe g fun _ => o.ve.results t.id w ch.cyc false).veCount g t.ctx o.cnt
    match chk with
    | .ok => ch
    | .corrected => if hit then ch.raise 0xA8 (ch.veUnit g) (some t.ctx) det else ch
    | .uncorrectable =>
      if hit then
        (ch.modVe g (·.setE (vVd w) (lane % 64) (if vTy w then 0 else qnan))).raise 0xA9 (ch.veUnit g) (some t.ctx) det
      else ch

/-! ### VNOP, VTASK, VEND, VSETVL -/

/-- VNOP. -/
def Channel.doVnop (ch : Channel) (g : Nat) : Channel := ch.vissue g 0 fun ch _ _ => ch

/-- VTASK opens the task: CTX is taken, VL is 64, and a shape register that reads 0 makes it empty (R177, R179). -/
def Channel.doVtask (ch : Channel) (g : Nat) : Channel :=
  ch.vissue g 1 fun ch t w =>
    let ctx := bits w 17 8
    let empty := (upto 16).any fun n => isSet (vImm w) n && (ch.lan g).r F.LN_SHAPE_VALUE n == 0
    let ch := (ch.modVe g (·.modTask t.id fun t => { t with opened := true, ctx := ctx, empty := empty })).modLan g fun l =>
      (l.w F.VE_VL_VL 0 64).w F.VE_STATUS_CTX 0 ctx
    if empty then ch.veCount g ctx [cEMPTYTASK] else ch

/-- VEND closes the task (R177). -/
def Channel.doVend (ch : Channel) (g : Nat) : Channel :=
  ch.vissue g 2 fun ch t _ => ch.modVe g fun ve =>
    { ve.modTask t.id (fun t => { t with ended := true }) with
      ibuf := ve.ibuf.filter (fun i => i.task != t.id), ipos := 0, nextIssue := ch.cyc + 1 }

/-- VSETVL (R179). -/
def Channel.doVsetvl (ch : Channel) (g : Nat) : Channel :=
  ch.vissue g 3 fun ch t w =>
    let l := ch.lan g
    let v : Int := if vFn w = 0 then ((vImm w % 128 : Nat) : Int)
      else if vFn w = 1 then ((l.r F.LN_SHAPE_VALUE (vImm w % 16) : Nat) : Int) else i32 (l.a w 0)
    if v ≤ 0 then (ch.modVe g (·.modTask t.id fun t => { t with empty := true })).veCount g t.ctx [cEMPTYTASK]
    else if 64 < v then (ch.lw g F.VE_VL_VL 0 64).veCount g t.ctx [cSHAPE]
    else ch.lw g F.VE_VL_VL 0 v.toNat

/-! ### Fetch -/

/-- The task whose next instruction line falls due in this cycle, one line ahead of issue (R177). -/
def Lantern.veDue (l : Lantern) (cyc : Nat) : Option CTask :=
  match l.ve.tasks.find? fun t => !t.endReq && !t.stopped && !t.ended with
  | none => none
  | some t =>
    if l.ve.lastAcc = some cyc ∨ l.pipeHolds 64 ∨ 4095 < t.fetch ∨ 2 ≤ (l.ve.ibuf.filter fun i => i.task == t.id).length then none
    else some t

/-- The engine asks for its next instruction line (R177). -/
def Channel.veFetch (ch : Channel) (g : Nat) : Channel :=
  let l := ch.lan g
  match l.veDue ch.cyc with
  | none => ch
  | some t =>
      let last := l.holdsVend t.fetch
      let a : Acc1 := { line := t.fetch, dst := .vinsn t.id t.fetch last, req := 128, ord := 64 }
      ch.modLan g fun l =>
        { l with pipeQ := l.pipeQ ++ [a],
                 ve := { l.ve.modTask t.id (fun t => { t with fetch := t.fetch + 1, endReq := last }) with
                         lastAcc := some ch.cyc, fetchAt := some ch.cyc, ibuf := l.ve.ibuf ++ [{ task := t.id, line := t.fetch, last := last }] } }

/-- A fetched instruction line arrives. -/
def Channel.veInsnArrive (ch : Channel) (g task line : Nat) (last : Bool) (data : List (BitVec 8)) : Channel :=
  let ws := (chunks 8 data).map ofBytes
  match (ch.lan g).ve.tasks.find? fun t => t.id == task && !t.stopped with
  | none => ch
  | some t =>
    if last && !ws.any (fun w => vOp w == 2) then ch.veInvalid g t
    else ch.modVe g fun ve => { ve with ibuf := ve.ibuf.map fun i =>
      if i.task = task ∧ i.line = line then { i with words := ws, ready := some (ch.cyc + 6) } else i }

/-! ### Loads and stores (R184) -/

/-- Distinct lines in the order of the first element that names each. -/
def linesOf (es : List (Nat × Option (Nat × Bool))) : List Nat :=
  (es.filterMap fun e => e.2.map fun a => a.1 / 64).eraseDups

/-- Byte address of element `idx` of width `ew` from a base line, and whether it is a high nibble; none past line
4,095. -/
def elemAddr (line ew idx : Nat) : Option (Nat × Bool) :=
  let a := 64 * line + idx * ew / 8
  if 262144 < a + max (ew / 8) 1 then none else some (a, ew == 4 && idx % 2 == 1)

/-- Memory element index of each active element, by operation: the pairs of element and index. Tile elements are numbered
64 × row + element. -/
def Lantern.vIndices (l : Lantern) (w : Nat) : List (Nat × Nat) :=
  let act := l.actives w
  if vOp w = 0x0A ∨ vOp w = 0x0B then act.map fun i => (i, l.b w i)
  else act.map fun i => (i, i * vStride w)

/-- Active elements of a load or store with their addresses. -/
def Lantern.vElems (l : Lantern) (w ew : Nat) : List (Nat × Option (Nat × Bool)) :=
  if vOp w = 0x0E ∨ vOp w = 0x0F then
    (upto 16).flatMap fun r => (l.actives w).map fun i => (64 * r + i, elemAddr (vLine w + r * vStride w) ew i)
  else (l.vIndices w).map fun (i, x) => (i, elemAddr (vLine w) ew x)

/-- Elements below VL that a load's mask leaves inactive while MZ is set (R185). -/
def Lantern.vZero (l : Lantern) (w : Nat) : List Nat :=
  if !vMz w then [] else
    let z := (upto l.vl).filter fun i => !l.active w i
    if vOp w = 0x0E then (upto 16).flatMap fun r => z.map (64 * r + ·) else z

/-- Writes a loaded element into its register. -/
def VecEng.loadInto (ve : VecEng) (w el x : Nat) : VecEng :=
  if vOp w = 0x0E then ve.setT (vVd w) (el / 64) (el % 64) x else ve.setE (vVd w) el x

/-- The stored element at an address, from the lines that came back. -/
def VMem.elem (m : VMem) (ew : Nat) (a : Nat × Bool) : Nat :=
  let bs := m.got.getD (a.1 / 64) []
  if ew = 4 then
    let b := (bs.getD (a.1 % 64) 0).toNat
    if a.2 then b / 16 else b % 16
  else ofBytes ((bs.drop (a.1 % 64)).take (ew / 8))

/-- A load whose lines are all there writes its destination (R184, R185, R202). -/
def VecEng.finishLoad (ve : VecEng) (m : VMem) : VecEng :=
  let w := m.w
  let ve := m.zero.foldl (fun ve el => if vOp w = 0x10 then ve.setPart (vVd w) el {} else ve.loadInto w el 0) ve
  if vOp w = 0x0C then
    let v := match m.elems with
      | (_, some a) :: _ => m.elem 64 a
      | _ => 0
    let act := (m.elems.map (·.1))
    let new := (upto 64).foldl (fun x i =>
      let b := if act.contains i then isSet v i else if m.zero.contains i then false else isSet (ve.mk_ (vVd w)) i
      x + b2n b * 2 ^ i) 0
    ve.setM (vVd w) new
  else if vOp w = 0x10 then
    m.elems.foldl (fun ve e =>
      let bs := match e.2 with
        | some a => ((m.got.getD (a.1 / 64) []).drop (a.1 % 64)).take 16
        | none => List.replicate 16 0
      let s := ofBytes (bs.drop 12)
      ve.setPart (vVd w) e.1 { v := ofBytes (bs.take 12), tag := bits s 1 0, fp := isSet s 2 }) ve
  else match m.fmt with
    | none => ve
    | some f =>
      let uns := vOp w == 0x08 && vFn w % 2 == 1
      m.elems.foldl (fun ve e =>
        let code := match e.2 with
          | some a => m.elem f.vfmt.width a
          | none => f.elemOf f.pad
        ve.loadInto w e.1 (toLane f.vfmt uns code)) ve

/-- The next vector memory operation joins the engine's list; a load that sends no request is there 7 cycles later. -/
def Channel.vmemStart (ch : Channel) (g : Nat) (t : CTask) (m : VMem) (cnt : List Nat) : Channel :=
  let ch := ch.veCount g t.ctx cnt
  if m.todo.isEmpty then
    ch.modVe g fun ve =>
      let ve := if (vDsts m.w).isEmpty then ve else ve.finishLoad m
      ve.results t.id m.w ch.cyc false
  else ch.modVe g fun ve => { ve with mem := ve.mem ++ [m], seq := ve.seq + 1 }

/-- A load issues (R184). -/
def Channel.vload (ch : Channel) (g op : Nat) : Channel :=
  ch.vissue g op fun ch t w =>
    let l := ch.lan g
    let base : VMem := { seq := l.ve.seq, task := t.id, w := w, issued := ch.cyc, vl := l.vl, zero := l.vZero w }
    let go := fun (f : Option FmtWord) (es : List (Nat × Option (Nat × Bool))) =>
      ch.vmemStart g t { base with fmt := f, elems := es, todo := (linesOf es).map fun x => (x, [], []) }
        (if es.any fun e => e.2.isNone then [cADDR] else [])
    if op = 0x0C then
      let a := 64 * vLine w + 8 * vFn w
      go none ((l.actives w).map fun i => (i, if a < 262144 then some (a, false) else none))
    else if op = 0x10 then
      go none ((l.actives w).map fun i => (i, elemAddr (vLine w) 128 i))
    else match l.memFmt w with
      | none => ch.raise 2 (ch.veUnit g) (some t.ctx) 0
      | some f => go (some f) (l.vElems w f.vfmt.width)

/-- Puts one element into the image of a store; a byte of 4-bit elements is written whole (R145, R184). -/
def storePut (m : SMap Nat) (ew : Nat) (a : Nat × Bool) (code : Nat) : SMap Nat :=
  if ew = 4 then
    let old := m.getD a.1 0
    m.put a.1 (if a.2 then old % 16 + 16 * (code % 16) else (old / 16) * 16 + code % 16)
  else imgPut m a.1 (toBytes (ew / 8) code)

/-- The line writes of a store image, in the given order of lines. -/
def storeLines (m : SMap Nat) (ls : List Nat) : List (Nat × List (BitVec 8) × List Bool) :=
  ls.map fun x => (x, (upto 64).map (fun b => BitVec.ofNat 8 (m.getD (64 * x + b) 0)),
                   (upto 64).map fun b => (m.find (64 * x + b)).isSome)

/-- The 16 bytes that WST writes for a lane (R202). -/
def Cell.laneBytes (x : Cell) : List (BitVec 8) := toBytes 12 x.v ++ toBytes 4 (x.tag + 4 * b2n x.fp)

/-- A store issues: its data is read from the registers now (R184, R202). -/
def Channel.vstore (ch : Channel) (g op : Nat) : Channel :=
  ch.vissue g op fun ch t w =>
    let l := ch.lan g
    let base : VMem := { seq := l.ve.seq, task := t.id, w := w, issued := ch.cyc, vl := l.vl }
    let go := fun (es : List (Nat × Option (Nat × Bool))) (img : SMap Nat) (cnt : List Nat) =>
      ch.vmemStart g t { base with todo := storeLines img (linesOf es) }
        (cnt ++ if es.any fun e => e.2.isNone then [cADDR] else [])
    if op = 0x0D then
      let a := 64 * vLine w + 8 * vFn w
      go [(0, some (a, false))] (imgPut [] a (toBytes 8 (l.ve.mk_ (vVa w)))) []
    else if op = 0x11 then
      let es := (l.actives w).map fun i => (i, elemAddr (vLine w) 128 i)
      go es (es.foldl (fun (m : SMap Nat) e => match e.2 with
        | some a => imgPut m a.1 (l.ve.part (vVa w) e.1).laneBytes
        | none => m) []) []
    else match l.memFmt w with
      | none => ch.raise 2 (ch.veUnit g) (some t.ctx) 0
      | some f =>
        let es := l.vElems w f.vfmt.width
        let val := fun (el : Nat) => if op = 0x0F then l.ve.te (vVa w) (el / 64) (el % 64) else l.a w el
        let ks := es.map fun e => (e.2, f.vfmt.encode f.sat (laneNum (vTy w) (val e.1)))
        let img := ks.foldl (fun (m : SMap Nat) e => match e.1 with
          | some a => storePut m f.vfmt.width a e.2.code
          | none => m) []
        go es img (ks.flatMap fun e => (e.2.lane 0).c)

/-- One request of the oldest load or store that has any left: at most one pipe access in a cycle, and after a line fetch that falls
due in it (R177, R184). -/
def Channel.vmemRequest (ch : Channel) (g : Nat) : Channel :=
  let ve := (ch.lan g).ve
  match ve.mem.find? fun m => !m.todo.isEmpty with
  | none => ch.veSettle g
  | some m =>
    match m.todo with
    | [] => ch
    | (x, data, mask) :: rest =>
      if ch.cyc ≤ m.issued ∨ ve.lastAcc = some ch.cyc ∨ (ch.lan g).pipeHolds 64 ∨ ((ch.lan g).veDue ch.cyc).isSome then ch
      else
        let wr := !data.isEmpty
        let a : Acc1 := { line := x, wr := wr, data := data, mask := mask, dst := .vmem m.seq x, req := 128, ord := 64 }
        ch.modLan g fun l => { l with pipeQ := l.pipeQ ++ [a], ve := { l.ve with
          lastAcc := some ch.cyc,
          mem := l.ve.mem.map fun n =>
            if n.seq = m.seq then { n with todo := rest, asked := n.asked + 1, sentAt := ch.cyc } else n } }

/-- A request of a load or store has had its grant: a load that has all its lines writes its destination, usable seven
cycles after its last request when nothing stalled the pipe (R183). -/
def Channel.vmemArrive (ch : Channel) (g seq line : Nat) (data : List (BitVec 8)) : Channel :=
  match (ch.lan g).ve.mem.find? fun m => m.seq == seq with
  | none => ch
  | some m =>
    let m := { m with asked := m.asked - 1, got := if data.isEmpty then m.got else m.got.put line data }
    if m.todo.isEmpty ∧ m.asked = 0 then
      (ch.modVe g fun ve =>
        let ve := { ve with mem := ve.mem.filter fun n => n.seq != seq }
        if (vDsts m.w).isEmpty then ve.modTask m.task fun t => { t with doneAt := max t.doneAt ch.cyc }
        else
          let ve := ve.finishLoad m
          let at_ := ch.cyc + 6
          { ve with ready := (vDsts m.w).foldl (fun r d => r.put d at_) ve.ready }.modTask m.task fun t =>
            { t with doneAt := max t.doneAt at_ }).veSettle g
    else ch.modVe g fun ve => { ve with mem := ve.mem.map fun n => if n.seq = seq then m else n }

/-- The counters that VE_CTRL.CLR_CNT clears (R207). -/
def veCounters : List Fld := (rangeFrom 1 17).map veCounter ++ [F.VE_ISSUED_COUNT, F.VE_STALL_CY_COUNT]

/-- VE_CTRL.CLR_CNT (R207). -/
def Channel.veClrCnt (ch : Channel) (g : Nat) : Channel := ch.modLan g fun l => { l with regs := l.regs.clear veCounters 0 }

end Sys2Proof.Machine
end

