-- ==== Sys2Proof/Machine/RegWrite.lean ====
section
/-! DEFINITION. Register accesses inside a channel: what is idle, which status register takes CFG_ERR, the actions of the
action fields, and the scratchpad window (R4 to R19, R172 to R174, R473, R475). -/

namespace Sys2Proof.Machine

/-! ### Lantern blocks -/

/-- The unit that owns a field of a lantern block is idle (R15, R142, R212). -/
def Lantern.idleAt (l : Lantern) (req : Requester) (f : Fld) (o : Nat) : Bool :=
  if 0x3400 ≤ o && o < 0x3800 then l.stmState ((o - 0x3400) / 0x40) == 0
  else l.r F.LN_STATUS_PARKED == 1 || (decide (f = F.LN_POISON_CTRL_EN) && decide (req = .debug))

/-- CFG_ERR of the block at an offset of a lantern block (R173, R244). -/
def Lantern.cfgErr (l : Lantern) (o : Nat) : Lantern :=
  if 0x3000 ≤ o && o < 0x4000 then l.w F.TD_STATUS_CFG_ERR 0 1 else l.w F.LN_STATUS_CFG_ERR 0 1

/-- Runs `g` when the value accepted in an action field is not 0. -/
def WrOut.doIf (w : WrOut) (f : Fld) (g : Channel → Channel) (ch : Channel) : Channel := if w.val f = 0 then ch else g ch

/-- Runs `g` when the write of an action field was accepted, whatever the value. -/
def WrOut.onTake (w : WrOut) (f : Fld) (g : Channel → Channel) (ch : Channel) : Channel :=
  if w.acts.any (fun a => decide (a.1 = f)) then g ch else ch

/-- Runs `g` on the entry of a repeated register, when the written register is one. -/
def atEntry (f : Fld) (o : Nat) (g : Nat → Channel → Channel) (ch : Channel) : Channel :=
  match f.at o with
  | some n => g n ch
  | none => ch

/-- The actions of a written lantern register. -/
def Channel.lanAct (ch : Channel) (g o : Nat) (w : WrOut) : Channel :=
  if w.acts.isEmpty then ch
  else
    let ch := w.doIf F.LN_CTRL_PARK (·.park g) ch
    let ch := w.doIf F.LN_CTRL_RESUME (·.lanResume g) ch
    let ch := w.doIf F.LN_CTRL_CLR_CNT (·.lnClrCnt g) ch
    let ch := atEntry F.CO_CTRL_CLR_CNT o (fun k ch => w.doIf F.CO_CTRL_CLR_CNT (·.coClrCnt g k) ch) ch
    let ch := w.doIf F.VE_CTRL_CLR_CNT (·.veClrCnt g) ch
    let ch := w.doIf F.TD_CTRL_CLR_CNT (·.tdClrCnt g) ch
    let ch := atEntry F.TD_S_CMD_START o (fun n ch =>
      w.doIf F.TD_S_CMD_ABORT (·.streamAbort g n) (w.doIf F.TD_S_CMD_RESUME (·.streamResume g n)
        (w.doIf F.TD_S_CMD_STOP (·.streamStop g n false) (w.doIf F.TD_S_CMD_START (·.streamStart g n) ch)))) ch
    let ch := atEntry F.TD_S_REARM_DST_DST o (fun n ch =>
      w.onTake F.TD_S_REARM_DST_DST (·.rearmWrite g n (w.val F.TD_S_REARM_DST_DST)) ch) ch
    let ch := atEntry F.LN_BP_INC_READY_INC o (fun n ch =>
      w.doIf F.LN_BP_INC_FREE_INC (·.bpInc g n false (w.val F.LN_BP_INC_FREE_INC) none)
        (w.doIf F.LN_BP_INC_READY_INC (·.bpInc g n true (w.val F.LN_BP_INC_READY_INC) none) ch)) ch
    let ch := atEntry F.LN_BP_CTRL_INIT o (fun n ch => w.doIf F.LN_BP_CTRL_INIT (·.bpInit g n) ch) ch
    let ch := w.doIf F.LN_TQ_CTRL_SQUASH (·.squash g) ch
    let ch := w.onTake F.LN_TQ_PUSH_HI_ENTRY (·.taskPush g (w.val F.LN_TQ_PUSH_HI_ENTRY)) ch
    let ch := atEntry F.LN_WC_ARM_HEAD o (fun n ch =>
      w.onTake F.LN_WC_ARM_HEAD (·.wcArm g n (w.val F.LN_WC_ARM_HEAD) (w.val F.LN_WC_ARM_TAIL)) ch) ch
    atEntry F.LN_WC_REPLAY_INDEX o (fun n ch =>
      w.onTake F.LN_WC_REPLAY_INDEX (·.wcReplay g n (w.val F.LN_WC_REPLAY_INDEX)) ch) ch

/-- The debug port, which alone writes DBG_EN, writes CO_DBG of a core (R138). -/
def Lantern.debugOpen (l : Lantern) (o v : Nat) : Lantern :=
  match F.CO_DBG_DBG_EN.at o with
  | some k => l.w F.CO_DBG_DBG_EN k v
  | none => l

/-- One register of a lantern block is written. -/
def Channel.lanWrite1 (ch : Channel) (lv : Nat) (req : Requester) (g : Nat) (x : RegWr) : Channel :=
  if x.off = F.LN_CTRL_PARK.base ∧ x.v % 4 = 3 then ch.lw g F.LN_STATUS_CFG_ERR 0 1
  else
    let l := ch.lan g
    let w := l.regs.writeReg lanternFields (fun f _ _ => baseVerdict lv req (l.idleAt req f x.off) f) x
    let en0 := l.r F.LN_POISON_CTRL_EN
    let l := { l with regs := w.regs }
    let l := if req = .debug then l.debugOpen x.off x.v else l
    let l := if w.err then l.cfgErr x.off else l
    let l := if en0 = 0 ∧ l.r F.LN_POISON_CTRL_EN = 1 then l.poisonInit else l
    (ch.setLan g l).lanAct g x.off w

/-- What a read of a lantern field returns (R139). -/
def Lantern.show (l : Lantern) (f : Fld) (n : Nat) : Nat :=
  if f = F.CO_ACC_DATA_LO_VALUE then l.accRead n 0
  else if f = F.CO_ACC_DATA_HI_VALUE then l.accRead n 1
  else if f = F.CO_ACC_TAG_TAG then l.accRead n 2 % 4
  else if f = F.CO_ACC_TAG_MODE then l.accRead n 2 / 4
  else l.regs.show f n

/-! ### Channel blocks -/

/-- The unit that owns a field of a channel block is idle (R15). -/
def Channel.idleAt (ch : Channel) (f : Fld) (n : Nat) : Bool :=
  if f = F.LK_CFG_FEC_SEL then ch.r F.LK_STAT_STATE n == 0 else ch.r F.CH_INFO_USABLE == 0

/-- CFG_ERR of the channel block at an offset, where the block has one. -/
def Channel.cfgErr (ch : Channel) (o : Nat) : Channel :=
  if o < 0x200 then ch.w F.CH_CTX_STAT_CFG_ERR 0 1
  else if o < 0x1000 then ch.w F.CH_PWR_STAT_CFG_ERR 0 1
  else if o < 0x20000 then ch.w F.ERR_STATUS_CFG_ERR 0 1
  else if o < 0x30000 then ch.w F.HM_STATUS_CFG_ERR 0 1
  else if o < 0x33000 then ch.w F.LK_STAT_CFG_ERR ((o - 0x30000) / 0x1000) 1
  else if 0x100000 ≤ o then ch.w F.CH_CTX_STAT_CFG_ERR 0 1
  else ch

/-- The verdict on a field of a channel block. THR_HI and THR_LO take only values in order (R453). -/
def Channel.verdict (ch : Channel) (lv : Nat) (req : Requester) (x : RegWr) (f : Fld) (n : Nat) : Verdict :=
  match baseVerdict lv req (ch.idleAt f n) f with
  | .take =>
    if x.off = F.CH_THERM_CFG_THR_HI.base ∧ (x.v % 256 ≤ (x.v >>> 8) % 256 ∨ 100 < x.v % 256) then .discard else .take
  | v => v

/-- The actions of a written channel register. -/
def Channel.chanAct (ch : Channel) (o : Nat) (w : WrOut) : Channel :=
  if w.acts.isEmpty then ch
  else
    let ch := w.onTake F.CH_CTX_CMD_CMD (·.ctxCmd (w.val F.CH_CTX_CMD_CMD)) ch
    let ch := w.doIf F.CH_CTX_CTRL_CLR_CNT Channel.ctxClrCnt ch
    let ch := w.doIf F.CH_PWR_CTRL_CLR_CNT Channel.pwrClrCnt ch
    let ch := w.doIf F.ERR_CTRL_CLR_CNT Channel.errClrCnt ch
    let ch := w.doIf F.HM_CTRL_CLR_CNT Channel.hmClrCnt ch
    let ch := w.onTake F.HM_XLT_INV_PAGE
      (·.xltInv (if w.val F.HM_XLT_INV_ALL = 1 then none else some (w.val F.HM_XLT_INV_PAGE))) ch
    let ch := atEntry F.LK_CTRL_RETRAIN o (fun p ch =>
      w.doIf F.LK_CTRL_CLR_CNT (·.lkClrCnt p) (w.doIf F.LK_CTRL_RETRAIN (·.lkRetrain p) ch)) ch
    let ch := w.doIf F.LK_RT_CTRL_CLR_CNT Channel.rtClrCnt ch
    atEntry F.LK_FIFO_CTRL_CUT o (fun n ch =>
      w.doIf F.LK_FIFO_CTRL_FLUSH (·.fifoFlush n) (w.doIf F.LK_FIFO_CTRL_CUT (·.fifoCut n) ch)) ch

/-- One register of a channel block is written. -/
def Channel.chanWrite1 (ch : Channel) (lv : Nat) (req : Requester) (x : RegWr) : Channel :=
  let w := ch.regs.writeReg channelFields (fun f n _ => ch.verdict lv req x f n) x
  let ch := { ch with regs := w.regs }
  let ch := if w.err then ch.cfgErr x.off else ch
  ch.chanAct x.off w

/-- What a read of a channel field returns: the wired number (R38), the health of the selected unit (R439), and the FEC that P0 and P1
always use (R367). -/
def Channel.show (ch : Channel) (f : Fld) (n : Nat) : Nat :=
  if f = F.CH_INFO_CHAN then ch.no
  else if f = F.CH_INFO_HALF then ch.no / 6
  else if f = F.ERR_HEALTH_L then ch.healthShow.1
  else if f = F.ERR_HEALTH_PENDING then ch.healthShow.2
  else if f = F.LK_CFG_FEC_SEL ∧ n < 2 then 1
  else ch.regs.show f n

/-! ### The channel window (R172, R473) -/

/-- Base of the register window of a channel (R470). -/
def winBase (c : Nat) : Nat := 0xF000000000 + 0x10000000 * c

/-- The lantern and the offset in its block that a window offset names, if any. -/
def lanOffset (o : Nat) : Option (Nat × Nat) :=
  if 0x08000000 ≤ o ∧ o < 0x08000000 + 1536 * 0x10000 then some ((o - 0x08000000) / 0x10000, o % 0x10000) else none

/-- The accesses that R7 counts are reported to the bridge (R474). -/
def Channel.missed (ch : Channel) (req : Requester) (wr : Bool) (base : Nat) (ms : List Miss) : Channel :=
  ms.foldl (fun ch m => ch.tell (.miss (winBase ch.no + base + m.off) req.num wr m.narrow m.misal)) ch

/-- A byte of the scratchpad window lies in a scale table, which belongs to the function of the format words (R20, R57). -/
def Channel.inScale (ch : Channel) (g off : Nat) : Bool :=
  (ch.lan g).inTable ((ch.lan g).slTables ++ ch.calBases g) ((ch.lan g).winByte off)

/-- A write to the scratchpad window meets the level of function 0 (R18, R19): the value is taken, is given up by the keeper, or is
refused, which shows in CFG_ERR where the value differs (R475). -/
def Channel.winVerdict (ch : Channel) (lv : Nat) (req : Requester) (g off : Nat) : Verdict :=
  if ch.inScale g off then baseVerdict lv req true F.LN_FMT_SL else .take

/-- An access to the scratchpad window at offset `o` of a lantern block (R174): a narrow or misaligned one follows R7, and a
write of this kind is a misuse of the window. -/
def Channel.winAccess (ch : Channel) (lv : Nat) (req : Requester) (g o size : Nat) (wr : Bool) (v : Nat) : Channel :=
  let base := 0x08000000 + 0x10000 * g
  let narrow := decide (size < 4)
  let misal := !narrow && decide (o % size ≠ 0)
  let ch := if narrow || misal then ch.missed req wr base [{ off := o, narrow := narrow, misal := misal }] else ch
  if misal then (if wr then ch.lw g F.LN_STATUS_CFG_ERR 0 1 else { ch with answer := ch.answer.put req.num 0 })
  else if wr && narrow then ch.lw g F.LN_STATUS_CFG_ERR 0 1
  else if !wr then ch.windowAccess g req (o - 0xF000) size wr v
  else match ch.winVerdict lv req g (o - 0xF000) with
    | .take => ch.windowAccess g req (o - 0xF000) size wr v
    | .leave => ch
    | _ =>
      if ofBytes ((ch.lan g).sp.rdN ((ch.lan g).winByte (o - 0xF000)) size) = v % 2 ^ (8 * size) then ch
      else ch.lw g F.LN_STATUS_CFG_ERR 0 1

/-- A write in the channel's window: `o` is the offset in the window. -/
def Channel.regWrite (ch : Channel) (lv : Nat) (req : Requester) (o size v : Nat) : Channel :=
  match lanOffset o with
  | some (g, lo) =>
    if !ch.clkOn then ch
    else if 0xF000 ≤ lo then ch.winAccess lv req g lo size true v
    else
      let (r, ws, ms) := (ch.lan g).regs.writes lanternFields req.num lo size v
      let ch := ch.modLan g fun l => { l with regs := r }
      (ws.foldl (fun ch x => ch.lanWrite1 lv req g x) ch).missed req true (o - lo) ms
  | none =>
    let (r, ws, ms) := ch.regs.writes channelFields req.num o size v
    let ch := { ch with regs := r }
    (ws.foldl (fun (ch : Channel) x => ch.chanWrite1 lv req x) ch).missed req true 0 ms

/-- A read of a register in the channel's window. -/
def Channel.regRead (ch : Channel) (req : Requester) (o size : Nat) : Channel × Nat :=
  match lanOffset o with
  | some (g, lo) =>
    let (r, v, ms) := (ch.lan g).regs.read lanternFields (ch.lan g).show req.num lo size
    ((ch.modLan g fun l => { l with regs := r }).missed req false (o - lo) ms, v)
  | none =>
    let (r, v, ms) := ch.regs.read channelFields ch.show req.num o size
    (({ ch with regs := r } : Channel).missed req false 0 ms, v)

/-- A read in the channel's window, whose value the requester receives: at the access's grant for the scratchpad window
(R174), at once for a register. -/
def Channel.read (ch : Channel) (req : Requester) (o size : Nat) : Channel :=
  let win := match lanOffset o with
    | some (g, lo) => if 0xF000 ≤ lo then some (g, lo) else none
    | none => none
  match win with
  | some (g, lo) => if ch.clkOn then ch.winAccess 0 req g lo size false 0 else ch
  | none =>
    let (ch, v) := ch.regRead req o size
    { ch with answer := ch.answer.put req.num v }

/-- The keeper writes a register through its maintenance path: read-only fields are stored, the others take the write by
their latch classes (R112, R173, R396). -/
def Channel.keeperWrite (ch : Channel) (o size v : Nat) : Channel :=
  let ch := match lanOffset o with
    | some (g, lo) => ch.modLan g fun l => { l with regs := l.regs.maintain lanternFields lo v }
    | none => { ch with regs := ch.regs.maintain channelFields o v }
  ch.regWrite ch.lv .keeper o size v

/-- The stored value of a register that a write of the image puts in place at once: every field but the action fields. -/
def Regs.image (r : Regs) (fs : List Fld) (o v : Nat) : Regs :=
  (regAt fs o).foldl (fun r fn => match fn.1.acc with
    | .wo => r
    | .w1c => r
    | .w1s => r
    | _ => r.put fn.1 fn.2 (v >>> fn.1.lo)) r

end Sys2Proof.Machine
end

