-- ==== Sys2Proof/Machine/Image.lean ====
section
/-! DEFINITION. The image: flash layout, verification, records and their application by the keepers (R391 to R400, R406). -/

namespace Sys2Proof.Machine

/-! ### Flash (R391) -/

/-- `n` bytes of a flash device; an erased byte reads as 0xFF. -/
def Bridge.flashRd (b : Bridge) (dev a n : Nat) : List (BitVec 8) :=
  ((b.boot.flash.getD dev []).rdN a n).map (· ^^^ 0xFF)

/-- Writes bytes of a flash device. -/
def Bridge.flashWr (b : Bridge) (dev a : Nat) (d : List (BitVec 8)) : Bridge :=
  b.modBoot fun x => { x with flash := x.flash.put dev ((x.flash.getD dev []).wrN a (d.map (· ^^^ 0xFF))) }

/-- Every byte is 0. -/
def allZero (d : List (BitVec 8)) : Bool := d.all (· == 0)

/-! ### Verification (R398) -/

/-- The owner key record of block 0 is accepted (R397, R398 step 1). -/
def ownerOk (d : List (BitVec 8)) : Bool :=
  num d 0 4 == 0x4B4F4E42 && num d 4 4 == 1 && sha256 (slice d 0x50 64) == fitTo 32 0 Config.romKeyHash &&
    ecdsaVerify (slice d 0x50 64) (slice d 0 0x90) (slice d 0x90 64)

/-- The header is in range (R393, R398 step 2); `owner` is OWNER_ID of the owner key record. -/
def headerOk (d : List (BitVec 8)) (owner : Nat) : Bool :=
  let n := num d 0x0E 2
  let len := num d 0x10 4
  let man := num d 0x14 4
  let sig := num d 0x18 4
  num d 0 4 == 0x4D4C4E42 && num d 4 2 == 1 && num d 6 2 == 0xB120 && num d 8 4 != 0 &&
    decide (1 ≤ n) && decide (n ≤ 256) && decide (len ≤ 0x3FF0000) && man % 64 == 0 && sig % 64 == 0 &&
    num d 0x1C 4 == owner && allZero (slice d 0x40 192) &&
    decide (man + 64 * n ≤ len) && decide (sig + 128 ≤ len)

/-- Section types that must appear exactly once (R395). -/
def singleTypes : List Nat := [0x0001, 0x0002, 0x0010]

/-- FLOOR_SVN of a device's floor record, if it qualifies (R397, R398 step 5). -/
def Bridge.floorOf (b : Bridge) (dev owner : Nat) (ownerPub : List (BitVec 8)) : Option Nat :=
  let d := b.flashRd dev 0x100 128
  if num d 0 4 = 0x4C464E42 ∧ num d 8 4 = owner ∧ ecdsaVerify ownerPub (slice d 0 64) (slice d 64 64) then
    some (num d 4 2)
  else none

/-- The largest of the floors that qualify. -/
def maxFloor : List (Option Nat) → Option Nat
  | [] => none
  | x :: xs => match x, maxFloor xs with
    | some a, some m => some (max a m)
    | some a, none => some a
    | none, m => m

/-- A manifest entry (R395) is sound, and its section has the digest (R398 step 6). -/
def entryOk (len : Nat) (e sect : List (BitVec 8)) : Bool :=
  let ty := num e 0 2
  (ty == 1 || ty == 2 || (decide (0x10 ≤ ty) && decide (ty ≤ 0x16))) &&
    num e 4 4 % 64 == 0 && decide (1 ≤ num e 8 4) && decide (num e 4 4 + num e 8 4 ≤ len) &&
    sha256 sect == slice e 0x20 32

/-- No two of the ranges overlap. -/
def disjoint : List (Nat × Nat) → Bool
  | [] => true
  | (o, n) :: xs => xs.all (fun x => decide (o + n ≤ x.1) || decide (x.1 + x.2 ≤ o)) && disjoint xs

/-- Steps 1 to 6 of R398 on a device: the cause of the first step that fails, or the image. The Bool says that no floor
record qualified. `responds` says that the device responds without read errors. -/
def Bridge.verify (b : Bridge) (dev : Nat) (responds : Bool) : Sum Nat (Image × Bool) :=
  let own := b.flashRd dev 0 256
  let hdr := b.flashRd dev 0x10000 256
  if !responds || b.boot.dead.contains dev then .inl 1
  else if !ownerOk own then .inl 2
  else if !headerOk hdr (num own 8 4) then .inl 3
  else
    let n := num hdr 0x0E 2
    let len := num hdr 0x10 4
    let man := b.flashRd dev (0x10000 + num hdr 0x14 4) (64 * n)
    let sig := b.flashRd dev (0x10000 + num hdr 0x18 4) 128
    let pub := slice own 0x10 64
    let entries := chunks 64 man
    let fw := (entries.filter fun e => num e 0 2 == 1 || num e 0 2 == 2).flatten
    let single := singleTypes.all fun t => (entries.filter fun e => num e 0 2 == t).length == 1
    if !ecdsaVerify pub (hdr ++ man) (slice sig 64 64) then .inl 4
    else if !(ecdsaVerify (slice own 0x50 64) fw (slice sig 0 64) && single) then .inl 5
    else
      let fl := maxFloor [b.floorOf 0 (num hdr 0x1C 4) pub, b.floorOf 1 (num hdr 0x1C 4) pub]
      if num hdr 0x0C 2 < fl.getD 0 then .inl 6
      else
        let sects := entries.map fun e => (e, b.flashRd dev (0x10000 + num e 4 4) (num e 8 4))
        if !(sects.all fun x => entryOk len x.1 x.2) || !disjoint (entries.map fun e => (num e 4 4, num e 8 4)) then .inl 7
        else
          let dig := fun t => match entries.find? (fun e => num e 0 2 == t) with
            | some e => slice e 0x20 32
            | none => []
          let cfg := (entries.filter fun e => !(num e 0 2 == 1 || num e 0 2 == 2)).flatten
          .inr ({ seq := num hdr 8 4, svn := num hdr 0x0C 2, floor := fl.getD 0, digest := sha256 (hdr ++ man),
                  bridgeFw := dig 1, keeperFw := dig 2, config := sha256 cfg, owner := sha256 pub,
                  sects := sects.map fun x =>
                    { ty := num x.1 0 2, mask := num x.1 2 2 % 4096, param := num x.1 0x0C 4, data := x.2 } }, fl.isNone)

/-! ### Records (R396) -/

/-- A record of a section. -/
structure Rec where
  kind : Nat
  item : Nat
  dest : Nat
  data : List (BitVec 8)
  deriving DecidableEq, Repr

/-- The records of a section; `fuel` bounds their number. -/
def parseRecs : Nat → List (BitVec 8) → List Rec
  | 0, _ => []
  | fuel + 1, d =>
    if d.length < 16 then []
    else
      let n := num d 4 4
      { kind := num d 0 1, item := num d 2 2, dest := num d 8 8, data := slice d 16 n } ::
        parseRecs fuel (d.drop (16 + alignUp n 8))

/-- The records of a section's bytes. -/
def recsOf (d : List (BitVec 8)) : List Rec := parseRecs d.length d

/-- One 8-byte step of a register image at window offset `o` (R396): the fields take their values at once, and an action
field performs its action. -/
def Channel.imageReg (ch : Channel) (o v : Nat) : Channel :=
  match lanOffset o with
  | some (g, lo) =>
    let ws : List RegWr := if (wideAt lanternFields lo).isSome then [{ off := lo, v := v }]
      else [{ off := lo, v := v % 2 ^ 32 }, { off := lo + 4, v := v >>> 32 }]
    ws.foldl (fun (ch : Channel) x =>
      if x.off = F.LN_CTRL_PARK.base ∧ x.v % 4 = 3 then ch.lw g F.LN_STATUS_CFG_ERR 0 1
      else
        let l := ch.lan g
        let w := l.regs.writeReg lanternFields (fun f _ _ => if f.acc = .wo then .take else .refuse) x
        let en0 := l.r F.LN_POISON_CTRL_EN
        let l := { l with regs := l.regs.image lanternFields x.off x.v }
        let l := if en0 = 0 ∧ l.r F.LN_POISON_CTRL_EN = 1 then l.poisonInit else l
        (ch.setLan g l).lanAct g x.off w) ch
  | none =>
    let ws : List RegWr := if (wideAt channelFields o).isSome then [{ off := o, v := v }]
      else [{ off := o, v := v % 2 ^ 32 }, { off := o + 4, v := v >>> 32 }]
    ws.foldl (fun (ch : Channel) x =>
      let w := ch.regs.writeReg channelFields (fun f _ _ => if f.acc = .wo then .take else .refuse) x
      { ch with regs := ch.regs.image channelFields x.off x.v }.chanAct x.off w) ch

/-- The lanterns that a scratchpad image names: one, or every active one. -/
def Channel.imageLans (ch : Channel) (dest : Nat) : List Nat :=
  if isSet dest 63 then (upto 1536).filter fun g => !ch.err.failed.contains g && !ch.err.spares.contains g
  else [bits dest 16 12 * 48 + bits dest 22 17]

/-- A calibrated entry of CAL_TABLES (log entry 24). -/
def calOf (d : List (BitVec 8)) : CalEntry :=
  let nl := num d 12 2
  let nc := num d 14 2
  { g := num d 0 2, base := num d 2 2, idx := num d 4 2, margin := num d 6 1, window := num d 7 1, fmax := num d 8 4,
    lines := (upto nl).map fun i => num d (16 + 2 * i) 2,
    cores := (upto nc).map fun i => num d (16 + 2 * nl + 2 * i) 2 }

/-- A keeper table record (R396): a dispatch table of a placement, a context template, or a calibrated entry. -/
def Channel.imageTable (ch : Channel) (ty param : Nat) (x : Rec) : Channel :=
  if ty = 0x14 then ch.modCtx fun c => { c with templates := c.templates.put x.item (num x.data 0 8, num x.data 8 8) }
  else if ty = 0x16 then ch.modCtx fun c => { c with cal := c.cal ++ [calOf x.data] }
  else ch.modCtx fun c => { c with tables := c.tables.put (param * 65536 + x.item) x.data }

/-- The keeper applies a record of a section (R396, R406). A register image whose addresses lie outside the channel's window
is not for this keeper. -/
def Channel.applyRec (ch : Channel) (ty param : Nat) (x : Rec) : Channel :=
  if x.kind = 0 then
    if winBase ch.no ≤ x.dest ∧ x.dest < winBase (ch.no + 1) then
      ((chunks 8 x.data).zip (upto (x.data.length / 8))).foldl (fun ch di =>
        ch.imageReg (x.dest - winBase ch.no + 8 * di.2) (ofBytes di.1)) ch
    else ch
  else if x.kind = 1 then
    (ch.imageLans x.dest).foldl (fun ch g =>
      ch.modLan g fun l => { l with sp := l.sp.wrN (64 * bits x.dest 11 0) x.data }) ch
  else if x.kind = 2 then
    if devChan x.dest = ch.no then ch.keeperStore (x.dest % 2 ^ 36) x.data .none .none else ch
  else if x.kind = 3 then ch.imageTable ty param x
  else ch

/-- The keeper applies one section. Of a PLACEMENT section other than the one in force it takes the tables alone, and of each it
keeps its copy for a later order (R406, R431). -/
def Channel.applySect (ch : Channel) (place ty param : Nat) (data : List (BitVec 8)) : Channel :=
  (recsOf data).foldl (fun ch x =>
    if ty = 0x11 ∧ param ≠ place ∧ x.kind ≠ 3 then ch else ch.applyRec ty param x) ch

/-- The registers, scratchpads and HBM of a placement are put in place (R406, R430, R431). -/
def Channel.applyPlacement (ch : Channel) (place : Nat) : Channel :=
  let secs := ch.ctx.sects.filter fun x => x.1 == 0x11 && x.2.1 == place
  secs.foldl (fun (ch : Channel) x => (recsOf x.2.2).foldl (fun (ch : Channel) r => if r.kind = 3 then ch else ch.applyRec x.1 x.2.1 r) ch) ch

/-! ### The keeper's checks (R400) -/

/-- The lanterns that a placement names: those with a register or scratchpad image of their own. -/
def placeLans (no : Nat) (rs : List Rec) : List Nat :=
  rs.foldl (fun (gs : List Nat) x =>
    let g : Option Nat :=
      if x.kind = 0 ∧ winBase no ≤ x.dest ∧ x.dest < winBase (no + 1) then (lanOffset (x.dest - winBase no)).map (·.1)
      else if x.kind = 1 ∧ !isSet x.dest 63 then some (bits x.dest 16 12 * 48 + bits x.dest 22 17)
      else none
    match g with
    | some g => if gs.contains g then gs else g :: gs
    | none => gs) []

/-- The records of a placement in the keeper's copy of the image. -/
def Channel.placeRecs (ch : Channel) (place : Nat) : List Rec :=
  (ch.ctx.sects.filter fun x => x.1 == 0x11 && x.2.1 == place).flatMap fun x => recsOf x.2.2

/-- The lanterns that the image names for a channel under a placement: those of the placement's records, and of the sections that
are no placement's. -/
def Channel.namedLans (ch : Channel) (place : Nat) : List Nat :=
  placeLans ch.no (ch.placeRecs place ++ (ch.ctx.sects.filter fun x => x.1 != 0x11).flatMap fun x => recsOf x.2.2)

/-- The spare positions that the keeper's tables of alternate placements name (R30, log entry 24). -/
def Channel.namedSpares (ch : Channel) : List Nat :=
  (upto 256).filterMap fun p => (ch.ctx.tables.find (p * 65536 + 1024)).map fun d => num d 2 2

/-- The lanterns of a channel that are neither failed nor spare. -/
def Channel.activeLans (ch : Channel) : List Nat :=
  (upto 1536).filter fun g => !ch.err.failed.contains g && !ch.err.spares.contains g

/-- CH_SPARES shows the spare cores of the active lanterns (R39). -/
def Channel.countCores (ch : Channel) : Channel :=
  let ms := ch.activeLans.map fun g => (ch.lan g).r F.LN_CORE_SPARE_MASK
  (ch.w F.CH_SPARES_CO_FREE 0 (ms.foldl (fun n m => n + popcount 64 m) 0)).w F.CH_SPARES_LN_NO_CORE 0
    (min 127 (ms.countP (· == 0)))

/-- The spare lanterns under a placement, and what CH_SPARES shows (R30, R39, R142): of the usable lanterns, 1,408 are active and the
others spare. Spares are the positions that alternate placements name, then the highest that the image does not name (DESIGN
CHOICE, log entry 100). -/
def Channel.chooseSpares (ch : Channel) (place : Nat) : Channel :=
  let good := (upto 1536).filter fun g => !ch.err.failed.contains g
  let named := ch.namedLans place
  let alt := ch.namedSpares
  let free := good.filter fun g => !named.contains g
  let order := free.filter alt.contains ++ (free.filter fun g => !alt.contains g).reverse
  let pick := order.take (good.length - 1408)
  let spares := good.filter pick.contains
  (({ ch with err := { ch.err with spares := spares } } : Channel).w F.CH_SPARES_LN_FREE 0 spares.length).countCores

/-- A range of device addresses lies in the user area of a channel (R320). -/
def inUser (no : Nat) (x : Nat × Nat) : Bool :=
  decide (no * 2 ^ 36 ≤ x.1) && decide (x.1 + x.2 ≤ no * 2 ^ 36 + 0xFE0000000)

/-- A record is sound: a register image lies in the channel's window or the bridge block, its format words are valid, and it writes
no E field of a function at the expert level (R77, R400); an HBM image lies in the user area of a channel (R320). -/
def recOk (lv no : Nat) (x : Rec) : Bool :=
  if x.kind = 2 then x.dest % 64 == 0 && decide (devChan x.dest < 12) && inUser (devChan x.dest) (x.dest, x.data.length)
  else if x.kind ≠ 0 then decide (x.kind ≤ 3)
  else if !(decide (winBase no ≤ x.dest) && decide (x.dest < winBase (no + 1))) then x.dest % 8 == 0
  else x.dest % 8 == 0 && ((chunks 8 x.data).zip (upto (x.data.length / 8))).all fun di =>
    let o := x.dest - winBase no + 8 * di.2
    match lanOffset o with
    | some (_, lo) =>
      (!(decide (0x1000 ≤ lo) && decide (lo < 0x1200)) || (FmtWord.parse (ofBytes di.1)).isSome) &&
        (regAt lanternFields lo ++ regAt lanternFields (lo + 4)).all fun fn => !(fn.1.expert && lv.testBit fn.1.fn)
    | none => (regAt channelFields o ++ regAt channelFields (o + 4)).all fun fn => !(fn.1.expert && lv.testBit fn.1.fn)

/-- Ranges of lines that the spill reserves of a channel take (R241), and the range of its translation table (R318). -/
def Channel.reserves (ch : Channel) : List (Nat × Nat) :=
  ch.lans.filterMap fun gl =>
    let n := gl.2.r F.TD_SPILL_LINES_LINES
    if n = 0 then none else some (gl.2.r F.TD_SPILL_BASE_ADDR, 64 * n)

/-- The HBM placement is valid (R320). -/
def Channel.hbmPlaceOk (ch : Channel) : Bool :=
  let xlt : List (Nat × Nat) :=
    if ch.r F.HM_XLT_CFG_EN = 0 then [] else [(ch.r F.HM_XLT_CFG_BASE * 2 ^ 16, 98304 * 8)]
  (ch.reserves ++ xlt).all (inUser ch.no) && disjoint (ch.reserves ++ xlt) &&
    ch.ctx.templates.all (fun t => inUser ch.no (t.2.2, 0)) &&
    ch.ctx.tables.all fun t => t.1 % 65536 != 1025 ||
      (chunks 16 t.2).all fun d => inUser ch.no ((Resident.parse d).addr, 64 * (Resident.parse d).lines)

/-- Every check of R400 passes in a channel. `lv` is the LEVEL word. -/
def Channel.imageOk (ch : Channel) (lv : Nat) : Bool :=
  (ch.ctx.sects.all fun x => (recsOf x.2.2).all (recOk lv ch.no)) &&
    ((upto 256).all fun p => decide ((placeLans ch.no (ch.placeRecs p)).length ≤ 1408)) && ch.hbmPlaceOk

end Sys2Proof.Machine
end

