-- ==== Sys2Proof/Machine/Admit.lean ====
section
/-! DEFINITION. Admission of contexts into sequence slots and the dispatch of their tasks (R255, R284, R288, R289, R396). -/

namespace Sys2Proof.Machine

/-- Inserts a context behind those of the same or an earlier deadline. -/
def insDue (x : Nat × Nat) : List (Nat × Nat) → List (Nat × Nat)
  | [] => [x]
  | y :: ys => if x.1 < y.1 then x :: y :: ys else y :: insDue x ys

/-- The QUEUED contexts in ascending DEADLINE, then ascending local ID: deadline and ID (R288). -/
def Channel.queued (ch : Channel) : List (Nat × Nat) :=
  (ch.ctx.known.filter fun n => ch.cst n == 3).foldl (fun xs n => insDue (ch.r F.CTX_DEADLINE_DEADLINE n, n) xs) []

/-- The batch size that the placement in force gives for a group: byte `g` of its table 512, and no limit without one (log
entry 24). -/
def Channel.batchSize (ch : Channel) (g : Nat) : Option Nat :=
  match ch.ctx.tables.find (ch.ctx.place * 65536 + 512) with
  | some d => let n := num d g 1; if n = 0 then none else some n
  | none => none

/-- The contexts admitted together with the first of the queue (R288). -/
def Channel.batchOf (ch : Channel) (q : List (Nat × Nat)) : List Nat :=
  match q with
  | [] => []
  | (d, n) :: rest =>
    let g := ch.r F.CTX_CHAR_BATCH n
    if g = 0 then [n]
    else
      let all := n :: (rest.filter fun x => x.1 == d && ch.r F.CTX_CHAR_BATCH x.2 == g).map (·.2)
      match ch.batchSize g with
      | some k => all.take k
      | none => all

/-- A task pushed by the last write item carries the sequence slot. -/
def Channel.tagPush (ch : Channel) (g before slot : Nat) : Channel :=
  ch.modLan g fun l =>
    if l.tq.pushes = before then l
    else { l with tq := { l.tq with entries := l.tq.entries.map fun e => if before ≤ e.num then { e with slot := some slot } else e } }

/-- A write item that names a lantern waits while that lantern is parked, or a park is pending, and behind items of its own that wait
(R143). -/
def Channel.mustHold (ch : Channel) (d : List (BitVec 8)) : Bool :=
  match lanOffset (num d 0 4) with
  | some (g, _) => (ch.lan g).halted || ch.ctx.held.any fun x => (lanOffset (num x.2.2 0 4)).map (·.1) == some g
  | none => false

/-- One write item of a dispatch template for context `n` (R396). The keeper writes the context's ID into CTX of a task entry, and
the sequence slot into SEQ (R255). -/
def Channel.writeItem (ch : Channel) (n slot : Nat) (d : List (BitVec 8)) : Channel :=
  let off := num d 0 4
  let fl := num d 4 4
  let v := num d 8 8
  let v := if isSet fl 0 then v / 1024 * 1024 + (v + n) % 1024 else v
  let v := if isSet fl 1 then v / 2 ^ 48 * 2 ^ 48 + (v + ch.r F.CTX_HBM_BASE n) % 2 ^ 48 else v
  let size := if isSet fl 2 then 4 else 8
  match lanOffset off with
  | some (g, lo) =>
    let v := if lo = F.LN_TQ_PUSH_LO_ENTRY.base then putBits v 16 10 n
      else if lo = F.LN_TQ_PUSH_HI_ENTRY.base then putBits v 2 3 slot else v
    let before := (ch.lan g).tq.pushes
    (ch.keeperWrite off size v).tagPush g before slot
  | none => ch.keeperWrite off size v

/-- One write item is dispatched, or waits for its lantern (R143). -/
def Channel.dispatchItem (ch : Channel) (n slot : Nat) (d : List (BitVec 8)) : Channel :=
  if ch.mustHold d then ch.modCtx fun x => { x with held := x.held ++ [(n, slot, d)] } else ch.writeItem n slot d

/-- The keeper dispatches the work of a sequence from the template of its first context, the alternate one where a context of the
batch needs it (R255, R262, R396). -/
def Channel.dispatch (ch : Channel) (ns : List Nat) (slot : Nat) : Channel :=
  let n := ns.headD 0
  let t := ch.ctx.tables.getD (ch.ctx.tableOf (ch.r F.CTX_CHAR_PLAN n) (ns.any ch.ctx.alt.contains)) []
  ((chunks 16 t).filter fun d => d.length == 16).foldl (fun ch d => ch.dispatchItem n slot d) ch

/-- The keeper resumes dispatch to lanterns that are parked no longer (R143). -/
def Channel.resumeDispatch (ch : Channel) : Channel :=
  match ch.ctx.held with
  | [] => ch
  | xs => xs.foldl (fun ch x => ch.dispatchItem x.1 x.2.1 x.2.2) (ch.modCtx fun c => { c with held := [] })

/-- Some entry of a task queue, or an item that waits for its lantern, belongs to the sequence of a slot. -/
def Channel.seqLive (ch : Channel) (slot : Nat) : Bool :=
  ch.ctx.held.any (fun x => x.2.1 == slot) || ch.lans.any fun gl => gl.2.tq.entries.any fun e => e.slot == some slot

/-- Admits waiting contexts into free slots (R288); a sequence that pushes no task completes at once (log entry 28). -/
def Channel.admitN : Nat → Channel → Channel
  | 0, ch => ch
  | fuel + 1, ch =>
    let slot := (upto 8).find? fun k => (ch.ctx.seqs.find k).isNone
    match slot, ch.batchOf ch.queued with
    | some k, n :: ns =>
      let ch := ch.modCtx fun x => { x with seqs := x.seqs.put k { ctxs := n :: ns } }
      let ch := (n :: ns).foldl (fun ch m => (ch.w F.CTX_STATE_STATE m 4).w F.CTX_STATE_SEQ m k) ch.seqSync
      let ch := ch.dispatch (n :: ns) k
      Channel.admitN fuel (if ch.seqLive k then ch else ch.seqDone k)
    | _, _ => ch

/-- The keeper admits contexts unless the channel has stopped compute (R288, R431). -/
def Channel.admitAll (ch : Channel) : Channel :=
  if ch.r F.CH_INFO_FWD_ONLY = 1 then ch else ch.admitN ch.queued.length

/-- Sequences whose last task has left their queues complete, and the slots that they free are filled (R288, R289). -/
def Channel.seqCheck (ch : Channel) : Channel :=
  let ch := ch.resumeDispatch
  let done := (upto 8).filter fun k => (ch.ctx.seqs.find k).isSome && !ch.seqLive k
  match done with
  | [] => ch
  | _ => (done.foldl (fun ch k => ch.seqDone k) ch).admitAll

/-- A completed task is answered, and its sequence may complete with it (R252, R289). -/
def Channel.taskEnds (ch : Channel) (g k : Nat) : Channel := (ch.taskComplete g k).seqCheck

/-! ### The steps of a keeper at a tick (R284) -/

/-- The tick is a boundary of the channel (R282). -/
def Channel.atBoundary (ch : Channel) : Bool := ch.tick % ch.r F.CH_CHAR_PERIOD == ch.r F.CH_CHAR_PHASE

/-- The fields of HM_SHARE (R322). -/
def shareFields : List Fld :=
  [F.HM_SHARE_READ, F.HM_SHARE_WRITE, F.HM_SHARE_REMOTE, F.HM_SHARE_LEND, F.HM_SHARE_LEND_TB]

/-- The shares that wait for a boundary are valid (R307). -/
def Regs.shareOk (r : Regs) : Bool :=
  let v := fun f => r.waiting f
  let part := fun f => decide (1 ≤ v f) && decide (v f ≤ 30)
  part F.HM_SHARE_READ && part F.HM_SHARE_WRITE && part F.HM_SHARE_REMOTE
    && v F.HM_SHARE_READ + v F.HM_SHARE_WRITE + v F.HM_SHARE_REMOTE == 32
    && decide (1 ≤ v F.HM_SHARE_LEND_TB) && decide (v F.HM_SHARE_LEND_TB ≤ 250)

/-- An invalid value of HM_SHARE that reaches a boundary is given up, and the value in effect stays (R307). -/
def Channel.shareCheck (ch : Channel) : Channel :=
  if ch.regs.shareOk then ch
  else
    let ks := shareFields.map (·.key 0)
    ({ ch with regs := { ch.regs with shadow := ch.regs.shadow.filter fun kv => !ks.contains kv.1 } } : Channel).w
      F.HM_STATUS_CFG_ERR 0 1

/-- Step 1: the channel's period-latched fields, those of its lanterns, and the scale tables that it owns (R13, R58, R307). -/
def Channel.latchAll (ch : Channel) : Channel :=
  let ch := ch.shareCheck
  ({ ch with regs := ch.regs.copyShadowsIn 0 (0x100000 * 64)
             lans := ch.lans.mapV fun _ l => { l with regs := l.regs.copyShadows } } : Channel).scaleBoundary 0xFFFF

/-- Steps 2 to 4. -/
def Channel.keeperSteps (ch : Channel) : Channel :=
  let ch := ch.ctx.known.foldl (fun ch n => ch.lockBreak n) ch
  let ch := ch.ctx.known.foldl (fun ch n => ch.ctxTick n) ch
  ch.resumeDispatch.admitAll

end Sys2Proof.Machine
end

