-- ==== Sys2Proof/Machine/Startup.lean ====
section
/-! DEFINITION. Start-up from verification to RUN (R398, R399, R406 to R409), identity and attestation (R412 to R414), and the flash
commands (R415). -/

namespace Sys2Proof.Machine

/-! ### The bridge's part of the image (R20, R33, R36, R406) -/

/-- A record of MODULE_CFG for the bridge: the LEVEL word (R20), the module number, the mask of used P2 ports and AUTO_GO (log entry
24), and register images of the bridge block. -/
def Bridge.applyRec (b : Bridge) (x : Rec) : Bridge :=
  if x.kind = 3 then
    if x.item = 0 then b.w F.MOD_LEVEL_LEVEL 0 (num x.data 0 4)
    else if x.item = 1 then b.modBoot fun y => { y with modNo := some (num x.data 0 2) }
    else if x.item = 2 then b.modBoot fun y => { y with p2 := num x.data 0 2 }
    else if x.item = 3 then b.modBoot fun y => { y with autoGo := num x.data 0 1 % 2 == 1 }
    else b.modBoot fun y => { y with tables := y.tables.put x.item x.data }
  else if x.kind = 0 ∧ 0xFF00000000 ≤ x.dest ∧ x.dest < 0xFF03C00000 then
    ((chunks 8 x.data).zip (upto (x.data.length / 8))).foldl (fun b di =>
      let o := x.dest - 0xFF00000000 + 8 * di.2
      let v := ofBytes di.1
      let r := if (wideAt bridgeFields o).isSome then b.regs.image bridgeFields o v
        else (b.regs.image bridgeFields o (v % 2 ^ 32)).image bridgeFields (o + 4) (v >>> 32)
      { b with regs := r }) b
  else b

/-- MODULE_CFG records of the image. -/
def Image.moduleRecs (i : Image) : List Rec :=
  (i.sects.filter fun s => s.ty == 0x10).flatMap fun s => recsOf s.data

/-- The LEVEL word has no bit above bit 12 (R20). -/
def Image.levelOk (i : Image) : Bool :=
  i.moduleRecs.all fun x => !(x.kind == 3 && x.item == 0) || decide (num x.data 0 4 < 2 ^ 13)

/-! ### Verification and its failures (R398, R399) -/

/-- A device fails with a cause (R398, R399): the recovery device is next, or the module has no image. -/
def Bridge.verifyFails (b : Bridge) (cause : Nat) : Bridge :=
  let b := b.noImage
  if b.r F.MOD_BOOT_SOURCE = 0 then
    ((b.w F.MOD_BOOT_FAIL_P 0 cause).w F.MOD_BOOT_SOURCE 0 1).w F.MOD_BOOT_STAGE 0 1
  else
    ((b.w F.MOD_BOOT_FAIL_R 0 cause).w F.MOD_BOOT_STAGE 0 7).modBoot fun x => { x with cfgOk := true }

/-- The lit half verifies the device in turn (R398): steps 1 to 6, and the bridge's part of step 7. -/
def Bridge.imageVerify (b : Bridge) (responds : Bool) : Bridge :=
  if b.boot.grant.isNone ∨ b.r F.MOD_BOOT_STAGE ≠ 1 then b
  else match b.verify (b.r F.MOD_BOOT_SOURCE) responds with
  | .inl cause => b.verifyFails cause
  | .inr (img, missing) =>
    let b := if missing then b.w F.MOD_BOOT_FLOOR_MISSING 0 1 else b
    let b := b.noImage.modBoot fun x => { x with image := some img, cfgOk := true }
    let b := ((b.w F.MOD_IMAGE_SEQ 0 img.seq).w F.MOD_IMAGE_SVN 0 img.svn).w F.MOD_IMAGE_FLOOR 0 img.floor
    let b := (b.w F.MOD_BOOT_STAGE 0 2).passItems
    if img.levelOk then img.moduleRecs.foldl Bridge.applyRec b else b.verifyFails 8

/-- Discards the channels' state when the image fails in distribution: every channel is in reset (R399). -/
def State.failImage (s : State) (cause : Nat) : State := { s with chans := [], mod := s.mod.verifyFails cause }

/-- The state of a channel whose keeper firmware lands over the lit half's attachment (R27, R406): its sections are applied. -/
def State.bootChannel (s : State) (img : Image) (c : Nat) : Channel :=
  let mine := img.sects.filter fun x => isSet x.mask c && x.ty != 1 && x.ty != 2
  let lit := s.mod.r F.HP_LIGHT_LIT
  let ch : Channel := { Channel.init c with module := s.mod.boot.modNo.getD 0, p2Off := !isSet s.mod.boot.p2 c,
                                              hostStop := s.mod.hp.perst, lv := s.mod.r F.MOD_LEVEL_LEVEL }
  let ch := (ch.w F.CH_INFO_HOST_VIA 0 lit).w (if lit = 0 then F.CH_INFO_A0_UP else F.CH_INFO_A1_UP) 0 1
  let ch := ch.modCtx fun x => { x with sects := mine.map fun y => (y.ty, y.param, y.data) }
  mine.foldl (fun ch x => ch.applySect 0 x.ty x.param x.data) ch

/-- The ring ports of a channel, and a used P2 port, begin to train (R408). -/
def Channel.trainAll (ch : Channel) : Channel :=
  let ch := (ch.trainStart 0).trainStart 1
  if ch.p2Off then ch else ch.trainStart 2

/-- MOD_NODE holds the image's module number once the configuration is distributed (R40). -/
def Bridge.numbered (b : Bridge) : Bridge :=
  match b.boot.modNo with
  | some m => (b.w F.MOD_NODE_MODULE 0 m).w F.MOD_NODE_VALID 0 1
  | none => b

/-- The reset of a channel is released with its firmware (R406); with the last one distribution ends (R40, R408). -/
def Bridge.fwDone (b : Bridge) (c : Nat) : Bridge :=
  let b := b.modBoot fun x => { x with landed := x.landed ++ [c], resetCh := x.resetCh.filter (· != c) }
  if b.boot.landed.length = 12 then b.numbered.w F.MOD_BOOT_STAGE 0 3 else b

/-- Keeper firmware lands in a channel (R406): its reset is released, its sections are applied and checked, and its ring ports, and
a used P2 port, begin to train (R408). -/
def State.fwLanded (s : State) (c : Nat) : State :=
  match s.mod.boot.image with
  | none => s
  | some img =>
    if s.mod.r F.MOD_BOOT_STAGE ≠ 2 ∨ s.mod.boot.landed.contains c then s
    else
      let ch := s.bootChannel img c
      if !ch.imageOk (s.mod.r F.MOD_LEVEL_LEVEL) then s.failImage 8
      else ({ s with mod := s.mod.fwDone c } : State).setChan c ch.trainAll

/-- A channel has not reported completion within 30 ms (R398 step 7). -/
def State.distTimeout (s : State) (c : Nat) : State :=
  if s.mod.r F.MOD_BOOT_STAGE = 2 ∧ !s.mod.boot.landed.contains c then s.failImage 9 else s

/-! ### Calibration (R29, R141, R408) -/

/-- Failed physical cores of a lantern, by a mask: those that the self-test names, and those with fewer than 16 usable slices
(R29). -/
def calBadCores (r : CalReport) (g : Nat) : Nat :=
  let m := (r.cores.filter fun x => x.1 == g).foldl (fun m x => m ||| x.2 % 2 ^ 64) 0
  (upto 64).foldl (fun m k =>
    let bad := (r.slices.filter fun x => x.1 == g && x.2.1 == k).foldl (fun m x => m ||| x.2.2 % 2 ^ 17) 0
    if 1 < popcount 17 bad then m ||| 2 ^ k else m) m

/-- The lantern has at least 60 usable cores (R29). -/
def calLanOk (r : CalReport) (g : Nat) : Bool :=
  !r.lans.contains g && decide (popcount 64 (calBadCores r g) ≤ 4)

/-- The usable physical cores of a lantern, in ascending order. -/
def calGoodCores (r : CalReport) (g : Nat) : List Nat := (upto 64).filter fun k => !isSet (calBadCores r g) k

/-- Cores are bound after the self-test (R80, R141). -/
def calBindLan (r : CalReport) (g : Nat) (l : Lantern) : Lantern :=
  let good := calGoodCores r g
  let l := ((good.take 60).zip (upto 60)).foldl (fun l kn =>
    (l.w F.LN_CORE_BIND_PHYS kn.2 kn.1).w F.LN_CORE_BIND_VALID kn.2 1) l
  let l := l.w F.LN_CORE_SPARE_MASK 0 ((good.drop 60).foldl (fun m k => m + 2 ^ k) 0)
  let l := (l.w F.LN_CORE_BAD_MASK 0 (calBadCores r g)).w F.LN_STATUS_CORES 0 60
  (r.slices.filter fun x => x.1 == g).foldl (fun l x =>
    let l := l.w F.CO_SLICEMAP_SLICE_BAD x.2.1 x.2.2
    match lowestSet 16 0 x.2.2 with
    | some s => l.w F.CO_SLICEMAP_SPARE_FOR x.2.1 s
    | none => l) l

/-- Lines of a share window at a RATE code (R299). -/
def rateLines (rate : Nat) : Nat := if rate = 0 then 44000 else if rate = 1 then 38400 else 32000

/-- The keeper's start-up self-test and training end (R29, R39, R141, R299, R408): whether the channel is usable. -/
def Channel.calibrated (ch : Channel) (r : CalReport) (lit : Nat) : Channel × Bool :=
  let good := (upto 1536).filter (calLanOk r)
  let bad := (upto 1536).filter fun g => !calLanOk r g
  let ch := (ch.w F.CH_INFO_A0_UP 0 (b2n r.a0)).w F.CH_INFO_A1_UP 0 (b2n r.a1)
  let ch := { ch with attOut := (if r.a0 then [] else [0]) ++ (if r.a1 then [] else [1]) }
  let ch := ch.moveHost lit
  match r.rate with
  | none => (({ ch with hbm := { ch.hbm with failed := true } } : Channel).raise 0xC0 (unitWord ch.no 0 0 0 0) none 0, false)
  | some rate =>
    if good.length < 1408 then (ch.raise 0xC0 (unitWord ch.no 0 0 0 0) none 0, false)
    else
      let ch := (ch.w F.HM_STATUS_TRAINED 0 1).w F.HM_STATUS_RATE 0 rate
      let ch := ch.w F.HM_WINDOW_LINES_LINES 0 (rateLines rate)
      let ch := if rate = 0 then ch else ch.raise 0x63 (unitWord ch.no 0 0 0 0) none 0
      let ch := good.foldl (fun (ch : Channel) g => ch.modLan g (calBindLan r g)) ch
      let ch := (ch.modErr fun e => { e with failed := bad }).chooseSpares 0
      (ch.w F.CH_INFO_USABLE 0 1, true)

/-- The number of an 11-channel placement that omits a channel (R395, R408). -/
def Image.without (i : Image) (c : Nat) : Option Nat :=
  (upto 256).find? fun p =>
    let ss := i.sects.filter fun x => x.ty == 0x11 && x.param == p
    !ss.isEmpty && ss.foldl (fun m x => m ||| x.mask) 0 == 0xFFF - 2 ^ c

/-- The channels whose lanterns a placement names (R455). -/
def Image.placeMask (i : Image) (p : Nat) : Nat :=
  (i.sects.filter fun x => x.ty == 0x11 && x.param == p).foldl (fun m x => m ||| x.mask) 0

/-- The module enters RUN (R409): every keeper may arm contexts. -/
def State.enterRun (s : State) : State :=
  let s := { s with mod := s.mod.w F.MOD_BOOT_STAGE 0 5 }
  s.eachChan fun _ ch => ch.modCtx fun x => { x with run := true }

/-- The active lanterns of a channel leave parking: a failed and a spare lantern stay parked (R142). -/
def Channel.releaseAll (ch : Channel) : Channel := ch.activeLans.foldl (fun ch g => ch.release g) ch

/-- A usable channel takes the placement that the module has chosen, and its active lanterns leave parking (R142, R408). -/
def Channel.takePlace (ch : Channel) (p : Nat) : Channel :=
  if ch.r F.CH_INFO_USABLE = 1 then
    let ch := ch.modCtx fun y => { y with place := p }
    (if p = 0 then ch else (ch.applyPlacement p).chooseSpares p).releaseAll
  else ch

/-- The placement `p` is in force, and the module enters RUN or WAIT_GO (R408, R409). -/
def State.placed (s : State) (p : Nat) : State :=
  let s := s.eachChan fun _ ch => ch.takePlace p
  if s.mod.boot.autoGo then s.enterRun else { s with mod := s.mod.w F.MOD_BOOT_STAGE 0 4 }

/-- Once every keeper has reported or failed, the lit half chooses a placement, enables the timebase and enters RUN, WAIT_GO or
STOPPED (R274, R406, R408, R409). -/
def State.choosePlace (s : State) : State :=
  let x := s.mod.boot
  if x.reported.length + x.failedCh.length < 12 then s
  else
    let usable := x.reported.foldl (fun m c => m + 2 ^ c) 0
    let b := s.mod.w F.MOD_BOOT_CH_USABLE 0 usable
    let b := (b.w F.TB_STAT_EN 0 1).modTb fun t => { t with enAt := t.now }
    let place := match x.failedCh with
      | [] => some 0
      | [c] => x.image.bind fun i => i.without c
      | _ => none
    match place with
    | none => { s with mod := b.w F.MOD_BOOT_STAGE 0 6 }
    | some p => ({ s with mod := b.w F.MOD_BOOT_PLACE 0 p } : State).placed p

/-- A keeper reports the end of calibration (R408). -/
def State.calDone (s : State) (c : Nat) (r : CalReport) : State :=
  let x := s.mod.boot
  if s.mod.r F.MOD_BOOT_STAGE ≠ 3 ∨ x.reported.contains c ∨ x.failedCh.contains c then s
  else
    let (ch, ok) := (s.chan c).calibrated r (s.mod.r F.HP_LIGHT_LIT)
    let s := s.setChan c ch
    let b := s.mod.modBoot fun y =>
      if ok then { y with reported := y.reported ++ [c] } else { y with failedCh := y.failedCh ++ [c] }
    ({ s with mod := b } : State).choosePlace

/-- A keeper has not reported within 600 ms (R408). -/
def State.calTimeout (s : State) (c : Nat) : State :=
  let x := s.mod.boot
  if s.mod.r F.MOD_BOOT_STAGE ≠ 3 ∨ x.reported.contains c ∨ x.failedCh.contains c then s
  else ({ s with mod := s.mod.modBoot fun y => { y with failedCh := y.failedCh ++ [c] } } : State).choosePlace

/-- Once every keeper has loaded its blocks after GO, the module enters RUN (R409). -/
def State.goSettle (s : State) : State :=
  if s.mod.boot.going && s.chans.all (fun c => c.2.ctx.loads.isEmpty) then
    ({ s with mod := s.mod.modBoot fun x => { x with going := false } } : State).enterRun
  else s

/-- A write of MOD_RUN.GO (R265, R409, R413): each keeper loads the blocks of the placement. -/
def State.go (s : State) : State :=
  if s.mod.r F.MOD_BOOT_STAGE ≠ 4 then { s with mod := s.mod.w F.MOD_BOOT_CFG_ERR 0 1 }
  else if s.mod.boot.going then s
  else
    let s := s.eachChan fun _ ch => if ch.r F.CH_INFO_USABLE = 1 then ch.loadBlocks ch.blocks else ch
    ({ s with mod := s.mod.modBoot fun x => { x with going := true } } : State).goSettle

/-- A write of 1 to bits of MOD_CH_OFF (R455). -/
def State.powerDown (s : State) (mask : Nat) : State :=
  (upto 12).foldl (fun s c =>
    if !isSet mask c then s
    else
      let named := match s.mod.boot.image with
        | some i => isSet (i.placeMask (s.mod.r F.MOD_BOOT_PLACE)) c
        | none => false
      if isSet (s.mod.r F.MOD_BOOT_CH_USABLE) c && named then { s with mod := s.mod.w F.MOD_BOOT_CFG_ERR 0 1 }
      else { s with mod := s.mod.w F.MOD_CH_OFF_OFF 0 (s.mod.r F.MOD_CH_OFF_OFF ||| 2 ^ c) }) s

/-! ### Flash commands (R415) -/

/-- The page buffer. -/
def Bridge.flashBuf (b : Bridge) : List (BitVec 8) :=
  (upto 32).flatMap fun i => toBytes 8 (b.r F.SEC_FLASH_BUF_DATA i)

/-- A write of SEC_FLASH_CMD: a PROGRAM takes the page that the buffer holds then (R12). -/
def Bridge.flashCmd (b : Bridge) (op dev addr : Nat) : Bridge :=
  let al := if op = 2 then 65536 else 256
  if b.r F.SEC_FLASH_STAT_BUSY = 1 ∨ op = 3 then b
  else if addr % al ≠ 0 then b.w F.SEC_FLASH_STAT_ERR 0 1
  else if op ≠ 0 ∧ addr < 65536 then b.w F.SEC_FLASH_STAT_REFUSED 0 1
  else (b.w F.SEC_FLASH_STAT_BUSY 0 1).modBoot fun x => { x with fcmd := some (op, dev, addr), fpage := b.flashBuf }

/-- A flash command finishes; `err` says that the device reports an error. -/
def Bridge.flashDone (b : Bridge) (err : Bool) : Bridge :=
  match b.boot.fcmd with
  | none => b
  | some (op, dev, addr) =>
    let page := b.boot.fpage
    let b := (b.w F.SEC_FLASH_STAT_BUSY 0 0).modBoot fun x => { x with fcmd := none, fpage := [] }
    if err then b.w F.SEC_FLASH_STAT_ERR 0 1
    else if op = 0 then
      ((chunks 8 (b.flashRd dev addr 256)).zip (upto 32)).foldl (fun b di => b.w F.SEC_FLASH_BUF_DATA di.2 (ofBytes di.1)) b
    else if op = 1 then b.flashWr dev addr page
    else b.flashWr dev addr (List.replicate 65536 0xFF)

/-! ### Identity and attestation (R412 to R414) -/

/-- Bytes of an ASCII string, as its character codes. -/
def ascii (cs : List Nat) : List (BitVec 8) := cs.map (BitVec.ofNat 8)

/-- "NHB12-ID" and "NHB12-ALIAS". -/
def infoId : List (BitVec 8) := ascii [0x4E, 0x48, 0x42, 0x31, 0x32, 0x2D, 0x49, 0x44]
def infoAlias : List (BitVec 8) := ascii [0x4E, 0x48, 0x42, 0x31, 0x32, 0x2D, 0x41, 0x4C, 0x49, 0x41, 0x53]

/-- SEC_DEVID (R415): the first 8 bytes of the SHA-256 of the identity public key. -/
def deviceId : Nat :=
  ofBytes ((sha256 (publicKey (deriveKey (fitTo 32 0 Config.pufSeed) infoId (2 ^ 32) 0))).take 8)

/-- IMAGE_DIGEST, or 32 zero bytes without an image (R413). -/
def Bridge.digest (b : Bridge) : List (BitVec 8) :=
  match b.boot.image with
  | some i => i.digest
  | none => List.replicate 32 0

/-- The alias certificate (R413). -/
def Bridge.aliasCert (b : Bridge) : List (BitVec 8) :=
  Config.aliasCert (publicKey (deriveKey (fitTo 32 0 Config.pufSeed) (infoAlias ++ b.digest) (2 ^ 32) 0)) b.digest

/-- The first certificate in a byte string: an object of definite length in two length bytes. -/
def firstCert (d : List (BitVec 8)) : List (BitVec 8) :=
  if num d 0 2 = 0x8230 then d.take (4 + beWord (slice d 2 2)) else []

/-- The chain of slot 0 (R413): three certificates of the certificate area, then the alias certificate. -/
def Bridge.chain (b : Bridge) : List (BitVec 8) :=
  let a := b.flashRd (b.r F.MOD_BOOT_SOURCE) 0x2000 57344
  let c1 := firstCert a
  let c2 := firstCert (a.drop c1.length)
  let c3 := firstCert (a.drop (c1.length + c2.length))
  c1 ++ c2 ++ c3 ++ b.aliasCert

/-- The measurement of an index (R414). -/
def Bridge.measure (b : Bridge) (i : Nat) : List (BitVec 8) :=
  if i = 1 then fitTo 32 0 Config.romDigest
  else match b.boot.image with
    | none => List.replicate (if i = 5 then 9 else 32) 0
    | some x =>
      if i = 2 then x.bridgeFw
      else if i = 3 then x.keeperFw
      else if i = 4 then x.config
      else if i = 5 then toBytes 4 x.seq ++ toBytes 2 x.svn ++ toBytes 2 x.floor ++ toBytes 1 (b.r F.MOD_BOOT_SOURCE)
      else x.owner

/-- A free signature or nonce. -/
def Bridge.attest (b : Bridge) : List (BitVec 8) × Bridge := (Config.attest b.fresh, { b with fresh := b.fresh + 1 })

/-- The requests of SPDM that the mailbox serves (R414). -/
inductive SpdmReq where
  | version | capabilities | algorithms | digests
  | certificate (off len : Nat)
  | challenge
  | measurements (index : Nat)
  | other
  deriving DecidableEq, Repr

/-- Requests that are served whatever ID_OK (R414). -/
def SpdmReq.early : SpdmReq → Bool
  | .version => true
  | .capabilities => true
  | .algorithms => true
  | _ => false

/-- The mailbox answers a request (R414). Index 255 asks for every measurement. -/
def Bridge.spdm (b : Bridge) (q : SpdmReq) : Bridge :=
  let put := fun (b : Bridge) (a : SpdmAns) => b.modBoot fun x => { x with spdm := some a }
  if b.r F.MOD_BOOT_ID_OK = 0 && !q.early then put b .unspecified
  else match q with
  | .version => put b (.version 0x12)
  | .capabilities => put b (.capabilities true true true)
  | .algorithms => put b (.algorithms true true)
  | .digests => put b (.digests (sha256 b.chain))
  | .certificate off len => put b (.certificate (slice b.chain off len) (b.chain.length - off - len))
  | .challenge =>
    let (nonce, b) := b.attest
    let (sig, b) := b.attest
    put b (.challenge (sha256 b.chain) nonce sig)
  | .measurements i =>
    let (sig, b) := b.attest
    put b (.measurements (((rangeFrom 1 6).filter fun k => i == 255 || i == k).map fun k => (k, b.measure k)) sig)
  | .other => put b .unsupported

end Sys2Proof.Machine
end

