-- ==== Sys2Proof/Machine/DevAccess.lean ====
section
/-! DEFINITION. Accesses to device addresses by the host, a host command, the I3C port, a keeper or the debug port: the bridge
block, the channel windows, the aperture and the reserved ranges (R4 to R7, R19, R25, R28, R376, R470 to R475). -/

namespace Sys2Proof.Machine

/-! ### The bridge block -/

/-- First device address of the bridge block, and its size (R470). -/
def bridgeBase : Nat := 0xFF00000000
def bridgeSize : Nat := 0x03C00000

/-- The unit that owns an idle-only field of the bridge block is idle (R280, R388). -/
def Bridge.idleAt (b : Bridge) (f : Fld) (n : Nat) : Bool :=
  if f.base < 0x40000 then b.r F.TB_STAT_EN == 0 else b.eff F.HP_RING_CFG_EN n == 0

/-- CFG_ERR of the block at an offset of the bridge block, where the block has one. -/
def Bridge.cfgErr (b : Bridge) (o : Nat) : Bridge :=
  if o < 0x10000 then b.w F.MOD_BOOT_CFG_ERR 0 1
  else if o < 0x40000 then b.w F.TB_STAT_CFG_ERR 0 1
  else if o < 0x50000 then b.hpCfgErr
  else if o < 0x60000 then b
  else b.w F.ERR_MOD_STATUS_CFG_ERR 0 1

/-- The verdict on a field of the bridge block: a ring size outside 6 to 16 (R388), and TB_EPOCH while ticks come from markers
(R279), are discarded. -/
def Bridge.verdict (b : Bridge) (lv : Nat) (req : Requester) (f : Fld) (n x : Nat) : Verdict :=
  match baseVerdict lv req (b.idleAt f n) f with
  | .take =>
    if (f = F.HP_RING_CFG_CR_LOG2 ∨ f = F.HP_RING_CFG_CP_LOG2) ∧ (x < 6 ∨ 16 < x) then .discard
    else if f = F.TB_EPOCH_EPOCH ∧ b.r F.TB_CFG_SRC = 1 then .discard
    else .take
  | v => v

/-- The actions of a written bridge register. -/
def State.bridgeAct (s : State) (o : Nat) (en0 : Nat → Nat) (w : WrOut) : State :=
  let onB := fun (f : Fld) (g : Bridge → Bridge) (s : State) => if w.val f = 0 then s else { s with mod := g s.mod }
  let s := onB F.TB_CTRL_CLR_CNT Bridge.tbClrCnt s
  let s := onB F.HP_CTRL_CLR_CNT Bridge.hpClrCnt s
  let s := onB F.ERR_MOD_CTRL_CLR_CNT Bridge.errClrCnt s
  let s := onB F.MOD_MAP_CTRL_CLR_CNT Bridge.mapClrCnt s
  let s := if w.val F.MOD_RUN_GO = 0 then s else s.go
  let s := if w.val F.MOD_CH_OFF_OFF = 0 then s else s.powerDown (w.val F.MOD_CH_OFF_OFF)
  let s := if w.acts.any fun a => decide (a.1 = F.SEC_FLASH_CMD_OP) then
      { s with mod := s.mod.flashCmd (w.val F.SEC_FLASH_CMD_OP) (w.val F.SEC_FLASH_CMD_DEV) (w.val F.SEC_FLASH_CMD_ADDR) }
    else s
  match F.HP_RING_CFG_EN.at o with
  | some r => if en0 r = 0 ∧ s.mod.r F.HP_RING_CFG_EN r = 1 then { s with mod := s.mod.ringStart r } else s
  | none => s

/-- One register of the bridge block is written. -/
def State.bridgeWrite1 (s : State) (req : Requester) (x : RegWr) : State :=
  let b := s.mod
  let w := b.regs.writeReg bridgeFields (b.verdict (b.r F.MOD_LEVEL_LEVEL) req) x
  let b1 : Bridge := { b with regs := w.regs }
  let b1 := if w.err then b1.cfgErr x.off else b1
  ({ s with mod := b1 } : State).bridgeAct x.off (fun r => b.r F.HP_RING_CFG_EN r) w

/-- Accesses to the bridge block that R7 counts. -/
def Bridge.missed (b : Bridge) (req : Requester) (wr : Bool) (ms : List Miss) : Bridge :=
  ms.foldl (fun b m => b.miss 15 (bridgeBase + m.off) req.num wr m.narrow m.misal) b

/-- The CXL component and device registers (R472), whose contents the CXL specification gives. -/
def cxlRegs (o : Nat) : Bool := decide (0x10000 ≤ o) && decide (o < 0x30000)

/-- A write in the bridge block. -/
def State.bridgeWrite (s : State) (req : Requester) (o size v : Nat) : State :=
  if cxlRegs o then
    if size < 4 ∨ o % size ≠ 0 then
      { s with mod := s.mod.missed req true [{ off := o, narrow := decide (size < 4), misal := decide (4 ≤ size) }] }
    else
      let b := s.mod.modHp fun h => { h with cxl := h.cxl.put o (v % 2 ^ 32) }
      let b := if size = 8 then b.modHp fun h => { h with cxl := h.cxl.put (o + 4) (v / 2 ^ 32 % 2 ^ 32) } else b
      { s with mod := b }
  else
    let (r, ws, ms) := s.mod.regs.writes bridgeFields req.num o size v
    let s : State := { s with mod := { s.mod with regs := r } }
    let s := ws.foldl (fun s x => s.bridgeWrite1 req x) s
    { s with mod := s.mod.missed req true ms }

/-- What a read of a bridge field returns: HP_APER_CUR is the aperture in effect (R376). -/
def Bridge.show (b : Bridge) (f : Fld) (n : Nat) : Nat :=
  if f = F.HP_APER_CUR_CUR then b.eff F.HP_APER_CHAN + b.eff F.HP_APER_BLOCK * 16 else b.regs.show f n

/-- A word of the CXL registers: what was written, or a free value. -/
def Bridge.cxlRead (b : Bridge) (o : Nat) : Nat × Bridge :=
  match b.hp.cxl.find o with
  | some v => (v, b)
  | none => b.freeVal 32

/-- A read in the bridge block: the value, and the bridge after it. -/
def Bridge.blockRead (b : Bridge) (req : Requester) (o size : Nat) : Nat × Bridge :=
  if cxlRegs o then
    if 4 ≤ size ∧ o % size ≠ 0 then (0, b.missed req false [{ off := o, misal := true }])
    else if size < 4 then
      let b := b.missed req false [{ off := o, narrow := true }]
      let (v, b) := b.cxlRead (o - o % 4)
      ((v >>> (8 * (o % 4))) % 2 ^ (8 * size), b)
    else
      let (lo, b) := b.cxlRead o
      if size = 8 then
        let (hi, b) := b.cxlRead (o + 4)
        (lo + hi * 2 ^ 32, b)
      else (lo, b)
  else
    let (r, v, ms) := b.regs.read bridgeFields b.show req.num o size
    (v, ({ b with regs := r } : Bridge).missed req false ms)

/-! ### Device addresses (R470) -/

/-- The channel whose register window holds an address, with the offset. -/
def chanWindow (a : Nat) : Option (Nat × Nat) :=
  if winBase 0 ≤ a ∧ a < winBase 12 then some ((a - winBase 0) / 0x10000000, (a - winBase 0) % 0x10000000) else none

/-- A channel takes no host traffic: the lit half's attachment has failed (R28), or accesses accepted on the other attachment are not
complete (R27). -/
def State.cutOff (s : State) (c : Nat) : Bool :=
  (s.chan c).attOut.contains (s.mod.r F.HP_LIGHT_LIT) || (s.chan c).hostNext.isSome

/-- The register window at a device address lies in a channel whose host traffic has stopped (R28). -/
def State.cutOffAt (s : State) (a : Nat) : Bool :=
  match chanWindow a with
  | some (c, _) => s.cutOff c
  | none => false

/-- A write of `size` bytes to a device address. A channel in reset or powered down takes nothing (R376). -/
def State.devWrite (s : State) (req : Requester) (a size v : Nat) : State :=
  match chanWindow a with
  | some (c, o) =>
    if s.mod.holds c then (if overAttachment req then { s with mod := s.mod.hpCfgErr } else s)
    else if overAttachment req && s.cutOff c then s
    else s.setChan c ((s.chan c).regWrite (s.mod.r F.MOD_LEVEL_LEVEL) req o size v)
  | none =>
    if bridgeBase ≤ a ∧ a < bridgeBase + bridgeSize then s.bridgeWrite req (a - bridgeBase) size v
    else { s with mod := s.mod.miss 15 a req.num true (decide (size < 4)) (decide (4 ≤ size ∧ a % size ≠ 0)) }

/-- The value read goes to the requester. -/
def Bridge.answerTo (b : Bridge) (req : Requester) (v : Nat) : Bridge :=
  b.modHp fun h => { h with answer := h.answer.put req.num v }

/-- A read in the bridge block, whose value goes to the requester. -/
def State.blockReadTo (s : State) (req : Requester) (o size : Nat) : State :=
  let (v, b) := s.mod.blockRead req o size
  { s with mod := b.answerTo req v }

/-- A read of `size` bytes from a device address. The value stands in the bridge's answer to the requester, or for a channel
window in the channel's. -/
def State.devRead (s : State) (req : Requester) (a size : Nat) : State :=
  match chanWindow a with
  | some (c, o) =>
    if s.mod.holds c then
      let b := s.mod.answerTo req 0
      { s with mod := if overAttachment req then b.hpCfgErr else b }
    else if overAttachment req && s.cutOff c then s
    else s.setChan c ((s.chan c).read req o size)
  | none =>
    if bridgeBase ≤ a ∧ a < bridgeBase + bridgeSize then s.blockReadTo req (a - bridgeBase) size
    else
      let b := s.mod.miss 15 a req.num false (decide (size < 4)) (decide (4 ≤ size ∧ a % size ≠ 0))
      { s with mod := b.answerTo req 0 }

/-- Device address of an offset of BAR0: the bridge block, and above it the channel aperture (R375). -/
def Bridge.bar0 (b : Bridge) (x : Nat) : Nat :=
  if x < bridgeSize then bridgeBase + x
  else winBase (b.eff F.HP_APER_CHAN) + b.eff F.HP_APER_BLOCK * 0x400000 + (x - bridgeSize)

/-- A transaction of the I3C port (R464): 32-bit accesses to the bridge block alone. -/
def State.i3c (s : State) (o : Nat) (wr : Bool) (v : Nat) : State :=
  let o := o % 2 ^ 32
  let a := bridgeBase + o
  if bridgeSize ≤ o then
    let b := s.mod.miss 15 a Requester.i3c.num wr false (decide (o % 4 ≠ 0))
    { s with mod := if wr then b else b.answerTo .i3c 0 }
  else if wr then s.devWrite .i3c a 4 (v % 2 ^ 32) else s.devRead .i3c a 4

/-- A keeper's access to another channel's register window (R25). -/
def Channel.misdirected (ch : Channel) (a : Nat) : Channel :=
  match chanWindow a with
  | some (c, _) => if c = ch.no then ch else ch.raise 0x2B (unitWord ch.no 7 0 0 0) none a
  | none => ch

end Sys2Proof.Machine
end

