-- ==== Sys2Proof/Machine/Loss.lean ====
section
/-! DEFINITION. The replacement of a lantern, the loss of a channel, the module-fatal stop, the fog, and the fatal dumps (R430, R431,
R434 to R438). -/

namespace Sys2Proof.Machine

/-! ### Lantern replacement (R430) -/

/-- The alternate placement for a lantern in the keeper's tables, with its spare: table 1,024 of a placement names the failed
lantern and the spare, which must be usable (log entry 24). -/
def Channel.alternate (ch : Channel) (g : Nat) : Option (Nat × Nat) :=
  (upto 256).findSome? fun p =>
    match ch.ctx.tables.find (p * 65536 + 1024) with
    | some d =>
      let sp := num d 2 2
      if d.length = 4 ∧ num d 0 2 = g ∧ ch.err.spares.contains sp ∧ !ch.err.filling.any (fun x => x.1 == sp) then some (p, sp) else none
    | none => none

/-- The lantern leaves service: its streams abort, the acquisitions of its tasks are answered, the indices that it holds are replayed,
and each affected context has one record (R253, R261, R430). -/
def Channel.lanternOut (ch : Channel) (g : Nat) : Channel :=
  let ch := (upto 16).foldl (fun ch n => if (ch.lan g).stmState n = 0 then ch else ch.streamAbort g n) ch
  let q := (ch.lan g).tq
  let ctxs := ((q.tasks.map fun t => teCtx t.w) ++ (q.entries.map fun e => teCtx e.w)).foldl (fun xs n => insertAsc n xs) []
  let ch := q.tasks.foldl (fun ch t => ch.dropTask g t) ch
  let ch := q.entries.foldl (fun ch e => e.claims.foldl (fun ch x => ch.replayIndex g (teWc e.w) x.1 x.2) ch) ch
  let ch := ctxs.foldl (fun ch n => ch.raise 0xAD (ch.lanUnit g) (some n) 0) ch
  let ch := ch.modLan g fun l => ({ l with tq := { l.tq with entries := [], tasks := [] }, cores := [] }).tqSync
  let ch := (ch.lw g F.LN_STATUS_PARK_PEND 0 0).lw g F.LN_STATUS_PARKED 0 1
  let ch := ch.modCtx fun x => { x with held := x.held.filter fun y => (lanOffset (num y.2.2 0 4)).map (·.1) != some g }
  (ch.modErr fun e => { e with failed := insertAsc g e.failed }).seqCheck

/-- The image's programs and tables for every active lantern fill a spare's scratchpad (R406, R430). -/
def Channel.fillSpare (ch : Channel) (sp : Nat) : Channel :=
  let rs := ((ch.ctx.sects.filter fun x => x.1 == 0x12 || x.1 == 0x13).flatMap fun x => recsOf x.2.2).filter fun r =>
    r.kind == 1 && isSet r.dest 63
  rs.foldl (fun ch r => ch.modLan sp fun l => { l with sp := l.sp.wrN (64 * bits r.dest 11 0) r.data }) ch

/-- Every lantern replacement that is due in a channel is made at its boundary (R430, R433): the alternate placement is applied here
and, as register records, in every other channel. -/
def State.replaceLanterns (s : State) (c : Nat) : State :=
  let due := (s.chan c).err.replaceDue
  due.foldl (fun s x =>
    let ch := ((s.chan c).modErr fun e => { e with replaceDue := e.replaceDue.filter fun y => y.1 != x.1 }).lanternOut x.1
    let room := decide (ch.err.filling.length < ch.r F.CH_SPARES_LN_FREE)
    match ch.alternate x.1 with
    | some (p, sp) =>
      if room then
        let ch := (ch.fillSpare sp).applyPlacement p
        let ch := (upto 32).foldl (fun ch n => ch.bpInit sp n) ch
        let ch := ch.modErr fun e => { e with filling := e.filling ++ [(sp, x.2)] }
        let ch := ch.modCtx fun y => { y with place := p }
        let s := s.setChan c (ch.loadBlocks (ch.lanBlocks sp))
        s.eachChan fun k other => if k = c then other else other.applyPlacement p
      else s.setChan c (ch.raise 0xC5 (ch.lanUnit x.1) none 0)
    | none => s.setChan c (ch.raise 0xC5 (ch.lanUnit x.1) none 0)) s

/-- Spares whose filling has ended since the boundary before leave parking, and their replacements have taken effect (R422, R430). -/
def Channel.sparesIn (ch : Channel) : Channel :=
  let ready := ch.err.filling.filter fun x => !ch.loading x.1
  let wait := ch.err.filling.filter fun x => ch.loading x.1
  ready.foldl (fun ch x =>
    let ch := (ch.modErr fun e => { e with spares := e.spares.filter (· != x.1) }).release x.1
    let ch := (ch.w F.CH_SPARES_LN_FREE 0 (ch.r F.CH_SPARES_LN_FREE - 1)).countCores
    (ch.remedyEnd x.2).raise 0xAC (ch.lanUnit x.1) none 0) (ch.modErr fun e => { e with filling := wait })

/-! ### The loss of a channel (R431) -/

/-- The lanterns of a channel that are neither parked nor failed. -/
def Channel.working (ch : Channel) : List Nat :=
  (SMap.keys ch.lans).filter fun g => (ch.lan g).r F.LN_STATUS_PARKED == 0 && !ch.err.failed.contains g

/-- The keeper parks its lanterns (R142). -/
def Channel.parkAll (ch : Channel) : Channel := ch.working.foldl (fun ch g => ch.park g) ch

/-- A dump is ordered; one that is being written goes on (R436). -/
def Channel.dumpOrder (ch : Channel) (byLit : Bool) : Channel :=
  if ch.err.dumping.isSome || ch.err.dumped then ch
  else ch.modErr fun e => { e with dumping := some (ch.tick, ch.phase, byLit) }

/-- The channel stops compute (R431, step 1). -/
def Channel.stopCompute (ch : Channel) (cause : Nat) : Channel :=
  (ch.parkAll.w F.CH_INFO_FWD_ONLY 0 1).dumpOrder (cause == 0xC1)

/-- UNIT of the module (R418). -/
def moduleUnit : Nat := unitWord 0 14 0 0 0

/-- The sequence that a channel-fatal record starts (R431): steps 1 and 2, and the order of step 3 or the record of step 4. A channel
that start-up has failed takes steps 1 and 2 alone, since R408 chooses the placement without it (DEDUCED, log entry 101). -/
def State.channelLoss (s : State) (c : Nat) : State :=
  match s.mod.lossDue.find? fun x => x.1 == c with
  | none => s
  | some (_, cause) =>
    let s := s.setChan c ((s.chan c).stopCompute cause)
    let b := { s.mod with lossDue := s.mod.lossDue.filter fun x => x.1 != c }
    let up := b.r F.MOD_BOOT_CH_USABLE
    let b := b.w F.MOD_BOOT_CH_USABLE 0 (up - (up &&& 2 ^ c))
    let b := b.raise 0xAF (unitWord c 0 0 0 0) 0
    if b.boot.failedCh.contains c then { s with mod := b } else
    let all := match b.boot.image with
      | some i => if i.placeMask (b.r F.MOD_BOOT_PLACE) = 0xFFF then i.without c else none
      | none => none
    match all, b.boot.order with
    | some p, none => { s with mod := b.modBoot fun x => { x with order := some (p, c, []) } }
    | _, _ => { s with mod := b.raise 0xE0 moduleUnit 0 }

/-- What a placement order does in a channel at its boundary (R431, step 3): the keeper parks its lanterns, and once every keeper has
reported it resumes with those that the placement names. -/
def Channel.orderBoundary (ch : Channel) (order : Option (Nat × Nat × List Nat)) : Channel :=
  match order with
  | some _ => if ch.ctx.moving = 0 ∧ ch.r F.CH_INFO_FWD_ONLY = 0 then ch.parkAll.modCtx fun x => { x with moving := 1 } else ch
  | none =>
    if ch.ctx.moving = 3 then (ch.modCtx fun x => { x with moving := 0 }).releaseAll else ch

/-- The number of contexts homed on a channel: those not FREE. -/
def Channel.homed (ch : Channel) : Nat := (ch.ctx.known.filter fun n => ch.cst n != 0).length

/-- The keeper of a channel whose lanterns have parked applies the placement and loads its blocks (R431, step 3). -/
def Channel.placementTake (ch : Channel) (p : Nat) : Channel :=
  if ch.ctx.moving = 1 ∧ ch.working.isEmpty then
    let ch := (ch.applyPlacement p).modCtx fun x => { x with place := p, moving := 2 }
    ch.loadBlocks ch.blocks
  else ch

/-- The keeper of a channel has applied the placement and loaded its blocks, and reports; with the last report PLACE is written,
the lost contexts are recorded, and the keepers may resume (R431, step 3). -/
def State.placementResume (s : State) (c : Nat) : State :=
  match s.mod.boot.order with
  | none => s
  | some (p, lost, got) =>
    let ch := (s.chan c).placementTake p
    let s := s.setChan c ch
    if ch.ctx.moving ≠ 2 ∨ !ch.ctx.loads.isEmpty ∨ got.contains c then s
    else
      let got := got ++ [c]
      let want := (upto 12).filter fun k => (s.mod.r F.MOD_BOOT_CH_USABLE).testBit k
      if want.all got.contains then
        let b := (s.mod.modBoot fun x => { x with order := none }).w F.MOD_BOOT_PLACE 0 p
        let s : State := { s with mod := b.raise 0xAE (unitWord lost 0 0 0 0) ((s.chan lost).homed % 65536) }
        s.eachChan fun _ y => if y.ctx.moving = 2 then y.modCtx fun x => { x with moving := 3 } else y
      else { s with mod := s.mod.modBoot fun x => { x with order := some (p, lost, got) } }

/-! ### The module-fatal stop and the fog (R434, R435) -/

/-- Usable channels (R39, R408). -/
def Bridge.usable (b : Bridge) (c : Nat) : Bool := (b.r F.MOD_BOOT_CH_USABLE).testBit c

/-- The last step of R434: every usable keeper parks its lanterns and writes its dump, and the module enters STOPPED. -/
def State.stopAll (s : State) : State :=
  let s := s.eachChan fun c ch => if s.mod.usable c then ch.parkAll.dumpOrder false else ch
  { s with mod := s.mod.w F.MOD_BOOT_STAGE 0 6 }

/-- A channel sends this module's FOG packet on its up P2 port (R354, R434). -/
def Channel.fogOriginate (ch : Channel) (seq cause tick : Nat) : Channel :=
  let ch := { ch with link := { ch.link with fogs := ((ch.node, seq) :: ch.link.fogs).take 16 } }
  if ch.portUp 2 then
    let arg := seq % 256 + (cause % 256) * 256 + (tick % 2 ^ 48) * 65536
    ch.queuePkt 2 { p := { ptype := 0x21, dst := 0xFFFFF, src := ch.node, hops := 15, arg0 := arg } }
  else ch

/-- The steps that the lit half takes on a module-fatal record (R434). -/
def State.moduleFatal (s : State) : State :=
  match s.mod.fatalDue with
  | none => s
  | some cause =>
    let b := { (s.mod.modBoot fun x => { x with fogOut := true }) with fatalDue := none, alert := true }
    let b := (b.w F.ERR_MOD_STATUS_FOG_OUT 0 1).w F.ERR_MOD_STATUS_MOD_FATAL 0 1
    let b := b.w F.HP_STATUS_VIRAL 0 1
    let seq := (b.r F.ERR_FOG_LAST_SENT_SEQ + 1) % 256
    let b := b.w F.ERR_FOG_LAST_SENT_SEQ 0 seq
    let s : State := { s with mod := b }
    let s := s.eachChan fun c ch => if b.usable c then ch.fogOriginate seq cause (b.r F.TB_TICK_TICK) else ch
    s.stopAll

/-- A received fog is recorded (R435). -/
def State.fogIn (s : State) (node seq cause : Nat) (line : Bool) : State :=
  let b := s.mod
  let b := ((b.w F.ERR_FOG_LAST_NODE 0 node).w F.ERR_FOG_LAST_SEQ 0 seq).w F.ERR_FOG_LAST_CAUSE 0 cause
  let b := (b.w F.ERR_FOG_LAST_VIA_LINE 0 (b2n line)).inc F.ERR_FOG_RX_CNT_COUNT 0 1
  let b := b.w F.ERR_MOD_STATUS_FOG_IN 0 1
  let b := { b.raise 0x88 moduleUnit (node % 2 ^ 20 + (seq % 256) <<< 20 + (cause % 256) <<< 28) with alert := true }
  let b := b.modBoot fun x => { x with fogWait := false }
  let s : State := { s with mod := b }
  if b.eff F.ERR_MOD_CFG_FOG_ACT = 1 then s.stopAll else s

/-- A channel of the module has already received this fog, or sent it (R354). -/
def State.fogKnown (s : State) (k : Nat × Nat) : Bool := (upto 12).any fun c => (s.chan c).link.fogs.contains k

/-- FOG: a channel receives a fog packet, and hands a new one to the bridge (R354). The module takes each fog once,
whichever of its channels bring it (R435). -/
def State.fogPacket (s : State) (c : Nat) : State :=
  let (ch, p) := (s.chan c).fogPacket
  let t := s.setChan c ch
  match p with
  | some p =>
    if s.fogKnown (p.src, p.arg0 % 256) then t else t.fogIn p.src (p.arg0 % 256) (bits p.arg0 15 8) false
  | none => t

/-- FOG_N is sensed low (R435): the record waits 1 ms for the packet that names the origin. -/
def Bridge.fogLow (b : Bridge) : Bridge :=
  if b.boot.fogOut || b.eff F.ERR_MOD_CFG_FOG_IN_EN == 0 then b
  else { (b.w F.ERR_MOD_STATUS_FOG_IN 0 1).modBoot (fun x => { x with fogWait := true }) with alert := true }

/-- No FOG packet has come within 1 ms of the line (R435). -/
def State.fogTimeout (s : State) : State := if s.mod.boot.fogWait then s.fogIn 0xFFFFF 0 0 true else s

/-! ### Dumps (R436 to R438) -/

/-- The bytes of a block of registers from an offset, as 4-byte words; a word without a register reads as 0. -/
def blockBytes (fs : List Fld) (sh : Fld → Nat → Nat) (o len : Nat) : List (BitVec 8) :=
  (upto (len / 4)).flatMap fun i =>
    match regHolding fs (o + 4 * i) with
    | some (_, xs, hi) => toBytes 4 (if hi then regValue sh xs >>> 32 else regValue sh xs % 2 ^ 32)
    | none => toBytes 4 0

/-- A block of the channel window, and a block of every lantern in grid order. -/
def Channel.dumpBlock (ch : Channel) (o len : Nat) : List (BitVec 8) := blockBytes channelFields ch.show o len
def Channel.dumpLans (ch : Channel) (parts : List (Nat × Nat)) : List (BitVec 8) :=
  (upto 1536).flatMap fun g => parts.flatMap fun p => blockBytes lanternFields (ch.lan g).show p.1 p.2

/-- Free bytes (log entry 4). -/
def freeBytes (src from_ n : Nat) : List (BitVec 8) := (upto n).map fun i => BitVec.ofNat 8 (Config.free src (from_ * 2 ^ 24 + i))

/-- The lantern that a fatal record's UNIT names, if its kind lies in one (R418). -/
def unitLantern (u : Nat) : Option Nat := if 1 ≤ u % 16 ∧ u % 16 ≤ 6 then some (unitGrid u) else none

/-- The sections of a channel's dump (R437): type and bytes. The keeper's trace has free length and contents. -/
def Channel.dumpSections (ch : Channel) (byLit : Bool) : List (Nat × List (BitVec 8)) :=
  let trace := if byLit then [] else freeBytes (64 + ch.no) ch.fresh (Config.free (64 + ch.no) (ch.fresh + 1) % (2 ^ 24 + 1))
  [(1, ch.dumpBlock 0x10000 0x1000), (2, ch.dumpBlock 0 0x1000), (3, ch.dumpBlock 0x100000 0x10000),
   (4, ch.dumpBlock 0x20000 0x1000), (5, ch.dumpBlock 0x30000 0x3000 ++ ch.dumpBlock 0x34000 0x1000 ++ ch.dumpBlock 0x38000 0x800),
   (6, ch.dumpLans [(0, 0x100)]), (7, ch.dumpLans ((upto 64).map fun k => (0x8000 + 0x100 * k, 0x80))),
   (8, ch.dumpLans [(0x3800, 0x800), (0x5000, 0x400)]), (9, trace)] ++
  (match unitLantern (ch.r F.ERR_FATAL_REC_REC 2 % 2 ^ 32) with
   | some g => [(10, (ch.lan g).sp.rdN 0 0x40000)]
   | none => [])

/-- Directory entries of sections from an offset, each section on a 4 KiB boundary (R437). -/
def dumpDir : List (Nat × List (BitVec 8)) → Nat → List (BitVec 8)
  | [], _ => []
  | (t, d) :: xs, o => toBytes 2 t ++ toBytes 2 0 ++ toBytes 4 d.length ++ toBytes 8 o ++ dumpDir xs (o + alignUp d.length 4096)

/-- A dump header (R437). -/
def dumpHeader (source count tick phase node : Nat) (fatal : List Nat) (b : Bridge) (dir : List (BitVec 8)) : List (BitVec 8) :=
  let h := toBytes 4 0x504D4448 ++ toBytes 2 1 ++ toBytes 2 source ++ toBytes 4 count ++ toBytes 4 1 ++
    fatal.flatMap (toBytes 8) ++ toBytes 8 (tick + phase <<< 48) ++ toBytes 8 (b.eff F.TB_EPOCH_EPOCH) ++
    toBytes 4 (b.r F.MOD_IMAGE_SEQ) ++ toBytes 2 (b.r F.MOD_IMAGE_SVN) ++ toBytes 1 (b.r F.MOD_BOOT_PLACE) ++ toBytes 1 0 ++
    toBytes 4 node
  fitTo 4096 0 (fitTo 0x100 0 h ++ dir)

/-- Offset of the dump area in a channel's HBM (R320). -/
def dumpBase : Nat := 0xFF0000000

/-- A dump with a value of STATE in its header (R437). -/
def dumpState (st : Nat) (d : List (BitVec 8)) : List (BitVec 8) := d.take 12 ++ toBytes 4 st ++ d.drop 16

/-- The fatal record of a dump (R437): the channel's own, or the module's where the channel has none. -/
def State.dumpFatal (s : State) (ch : Channel) : List Nat :=
  if ch.r F.ERR_STATUS_FATAL = 1 then ch.regs.getWords F.ERR_FATAL_REC_REC 0 4 else s.mod.regs.getWords F.ERR_MOD_FATAL_REC_REC 0 4

/-- The keeper, or the lit half in its place, writes the dump, and STATE last (R436, R437). -/
def State.dumpDone (s : State) (c : Nat) : State :=
  let ch := s.chan c
  match ch.err.dumping with
  | none => s
  | some (t, ph, byLit) =>
    let secs := ch.dumpSections byLit
    let src := ch.no + (if byLit then 16 else 0)
    let h := dumpHeader src secs.length t ph ch.node (s.dumpFatal ch) s.mod (dumpDir secs 4096)
    let d := h ++ secs.flatMap fun x => fitTo (alignUp x.2.length 4096) 0 x.2
    let ch := ({ ch with fresh := ch.fresh + 2 } : Channel).modErr fun e => { e with dumping := none, dumped := true }
    let ch := ch.keeperStore dumpBase (dumpState 0 d) (.dump false) (.dump false)
    s.setChan c (ch.keeperStore dumpBase ((dumpState 1 d).take 64) (.dump true) (.dump true))

/-- Length of the dump that stands in a channel's dump area, from its directory. -/
def Channel.dumpLen (ch : Channel) : Nat :=
  let m := ch.hbm.mem
  let n := m.rdNat (dumpBase + 8) 4
  (upto n).foldl (fun len i =>
    let e := dumpBase + 0x100 + 16 * i
    max len (alignUp (m.rdNat (e + 8) 8 + m.rdNat (e + 4) 4) 4096)) 4096

/-- The part of a dump that fits into `room` bytes, with FLAGS[0] set for the section that is cut (R438). -/
def Channel.dumpCut (ch : Channel) (room : Nat) : List (BitVec 8) :=
  let m := ch.hbm.mem
  let n := m.rdNat (dumpBase + 8) 4
  let m := match (upto n).find? fun i =>
      let e := dumpBase + 0x100 + 16 * i
      decide (room < m.rdNat (e + 8) 8 + m.rdNat (e + 4) 4) with
    | some i => m.wr (dumpBase + 0x100 + 16 * i + 2) 1
    | none => m
  m.rdN dumpBase (min room ch.dumpLen)

/-- A channel has a dump, written or being written. -/
def Channel.dumps (ch : Channel) : Bool := ch.err.dumping.isSome || ch.err.dumped

/-- Lines of the dump are still on their way into the stack. -/
def Channel.dumpFlying (ch : Channel) : Bool :=
  let due := fun (r : HReq) => r.wr && decide (dumpBase / 64 ≤ r.line)
  ch.hbm.gate.any due || ch.hbm.ports.any fun q => q.2.cmd.any due || (upto 3).any fun c => (q.2.queue c).any due

/-- The lit half copies the next finished dump to host memory (R438). The module header gains the channel's entry, and after the last
dump, or at the end of the buffer, DUMP_DONE sets. -/
def State.dumpHostCopy (s : State) : State :=
  let b := s.mod
  let limit := b.eff F.ERR_DUMP_SIZE_MIB * 2 ^ 20
  let host := b.eff F.ERR_DUMP_HOST_ADDR * 4096
  if limit ≤ b.boot.copyAt then s
  else match (upto 12).find? fun c => (s.chan c).dumps && !b.boot.copied.contains c with
  | none => s
  | some c =>
    let ch := s.chan c
    if ch.r F.ERR_STATUS_DUMP_DONE = 0 ∨ ch.dumpFlying then s
    else
      let at_ := max 4096 b.boot.copyAt
      let d := ch.dumpCut (limit - at_)
      let k := b.boot.copied.length
      let entry := toBytes 2 (0x80 + c) ++ toBytes 2 (b2n (decide (d.length < ch.dumpLen))) ++ toBytes 4 d.length ++ toBytes 8 at_
      let m := if k = 0 then
          b.hostMem.wrN host (dumpState 0 (dumpHeader 0x20 1 (b.r F.TB_TICK_TICK) (b.r F.TB_TICK_PHASE) (b.r F.MOD_NODE_MODULE * 16)
            (if b.r F.ERR_MOD_STATUS_MOD_FATAL = 1 then b.regs.getWords F.ERR_MOD_FATAL_REC_REC 0 4 else s.dumpFatal ch) b []))
        else b.hostMem
      let m := ((m.wrN (host + 0x100 + 16 * k) entry).wrNat (host + 8) 4 (k + 1)).wrN (host + at_) d
      let x := b.modBoot fun x => { x with copied := x.copied ++ [c], copyAt := at_ + d.length }
      let last := ((upto 12).all fun c => !(s.chan c).dumps || x.boot.copied.contains c) || decide (limit ≤ at_ + d.length)
      { s with mod := if last then ({ x with hostMem := m.wrNat (host + 0x0C) 4 1 } : Bridge).w F.ERR_MOD_STATUS_DUMP_DONE 0 1
                      else { x with hostMem := m } }

end Sys2Proof.Machine
end

