-- ==== Sys2Proof/Machine/Ticks.lean ====
section
/-! DEFINITION. Ticks: the bridge's tick message, the start of a channel tick with all that happens at it, and the array cycle that
passes when no command waits (R143, R276 to R279, R284, R355, R433, R449, R450). -/

namespace Sys2Proof.Machine

/-- A port of a channel is up as the bridge sees it, and the channel forwards (R34, R35, R355). -/
def State.segUp (s : State) (c p : Nat) : Bool := !s.mod.holds c && (s.chan c).portUp p

/-- The 24-bit port mask (R355). -/
def State.portMask (s : State) : Nat :=
  (upto 12).foldl (fun m n =>
    let ring := s.segUp n 1 && s.segUp ((n + 1) % 12) 0
    m + (b2n ring) <<< n + (b2n (s.segUp n 2)) <<< (12 + n)) 0

/-- The message of the bridge's present tick reaches a channel, once (R276, R355). -/
def State.tickMessage (s : State) (c : Nat) : State :=
  if s.mod.tb.due.contains c then
    let s := { s with mod := s.mod.modTb fun t => { t with due := t.due.filter (· != c) } }
    s.setChan c ((s.chan c).tickMessage (s.mod.r F.TB_TICK_TICK) s.portMask (s.mod.r F.TB_PERIOD_P))
  else s

/-- The page-fault events of a channel that the bridge dropped are raised again while their faults remain (R384). -/
def State.reRaise (s : State) (c : Nat) : State :=
  let mine := s.mod.hp.dropped.filter fun x => x.1 == c
  let b := s.mod.modHp fun h => { h with dropped := h.dropped.filter fun x => x.1 != c }
  let live := mine.filter fun x => (s.chan c).hbm.faults.any fun f => f.page == num x.2 4 4
  { s with mod := live.foldl (fun b x => b.eventPut 1 x.2) b }

/-- The tick marker of a channel whose P2 port relays (R278): it enters egress at phase 8 of the bridge tick (R276). -/
def State.relayMarker (s : State) (c : Nat) : State :=
  let b := s.mod
  if isSet (b.r F.TB_CFG_RELAY) c ∧ (s.chan c).portUp 2 then
    let hops := if b.r F.TB_CFG_SRC = 0 then 0 else b.tb.hops
    s.setChan c ((s.chan c).sendMarker 8 (b.r F.TB_STAT_LOCKED) (b.r F.TB_STAT_HOLDOVER) hops (b.eff F.TB_EPOCH_EPOCH))
  else s

/-- What happens at a channel boundary (R284, step 1; R430, R431, R433). -/
def State.boundary (s : State) (c : Nat) : State :=
  let s := s.setChan c (((s.chan c).latchAll.sparesIn).retireAll)
  let s := s.replaceLanterns c
  s.setChan c ((s.chan c).orderBoundary s.mod.boot.order)

/-- What follows the start of a channel tick (R284, R446). -/
def State.afterTick (s : State) (c : Nat) : State :=
  let s := s.setChan c (s.chan c).parkTick.opTick
  let s := if (s.chan c).atBoundary then s.boundary c else s
  let s := s.setChan c ((s.chan c).keeperSteps)
  (s.relayMarker c).reRaise c

/-- A channel tick begins with the message that has arrived (R276, R284). -/
def State.channelTick (s : State) (c : Nat) : State :=
  match (s.chan c).ctx.msg with
  | none => s
  | some (count, _) => (s.setChan c ((s.chan c).tickOfMessage count)).afterTick c

/-- A channel tick begins without a message: none has arrived within the acceptance window (R270, R277). -/
def State.channelHoldover (s : State) (c : Nat) : State :=
  let ch := s.chan c
  if ch.ctx.ticking && ch.ctx.msg.isNone && decide (1024 + s.mod.r F.TB_CFG_WIN ≤ ch.tickPhase) then (s.setChan c ch.tickAlone).afterTick c else s

/-- TICK: a marker that has arrived goes to the bridge, which places a tick edge when the channel is its source (R279, R353).
`at_` is the arrival in cycles of 250 MHz. -/
def State.tickPacket (s : State) (c at_ : Nat) : State :=
  match (s.chan c).tickPacket with
  | none => s
  | some (p, ch) =>
    let s := s.setChan c ch
    if s.mod.r F.TB_CFG_SRC_CH = c ∧ p.via.map (·.1) = some 2 then
      { s with mod := s.mod.marker at_ (ch.r F.LK_LAT_LAT 2) p.arg0 p.arg1 }
    else s

/-! ### The array cycle (R3, R449, R450) -/

/-- What one array cycle counts in a lantern, and the work of its task unit. -/
def Channel.lanCycle (ch : Channel) (g : Nat) : Channel :=
  let ch := if ch.tbufStall g then ch.tbufWait g else ch
  (ch.modLan g fun l =>
    let l := if l.veHeld ch.cyc then l.inc F.VE_STALL_CY_COUNT 0 1 else l
    (l.coreCycle ch.cyc).tdCycle).tqCycle g

/-- DRAINs and vector instructions whose last stage ends with the cycle are done. -/
def Channel.lanSettle (ch : Channel) (g : Nat) : Channel :=
  ((SMap.keys (ch.lan g).cores).foldl (fun ch k => ch.drainSettle g k) ch).veSettle g

/-- A whole array cycle of a channel passes; its events are past in the lanterns' register blocks (R11, R113). -/
def Channel.unitCycle (ch : Channel) : Channel :=
  let gs := SMap.keys ch.lans
  let ch := gs.foldl (fun ch g => ch.lanCycle g) ch
  let ch := gs.foldl (fun ch g => ch.lanSettle g) { ch with cyc := ch.cyc + 1 }
  let ch := ch.seqCheck
  { ch with lans := ch.lans.mapV fun _ l => { l with regs := l.regs.newCycle } }

/-- The time of one array cycle at 850 MHz passes in a channel: as much of a cycle as the operating point's frequency makes of it
(R445), half as much while VCORE droops (R450), and nothing while the array clock is stopped (R449). -/
def Channel.cycle (ch : Channel) : Channel :=
  let ch := ({ ch with ctx := { ch.ctx with tickTm := ch.ctx.tickTm + 5 } } : Channel).showPhase
  if !ch.clkOn then ch
  else
    let t := ch.pwr.part + (if ch.pwr.droop then 1 else 2) * opMhz ch.pwr.code
    if t < 1700 then { ch with pwr := { ch.pwr with part := t } }
    else
      let ch := { ch with pwr := { ch.pwr with part := t - 1700 } }
      (if ch.pwr.droop then ch.inc F.CH_DROOP_CNT_COUNT 0 1 else ch).unitCycle

/-- The events of the cycle that has passed are past in the channel's own register blocks (R11, R113). -/
def Channel.newCycle (ch : Channel) : Channel := { ch with regs := ch.regs.newCycle }

/-- The host's responses to the translated writes of the past cycle reach their channels, but for a channel whose translated
accesses stand still (R231, R317, R372, log entry 113). -/
def State.hostResponses (s : State) : State :=
  let out := s.mod.hp.xltOut
  out.foldl (fun s x =>
    if s.mod.holds x.1 then s
    else if (s.chan x.1).hostHeld then { s with mod := s.mod.modHp fun h => { h with xltOut := h.xltOut ++ [x] } }
    else s.setChan x.1 ((s.chan x.1).xferDone x.2.1 x.2.2.1 x.2.2.2)) { s with mod := s.mod.modHp fun h => { h with xltOut := [] } }

/-- No command waits: one array cycle's time passes in every channel. -/
def State.idle (s : State) : State :=
  if s.mod.boot.inReset then s
  else
    let s := s.hostResponses.eachChan fun _ ch => ch.cycle.newCycle.hostSettle
    let b := s.mod.cycle
    ({ s with mod := { b with regs := b.regs.newCycle } } : State).goSettle

end Sys2Proof.Machine
end

