-- ==== Sys2Proof/Machine/HostCmd.lean ====
section
/-! DEFINITION. The host commands of the command rings (R382, R383). -/

namespace Sys2Proof.Machine

/-- OP and CHAN of a command entry. -/
def HCmd.op (x : HCmd) : Nat := x.arg 0 1
def HCmd.chan (x : HCmd) : Nat := x.arg 4 1

/-- Flags and reserved bytes hold 0, and CHAN is as the opcode asks (R383). -/
def HCmd.formed (x : HCmd) : Bool :=
  x.arg 1 1 / 4 == 0 && x.arg 5 3 == 0 &&
    (if x.op = 1 ∨ x.op = 2 then decide (x.chan < 12) else x.chan == 0xFF)

/-- The next command of a ring pair to start (R382), if it may start: the pair runs, its completion ring is not full, and a fence has
no earlier command left. -/
def Bridge.nextCmd (b : Bridge) (r : Nat) : Option HCmd :=
  let q := b.ring r
  if 16 ≤ r ∨ b.eff F.HP_RING_CFG_EN r = 0 ∨ q.stopped ∨ b.hp.perst ∨ !b.cpRoom r then none
  else match q.cmds.find? fun x => !x.started with
  | none => none
  | some x => if x.arg 1 1 % 2 = 1 ∧ q.cmds.any (fun y => y.started) then none else some x

/-- Starts the next command of ring pair `r` when its opcode is `op`: a command that is malformed, or whose opcode is unknown,
completes with STATUS 2. -/
def State.startCmd (s : State) (r op : Nat) (f : HCmd → State → State) : State :=
  match s.mod.nextCmd r with
  | none => s
  | some x =>
    if x.op = op ∧ x.formed then f x s
    else if x.op = op ∨ 5 < x.op then { s with mod := s.mod.complete r x 2 [] }
    else s

/-- Completes a command. -/
def State.finishCmd (s : State) (r : Nat) (x : HCmd) (status : Nat) (payload : List (BitVec 8)) : State :=
  { s with mod := s.mod.complete r x status payload }

/-- NOP (R383). -/
def State.cmdNop (s : State) (r : Nat) : State := s.startCmd r 0 fun x s => s.finishCmd r x 0 []

/-- A command word is not discarded by R292. -/
def ctxFormed (w : Nat) : Bool := decide (bits w 13 10 ≤ 10) && bits w 63 54 == 0

/-- The words of a context record that a CTX completion holds. -/
def Channel.ctxRecord (ch : Channel) (n : Nat) : List (BitVec 8) :=
  let word := fun (f : Fld) => toBytes 8 (regValue ch.show (regAt channelFields (f.base + f.stride * n)))
  word F.CTX_STATE_STATE ++ word F.CTX_LOCK_OWNER

/-- CTX (R383): the word is applied, and in a later tick the record is read and the command completes. -/
def State.cmdCtx (s : State) (r : Nat) : State :=
  match (s.mod.ring r).cmds.find? fun x => x.op == 1 && x.started && (s.chan x.chan).tick != x.tick with
  | some x => s.finishCmd r x x.status ((s.chan x.chan).ctxRecord (x.arg 0x08 8 % 1024))
  | none => s.startCmd r 1 fun x s =>
    let w := x.arg 0x08 8
    if !ctxFormed w then s.finishCmd r x 2 []
    else if s.mod.hostBlocked x.chan then s.finishCmd r x 4 []
    else if s.cutOff x.chan then s
    else
      let ch := s.chan x.chan
      let ch1 := (ch.w F.CH_CTX_STAT_REJ 0 0).ctxCmd w
      let rej := ch1.r F.CH_CTX_STAT_REJ
      let ch1 := ch1.w F.CH_CTX_STAT_REJ 0 (max rej (ch.r F.CH_CTX_STAT_REJ))
      let s := s.setChan x.chan ch1
      { s with mod := s.mod.modCmd r x.id fun y => { y with started := true, tick := ch.tick, status := rej } }

/-- PAGE_READY (R319, R383). -/
def State.cmdPageReady (s : State) (r : Nat) : State := s.startCmd r 2 fun x s =>
  let page := x.arg 0x08 4
  if 98303 < page then s.finishCmd r x 2 []
  else if s.mod.hostBlocked x.chan then s.finishCmd r x 4 []
  else if s.cutOff x.chan then s
  else (s.setChan x.chan ((s.chan x.chan).pageReady page)).finishCmd r x 0 []

/-- Lines of a MOVE enter the share gate of its channel: host lines that came with an error are left out (R383). -/
def Channel.moveLines (ch : Channel) (r id line n : Nat) (out : Bool) (data : List (BitVec 8)) (errs : List Nat) : Channel :=
  ((upto n).filter fun i => !errs.contains i).foldl (fun ch i =>
    ch.gatePush (if out then { cls := 0, line := line + i, dst := .move r id i, src := 100001 }
      else { cls := 1, line := line + i, wr := true, data := fitTo 64 0 (slice data (64 * i) 64),
             mask := List.replicate 64 true, dst := .move r id i, src := 100001 })) ch

/-- MOVE (R383): `data` is what the host memory holds in the command's host range, and `errs` names the host lines that answer with
an error. -/
def State.cmdMove (s : State) (r : Nat) (data : List (BitVec 8)) (errs : List Nat) : State := s.startCmd r 3 fun x s =>
  let host := x.arg 0x08 8
  let dev := x.arg 0x10 8
  let len := x.arg 0x18 4
  let dir := x.arg 0x1C 1
  if host % 64 ≠ 0 ∨ dev % 64 ≠ 0 ∨ len % 64 ≠ 0 ∨ len < 64 ∨ 16777216 < len ∨ 1 < dir then s.finishCmd r x 2 []
  else
    let c := hbmChan dev
    let line := dev % 2 ^ 36 / 64
    let n := len / 64
    if 12 ≤ c ∨ hbmChan (dev + len - 1) ≠ c ∨ protectedLine (line + n - 1) then s.finishCmd r x 3 []
    else if s.mod.hostBlocked c then s.finishCmd r x 4 []
    else if s.cutOff c then s
    else
      let bad := (upto n).filter errs.contains
      if bad.length = n then s.finishCmd r x 6 []
      else
        let s := s.setChan c ((s.chan c).moveLines r x.id line n (dir == 1) data errs)
        { s with mod := s.mod.modCmd r x.id fun y =>
            { y with started := true, left := n - bad.length, status := if bad.isEmpty then 0 else 6 } }

/-- One 8-byte register of the bridge block is read for SNAP: the value and the state. -/
def State.snapBlock (s : State) (o : Nat) : Nat × State :=
  let (v, b) := s.mod.blockRead .hostCmd o 8
  (v, { s with mod := b })

/-- One 8-byte register of a SNAP range is read: the value and the state. -/
def State.snapRead (s : State) (a : Nat) : Nat × State :=
  match chanWindow a with
  | some (c, o) =>
    if s.mod.holds c then (0, s)
    else
      let (ch, v) := (s.chan c).regRead .hostCmd o 8
      (v, s.setChan c ch)
  | none => s.snapBlock (a - bridgeBase)

/-- A register range lies in the bridge block, or in one channel window outside the scratchpad windows (R383). -/
def snapRange (a len : Nat) : Bool :=
  match chanWindow a with
  | some (c, o) =>
    (chanWindow (a + len - 1)).map (·.1) == some c &&
      (match lanOffset o, lanOffset (o + len - 1) with
       | some (g, lo), some (g1, lo1) => g == g1 && decide (lo < 0xF000) && decide (lo1 < 0xF000)
       | some (_, lo), none => decide (lo < 0xF000)
       | _, _ => true)
  | none => decide (bridgeBase ≤ a) && decide (a + len ≤ bridgeBase + bridgeSize)

/-- SNAP (R383). -/
def State.cmdSnap (s : State) (r : Nat) : State := s.startCmd r 4 fun x s =>
  let a := x.arg 0x08 8
  let host := x.arg 0x10 8
  let len := x.arg 0x18 4
  if a % 8 ≠ 0 ∨ host % 64 ≠ 0 ∨ len % 8 ≠ 0 ∨ len < 8 ∨ 4096 < len then s.finishCmd r x 2 []
  else if !snapRange a len then s.finishCmd r x 3 []
  else if s.cutOffAt a then s
  else
    let s := (upto (len / 8)).foldl (fun s i =>
      let (v, s) := s.snapRead (a + 8 * i)
      { s with mod := { s.mod with hostMem := s.mod.hostMem.wrN (host + 8 * i) (toBytes 8 v) } }) s
    s.finishCmd r x 0 []

/-- A slot of REG_WRITE: its address word and its value. -/
def HCmd.slot (x : HCmd) (i : Nat) : Nat × Nat := (x.arg (8 + 16 * i) 8, x.arg (16 + 16 * i) 8)

/-- REG_WRITE (R383): an address below the register windows is outside the argument's range. -/
def State.cmdRegWrite (s : State) (r : Nat) : State := s.startCmd r 5 fun x s =>
  let slots := ((upto 3).map x.slot).filter fun w => isSet w.1 63
  if slots.any fun w => w.1 % 2 ^ 48 < winBase 0 then s.finishCmd r x 2 []
  else if slots.any fun w => s.cutOffAt (w.1 % 2 ^ 48) then s
  else
    let s := slots.foldl (fun s w => s.devWrite .hostCmd (w.1 % 2 ^ 48) (if isSet w.1 62 then 8 else 4) w.2) s
    s.finishCmd r x 0 []

end Sys2Proof.Machine
end

