-- ==== Sys2Proof/Machine/Deliver.lean ====
section
/-! DEFINITION. What leaves an arbiter: granted scratchpad accesses and finished memory requests go to the units that made them (R146,
R164, R170, R311). -/

namespace Sys2Proof.Machine

/-- The line that the debug port has read. -/
def Channel.debugAnswer (ch : Channel) (d : List (BitVec 8)) : Channel :=
  { ch with answer := ch.answer.put (Requester.num .debug) (ofBytes d) }

/-- A granted access to a bank of the lantern `g` goes to its requester, with the line for a read. -/
def Channel.deliverAcc (ch : Channel) (g : Nat) (a : Acc1) (d : List (BitVec 8)) : Channel :=
  match a.dst with
  | .insn k t line last => ch.insnArrive g k t line last d
  | .oload k q dst => ch.olArrive g k q dst d
  | .gather k q line => ch.trArrive g k q line d
  | .drain k q => ch.drainGranted g k q
  | .vinsn t line last => ch.veInsnArrive g t line last d
  | .vmem q line => ch.vmemArrive g q line d
  | .xferRead h _ x i => ch.xferData h x i d
  | .xferWrite h _ x i => ch.xferDone h x i
  | .list st run line => ch.listData g st run line d
  | .window req off size => if a.wr then ch else ch.windowAnswer req off size d
  | .debug => if a.wr then ch else ch.debugAnswer d
  | .landing bp slot src => ch.landWritten g bp slot src
  | .reload => ch.reloaded g a.line
  | .none => ch

/-- The owner of the current slot of a bank moves its access (R146, R164): `w` and `chk` say what SECDED finds in one word of the
line. -/
def Channel.bankGrant (ch : Channel) (g b w : Nat) (chk : Check) : Channel :=
  let bk := (ch.lan g).bank b
  match bk.arb.owner with
  | none => ch
  | some o =>
    if bk.arb.moved ∨ ch.cyc < bk.arb.from_ ∨ !bk.asks o then ch
    else
      let (as, bk) := bk.pop o
      let ch := ch.modLan g fun l =>
        let l := { l with banks := l.banks.put b { bk with arb := bk.arb.beat } }
        if o = 1 then as.foldl (fun l a => l.tdNext a.wr) l else l
      let (ch, d) := ch.spAccess g as (o == 0) w chk
      (as.foldl (fun ch a => ch.deliverAcc g a d) ch).hostSettle

/-- A finished request of the memory controller goes to its requester. -/
def Channel.deliverHbm (ch : Channel) (x : HDone) : Channel :=
  match x.r.dst with
  | .xfer g _ xid i => if x.r.wr then ch.xferDone g xid i else ch.xferData g xid i x.data x.bad
  | .list g st run line => ch.listData g st run line x.data x.bad
  | .walk page => ch.walkData page x.data
  | .host tag =>
    if x.r.wr then ch.tell (.hostAck tag)
    else
      let ch := ch.modHbm fun h => { h with hostRd := h.hostRd.put tag (x.data, x.bad) }
      if x.bad then ch.tell .hostPoison else ch
  | .move r id i => ch.tell (.moved r id i (if x.r.wr then none else some x.data) x.bad)
  | .remote sid i => ch.remoteLine sid i x.data x.bad x.prot
  | .reload g line => ch.reloadLine g line x.data
  | .dump last => if last then ch.w F.ERR_STATUS_DUMP_DONE 0 1 else ch
  | .debug => if x.r.wr then ch else ch.debugAnswer x.data
  | .none => ch

/-- Hands a finished request over, if there is one. -/
def Channel.handOver (p : Channel × Option HDone) : Channel :=
  match p.2 with
  | some x => (p.1.deliverHbm x).hostSettle
  | none => p.1

/-- The place that an arbiter serves exists (R170). -/
def arbPlaceOk : ArbPlace → Bool
  | .bank g b => decide (g < 1536) && decide (b < 16)
  | .hbm p => decide (p < 64)
  | .port p => decide (p < 3)

/-- One decision of an arbiter (R164 to R170). A bank's arbiter stands with the array clock (R449). -/
def Channel.arbDecide (ch : Channel) : ArbPlace → Channel
  | .bank g b => if ch.clkOn then ch.bankDecide g b else ch
  | .hbm p => ch.hbmSlot p
  | .port p => ch.portDecide p

/-- The debug port asks for an access to a scratchpad bank, or to a pseudo-channel of the stack (R170). -/
def Channel.debugAccess (ch : Channel) (place : ArbPlace) (line : Nat) (wr : Bool) (data : List (BitVec 8)) (mask : List Bool) :
    Channel :=
  match place with
  | .bank g _ =>
    if !ch.clkOn then ch
    else ch.modLan g (·.queueAcc 3 { line := line % 4096, wr := wr, data := fitTo 64 0 data, mask := fitTo 64 false mask,
                                     dst := .debug, req := 131 })
  | .hbm _ =>
    let r : HReq := { cls := 4, line := line % 2 ^ 30, wr := wr, data := fitTo 64 0 data, mask := fitTo 64 false mask,
                      dst := .debug, src := 100002 }
    ch.modHbm fun h => h.modPort (hbmPc r.line) fun q => { q with q := q.q.put 4 (q.queue 4 ++ [r]) }
  | .port _ => ch

end Sys2Proof.Machine
end

