-- ==== Sys2Proof/Machine/Commands.lean ====
section
/-! DEFINITION. What the meanings of the commands share beside the wrappers of Ops: the check of a unit's number, the write of one
register field by its requester, and the bridge's commands that also act on the channels. -/

namespace Sys2Proof.Machine

/-- A command that names a unit which the module does not have stops (R22, R30, R140). -/
def State.guard (_s : State) (ok : Bool) (o : Out) : Out := if ok then o else .fault .noSuchUnit

/-- The value of a register in which one field is written and the others keep what they would take by themselves (R6). -/
def Regs.withField (r : Regs) (xs : List (Fld × Nat)) (f : Fld) (v : Nat) : Nat :=
  regValue (fun f' n => if f' = f then v else r.present f' n) xs

/-- The bytes of a field's register. -/
def Fld.bytes (f : Fld) : Nat := if f.wide then 8 else 4

/-- Offset of the register that holds entry `n` of a field. -/
def Fld.off (f : Fld) (n : Nat) : Nat := f.base + f.stride * n

/-- Base of the block of lantern `g` in its channel's window (R172). -/
def lanBase (g : Nat) : Nat := 0x08000000 + 0x10000 * g

/-- A requester writes a register to device address `a` (R4, R16). -/
def State.regCmd (s : State) (req : Requester) (a size v : Nat) : Out := s.onAll fun s => s.devWrite req a size v

/-- A requester writes a field of a lantern register (R172). -/
def State.lanSet (s : State) (req : Requester) (c g : Nat) (f : Fld) (n v : Nat) : Out :=
  s.guard (decide (c < 12) && decide (g < 1536) && decide (n < f.count))
    (s.regCmd req (winBase c + lanBase g + f.off n) f.bytes
      (((s.chan c).lan g).regs.withField (regAt lanternFields (f.off n)) f v))

/-- A requester writes a field of a channel register (R473). -/
def State.chanSet (s : State) (req : Requester) (c : Nat) (f : Fld) (n v : Nat) : Out :=
  s.guard (decide (c < 12) && decide (n < f.count))
    (s.regCmd req (winBase c + f.off n) f.bytes ((s.chan c).regs.withField (regAt channelFields (f.off n)) f v))

/-- A requester writes a field of a bridge register (R472). -/
def State.modSet (s : State) (req : Requester) (f : Fld) (n v : Nat) : Out :=
  s.guard (decide (n < f.count))
    (s.regCmd req (bridgeBase + f.off n) f.bytes (s.mod.regs.withField (regAt bridgeFields (f.off n)) f v))

/-- A context command word written by a requester (R292). -/
def State.ctxSet (s : State) (req : Requester) (c op n owner lease arg : Nat) : Out :=
  s.guard (decide (n < 1024)) (s.chanSet req c F.CH_CTX_CMD_CMD 0 (ctxWord op n owner lease arg))

/-- A flash command word written by a requester (R415): ADDR is the byte address (log entry 75). -/
def State.flashSet (s : State) (req : Requester) (op dev addr : Nat) : Out :=
  s.regCmd req (bridgeBase + F.SEC_FLASH_CMD_OP.base) 8 (op + (dev % 2) <<< 2 + (addr % 2 ^ 26) <<< 8)

/-- Bytes of an access whose width is given by its binary logarithm. -/
def accSize (z : Nat) : Nat := 2 ^ (z % 4)

/-- The effect of a change in the bridge on the channels: channels that it puts into reset lose their state (R398, R404), and when the
light has moved each takes its host traffic from the other attachment (R27, R28). -/
def State.follow (s : State) (b : Bridge) : State :=
  let fresh := b.boot.resetCh.length == 12 && s.mod.boot.resetCh.length != 12
  let t : State := { s with mod := b, chans := if fresh then [] else s.chans }
  if b.r F.HP_LIGHT_LIT = s.mod.r F.HP_LIGHT_LIT then t
  else t.eachChan fun _ ch => ch.lightMoves (b.r F.HP_LIGHT_LIT) b.boot.ms

/-- The lit half verifies the image (R398): no channel runs meanwhile. -/
def State.imageVerify (s : State) (responds : Bool) : State := s.follow (s.mod.imageVerify responds)

/-- PERST_N is asserted (R372): the host port is reset, and the channels' translated accesses stop. -/
def State.perstAssert (s : State) : State :=
  ({ s with mod := s.mod.perstAssert } : State).eachChan fun _ ch => { ch with hostStop := true }

/-- PERST_N is deasserted (R372, R407): translated accesses go on. -/
def State.perstDeassert (s : State) : State :=
  ({ s with mod := s.mod.perstDeassert } : State).eachChan fun _ ch => ({ ch with hostStop := false } : Channel).hostGo

/-- A host access of CXL.mem waits while the channel takes no host traffic (R27, R28). -/
def State.hostTo (s : State) (c : Nat) (f : State → State) : State := if s.cutOff c then s else f s

/-- A BAR0 access to the channel aperture (R375, R376). -/
def State.aperture (s : State) (off z : Nat) (wr : Bool) (v : Nat) : State :=
  let a := s.mod.bar0 (bridgeSize + off % 0x400000)
  if wr then s.devWrite .host a (accSize z) v else s.devRead .host a (accSize z)

/-- A write of an entry of the MSI-X table with its vector control (R375, R377), or of the function mask. -/
def Bridge.msixEntry (b : Bridge) (vec : Option Nat) (addr data : Nat) (mask : Bool) : Bridge :=
  match vec with
  | some n =>
    (((b.msixWrite n 0 (addr % 2 ^ 32)).msixWrite n 1 (addr / 2 ^ 32)).msixWrite n 2 data).msixMask vec mask
  | none => b.msixMask none mask

/-- A task still open past its core's retirement is abandoned, and its sequence may complete with it (R289, R429). -/
def Channel.retireLate (ch : Channel) (g n : Nat) : Channel := (ch.retireTimeout g n).seqCheck

/-- A completed index reaches its counter, and a pool entry that leaves may be the last of its sequence (R260, R289). -/
def Channel.indexEnds (ch : Channel) (g : Nat) : Channel := (ch.indexComplete g).seqCheck

end Sys2Proof.Machine
end

