-- ==== Sys2Proof/Machine/CmdAccess.lean ====
section
/-! DEFINITION. Register accesses and bridge attachments (R4 to R28, R139, R464). -/

namespace Sys2Proof.Machine

/-- A requester writes `2 ^ z` bytes to device address `a` (R4, R6, R12 to R16, R475). -/
def execRegisterWrite (req : Requester) (a z v : Nat) (s : State) : Out := s.onAll fun s => s.devWrite req a (accSize z) v

/-- A requester reads the low half of a 64-bit register, which captures the high half (R5). -/
def execLowHalfRead (req : Requester) (a : Nat) (s : State) : Out := s.onAll fun s => s.devRead req a 4

/-- A read of CO_ACC_DATA_LO, CO_ACC_DATA_HI or CO_ACC_TAG (R139). -/
def execCoAccDataRead (req : Requester) (c g k part : Nat) (s : State) : Out :=
  s.guard (decide (c < 12) && decide (g < 1536) && decide (k < 64) && decide (part < 3)) (s.onAll fun s => s.devRead req (winBase c + lanBase g + (if part = 0 then F.CO_ACC_DATA_LO_VALUE else if part = 1 then F.CO_ACC_DATA_HI_VALUE else F.CO_ACC_TAG_TAG).off k) (if part = 0 then 8 else 4))

/-- A private transaction of the I3C port (R464). -/
def execI3cTransaction (o : Nat) (wr : Bool) (v : Nat) (s : State) : Out := s.onAll fun s => s.i3c o wr v

/-- Attachment `a` of a channel fails (R28). -/
def execAttachmentFailed (c a : Nat) (s : State) : Out :=
  s.guard (decide (a < 2)) (s.onUnit c fun s => s.setChan c ((s.chan c).attachFails a (s.mod.r F.HP_LIGHT_LIT) s.mod.boot.ms))

/-- The outcome of a failure of the lit half's attachment (R28). -/
def execAttachmentLost (c a : Nat) (s : State) : Out :=
  s.guard (decide (a < 2)) (s.onUnit c fun s => s.setChan c ((s.chan c).attachLost a (s.mod.r F.HP_LIGHT_LIT) s.mod.boot.ms))

/-- A keeper access to another channel's register window (R25). -/
def execMisdirectedAccess (c a : Nat) (s : State) : Out := s.onChan c fun ch => ch.misdirected a

end Sys2Proof.Machine
end

