-- ==== Sys2Proof/Machine/CmdBoot.lean ====
section
/-! DEFINITION. Start-up, the light, identity and attestation (R389 to R415). -/

namespace Sys2Proof.Machine

/-- The SPDM request GET_VERSION (R414). -/
def execGetVersion (s : State) : Out := s.onMod fun b => b.spdm .version

/-- The SPDM request GET_CAPABILITIES (R414). -/
def execGetCapabilities (s : State) : Out := s.onMod fun b => b.spdm .capabilities

/-- The SPDM request NEGOTIATE_ALGORITHMS (R414). -/
def execNegotiateAlgorithms (s : State) : Out := s.onMod fun b => b.spdm .algorithms

/-- The SPDM request GET_DIGESTS (R414). -/
def execGetDigests (s : State) : Out := s.onMod fun b => b.spdm .digests

/-- The SPDM request GET_CERTIFICATE for a part of the chain (R413). -/
def execGetCertificate (off len : Nat) (s : State) : Out := s.onMod fun b => b.spdm (.certificate off len)

/-- The SPDM request CHALLENGE (R414). -/
def execChallenge (s : State) : Out := s.onMod fun b => b.spdm .challenge

/-- The SPDM request GET_MEASUREMENTS (R414). -/
def execGetMeasurements (index : Nat) (s : State) : Out := s.onMod fun b => b.spdm (.measurements index)

/-- Any other SPDM request (R414). -/
def execSpdmUnsupported (s : State) : Out := s.onMod fun b => b.spdm .other

/-- MOD_RESET_N is asserted (R389). -/
def execModResetAssert (s : State) : Out := .next (s.wipe false)

/-- MOD_RESET_N is released with the level of LIGHT_PREF (R390, R403). -/
def execModResetRelease (pref : Nat) (s : State) : Out := .next (s.release pref)

/-- A half finishes its ROM self-test and PUF read (R403, R412). -/
def execRomSelfTestDone (h : Nat) (pass idOk : Bool) (s : State) : Out :=
  s.guard (decide (h < 2)) (s.onMod fun b => b.selfTest h pass idOk deviceId)

/-- A half has seen no LIT frame within 20 ms (R403). -/
def execElectionTimeout (h : Nat) (s : State) : Out := s.guard (decide (h < 2)) (s.onMod fun b => b.electionTimeout h)

/-- A frame time: every half but the silent ones sends its token frame, and the port select looks at what it has received (R401,
R402). -/
def execTokenFrameSend (silent : List Nat) (s : State) : Out := s.onAll fun s => s.follow (s.mod.frameSend silent).select

/-- A token frame arrives from a half's line (R402). -/
def execTokenFrame (h w : Nat) (s : State) : Out := s.guard (decide (h < 2)) (s.onAll fun s => s.follow (s.mod.frameIn h w))

/-- A dark half claims the light (R404). -/
def execLightTakeover (h : Nat) (s : State) : Out := s.guard (decide (h < 2)) (s.onMod fun b => b.takeover h)

/-- The watchdog resets a silent half (R405). -/
def execHalfWatchdog (h : Nat) (s : State) : Out := s.guard (decide (h < 2)) (s.onMod fun b => b.watchdog h)

/-- The lit half verifies the image of the device in turn, which may not respond (R398, R399). -/
def execImageVerify (responds : Bool) (s : State) : Out := s.onAll fun s => s.imageVerify responds

/-- Keeper firmware lands in a channel (R400, R406). -/
def execKeeperFwLanded (c : Nat) (s : State) : Out := s.guard (decide (c < 12)) (s.onAll fun s => s.fwLanded c)

/-- A channel has not reported within 30 ms (R398). -/
def execDistributionTimeout (c : Nat) (s : State) : Out := s.guard (decide (c < 12)) (s.onAll fun s => s.distTimeout c)

/-- A keeper reports the end of calibration (R29, R299, R408). -/
def execCalibrationDone (c : Nat) (rep : CalReport) (s : State) : Out :=
  s.guard (decide (c < 12)) (s.onAll fun s => s.calDone c rep)

/-- A keeper has not reported within 600 ms (R408). -/
def execCalibrationTimeout (c : Nat) (s : State) : Out := s.guard (decide (c < 12)) (s.onAll fun s => s.calTimeout c)

/-- A write of 1 to MOD_RUN.GO (R409). -/
def execGo (req : Requester) (s : State) : Out := s.modSet req F.MOD_RUN_GO 0 1

/-- The flash command READ (R415). -/
def execFlashRead (req : Requester) (dev addr : Nat) (s : State) : Out := s.flashSet req 0 dev addr

/-- The flash command PROGRAM (R415). -/
def execFlashProgram (req : Requester) (dev addr : Nat) (s : State) : Out := s.flashSet req 1 dev addr

/-- The flash command ERASE (R415). -/
def execFlashErase (req : Requester) (dev addr : Nat) (s : State) : Out := s.flashSet req 2 dev addr

/-- A flash command finishes (R415). -/
def execFlashCmdDone (err : Bool) (s : State) : Out := s.onMod fun b => b.flashDone err

end Sys2Proof.Machine
end

