-- ==== Sys2Proof/Machine/CmdCore.lean ====
section
/-! DEFINITION. The sparse core and its tile instructions (R78 to R139). An instruction's command names the core; the word is the next of the core's task. -/

namespace Sys2Proof.Machine

/-- The core's sequencer asks for its next instruction line (R92). -/
def execInsnLineFetch (c g k : Nat) (s : State) : Out := s.onCore c g k fun ch => ch.insnFetch g k

/-- NOP issues and does nothing (R92). -/
def execNop (c g k : Nat) (s : State) : Out := s.onCore c g k fun ch => ch.doNop g k

/-- TASK opens a task (R93, R107). -/
def execTask (c g k : Nat) (s : State) : Out := s.onCore c g k fun ch => ch.doTask g k

/-- OLOAD issues into the load queue (R94, R95). -/
def execOload (c g k : Nat) (s : State) : Out := s.onCore c g k fun ch => ch.doOload g k

/-- An OLOAD asks for one line (R104). -/
def execOloadLineRequest (c g k : Nat) (s : State) : Out := s.onCore c g k fun ch => ch.olRequest g k

/-- A returned or padding line enters the operand buffer (R104). -/
def execOloadLineWrite (c g k : Nat) (s : State) : Out := s.onCore c g k fun ch => ch.olWrite g k

/-- A transposing read gathers its next source line (R149). -/
def execTransposeGather (c g k : Nat) (s : State) : Out := s.onCore c g k fun ch => ch.trGather g k

/-- TMUL issues into the multiply queue (R96). -/
def execTmul (c g k : Nat) (s : State) : Out := s.onCore c g k fun ch => ch.doTmul g k

/-- A TMUL starts and is checked (R77, R101, R103, R107, R109); `chk` is what its operand buffer reads meet (R420). -/
def execTmulStart (c g k : Nat) (chk : Check) (s : State) : Out := s.onCore c g k fun ch => ch.tmStart g k chk

/-- The intersection unit examines a group of two columns (R85 to R88). -/
def execIntersectGroup (c g k : Nat) (s : State) : Out := s.onCore c g k fun ch => ch.intersectGroup g k

/-- One cycle of merge mode (R89). -/
def execMergeCycle (c g k : Nat) (s : State) : Out := s.onCore c g k fun ch => ch.mergeCycle g k

/-- One cycle of gather mode (R90). -/
def execGatherCycle (c g k : Nat) (s : State) : Out := s.onCore c g k fun ch => ch.gatherCycle g k

/-- The slice stage of a TMUL begins (R103). -/
def execSliceStageBegin (c g k : Nat) (s : State) : Out := s.onCore c g k fun ch => ch.stageBegin g k

/-- The slice of output column `col` takes pairs (R79, R88); `chk` is what its residue check finds (R420). -/
def execSliceTakePair (c g k col : Nat) (chk : Check) (s : State) : Out := s.onCore c g k fun ch => ch.takePair g k col chk

/-- The oldest accumulator write in flight of a column takes effect (R115 to R119). -/
def execAccumulate (c g k col : Nat) (s : State) : Out := s.onCore c g k fun ch => ch.accumulate g k col

/-- DRAIN issues into the drain queue (R97). -/
def execDrain (c g k : Nat) (s : State) : Out := s.onCore c g k fun ch => ch.doDrain g k

/-- A DRAIN starts and is checked (R132, R133). -/
def execDrainStart (c g k : Nat) (s : State) : Out := s.onCore c g k fun ch => ch.drainStart g k

/-- A row passes the drain path (R120 to R131); `chk` is what SECDED finds in the cell of column `col` (R420). -/
def execDrainRowRead (c g k col : Nat) (chk : Check) (s : State) : Out := s.onCore c g k fun ch => ch.drainRowRead g k col chk

/-- A complete line of a DRAIN is requested as a write (R126, R133). -/
def execDrainLineWrite (c g k : Nat) (s : State) : Out := s.onCore c g k fun ch => ch.drainLineWrite g k

/-- FENCE holds issue until the named kinds are done (R98). -/
def execFence (c g k : Nat) (s : State) : Out := s.onCore c g k fun ch => ch.doFence g k

/-- END closes the task (R99). -/
def execTaskEnd (c g k : Nat) (s : State) : Out := s.onCore c g k fun ch => ch.doEnd g k

/-- A write of 1 to CO_CTRL.CLR_CNT (R113). -/
def execCoClrCnt (req : Requester) (c g k : Nat) (s : State) : Out := s.lanSet req c g F.CO_CTRL_CLR_CNT k 1

end Sys2Proof.Machine
end

