-- ==== Sys2Proof/Machine/CmdError.lean ====
section
/-! DEFINITION. Errors, spares and fatal dumps (R416 to R440). -/

namespace Sys2Proof.Machine

/-- The keeper of a channel, or the lit half, takes the next record of its ring (R421, R422, R428). -/
def execKeeperTakeRecord (who : Option Nat) (s : State) : Out :=
  match who with | some c => s.onChan c fun ch => ch.takeRecord | none => s.onMod fun b => b.takeRecord

/-- A health window boundary (R366, R427). -/
def execHealthWindow (c : Nat) (s : State) : Out := s.onChan c fun ch => ch.healthWindow

/-- No task of a retiring core remains open (R429). -/
def execCoreRetireComplete (c g n : Nat) (s : State) : Out :=
  s.guard (decide (g < 1536) && decide (n < 60)) (s.onChan c fun ch => ch.retireComplete g n)

/-- A task of a retiring core is still open after the period (R429). -/
def execCoreRetireTimeout (c g n : Nat) (s : State) : Out :=
  s.guard (decide (g < 1536) && decide (n < 60)) (s.onChan c fun ch => ch.retireLate g n)

/-- The sequence of a channel-fatal record (R431). -/
def execChannelLoss (c : Nat) (s : State) : Out := s.onUnit c fun s => s.channelLoss c

/-- A keeper has applied the ordered placement and reports (R431). -/
def execPlacementResume (c : Nat) (s : State) : Out := s.onUnit c fun s => s.placementResume c

/-- A lockstep mismatch of the keeper (R420). -/
def execKeeperFault (c : Nat) (s : State) : Out := s.onChan c fun ch => ch.keeperFault

/-- A parity error on the channel fabric (R420). -/
def execFabricFault (c : Nat) (s : State) : Out := s.onChan c fun ch => ch.fabricFault

/-- The steps on a module-fatal record (R434). -/
def execModuleFatal (s : State) : Out := s.onAll fun s => s.moduleFatal

/-- FOG_N is sensed low (R435). -/
def execFogNLow (s : State) : Out := s.onMod fun b => b.fogLow

/-- No FOG packet has come within 1 ms of the line (R435). -/
def execFogLineTimeout (s : State) : Out := s.onAll fun s => s.fogTimeout

/-- A dump is complete (R436, R437). -/
def execDumpDone (c : Nat) (s : State) : Out := s.onUnit c fun s => s.dumpDone c

/-- The lit half copies the next finished dump to host memory (R438). -/
def execDumpHostCopy (s : State) : Out := s.onAll fun s => s.dumpHostCopy

/-- A write of 1 to ERR_CTRL.CLR_CNT (R439). -/
def execErrClrCnt (req : Requester) (c : Nat) (s : State) : Out := s.chanSet req c F.ERR_CTRL_CLR_CNT 0 1

/-- A write of 1 to ERR_MOD_CTRL.CLR_CNT (R440). -/
def execErrModClrCnt (req : Requester) (s : State) : Out := s.modSet req F.ERR_MOD_CTRL_CLR_CNT 0 1

end Sys2Proof.Machine
end

