-- ==== Sys2Proof/Machine/CmdHbm.lean ====
section
/-! DEFINITION. HBM memory (R298 to R322). -/

namespace Sys2Proof.Machine

/-- A share window begins (R304, R307). -/
def execHbmWindowStart (c : Nat) (s : State) : Out := s.onChan c fun ch => ch.windowStart

/-- Lending begins in the window (R305). -/
def execLendingStart (c : Nat) (s : State) : Out := s.onChan c fun ch => ch.lendStart

/-- The share gate admits a request of a class (R304 to R306). -/
def execShareGateAdmit (c cls : Nat) (s : State) : Out :=
  s.guard (decide (cls < 3)) (s.onChan c fun ch => Channel.handOver (ch.gateAdmit cls))

/-- The read at place `at_` of a port's command queue completes (R311, R314); `errs` are the symbols in error, `miss` the
pins whose second sampler differs. -/
def execHbmReadComplete (c p at_ : Nat) (errs : List (Nat × Nat)) (odecc : Bool) (miss : List Nat) (s : State) : Out :=
  s.guard (decide (p < 64)) (s.onChan c fun ch => Channel.handOver (ch.hbmReadComplete p at_ errs odecc miss))

/-- The partial write at place `at_` of a port's command queue is performed (R301, R312). -/
def execHbmReadModifyWrite (c p at_ : Nat) (errs : List (Nat × Nat)) (odecc : Bool) (miss : List Nat) (s : State) : Out :=
  s.guard (decide (p < 64)) (s.onChan c fun ch => ch.hbmMerge p at_ errs odecc miss)

/-- A pseudo-channel owes one more refresh (R308). -/
def execRefreshDue (c p : Nat) (s : State) : Out := s.guard (decide (p < 64)) (s.onChan c fun ch => ch.refreshDue p)

/-- The owed refreshes have reached POSTPONE (R308). -/
def execRefreshEmergency (c p : Nat) (s : State) : Out := s.guard (decide (p < 64)) (s.onChan c fun ch => ch.refreshEmergency p)

/-- A patrol scrub read (R313). -/
def execScrubRead (c line : Nat) (errs : List (Nat × Nat)) (odecc : Bool) (miss : List Nat) (s : State) : Out :=
  s.guard (decide (line < 2 ^ 30)) (s.onChan c fun ch => ch.scrub line errs odecc miss)

/-- A pin's read centring is examined (R314). -/
def execRetrainExamine (c p pin : Nat) (s : State) : Out :=
  s.guard (decide (p < 64) && decide (pin < 36)) (s.onChan c fun ch => ch.retrainExamine p pin)

/-- A translation walk ends (R318). -/
def execXltWalk (c page : Nat) (s : State) : Out := s.guard (decide (page < 98304)) (s.onChan c fun ch => ch.xltWalk page)

/-- A write of HM_XLT_INV.PAGE (R318). -/
def execXltInvPage (req : Requester) (c page : Nat) (s : State) : Out := s.chanSet req c F.HM_XLT_INV_PAGE 0 page

/-- A write of HM_XLT_INV with ALL set (R318). -/
def execXltInvAll (req : Requester) (c : Nat) (s : State) : Out := s.chanSet req c F.HM_XLT_INV_ALL 0 1

/-- No access translated by a removed entry is outstanding (R318). -/
def execInvalidateDone (c : Nat) (s : State) : Out := s.onChan c fun ch => ch.invalidateDone

/-- FAULT_TMO ticks pass without the ready signal (R319). -/
def execPageFaultTimeout (c page : Nat) (s : State) : Out :=
  s.guard (decide (page < 98304)) (s.onChan c fun ch => ch.faultTimeout page)

/-- A write of 1 to HM_CTRL.CLR_CNT (R322). -/
def execHmClrCnt (req : Requester) (c : Nat) (s : State) : Out := s.chanSet req c F.HM_CTRL_CLR_CNT 0 1

end Sys2Proof.Machine
end

