-- ==== Sys2Proof/Machine/CmdHost.lean ====
section
/-! DEFINITION. The CXL host port (R369 to R388). -/

namespace Sys2Proof.Machine

/-- PERST_N is asserted (R372). -/
def execPerstAssert (s : State) : Out := s.onAll fun s => s.perstAssert

/-- PERST_N is deasserted (R407). -/
def execPerstDeassert (s : State) : Out := s.onAll fun s => s.perstDeassert

/-- A function level reset (R373). -/
def execFunctionLevelReset (s : State) : Out := s.onMod fun b => b.hostReset

/-- The CXL link goes down (R371). -/
def execHostLinkDown (s : State) : Out := s.onMod fun b => b.linkDown

/-- A configuration request (R374, R375, R407). -/
def execConfigRequest (o : Nat) (wr : Bool) (v : Nat) (s : State) : Out := s.onMod fun b => b.configRequest o wr v

/-- A BAR0 access to the channel aperture (R375, R376). -/
def execApertureAccess (off z : Nat) (wr : Bool) (v : Nat) (s : State) : Out := s.onAll fun s => s.aperture off z wr v

/-- A host CXL.mem read at device address `d` (R378, R379). -/
def execHdmRead (d tag : Nat) (enter : Bool) (s : State) : Out :=
  s.guard (decide (d < 0xC000000000)) (s.onAll fun s => s.hostTo (hbmChan d) fun s => s.hdmRead d tag enter)

/-- A host CXL.mem write at device address `d` (R378). -/
def execHdmWrite (d tag : Nat) (data : List (BitVec 8)) (mask : List Bool) (s : State) : Out :=
  s.guard (decide (d < 0xC000000000)) (s.onAll fun s => s.hostTo (hbmChan d) fun s => s.hdmWrite d tag data mask)

/-- BIRspI arrives, after a write-back if there is one (R379). -/
def execBiRspI (c line : Nat) (wb : Option (List (BitVec 8))) (s : State) : Out := s.onChan c fun ch => ch.biRsp line wb

/-- BIRspI has not arrived within TMO (R379). -/
def execBiTimeout (c line : Nat) (s : State) : Out := s.onChan c fun ch => ch.biTimeout line

/-- A write of `size` bytes at offset `off` of the doorbell page of ring pair `r` (R380, R381): 4 bytes at offset 0 are a
command-ring tail. -/
def execCrTailDoorbell (r off size v : Nat) (s : State) : Out :=
  s.guard (decide (r < 16)) (s.onMod fun b => b.doorbell r off size v)

/-- A completion-ring head doorbell (R380, R381). -/
def execCpHeadDoorbell (r v : Nat) (s : State) : Out := s.guard (decide (r < 16)) (s.onMod fun b => b.doorbell r 8 4 v)

/-- A write of 1 to HP_RINGr_CFG.EN (R381). -/
def execRingEnable (req : Requester) (r : Nat) (s : State) : Out := s.modSet req F.HP_RING_CFG_EN r 1

/-- The bridge reads the next command entry, `entry` as the host holds it (R382). -/
def execCommandFetch (r : Nat) (entry : List (BitVec 8)) (s : State) : Out :=
  s.guard (decide (r < 16)) (s.onMod fun b => b.commandFetch r entry)

/-- The host command NOP (R383). -/
def execCmdNop (r : Nat) (s : State) : Out := s.guard (decide (r < 16)) (s.onAll fun s => s.cmdNop r)

/-- The host command CTX (R383). -/
def execCmdCtx (r : Nat) (s : State) : Out := s.guard (decide (r < 16)) (s.onAll fun s => s.cmdCtx r)

/-- The host command PAGE_READY (R319, R383). -/
def execCmdPageReady (r : Nat) (s : State) : Out := s.guard (decide (r < 16)) (s.onAll fun s => s.cmdPageReady r)

/-- The host command MOVE (R383): `data` is what the host range holds, `errs` the host lines that answer with an error. -/
def execCmdMove (r : Nat) (data : List (BitVec 8)) (errs : List Nat) (s : State) : Out :=
  s.guard (decide (r < 16)) (s.onAll fun s => s.cmdMove r data errs)

/-- The host command SNAP (R383). -/
def execCmdSnap (r : Nat) (s : State) : Out := s.guard (decide (r < 16)) (s.onAll fun s => s.cmdSnap r)

/-- The host command REG_WRITE (R383). -/
def execCmdRegWrite (r : Nat) (s : State) : Out := s.guard (decide (r < 16)) (s.onAll fun s => s.cmdRegWrite r)

/-- The bridge writes the next completion or event entry (R384 to R386). -/
def execCompletionWrite (r : Nat) (s : State) : Out := s.guard (decide (r < 16)) (s.onMod fun b => b.completionWrite r)

/-- The end of a tick that leaves unsignalled entries (R385). -/
def execMsixCoalesceFlush (r : Nat) (s : State) : Out := s.guard (decide (r < 16)) (s.onMod fun b => b.coalesceFlush r)

/-- A write of a vector's MSI-X table entry, or of the function mask: a mask that clears sends what is pending (R377). -/
def execMsixUnmask (vec : Option Nat) (addr data : Nat) (mask : Bool) (s : State) : Out :=
  s.onMod fun b => b.msixEntry vec addr data mask

/-- A write of 1 to HP_CTRL.CLR_CNT (R388). -/
def execHpClrCnt (req : Requester) (s : State) : Out := s.modSet req F.HP_CTRL_CLR_CNT 0 1

/-- The mailbox command Identify Memory Device (R370). -/
def execIdentifyMemoryDevice (s : State) : Out := s.onMod fun b => b.mailbox 0

/-- The mailbox command Get Supported Logs (R370). -/
def execGetSupportedLogs (s : State) : Out := s.onMod fun b => b.mailbox 1

/-- The mailbox command Get Log (R370). -/
def execGetLog (s : State) : Out := s.onMod fun b => b.mailbox 2

/-- The mailbox command Get Health Info (R370). -/
def execGetHealthInfo (s : State) : Out := s.onMod fun b => b.mailbox 3

/-- Any other mailbox opcode (R370). -/
def execMailboxUnsupported (s : State) : Out := s.onMod fun b => b.mailbox 4

/-- CXL link training completes (R370, R371): `rates` and `widths` are masks of what the host supports. -/
def execHostLinkUp (rates widths : Nat) (flit68 : Bool) (s : State) : Out := s.onMod fun b => b.linkUp rates widths flit68

/-- A host snoop removes a line from the device cache (R382). -/
def execDeviceCacheSnoop (addr : Nat) (s : State) : Out := s.onMod fun b => b.snoopOut addr

end Sys2Proof.Machine
end

