-- ==== Sys2Proof/Machine/CmdLantern.lean ====
section
/-! DEFINITION. Lanterns, scratchpad banks and shared arbiters (R140 to R174). -/

namespace Sys2Proof.Machine

/-- A write of 1 to LN_CTRL.PARK (R143). -/
def execPark (req : Requester) (c g : Nat) (s : State) : Out := s.lanSet req c g F.LN_CTRL_PARK 0 1

/-- The pending park of a lantern is complete (R143). -/
def execParkReached (c g : Nat) (s : State) : Out := s.onLan c g fun ch => ch.parkReached g

/-- A write of 1 to LN_CTRL.RESUME (R143, R144). -/
def execLanternResume (req : Requester) (c g : Nat) (s : State) : Out := s.lanSet req c g F.LN_CTRL_RESUME 0 1

/-- The start of the tick after RESUME (R143). -/
def execLanternUnpark (c g : Nat) (s : State) : Out := s.onLan c g fun ch => ch.lanUnpark g

/-- A write of 1 to LN_CTRL.CLR_CNT (R173). -/
def execLnClrCnt (req : Requester) (c g : Nat) (s : State) : Out := s.lanSet req c g F.LN_CTRL_CLR_CNT 0 1

/-- The lantern pipe merges and presents its accesses (R152 to R155). -/
def execLanternPipeCycle (c g : Nat) (s : State) : Out := s.onLan c g fun ch => ch.pipeCycle g

/-- The owner of a bank's slot moves its access (R145 to R147, R161); `chk` is what SECDED finds in word `w` (R420). -/
def execScratchpadAccessGrant (c g b w : Nat) (chk : Check) (s : State) : Out :=
  s.guard (decide (b < 16)) (s.onLan c g fun ch => ch.bankGrant g b w chk)

/-- An access to the scratchpad window of a lantern (R174). -/
def execScratchpadWindowAccess (req : Requester) (c g off z : Nat) (wr : Bool) (v : Nat) (s : State) : Out :=
  s.guard (decide (c < 12) && decide (g < 1536)) (s.onAll fun s => let a := winBase c + lanBase g + 0xF000 + off % 4096; if wr then s.devWrite req a (accSize z) v else s.devRead req a (accSize z))

/-- LN_POISON_CTRL.EN is set (R157). -/
def execLnPoisonEn (req : Requester) (c g : Nat) (s : State) : Out := s.lanSet req c g F.LN_POISON_CTRL_EN 0 1

/-- A write header for a bank is accepted (R159). -/
def execFabricWriteHeader (c g b : Nat) (s : State) : Out :=
  s.guard (decide (b < 16)) (s.onLan c g fun ch => ch.writeHeader g b)

/-- REQ of a bank has changed to 1 (R160). -/
def execBankPdRequest (c g b : Nat) (s : State) : Out := s.guard (decide (b < 16)) (s.onLan c g fun ch => ch.bankPd g b)

/-- A draining bank enters retention (R160). -/
def execBankRetention (c g b : Nat) (s : State) : Out := s.guard (decide (b < 16)) (s.onLan c g fun ch => ch.bankRetention g b)

/-- LN_BANK_PD_TMO passes in draining (R160). -/
def execBankPdTimeout (c g b : Nat) (s : State) : Out := s.guard (decide (b < 16)) (s.onLan c g fun ch => ch.bankTimeout g b)

/-- REQ of a bank has changed to 0 (R162). -/
def execBankWake (c g b : Nat) (s : State) : Out := s.guard (decide (b < 16)) (s.onLan c g fun ch => ch.bankWake g b)

/-- The 64th cycle after the wake request (R162). -/
def execBankAwake (c g b : Nat) (s : State) : Out := s.guard (decide (b < 16)) (s.onLan c g fun ch => ch.bankAwake g b)

/-- A shared arbiter decides the owner of the next slot (R163 to R170). -/
def execArbiterDecision (c : Nat) (place : ArbPlace) (s : State) : Out :=
  s.guard (arbPlaceOk place) (s.onChan c fun ch => ch.arbDecide place)

end Sys2Proof.Machine
end

