-- ==== Sys2Proof/Machine/CmdLink.lean ====
section
/-! DEFINITION. The Chrobupra link: training, flits and link control (R323 to R346, R364 to R367). -/

namespace Sys2Proof.Machine

/-- The port at the other end of P0 or P1 of channel `c` (R32). -/
def ringPeer (c p : Nat) : Nat × Nat := if p = 0 then ((c + 11) % 12, 1) else ((c + 1) % 12, 0)

/-- What arrives at a port when a slot of a kind is due. The lanes of P2 come from outside the module, and the operand is what they
bring. P0 and P1 receive what their neighbour's port has sent (R32), and the operand is the bits that change on the way (log entry
119): nothing arrives when no such slot is under way. -/
def State.arriving (s : State) (c p k : Nat) (x : List (List (BitVec 8))) : Option (List (List (BitVec 8)) × State) :=
  if p = 2 then some (x, s)
  else
    let (d, q) := ringPeer c p
    (takeWire k ((s.chan d).lport q).wire).map fun r =>
      (r.1.zipIdx.map fun b => noisy b.1 (x.getD b.2 []), s.setChan d ((s.chan d).modPort q fun y => { y with wire := r.2 }))

/-- A training frame on received lane `lane` (R325, R329); `eq` and `desk` are what the receiver has reached. -/
def execTrainingFrame (c p lane : Nat) (hdr : List (BitVec 8)) (eq desk : Bool) (s : State) : Out :=
  s.guard (decide (p < 3)) (match s.arriving c p (if lane < 5 then lane else 7) [hdr] with
    | some (bs, s) => s.onChan c fun ch => ch.trainingFrame p lane (bs.headD []) eq desk
    | none => s.onChan c id)

/-- A training step's end condition is met (R329). -/
def execLinkTrainStepDone (c p : Nat) (s : State) : Out := s.guard (decide (p < 3)) (s.onChan c fun ch => ch.trainStepDone p)

/-- A training step times out (R330). -/
def execLinkTrainTimeout (c p : Nat) (s : State) : Out := s.guard (decide (p < 3)) (s.onChan c fun ch => ch.trainTimeout p)

/-- Ten milliseconds after a failed attempt (R330). -/
def execLinkRetry (c p : Nat) (s : State) : Out := s.guard (decide (p < 3)) (s.onChan c fun ch => ch.linkRetry p)

/-- A port retrains (R341). -/
def execLinkRetrain (c p : Nat) (s : State) : Out := s.guard (decide (p < 3)) (s.onChan c fun ch => ch.retrainDue p)

/-- A write of 1 to LK_CTRL.RETRAIN (R341). -/
def execLkCtrlRetrain (req : Requester) (c p : Nat) (s : State) : Out := s.chanSet req c F.LK_CTRL_RETRAIN p 1

/-- A write of 1 to LK_CTRL.CLR_CNT (R367). -/
def execLkClrCnt (req : Requester) (c p : Nat) (s : State) : Out := s.chanSet req c F.LK_CTRL_CLR_CNT p 1

/-- A marker slot leaves (R328). -/
def execMarkerSend (c p : Nat) (s : State) : Out := s.guard (decide (p < 3)) (s.onChan c fun ch => ch.markerSend p)

/-- A marker slot is due on the physical lanes (R328); where the neighbour has sent no marker, no PATTERN is recognised. -/
def execMarkerReceive (c p : Nat) (blocks : List (List (BitVec 8))) (s : State) : Out :=
  s.guard (decide (p < 3)) (match s.arriving c p 5 blocks with
    | some (bs, s) => s.onChan c fun ch => ch.markerReceive p bs
    | none => s.onChan c fun ch => ch.markerReceive p [])

/-- Three markers in a row were not recognised (R328). -/
def execMarkerLockLost (c p : Nat) (s : State) : Out := s.guard (decide (p < 3)) (s.onChan c fun ch => ch.markerLost p)

/-- A flit slot of the sender at time `now` (R345, R346). -/
def execFlitSlot (c p now : Nat) (s : State) : Out := s.guard (decide (p < 3)) (s.onChan c fun ch => ch.flitSlot p now)

/-- A flit arrives on the physical lanes (R336 to R340). -/
def execFlitReceive (c p : Nat) (lanes : List (List (BitVec 8))) (s : State) : Out :=
  s.guard (decide (p < 3)) (match s.arriving c p 6 lanes with
    | some (bs, s) => s.onChan c fun ch => ch.flitReceive p bs
    | none => s.onChan c id)

/-- NAK_TMO slots pass without the expected SEQ (R340). -/
def execNakTimeout (c p : Nat) (s : State) : Out := s.guard (decide (p < 3)) (s.onChan c fun ch => ch.nakTimeout p)

/-- Credits have waited for 32 slots (R343). -/
def execCreditTimeout (c p : Nat) (s : State) : Out := s.guard (decide (p < 3)) (s.onChan c fun ch => ch.creditTimeout p)

/-- An INIT flit takes effect (R331). -/
def execInit (c p : Nat) (s : State) : Out := s.guard (decide (p < 3)) (s.onChan c fun ch => ch.initIn p)

/-- A PING flit takes effect (R332). -/
def execPing (c p now : Nat) (s : State) : Out := s.guard (decide (p < 3)) (s.onChan c fun ch => ch.pingIn p now)

/-- A PONG flit takes effect (R332). -/
def execPong (c p now : Nat) (s : State) : Out := s.guard (decide (p < 3)) (s.onChan c fun ch => ch.pongIn p now)

/-- A CREDIT flit takes effect (R343). -/
def execCredit (c p : Nat) (s : State) : Out := s.guard (decide (p < 3)) (s.onChan c fun ch => ch.creditFlit p)

/-- A ROT flit takes effect (R365). -/
def execRot (c p : Nat) (s : State) : Out := s.guard (decide (p < 3)) (s.onChan c fun ch => ch.rotIn p)

/-- A ROT_ACK flit takes effect (R365). -/
def execRotAck (c p : Nat) (s : State) : Out := s.guard (decide (p < 3)) (s.onChan c fun ch => ch.rotAckIn p)

/-- A TXEQ flit takes effect (R364). -/
def execTxeq (c p : Nat) (s : State) : Out := s.guard (decide (p < 3)) (s.onChan c fun ch => ch.txeqIn p)

/-- A RETRAIN flit takes effect (R341). -/
def execRetrain (c p : Nat) (s : State) : Out := s.guard (decide (p < 3)) (s.onChan c fun ch => ch.retrainIn p)

/-- A rotation enters its next phase at the named marker (R365). -/
def execRotationPhase (c p : Nat) (s : State) : Out := s.guard (decide (p < 3)) (s.onChan c fun ch => ch.rotationPhase p)

/-- A lane's correction count has reached a threshold (R366). -/
def execLaneRecalThreshold (c p n : Nat) (s : State) : Out :=
  s.guard (decide (p < 3) && decide (n < 5)) (s.onChan c fun ch => ch.laneThreshold p n)

end Sys2Proof.Machine
end

