-- ==== Sys2Proof/Machine/CmdPacket.lean ====
section
/-! DEFINITION. Packets, routes and receive FIFOs (R347 to R362, R368). -/

namespace Sys2Proof.Machine

/-- A read request is served (R349). -/
def execRdReq (c : Nat) (s : State) : Out := s.onChan c fun ch => ch.rdReq

/-- A write request is served (R349). -/
def execWrReq (c : Nat) (s : State) : Out := s.onChan c fun ch => ch.wrReq

/-- A read response arrives (R350). -/
def execRdRsp (c : Nat) (s : State) : Out := s.onChan c fun ch => ch.rdRsp

/-- A write acknowledgement arrives (R350). -/
def execWrAck (c : Nat) (s : State) : Out := s.onChan c fun ch => ch.wrAck

/-- REQ_TMO passes without a response (R350). -/
def execRequestTimeout (c tag : Nat) (s : State) : Out :=
  s.guard (decide (tag < 1024)) (s.onChan c fun ch => ch.requestTimeout tag)

/-- A buoy update packet (R227). -/
def execBpUpdate (c : Nat) (s : State) : Out := s.onChan c fun ch => ch.bpUpdate

/-- A FIFO data packet (R360). -/
def execFifoData (c : Nat) (s : State) : Out := s.onChan c fun ch => ch.fifoData

/-- A stream-data packet lands (R227). -/
def execBpData (c : Nat) (s : State) : Out := s.onChan c fun ch => ch.bpData

/-- A context-mark packet (R285, R352). -/
def execCtxMarkPacket (c : Nat) (s : State) : Out := s.onChan c fun ch => ch.ctxMark

/-- A tick marker that has arrived at time `at_` (R279, R353). -/
def execTick (c at_ : Nat) (s : State) : Out := s.onUnit c fun s => s.tickPacket c at_

/-- A fog packet (R354, R435). -/
def execFog (c : Nat) (s : State) : Out := s.onUnit c fun s => s.fogPacket c

/-- SETTLE cycles have passed since an egress change (R358). -/
def execRouteSettleEnd (c dst : Nat) (s : State) : Out := s.onChan c fun ch => ch.settleEnd dst

/-- A write of 1 to LK_RT_CTRL.CLR_CNT (R368). -/
def execLkRtClrCnt (req : Requester) (c : Nat) (s : State) : Out := s.chanSet req c F.LK_RT_CTRL_CLR_CNT 0 1

/-- A write of 1 to LK_FIFOn_CTRL.CUT (R361). -/
def execCut (req : Requester) (c n : Nat) (s : State) : Out := s.chanSet req c F.LK_FIFO_CTRL_CUT n 1

/-- A write of 1 to LK_FIFOn_CTRL.FLUSH (R361). -/
def execFlush (req : Requester) (c n : Nat) (s : State) : Out := s.chanSet req c F.LK_FIFO_CTRL_FLUSH n 1

/-- The level of a FIFO is evaluated (R362). -/
def execFifoLevel (c n : Nat) (s : State) : Out := s.guard (decide (n < 32)) (s.onChan c fun ch => ch.fifoLevel n)

end Sys2Proof.Machine
end

