-- ==== Sys2Proof/Machine/CmdPower.lean ====
section
/-! DEFINITION. Power, clocks and temperature (R441 to R458), the decode-miss counter, and the debug port (R170, R474). -/

namespace Sys2Proof.Machine

/-- The sample of the supplies every 10 µs (R443): inputs in mV, and rails by channel, row and part in 0.1 mV. -/
def execSupplySample (vin vaux : Nat) (rails : List (Nat × Nat × Nat × Int)) (s : State) : Out :=
  s.onAll fun s => s.supplySample vin vaux rails

/-- A supply has been out of limits for 100 µs (R443). -/
def execSupplyFault (s : State) : Out := s.onMod fun b => b.supplyFault

/-- The lit half sets NB_CAP before a tick (R447). -/
def execNeighbourVoltageCheck (s : State) : Out := s.onAll fun s => s.nbVoltage

/-- Either end of the stop in which the array clock switches (R448). -/
def execClockSwitch (c : Nat) (s : State) : Out := s.onChan c fun ch => ch.clockSwitch

/-- The change of the operating point ends (R448). -/
def execOpChangeDone (c : Nat) (s : State) : Out := s.onChan c fun ch => ch.opChangeDone

/-- VCORE falls more than 40 mV below its setpoint (R450). -/
def execVcoreDroop (c : Nat) (s : State) : Out := s.onChan c fun ch => ch.vcoreDroop

/-- VCORE recovers (R450). -/
def execDroopRecover (c : Nat) (s : State) : Out := s.onChan c fun ch => ch.droopRecover

/-- The junction sensors are read (R451); the stack's sensor too (R308). -/
def execTempSample (c : Nat) (logic base : List Int) (stack : Int) (s : State) : Out :=
  s.onChan c fun ch => ch.tempSample logic base stack

/-- The end of 1 ms at or above THR_HI (R451). -/
def execThermalRaise (c : Nat) (s : State) : Out := s.onChan c fun ch => ch.thermalRaise

/-- The end of 10 ms below THR_LO (R451). -/
def execThermalLower (c : Nat) (s : State) : Out := s.onChan c fun ch => ch.thermalLower

/-- The lit half compares the temperatures of neighbours (R452). -/
def execNeighbourTempCheck (s : State) : Out := s.onAll fun s => s.nbTemp

/-- Ten samples in a row at 105 °C or more (R453). -/
def execOverTemperature (c : Nat) (s : State) : Out := s.onUnit c fun s => s.overTemp c

/-- The averages of 1 ms: input voltage, current and power, and the power of each channel (R454). -/
def execPowerCapRaise (mv ma w : Nat) (watts : List Nat) (s : State) : Out := s.onAll fun s => s.capRaise mv ma w watts

/-- Ten milliseconds below 95 % of both limits (R454). -/
def execPowerCapLower (s : State) : Out := s.onAll fun s => s.capLower

/-- A write of 1 to bits of MOD_CH_OFF (R455). -/
def execChannelPowerDown (req : Requester) (mask : Nat) (s : State) : Out := s.modSet req F.MOD_CH_OFF_OFF 0 mask

/-- A write of 1 to CH_PWR_CTRL.CLR_CNT (R457). -/
def execChPwrClrCnt (req : Requester) (c : Nat) (s : State) : Out := s.chanSet req c F.CH_PWR_CTRL_CLR_CNT 0 1

/-- A write of 1 to MOD_MAP_CTRL.CLR_CNT (R474). -/
def execModMapClrCnt (req : Requester) (s : State) : Out := s.modSet req F.MOD_MAP_CTRL_CLR_CNT 0 1

/-- VIN or VAUX is removed (R456). -/
def execSupplyRemoved (s : State) : Out := .next (s.wipe true)

/-- The debug port asks for an access to a bank or a pseudo-channel (R170). -/
def execDebugPortAccess (c : Nat) (place : ArbPlace) (line : Nat) (wr : Bool) (data : List (BitVec 8)) (mask : List Bool) (s : State) : Out :=
  s.guard (arbPlaceOk place) (s.onChan c fun ch => ch.debugAccess place line wr data mask)

end Sys2Proof.Machine
end

