-- ==== Sys2Proof/Machine/CmdStream.lean ====
section
/-! DEFINITION. Tender, streams and buoy pairs (R208 to R245). -/

namespace Sys2Proof.Machine

/-- A write of TD_Sn_CMD.START (R214). -/
def execStart (req : Requester) (c g n : Nat) (s : State) : Out := s.lanSet req c g F.TD_S_CMD_START n 1

/-- A write of TD_Sn_CMD.STOP (R237). -/
def execStop (req : Requester) (c g n : Nat) (s : State) : Out := s.lanSet req c g F.TD_S_CMD_STOP n 1

/-- A write of TD_Sn_CMD.RESUME (R237). -/
def execResume (req : Requester) (c g n : Nat) (s : State) : Out := s.lanSet req c g F.TD_S_CMD_RESUME n 1

/-- A write of TD_Sn_CMD.ABORT (R237, R238). -/
def execAbort (req : Requester) (c g n : Nat) (s : State) : Out := s.lanSet req c g F.TD_S_CMD_ABORT n 1

/-- A write of TD_Sn_REARM_DST (R235). -/
def execRearm (req : Requester) (c g n dst : Nat) (s : State) : Out := s.lanSet req c g F.TD_S_REARM_DST_DST n dst

/-- A moored stream restarts with its new endpoints (R235). -/
def execStreamRestart (c g n : Nat) (s : State) : Out := s.guard (decide (n < 16)) (s.onLan c g fun ch => ch.streamRestart g n)

/-- The tender gives this cycle's step to a stream (R229); `host` is what the host's memory returns for a step that reads
the host window. -/
def execStreamStep (c g : Nat) (host : List (BitVec 8)) (s : State) : Out := s.onLan c g fun ch => ch.streamStep g host

/-- LOOP (R217). -/
def execLoop (c g : Nat) (s : State) : Out := s.onLan c g fun ch => ch.doLoop g

/-- ADD (R216). -/
def execAdd (c g : Nat) (s : State) : Out := s.onLan c g fun ch => ch.doAdd g

/-- SET (R216). -/
def execSet (c g : Nat) (s : State) : Out := s.onLan c g fun ch => ch.doSet g

/-- XFER (R230); `host` as in STREAM_STEP. -/
def execXfer (c g : Nat) (host : List (BitVec 8)) (s : State) : Out := s.onLan c g fun ch => ch.doXfer g host

/-- FILL (R216). -/
def execFill (c g : Nat) (s : State) : Out := s.onLan c g fun ch => ch.doFill g

/-- SKIP (R218). -/
def execSkip (c g : Nat) (s : State) : Out := s.onLan c g fun ch => ch.doSkip g

/-- END of a stream program (R224). -/
def execProgEnd (c g : Nat) (s : State) : Out := s.onLan c g fun ch => ch.doProgEnd g

/-- One entry of a block list (R220 to R222); `host` as in STREAM_STEP. -/
def execBlockListEntry (c g : Nat) (host : List (BitVec 8)) (s : State) : Out := s.onLan c g fun ch => ch.doListEntry g host

/-- The oldest transfer of a stream retires (R231). -/
def execTransferRetire (c g n : Nat) (s : State) : Out := s.guard (decide (n < 16)) (s.onLan c g fun ch => ch.retire g n)

/-- Every issued transfer of an ending stream has retired (R224). -/
def execStreamEnd (c g n : Nat) (s : State) : Out := s.guard (decide (n < 16)) (s.onLan c g fun ch => ch.streamEnd g n)

/-- The refill of the token buckets (R233). -/
def execTokenRefill (c g : Nat) (s : State) : Out := s.onLan c g fun ch => ch.tokenRefill g

/-- A tick boundary counts stalls (R239). -/
def execStallCount (c g : Nat) (s : State) : Out := s.onLan c g fun ch => ch.stallCount g

/-- STALL has reached STALL_LIM (R239). -/
def execStallLimit (c g n : Nat) (s : State) : Out := s.guard (decide (n < 16)) (s.onLan c g fun ch => ch.stallLimit g n)

/-- The keeper follows the chains of notified streams (R240). -/
def execWaitForCheck (c : Nat) (s : State) : Out := s.onChan c fun ch => ch.waitForCheck

/-- The oldest spilled slot is copied back (R241). -/
def execSpillCopyBack (c g n : Nat) (s : State) : Out := s.guard (decide (n < 16)) (s.onLan c g fun ch => ch.spillCopyBack g n)

/-- STALL has reached STALL_ERR without a cycle (R242). -/
def execStreamStalled (c g n : Nat) (s : State) : Out := s.guard (decide (n < 16)) (s.onLan c g fun ch => ch.streamStalled g n)

/-- A write of 1 to TD_CTRL.CLR_CNT (R244). -/
def execTdClrCnt (req : Requester) (c g : Nat) (s : State) : Out := s.lanSet req c g F.TD_CTRL_CLR_CNT 0 1

/-- A write of LN_BPn_INC.READY_INC (R225). -/
def execBpReadyInc (req : Requester) (c g n v : Nat) (s : State) : Out := s.lanSet req c g F.LN_BP_INC_READY_INC n v

/-- A write of LN_BPn_INC.FREE_INC (R225). -/
def execBpFreeInc (req : Requester) (c g n v : Nat) (s : State) : Out := s.lanSet req c g F.LN_BP_INC_FREE_INC n v

/-- A write of 1 to LN_BPn_CTRL.INIT (R228). -/
def execBpInit (req : Requester) (c g n : Nat) (s : State) : Out := s.lanSet req c g F.LN_BP_CTRL_INIT n 1

/-- The merge hold of a request ends (R232). -/
def execMergeHoldEnd (c g n : Nat) (s : State) : Out := s.guard (decide (n < 16)) (s.onLan c g fun ch => ch.mergeHoldEnd g n)

end Sys2Proof.Machine
end

