-- ==== Sys2Proof/Machine/CmdTask.lean ====
section
/-! DEFINITION. Tasks, work counters and stealing (R246 to R266, R288). -/

namespace Sys2Proof.Machine

/-- A write of LN_TQ_PUSH_HI pushes the entry (R246, R248). -/
def execTaskPush (req : Requester) (c g hi : Nat) (s : State) : Out := s.lanSet req c g F.LN_TQ_PUSH_HI_ENTRY 0 hi

/-- The lantern promotes one task (R249, R250). -/
def execTaskPromote (c g : Nat) (s : State) : Out := s.onLan c g fun ch => ch.taskPromote g

/-- The lantern binds ready tasks to free units (R251, R254). -/
def execTaskBind (c g : Nat) (s : State) : Out := s.onLan c g fun ch => ch.taskBind g

/-- The completed task of a core, or of the vector engine (64), is answered (R252, R289). -/
def execTaskComplete (c g k : Nat) (s : State) : Out := s.guard (decide (k < 65)) (s.onLan c g fun ch => ch.taskEnds g k)

/-- A write of 1 to LN_TQ_CTRL.SQUASH (R254). -/
def execSquash (req : Requester) (c g : Nat) (s : State) : Out := s.lanSet req c g F.LN_TQ_CTRL_SQUASH 0 1

/-- QUEUED contexts are admitted into free slots (R288). -/
def execSequenceAdmit (c : Nat) (s : State) : Out := s.onChan c fun ch => ch.admitAll

/-- A write of LN_WCw_ARM (R256). -/
def execWcArm (req : Requester) (c g w head tail : Nat) (s : State) : Out :=
  s.guard (decide (c < 12) && decide (g < 1536) && decide (w < 16)) (s.regCmd req (winBase c + lanBase g + F.LN_WC_ARM_HEAD.off w) 4 ((head % 2 ^ F.LN_WC_ARM_HEAD.wid) <<< F.LN_WC_ARM_HEAD.lo + (tail % 2 ^ F.LN_WC_ARM_TAIL.wid) <<< F.LN_WC_ARM_TAIL.lo))

/-- An owner claim on a counter (R257, R258, R261). -/
def execOwnerClaim (c g w : Nat) (s : State) : Out := s.guard (decide (w < 16)) (s.onLan c g fun ch => ch.ownerClaim g w)

/-- A lantern sends a steal (R259). -/
def execStealRequest (c g w : Nat) (s : State) : Out := s.guard (decide (w < 16)) (s.onLan c g fun ch => ch.stealRequest g w)

/-- The counter unit serves a queued steal (R257). -/
def execStealServe (c g : Nat) (s : State) : Out := s.onLan c g fun ch => ch.stealServe g

/-- The response to a steal arrives (R259). -/
def execStealResponse (c g w : Nat) (s : State) : Out := s.guard (decide (w < 16)) (s.onLan c g fun ch => ch.stealResponse g w)

/-- The back-off of a counter ends (R259). -/
def execStealBackoffEnd (c g w : Nat) (s : State) : Out :=
  s.guard (decide (w < 16)) (s.onLan c g fun ch => ch.stealBackoffEnd g w)

/-- A completed index reaches its counter (R260, R261). -/
def execIndexComplete (c g : Nat) (s : State) : Out := s.onLan c g fun ch => ch.indexEnds g

/-- A write of LN_WCw_REPLAY (R261). -/
def execWcReplay (req : Requester) (c g w idx : Nat) (s : State) : Out := s.lanSet req c g F.LN_WC_REPLAY_INDEX w idx

end Sys2Proof.Machine
end

