-- ==== Sys2Proof/Machine/CmdTime.lean ====
section
/-! DEFINITION. Frame time, contexts and deadlines (R268 to R297). Times of the bridge count cycles of 250 MHz. -/

namespace Sys2Proof.Machine

/-- An FSYNC edge at time `at_` (R270 to R274). -/
def execFsyncEdge (at_ : Nat) (s : State) : Out := s.onMod fun b => b.fsync at_

/-- LOCKED sets and tick 0 begins (R274). -/
def execTimebaseLock (s : State) : Out := s.onMod fun b => b.lock

/-- Tick 0 begins in holdover without a lock (R274). -/
def execFreerunStart (at_ : Nat) (s : State) : Out := s.onMod fun b => b.freerun at_

/-- A holdover tick of the bridge begins (R271). -/
def execHoldoverTick (s : State) : Out := s.onMod fun b => b.holdoverTick

/-- MISS_RUN has reached MISS_ALARM (R272). -/
def execFrameClockAlarm (s : State) : Out := s.onMod fun b => b.clockAlarm

/-- HOLDOVER clears (R273). -/
def execHoldoverEnd (s : State) : Out := s.onMod fun b => b.holdoverEnd

/-- A write of 1 to TB_CTRL.CLR_CNT (R280). -/
def execTbClrCnt (req : Requester) (s : State) : Out := s.modSet req F.TB_CTRL_CLR_CNT 0 1

/-- The bridge's tick message reaches a channel (R276, R355). -/
def execTickMessage (c : Nat) (s : State) : Out := s.onUnit c fun s => s.tickMessage c

/-- A channel tick begins (R284). -/
def execChannelTick (c : Nat) (s : State) : Out := s.onUnit c fun s => s.channelTick c

/-- A channel tick begins without a message (R277). -/
def execChannelHoldoverTick (c : Nat) (s : State) : Out := s.onUnit c fun s => s.channelHoldover c

/-- DEBT has reached DEBT_ALARM (R290). -/
def execDeadlineDebt (c n : Nat) (s : State) : Out := s.guard (decide (n < 1024)) (s.onChan c fun ch => ch.debtAlarm n)

/-- The keeper breaks an expired lock (R294, R296). -/
def execLockBreak (c n : Nat) (s : State) : Out := s.guard (decide (n < 1024)) (s.onChan c fun ch => ch.lockBreak n)

/-- The context command NONE (R293). -/
def execCtxNone (req : Requester) (c n : Nat) (s : State) : Out := s.ctxSet req c 0 n 0 0 0

/-- The context command ARM (R293, R409). -/
def execCtxArm (req : Requester) (c n owner arg : Nat) (s : State) : Out := s.ctxSet req c 1 n owner 0 arg

/-- The context command HOLD (R293). -/
def execCtxHold (req : Requester) (c n owner : Nat) (s : State) : Out := s.ctxSet req c 2 n owner 0 0

/-- The context command UNHOLD (R293). -/
def execCtxUnhold (req : Requester) (c n owner : Nat) (s : State) : Out := s.ctxSet req c 3 n owner 0 0

/-- The context command FREE (R293). -/
def execCtxFree (req : Requester) (c n owner : Nat) (s : State) : Out := s.ctxSet req c 4 n owner 0 0

/-- The context command CLEAR_DEBT (R293). -/
def execCtxClearDebt (req : Requester) (c n owner : Nat) (s : State) : Out := s.ctxSet req c 5 n owner 0 0

/-- The context command MARK (R285, R293). -/
def execCtxMark (req : Requester) (c n arg : Nat) (s : State) : Out := s.ctxSet req c 6 n 0 0 arg

/-- The context command ACQUIRE (R293, R294). -/
def execCtxAcquire (req : Requester) (c n owner lease : Nat) (s : State) : Out := s.ctxSet req c 7 n owner lease 0

/-- The context command RENEW (R293). -/
def execCtxRenew (req : Requester) (c n owner lease : Nat) (s : State) : Out := s.ctxSet req c 8 n owner lease 0

/-- The context command RELEASE (R293). -/
def execCtxRelease (req : Requester) (c n owner : Nat) (s : State) : Out := s.ctxSet req c 9 n owner 0 0

/-- The context command REVALIDATE (R293, R296). -/
def execCtxRevalidate (req : Requester) (c n owner : Nat) (s : State) : Out := s.ctxSet req c 10 n owner 0 0

/-- A write of 1 to CH_CTX_CTRL.CLR_CNT (R297). -/
def execChCtxClrCnt (req : Requester) (c : Nat) (s : State) : Out := s.chanSet req c F.CH_CTX_CTRL_CLR_CNT 0 1

end Sys2Proof.Machine
end

