-- ==== Sys2Proof/Machine/CmdVector.lean ====
section
/-! DEFINITION. The vector engine (R175 to R207). A command names the lantern; the word is the next of the engine's task. -/

namespace Sys2Proof.Machine

/-- The engine asks for its next instruction line (R177). -/
def execVeLineFetch (c g : Nat) (s : State) : Out := s.onLan c g fun ch => ch.veFetch g

/-- A vector load or store sends one request (R184). -/
def execVeMemRequest (c g : Nat) (s : State) : Out := s.onLan c g fun ch => ch.vmemRequest g

/-- VNOP does nothing (R182). -/
def execVnop (c g : Nat) (s : State) : Out := s.onLan c g fun ch => ch.doVnop g

/-- VTASK opens a vector task (R177, R179). -/
def execVtask (c g : Nat) (s : State) : Out := s.onLan c g fun ch => ch.doVtask g

/-- VEND closes the vector task (R177). -/
def execVend (c g : Nat) (s : State) : Out := s.onLan c g fun ch => ch.doVend g

/-- VSETVL sets VL (R179). -/
def execVsetvl (c g : Nat) (s : State) : Out := s.onLan c g fun ch => ch.doVsetvl g

/-- VLD loads strided elements (R184). -/
def execVld (c g : Nat) (s : State) : Out := s.onLan c g fun ch => ch.vload g 0x08

/-- VST stores the active elements (R184). -/
def execVst (c g : Nat) (s : State) : Out := s.onLan c g fun ch => ch.vstore g 0x09

/-- VLDX loads at the indices in VB (R184). -/
def execVldx (c g : Nat) (s : State) : Out := s.onLan c g fun ch => ch.vload g 0x0A

/-- VSTX stores at the indices in VB (R184). -/
def execVstx (c g : Nat) (s : State) : Out := s.onLan c g fun ch => ch.vstore g 0x0B

/-- MLD loads a mask register (R182). -/
def execMld (c g : Nat) (s : State) : Out := s.onLan c g fun ch => ch.vload g 0x0C

/-- MST stores a mask register (R182). -/
def execMst (c g : Nat) (s : State) : Out := s.onLan c g fun ch => ch.vstore g 0x0D

/-- TLD loads a tile register (R182). -/
def execTld (c g : Nat) (s : State) : Out := s.onLan c g fun ch => ch.vload g 0x0E

/-- TST stores a tile register (R182). -/
def execTst (c g : Nat) (s : State) : Out := s.onLan c g fun ch => ch.vstore g 0x0F

/-- WLD loads partial elements (R202). -/
def execWld (c g : Nat) (s : State) : Out := s.onLan c g fun ch => ch.vload g 0x10

/-- WST stores partial elements (R202). -/
def execWst (c g : Nat) (s : State) : Out := s.onLan c g fun ch => ch.vstore g 0x11

/-- VSLE reads second-level scale entries (R205). -/
def execVsle (c g : Nat) (s : State) : Out := s.onLan c g fun ch => ch.vexec g 0x12 Lantern.vsle

/-- VADD (R192); `chk` is what the residue check of a lane finds (R420). -/
def execVadd (c g lane : Nat) (chk : Check) (s : State) : Out := s.onLan c g fun ch => ch.vexecChk g 0x20 lane chk Lantern.vadd

/-- VSUB (R192, R420). -/
def execVsub (c g lane : Nat) (chk : Check) (s : State) : Out := s.onLan c g fun ch => ch.vexecChk g 0x21 lane chk Lantern.vsub

/-- VMUL (R192, R420). -/
def execVmul (c g lane : Nat) (chk : Check) (s : State) : Out := s.onLan c g fun ch => ch.vexecChk g 0x22 lane chk Lantern.vmul

/-- VFMA (R192, R420). -/
def execVfma (c g lane : Nat) (chk : Check) (s : State) : Out := s.onLan c g fun ch => ch.vexecChk g 0x23 lane chk Lantern.vfma

/-- VFMS (R192, R420). -/
def execVfms (c g lane : Nat) (chk : Check) (s : State) : Out := s.onLan c g fun ch => ch.vexecChk g 0x24 lane chk Lantern.vfms

/-- VMIN (R192). -/
def execVmin (c g : Nat) (s : State) : Out := s.onLan c g fun ch => ch.vexec g 0x25 Lantern.vmin

/-- VMAX (R192). -/
def execVmax (c g : Nat) (s : State) : Out := s.onLan c g fun ch => ch.vexec g 0x26 Lantern.vmax

/-- VABS (R193). -/
def execVabs (c g : Nat) (s : State) : Out := s.onLan c g fun ch => ch.vexec g 0x27 Lantern.vabs

/-- VNEG (R193). -/
def execVneg (c g : Nat) (s : State) : Out := s.onLan c g fun ch => ch.vexec g 0x28 Lantern.vneg

/-- VDIV (R192). -/
def execVdiv (c g : Nat) (s : State) : Out := s.onLan c g fun ch => ch.vexec g 0x29 Lantern.vdiv

/-- VSQRT (R192). -/
def execVsqrt (c g : Nat) (s : State) : Out := s.onLan c g fun ch => ch.vexec g 0x2A Lantern.vsqrt

/-- VLDEXP (R192). -/
def execVldexp (c g : Nat) (s : State) : Out := s.onLan c g fun ch => ch.vexec g 0x2B Lantern.vldexp

/-- VCVT (R193). -/
def execVcvt (c g : Nat) (s : State) : Out := s.onLan c g fun ch => ch.vexec g 0x2C Lantern.vcvt

/-- VAND (R182). -/
def execVand (c g : Nat) (s : State) : Out := s.onLan c g fun ch => ch.vexec g 0x2D Lantern.vand

/-- VOR (R182). -/
def execVor (c g : Nat) (s : State) : Out := s.onLan c g fun ch => ch.vexec g 0x2E Lantern.vor

/-- VXOR (R182). -/
def execVxor (c g : Nat) (s : State) : Out := s.onLan c g fun ch => ch.vexec g 0x2F Lantern.vxor

/-- VSHL (R193). -/
def execVshl (c g : Nat) (s : State) : Out := s.onLan c g fun ch => ch.vexec g 0x30 Lantern.vshl

/-- VSHR (R193). -/
def execVshr (c g : Nat) (s : State) : Out := s.onLan c g fun ch => ch.vexec g 0x31 Lantern.vshr

/-- VSEL (R182). -/
def execVsel (c g : Nat) (s : State) : Out := s.onLan c g fun ch => ch.vexec g 0x32 Lantern.vsel

/-- VMOVI (R182). -/
def execVmovi (c g : Nat) (s : State) : Out := s.onLan c g fun ch => ch.vexec g 0x33 Lantern.vmovi

/-- VBCAST (R182). -/
def execVbcast (c g : Nat) (s : State) : Out := s.onLan c g fun ch => ch.vexec g 0x34 Lantern.vbcast

/-- VEXP (R194). -/
def execVexp (c g : Nat) (s : State) : Out := s.onLan c g fun ch => ch.vexec g 0x38 (·.vtransc .exp)

/-- VEXP2 (R194). -/
def execVexp2 (c g : Nat) (s : State) : Out := s.onLan c g fun ch => ch.vexec g 0x39 (·.vtransc .exp2)

/-- VLOG (R194). -/
def execVlog (c g : Nat) (s : State) : Out := s.onLan c g fun ch => ch.vexec g 0x3A (·.vtransc .log)

/-- VLOG2 (R194). -/
def execVlog2 (c g : Nat) (s : State) : Out := s.onLan c g fun ch => ch.vexec g 0x3B (·.vtransc .log2)

/-- VRCP (R194). -/
def execVrcp (c g : Nat) (s : State) : Out := s.onLan c g fun ch => ch.vexec g 0x3C (·.vtransc .rcp)

/-- VRSQRT (R194). -/
def execVrsqrt (c g : Nat) (s : State) : Out := s.onLan c g fun ch => ch.vexec g 0x3D (·.vtransc .rsqrt)

/-- VTANH (R194). -/
def execVtanh (c g : Nat) (s : State) : Out := s.onLan c g fun ch => ch.vexec g 0x3E (·.vtransc .tanh)

/-- VSIGM (R194). -/
def execVsigm (c g : Nat) (s : State) : Out := s.onLan c g fun ch => ch.vexec g 0x3F (·.vtransc .sigm)

/-- VCMP (R186). -/
def execVcmp (c g : Nat) (s : State) : Out := s.onLan c g fun ch => ch.vexec g 0x40 Lantern.vcmp

/-- MLOGIC (R182). -/
def execMlogic (c g : Nat) (s : State) : Out := s.onLan c g fun ch => ch.vexec g 0x41 Lantern.mlogic

/-- MPOPC (R182). -/
def execMpopc (c g : Nat) (s : State) : Out := s.onLan c g fun ch => ch.vexec g 0x42 Lantern.mpopc

/-- VCOMP (R187). -/
def execVcomp (c g : Nat) (s : State) : Out := s.onLan c g fun ch => ch.vexec g 0x48 Lantern.vcomp

/-- VEXPD (R188). -/
def execVexpd (c g : Nat) (s : State) : Out := s.onLan c g fun ch => ch.vexec g 0x49 Lantern.vexpd

/-- VPERM (R189). -/
def execVperm (c g : Nat) (s : State) : Out := s.onLan c g fun ch => ch.vexec g 0x4A Lantern.vperm

/-- VSLIDE (R189). -/
def execVslide (c g : Nat) (s : State) : Out := s.onLan c g fun ch => ch.vexec g 0x4B Lantern.vslide

/-- VRED (R190). -/
def execVred (c g : Nat) (s : State) : Out := s.onLan c g fun ch => ch.vexec g 0x50 Lantern.vred

/-- TRED (R191). -/
def execTred (c g : Nat) (s : State) : Out := s.onLan c g fun ch => ch.vexec g 0x51 Lantern.tred

/-- TGET (R182). -/
def execTget (c g : Nat) (s : State) : Out := s.onLan c g fun ch => ch.vexec g 0x52 Lantern.tget

/-- TPUT (R182). -/
def execTput (c g : Nat) (s : State) : Out := s.onLan c g fun ch => ch.vexec g 0x53 Lantern.tput

/-- TOPV (R191). -/
def execTopv (c g : Nat) (s : State) : Out := s.onLan c g fun ch => ch.vexec g 0x54 Lantern.topv

/-- TOPT (R182). -/
def execTopt (c g : Nat) (s : State) : Out := s.onLan c g fun ch => ch.vexec g 0x55 Lantern.topt

/-- SMX (R199 to R201). -/
def execSmx (c g : Nat) (s : State) : Out := s.onLan c g fun ch => ch.vexec g 0x58 Lantern.smx

/-- RSTAT (R196). -/
def execRstat (c g : Nat) (s : State) : Out := s.onLan c g fun ch => ch.vexec g 0x59 Lantern.rstat

/-- RCOMB (R197). -/
def execRcomb (c g : Nat) (s : State) : Out := s.onLan c g fun ch => ch.vexec g 0x5A Lantern.rcomb

/-- RMV (R198). -/
def execRmv (c g : Nat) (s : State) : Out := s.onLan c g fun ch => ch.vexec g 0x5B Lantern.rmv

/-- WADD (R203). -/
def execWadd (c g : Nat) (s : State) : Out := s.onLan c g fun ch => ch.vexec g 0x60 Lantern.wadd

/-- WFIN (R204). -/
def execWfin (c g : Nat) (s : State) : Out := s.onLan c g fun ch => ch.vexec g 0x61 Lantern.wfin

/-- A write of 1 to VE_CTRL.CLR_CNT (R207). -/
def execVeClrCnt (req : Requester) (c g : Nat) (s : State) : Out := s.lanSet req c g F.VE_CTRL_CLR_CNT 0 1

end Sys2Proof.Machine
end

