-- ==== Sys2Proof/Machine/Dispatch.lean ====
section
/-! DEFINITION. The meaning of each command by its constructor. -/

namespace Sys2Proof.Machine

/-- What a command does (every rule its meaning names). -/
def exec (i : Instr) (s : State) : Host.Outcome State Fault Refusal :=
  match i with
  | .registerWrite req a z v => Sys2Proof.Machine.execRegisterWrite req a z v s
  | .lowHalfRead req a => Sys2Proof.Machine.execLowHalfRead req a s
  | .coAccDataRead req c g k part => Sys2Proof.Machine.execCoAccDataRead req c g k part s
  | .i3cTransaction o wr v => Sys2Proof.Machine.execI3cTransaction o wr v s
  | .attachmentFailed c a => Sys2Proof.Machine.execAttachmentFailed c a s
  | .attachmentLost c a => Sys2Proof.Machine.execAttachmentLost c a s
  | .misdirectedAccess c a => Sys2Proof.Machine.execMisdirectedAccess c a s
  | .insnLineFetch c g k => Sys2Proof.Machine.execInsnLineFetch c g k s
  | .nop c g k => Sys2Proof.Machine.execNop c g k s
  | .task c g k => Sys2Proof.Machine.execTask c g k s
  | .oload c g k => Sys2Proof.Machine.execOload c g k s
  | .oloadLineRequest c g k => Sys2Proof.Machine.execOloadLineRequest c g k s
  | .oloadLineWrite c g k => Sys2Proof.Machine.execOloadLineWrite c g k s
  | .transposeGather c g k => Sys2Proof.Machine.execTransposeGather c g k s
  | .tmul c g k => Sys2Proof.Machine.execTmul c g k s
  | .tmulStart c g k chk => Sys2Proof.Machine.execTmulStart c g k chk s
  | .intersectGroup c g k => Sys2Proof.Machine.execIntersectGroup c g k s
  | .mergeCycle c g k => Sys2Proof.Machine.execMergeCycle c g k s
  | .gatherCycle c g k => Sys2Proof.Machine.execGatherCycle c g k s
  | .sliceStageBegin c g k => Sys2Proof.Machine.execSliceStageBegin c g k s
  | .sliceTakePair c g k col chk => Sys2Proof.Machine.execSliceTakePair c g k col chk s
  | .accumulate c g k col => Sys2Proof.Machine.execAccumulate c g k col s
  | .drain c g k => Sys2Proof.Machine.execDrain c g k s
  | .drainStart c g k => Sys2Proof.Machine.execDrainStart c g k s
  | .drainRowRead c g k col chk => Sys2Proof.Machine.execDrainRowRead c g k col chk s
  | .drainLineWrite c g k => Sys2Proof.Machine.execDrainLineWrite c g k s
  | .fence c g k => Sys2Proof.Machine.execFence c g k s
  | .taskEnd c g k => Sys2Proof.Machine.execTaskEnd c g k s
  | .coClrCnt req c g k => Sys2Proof.Machine.execCoClrCnt req c g k s
  | .park req c g => Sys2Proof.Machine.execPark req c g s
  | .parkReached c g => Sys2Proof.Machine.execParkReached c g s
  | .lanternResume req c g => Sys2Proof.Machine.execLanternResume req c g s
  | .lanternUnpark c g => Sys2Proof.Machine.execLanternUnpark c g s
  | .lnClrCnt req c g => Sys2Proof.Machine.execLnClrCnt req c g s
  | .lanternPipeCycle c g => Sys2Proof.Machine.execLanternPipeCycle c g s
  | .scratchpadAccessGrant c g b w chk => Sys2Proof.Machine.execScratchpadAccessGrant c g b w chk s
  | .scratchpadWindowAccess req c g off z wr v => Sys2Proof.Machine.execScratchpadWindowAccess req c g off z wr v s
  | .lnPoisonEn req c g => Sys2Proof.Machine.execLnPoisonEn req c g s
  | .fabricWriteHeader c g b => Sys2Proof.Machine.execFabricWriteHeader c g b s
  | .bankPdRequest c g b => Sys2Proof.Machine.execBankPdRequest c g b s
  | .bankRetention c g b => Sys2Proof.Machine.execBankRetention c g b s
  | .bankPdTimeout c g b => Sys2Proof.Machine.execBankPdTimeout c g b s
  | .bankWake c g b => Sys2Proof.Machine.execBankWake c g b s
  | .bankAwake c g b => Sys2Proof.Machine.execBankAwake c g b s
  | .arbiterDecision c place => Sys2Proof.Machine.execArbiterDecision c place s
  | .veLineFetch c g => Sys2Proof.Machine.execVeLineFetch c g s
  | .veMemRequest c g => Sys2Proof.Machine.execVeMemRequest c g s
  | .vnop c g => Sys2Proof.Machine.execVnop c g s
  | .vtask c g => Sys2Proof.Machine.execVtask c g s
  | .vend c g => Sys2Proof.Machine.execVend c g s
  | .vsetvl c g => Sys2Proof.Machine.execVsetvl c g s
  | .vld c g => Sys2Proof.Machine.execVld c g s
  | .vst c g => Sys2Proof.Machine.execVst c g s
  | .vldx c g => Sys2Proof.Machine.execVldx c g s
  | .vstx c g => Sys2Proof.Machine.execVstx c g s
  | .mld c g => Sys2Proof.Machine.execMld c g s
  | .mst c g => Sys2Proof.Machine.execMst c g s
  | .tld c g => Sys2Proof.Machine.execTld c g s
  | .tst c g => Sys2Proof.Machine.execTst c g s
  | .wld c g => Sys2Proof.Machine.execWld c g s
  | .wst c g => Sys2Proof.Machine.execWst c g s
  | .vsle c g => Sys2Proof.Machine.execVsle c g s
  | .vadd c g lane chk => Sys2Proof.Machine.execVadd c g lane chk s
  | .vsub c g lane chk => Sys2Proof.Machine.execVsub c g lane chk s
  | .vmul c g lane chk => Sys2Proof.Machine.execVmul c g lane chk s
  | .vfma c g lane chk => Sys2Proof.Machine.execVfma c g lane chk s
  | .vfms c g lane chk => Sys2Proof.Machine.execVfms c g lane chk s
  | .vmin c g => Sys2Proof.Machine.execVmin c g s
  | .vmax c g => Sys2Proof.Machine.execVmax c g s
  | .vabs c g => Sys2Proof.Machine.execVabs c g s
  | .vneg c g => Sys2Proof.Machine.execVneg c g s
  | .vdiv c g => Sys2Proof.Machine.execVdiv c g s
  | .vsqrt c g => Sys2Proof.Machine.execVsqrt c g s
  | .vldexp c g => Sys2Proof.Machine.execVldexp c g s
  | .vcvt c g => Sys2Proof.Machine.execVcvt c g s
  | .vand c g => Sys2Proof.Machine.execVand c g s
  | .vor c g => Sys2Proof.Machine.execVor c g s
  | .vxor c g => Sys2Proof.Machine.execVxor c g s
  | .vshl c g => Sys2Proof.Machine.execVshl c g s
  | .vshr c g => Sys2Proof.Machine.execVshr c g s
  | .vsel c g => Sys2Proof.Machine.execVsel c g s
  | .vmovi c g => Sys2Proof.Machine.execVmovi c g s
  | .vbcast c g => Sys2Proof.Machine.execVbcast c g s
  | .vexp c g => Sys2Proof.Machine.execVexp c g s
  | .vexp2 c g => Sys2Proof.Machine.execVexp2 c g s
  | .vlog c g => Sys2Proof.Machine.execVlog c g s
  | .vlog2 c g => Sys2Proof.Machine.execVlog2 c g s
  | .vrcp c g => Sys2Proof.Machine.execVrcp c g s
  | .vrsqrt c g => Sys2Proof.Machine.execVrsqrt c g s
  | .vtanh c g => Sys2Proof.Machine.execVtanh c g s
  | .vsigm c g => Sys2Proof.Machine.execVsigm c g s
  | .vcmp c g => Sys2Proof.Machine.execVcmp c g s
  | .mlogic c g => Sys2Proof.Machine.execMlogic c g s
  | .mpopc c g => Sys2Proof.Machine.execMpopc c g s
  | .vcomp c g => Sys2Proof.Machine.execVcomp c g s
  | .vexpd c g => Sys2Proof.Machine.execVexpd c g s
  | .vperm c g => Sys2Proof.Machine.execVperm c g s
  | .vslide c g => Sys2Proof.Machine.execVslide c g s
  | .vred c g => Sys2Proof.Machine.execVred c g s
  | .tred c g => Sys2Proof.Machine.execTred c g s
  | .tget c g => Sys2Proof.Machine.execTget c g s
  | .tput c g => Sys2Proof.Machine.execTput c g s
  | .topv c g => Sys2Proof.Machine.execTopv c g s
  | .topt c g => Sys2Proof.Machine.execTopt c g s
  | .smx c g => Sys2Proof.Machine.execSmx c g s
  | .rstat c g => Sys2Proof.Machine.execRstat c g s
  | .rcomb c g => Sys2Proof.Machine.execRcomb c g s
  | .rmv c g => Sys2Proof.Machine.execRmv c g s
  | .wadd c g => Sys2Proof.Machine.execWadd c g s
  | .wfin c g => Sys2Proof.Machine.execWfin c g s
  | .veClrCnt req c g => Sys2Proof.Machine.execVeClrCnt req c g s
  | .start req c g n => Sys2Proof.Machine.execStart req c g n s
  | .stop req c g n => Sys2Proof.Machine.execStop req c g n s
  | .resume req c g n => Sys2Proof.Machine.execResume req c g n s
  | .abort req c g n => Sys2Proof.Machine.execAbort req c g n s
  | .rearm req c g n dst => Sys2Proof.Machine.execRearm req c g n dst s
  | .streamRestart c g n => Sys2Proof.Machine.execStreamRestart c g n s
  | .streamStep c g host => Sys2Proof.Machine.execStreamStep c g host s
  | .loop c g => Sys2Proof.Machine.execLoop c g s
  | .add c g => Sys2Proof.Machine.execAdd c g s
  | .set c g => Sys2Proof.Machine.execSet c g s
  | .xfer c g host => Sys2Proof.Machine.execXfer c g host s
  | .fill c g => Sys2Proof.Machine.execFill c g s
  | .skip c g => Sys2Proof.Machine.execSkip c g s
  | .progEnd c g => Sys2Proof.Machine.execProgEnd c g s
  | .blockListEntry c g host => Sys2Proof.Machine.execBlockListEntry c g host s
  | .transferRetire c g n => Sys2Proof.Machine.execTransferRetire c g n s
  | .streamEnd c g n => Sys2Proof.Machine.execStreamEnd c g n s
  | .tokenRefill c g => Sys2Proof.Machine.execTokenRefill c g s
  | .stallCount c g => Sys2Proof.Machine.execStallCount c g s
  | .stallLimit c g n => Sys2Proof.Machine.execStallLimit c g n s
  | .waitForCheck c => Sys2Proof.Machine.execWaitForCheck c s
  | .spillCopyBack c g n => Sys2Proof.Machine.execSpillCopyBack c g n s
  | .streamStalled c g n => Sys2Proof.Machine.execStreamStalled c g n s
  | .tdClrCnt req c g => Sys2Proof.Machine.execTdClrCnt req c g s
  | .bpReadyInc req c g n v => Sys2Proof.Machine.execBpReadyInc req c g n v s
  | .bpFreeInc req c g n v => Sys2Proof.Machine.execBpFreeInc req c g n v s
  | .bpInit req c g n => Sys2Proof.Machine.execBpInit req c g n s
  | .mergeHoldEnd c g n => Sys2Proof.Machine.execMergeHoldEnd c g n s
  | .taskPush req c g hi => Sys2Proof.Machine.execTaskPush req c g hi s
  | .taskPromote c g => Sys2Proof.Machine.execTaskPromote c g s
  | .taskBind c g => Sys2Proof.Machine.execTaskBind c g s
  | .taskComplete c g k => Sys2Proof.Machine.execTaskComplete c g k s
  | .squash req c g => Sys2Proof.Machine.execSquash req c g s
  | .sequenceAdmit c => Sys2Proof.Machine.execSequenceAdmit c s
  | .wcArm req c g w head tail => Sys2Proof.Machine.execWcArm req c g w head tail s
  | .ownerClaim c g w => Sys2Proof.Machine.execOwnerClaim c g w s
  | .stealRequest c g w => Sys2Proof.Machine.execStealRequest c g w s
  | .stealServe c g => Sys2Proof.Machine.execStealServe c g s
  | .stealResponse c g w => Sys2Proof.Machine.execStealResponse c g w s
  | .stealBackoffEnd c g w => Sys2Proof.Machine.execStealBackoffEnd c g w s
  | .indexComplete c g => Sys2Proof.Machine.execIndexComplete c g s
  | .wcReplay req c g w idx => Sys2Proof.Machine.execWcReplay req c g w idx s
  | .fsyncEdge at_ => Sys2Proof.Machine.execFsyncEdge at_ s
  | .timebaseLock => Sys2Proof.Machine.execTimebaseLock s
  | .freerunStart at_ => Sys2Proof.Machine.execFreerunStart at_ s
  | .holdoverTick => Sys2Proof.Machine.execHoldoverTick s
  | .frameClockAlarm => Sys2Proof.Machine.execFrameClockAlarm s
  | .holdoverEnd => Sys2Proof.Machine.execHoldoverEnd s
  | .tbClrCnt req => Sys2Proof.Machine.execTbClrCnt req s
  | .tickMessage c => Sys2Proof.Machine.execTickMessage c s
  | .channelTick c => Sys2Proof.Machine.execChannelTick c s
  | .channelHoldoverTick c => Sys2Proof.Machine.execChannelHoldoverTick c s
  | .deadlineDebt c n => Sys2Proof.Machine.execDeadlineDebt c n s
  | .lockBreak c n => Sys2Proof.Machine.execLockBreak c n s
  | .ctxNone req c n => Sys2Proof.Machine.execCtxNone req c n s
  | .ctxArm req c n owner arg => Sys2Proof.Machine.execCtxArm req c n owner arg s
  | .ctxHold req c n owner => Sys2Proof.Machine.execCtxHold req c n owner s
  | .ctxUnhold req c n owner => Sys2Proof.Machine.execCtxUnhold req c n owner s
  | .ctxFree req c n owner => Sys2Proof.Machine.execCtxFree req c n owner s
  | .ctxClearDebt req c n owner => Sys2Proof.Machine.execCtxClearDebt req c n owner s
  | .ctxMark req c n arg => Sys2Proof.Machine.execCtxMark req c n arg s
  | .ctxAcquire req c n owner lease => Sys2Proof.Machine.execCtxAcquire req c n owner lease s
  | .ctxRenew req c n owner lease => Sys2Proof.Machine.execCtxRenew req c n owner lease s
  | .ctxRelease req c n owner => Sys2Proof.Machine.execCtxRelease req c n owner s
  | .ctxRevalidate req c n owner => Sys2Proof.Machine.execCtxRevalidate req c n owner s
  | .chCtxClrCnt req c => Sys2Proof.Machine.execChCtxClrCnt req c s
  | .hbmWindowStart c => Sys2Proof.Machine.execHbmWindowStart c s
  | .lendingStart c => Sys2Proof.Machine.execLendingStart c s
  | .shareGateAdmit c cls => Sys2Proof.Machine.execShareGateAdmit c cls s
  | .hbmReadComplete c p at_ errs odecc miss => Sys2Proof.Machine.execHbmReadComplete c p at_ errs odecc miss s
  | .hbmReadModifyWrite c p at_ errs odecc miss => Sys2Proof.Machine.execHbmReadModifyWrite c p at_ errs odecc miss s
  | .refreshDue c p => Sys2Proof.Machine.execRefreshDue c p s
  | .refreshEmergency c p => Sys2Proof.Machine.execRefreshEmergency c p s
  | .scrubRead c line errs odecc miss => Sys2Proof.Machine.execScrubRead c line errs odecc miss s
  | .retrainExamine c p pin => Sys2Proof.Machine.execRetrainExamine c p pin s
  | .xltWalk c page => Sys2Proof.Machine.execXltWalk c page s
  | .xltInvPage req c page => Sys2Proof.Machine.execXltInvPage req c page s
  | .xltInvAll req c => Sys2Proof.Machine.execXltInvAll req c s
  | .invalidateDone c => Sys2Proof.Machine.execInvalidateDone c s
  | .pageFaultTimeout c page => Sys2Proof.Machine.execPageFaultTimeout c page s
  | .hmClrCnt req c => Sys2Proof.Machine.execHmClrCnt req c s
  | .trainingFrame c p lane hdr eq desk => Sys2Proof.Machine.execTrainingFrame c p lane hdr eq desk s
  | .linkTrainStepDone c p => Sys2Proof.Machine.execLinkTrainStepDone c p s
  | .linkTrainTimeout c p => Sys2Proof.Machine.execLinkTrainTimeout c p s
  | .linkRetry c p => Sys2Proof.Machine.execLinkRetry c p s
  | .linkRetrain c p => Sys2Proof.Machine.execLinkRetrain c p s
  | .lkCtrlRetrain req c p => Sys2Proof.Machine.execLkCtrlRetrain req c p s
  | .lkClrCnt req c p => Sys2Proof.Machine.execLkClrCnt req c p s
  | .markerSend c p => Sys2Proof.Machine.execMarkerSend c p s
  | .markerReceive c p blocks => Sys2Proof.Machine.execMarkerReceive c p blocks s
  | .markerLockLost c p => Sys2Proof.Machine.execMarkerLockLost c p s
  | .flitSlot c p now => Sys2Proof.Machine.execFlitSlot c p now s
  | .flitReceive c p lanes => Sys2Proof.Machine.execFlitReceive c p lanes s
  | .nakTimeout c p => Sys2Proof.Machine.execNakTimeout c p s
  | .creditTimeout c p => Sys2Proof.Machine.execCreditTimeout c p s
  | .init c p => Sys2Proof.Machine.execInit c p s
  | .ping c p now => Sys2Proof.Machine.execPing c p now s
  | .pong c p now => Sys2Proof.Machine.execPong c p now s
  | .credit c p => Sys2Proof.Machine.execCredit c p s
  | .rot c p => Sys2Proof.Machine.execRot c p s
  | .rotAck c p => Sys2Proof.Machine.execRotAck c p s
  | .txeq c p => Sys2Proof.Machine.execTxeq c p s
  | .retrain c p => Sys2Proof.Machine.execRetrain c p s
  | .rotationPhase c p => Sys2Proof.Machine.execRotationPhase c p s
  | .laneRecalThreshold c p n => Sys2Proof.Machine.execLaneRecalThreshold c p n s
  | .rdReq c => Sys2Proof.Machine.execRdReq c s
  | .wrReq c => Sys2Proof.Machine.execWrReq c s
  | .rdRsp c => Sys2Proof.Machine.execRdRsp c s
  | .wrAck c => Sys2Proof.Machine.execWrAck c s
  | .requestTimeout c tag => Sys2Proof.Machine.execRequestTimeout c tag s
  | .bpUpdate c => Sys2Proof.Machine.execBpUpdate c s
  | .fifoData c => Sys2Proof.Machine.execFifoData c s
  | .bpData c => Sys2Proof.Machine.execBpData c s
  | .ctxMarkPacket c => Sys2Proof.Machine.execCtxMarkPacket c s
  | .tick c at_ => Sys2Proof.Machine.execTick c at_ s
  | .fog c => Sys2Proof.Machine.execFog c s
  | .routeSettleEnd c dst => Sys2Proof.Machine.execRouteSettleEnd c dst s
  | .lkRtClrCnt req c => Sys2Proof.Machine.execLkRtClrCnt req c s
  | .cut req c n => Sys2Proof.Machine.execCut req c n s
  | .flush req c n => Sys2Proof.Machine.execFlush req c n s
  | .fifoLevel c n => Sys2Proof.Machine.execFifoLevel c n s
  | .perstAssert => Sys2Proof.Machine.execPerstAssert s
  | .perstDeassert => Sys2Proof.Machine.execPerstDeassert s
  | .functionLevelReset => Sys2Proof.Machine.execFunctionLevelReset s
  | .hostLinkDown => Sys2Proof.Machine.execHostLinkDown s
  | .configRequest o wr v => Sys2Proof.Machine.execConfigRequest o wr v s
  | .apertureAccess off z wr v => Sys2Proof.Machine.execApertureAccess off z wr v s
  | .hdmRead d tag enter => Sys2Proof.Machine.execHdmRead d tag enter s
  | .hdmWrite d tag data mask => Sys2Proof.Machine.execHdmWrite d tag data mask s
  | .biRspI c line wb => Sys2Proof.Machine.execBiRspI c line wb s
  | .biTimeout c line => Sys2Proof.Machine.execBiTimeout c line s
  | .crTailDoorbell r off size v => Sys2Proof.Machine.execCrTailDoorbell r off size v s
  | .cpHeadDoorbell r v => Sys2Proof.Machine.execCpHeadDoorbell r v s
  | .ringEnable req r => Sys2Proof.Machine.execRingEnable req r s
  | .commandFetch r entry => Sys2Proof.Machine.execCommandFetch r entry s
  | .cmdNop r => Sys2Proof.Machine.execCmdNop r s
  | .cmdCtx r => Sys2Proof.Machine.execCmdCtx r s
  | .cmdPageReady r => Sys2Proof.Machine.execCmdPageReady r s
  | .cmdMove r data errs => Sys2Proof.Machine.execCmdMove r data errs s
  | .cmdSnap r => Sys2Proof.Machine.execCmdSnap r s
  | .cmdRegWrite r => Sys2Proof.Machine.execCmdRegWrite r s
  | .completionWrite r => Sys2Proof.Machine.execCompletionWrite r s
  | .msixCoalesceFlush r => Sys2Proof.Machine.execMsixCoalesceFlush r s
  | .msixUnmask vec addr data mask => Sys2Proof.Machine.execMsixUnmask vec addr data mask s
  | .hpClrCnt req => Sys2Proof.Machine.execHpClrCnt req s
  | .identifyMemoryDevice => Sys2Proof.Machine.execIdentifyMemoryDevice s
  | .getSupportedLogs => Sys2Proof.Machine.execGetSupportedLogs s
  | .getLog => Sys2Proof.Machine.execGetLog s
  | .getHealthInfo => Sys2Proof.Machine.execGetHealthInfo s
  | .mailboxUnsupported => Sys2Proof.Machine.execMailboxUnsupported s
  | .hostLinkUp rates widths flit68 => Sys2Proof.Machine.execHostLinkUp rates widths flit68 s
  | .deviceCacheSnoop addr => Sys2Proof.Machine.execDeviceCacheSnoop addr s
  | .getVersion => Sys2Proof.Machine.execGetVersion s
  | .getCapabilities => Sys2Proof.Machine.execGetCapabilities s
  | .negotiateAlgorithms => Sys2Proof.Machine.execNegotiateAlgorithms s
  | .getDigests => Sys2Proof.Machine.execGetDigests s
  | .getCertificate off len => Sys2Proof.Machine.execGetCertificate off len s
  | .challenge => Sys2Proof.Machine.execChallenge s
  | .getMeasurements index => Sys2Proof.Machine.execGetMeasurements index s
  | .spdmUnsupported => Sys2Proof.Machine.execSpdmUnsupported s
  | .modResetAssert => Sys2Proof.Machine.execModResetAssert s
  | .modResetRelease pref => Sys2Proof.Machine.execModResetRelease pref s
  | .romSelfTestDone h pass idOk => Sys2Proof.Machine.execRomSelfTestDone h pass idOk s
  | .electionTimeout h => Sys2Proof.Machine.execElectionTimeout h s
  | .tokenFrameSend silent => Sys2Proof.Machine.execTokenFrameSend silent s
  | .tokenFrame h w => Sys2Proof.Machine.execTokenFrame h w s
  | .lightTakeover h => Sys2Proof.Machine.execLightTakeover h s
  | .halfWatchdog h => Sys2Proof.Machine.execHalfWatchdog h s
  | .imageVerify responds => Sys2Proof.Machine.execImageVerify responds s
  | .keeperFwLanded c => Sys2Proof.Machine.execKeeperFwLanded c s
  | .distributionTimeout c => Sys2Proof.Machine.execDistributionTimeout c s
  | .calibrationDone c rep => Sys2Proof.Machine.execCalibrationDone c rep s
  | .calibrationTimeout c => Sys2Proof.Machine.execCalibrationTimeout c s
  | .go req => Sys2Proof.Machine.execGo req s
  | .flashRead req dev addr => Sys2Proof.Machine.execFlashRead req dev addr s
  | .flashProgram req dev addr => Sys2Proof.Machine.execFlashProgram req dev addr s
  | .flashErase req dev addr => Sys2Proof.Machine.execFlashErase req dev addr s
  | .flashCmdDone err => Sys2Proof.Machine.execFlashCmdDone err s
  | .keeperTakeRecord who => Sys2Proof.Machine.execKeeperTakeRecord who s
  | .healthWindow c => Sys2Proof.Machine.execHealthWindow c s
  | .coreRetireComplete c g n => Sys2Proof.Machine.execCoreRetireComplete c g n s
  | .coreRetireTimeout c g n => Sys2Proof.Machine.execCoreRetireTimeout c g n s
  | .channelLoss c => Sys2Proof.Machine.execChannelLoss c s
  | .placementResume c => Sys2Proof.Machine.execPlacementResume c s
  | .keeperFault c => Sys2Proof.Machine.execKeeperFault c s
  | .fabricFault c => Sys2Proof.Machine.execFabricFault c s
  | .moduleFatal => Sys2Proof.Machine.execModuleFatal s
  | .fogNLow => Sys2Proof.Machine.execFogNLow s
  | .fogLineTimeout => Sys2Proof.Machine.execFogLineTimeout s
  | .dumpDone c => Sys2Proof.Machine.execDumpDone c s
  | .dumpHostCopy => Sys2Proof.Machine.execDumpHostCopy s
  | .errClrCnt req c => Sys2Proof.Machine.execErrClrCnt req c s
  | .errModClrCnt req => Sys2Proof.Machine.execErrModClrCnt req s
  | .supplySample vin vaux rails => Sys2Proof.Machine.execSupplySample vin vaux rails s
  | .supplyFault => Sys2Proof.Machine.execSupplyFault s
  | .neighbourVoltageCheck => Sys2Proof.Machine.execNeighbourVoltageCheck s
  | .clockSwitch c => Sys2Proof.Machine.execClockSwitch c s
  | .opChangeDone c => Sys2Proof.Machine.execOpChangeDone c s
  | .vcoreDroop c => Sys2Proof.Machine.execVcoreDroop c s
  | .droopRecover c => Sys2Proof.Machine.execDroopRecover c s
  | .tempSample c logic base stack => Sys2Proof.Machine.execTempSample c logic base stack s
  | .thermalRaise c => Sys2Proof.Machine.execThermalRaise c s
  | .thermalLower c => Sys2Proof.Machine.execThermalLower c s
  | .neighbourTempCheck => Sys2Proof.Machine.execNeighbourTempCheck s
  | .overTemperature c => Sys2Proof.Machine.execOverTemperature c s
  | .powerCapRaise mv ma w watts => Sys2Proof.Machine.execPowerCapRaise mv ma w watts s
  | .powerCapLower => Sys2Proof.Machine.execPowerCapLower s
  | .channelPowerDown req mask => Sys2Proof.Machine.execChannelPowerDown req mask s
  | .chPwrClrCnt req c => Sys2Proof.Machine.execChPwrClrCnt req c s
  | .modMapClrCnt req => Sys2Proof.Machine.execModMapClrCnt req s
  | .supplyRemoved => Sys2Proof.Machine.execSupplyRemoved s
  | .debugPortAccess c place line wr data mask => Sys2Proof.Machine.execDebugPortAccess c place line wr data mask s

end Sys2Proof.Machine
end

