-- ==== Sys2Proof/Reach.lean ====
section
/-! DEFINITION. Where a command acts: inside one channel, in one lantern's array and lantern domain, or in the bridge alone. -/

namespace Sys2Proof

/-- The channel inside which a command acts (R24); none for a command that acts in the bridge, in several channels, or over a
requester's access. -/
def Instr.channelOf : Instr → Option Nat
  | .misdirectedAccess c _ => some c
  | .insnLineFetch c _ _ => some c
  | .nop c _ _ => some c
  | .task c _ _ => some c
  | .oload c _ _ => some c
  | .oloadLineRequest c _ _ => some c
  | .oloadLineWrite c _ _ => some c
  | .transposeGather c _ _ => some c
  | .tmul c _ _ => some c
  | .tmulStart c _ _ _ => some c
  | .intersectGroup c _ _ => some c
  | .mergeCycle c _ _ => some c
  | .gatherCycle c _ _ => some c
  | .sliceStageBegin c _ _ => some c
  | .sliceTakePair c _ _ _ _ => some c
  | .accumulate c _ _ _ => some c
  | .drain c _ _ => some c
  | .drainStart c _ _ => some c
  | .drainRowRead c _ _ _ _ => some c
  | .drainLineWrite c _ _ => some c
  | .fence c _ _ => some c
  | .taskEnd c _ _ => some c
  | .parkReached c _ => some c
  | .lanternUnpark c _ => some c
  | .lanternPipeCycle c _ => some c
  | .scratchpadAccessGrant c _ _ _ _ => some c
  | .fabricWriteHeader c _ _ => some c
  | .bankPdRequest c _ _ => some c
  | .bankRetention c _ _ => some c
  | .bankPdTimeout c _ _ => some c
  | .bankWake c _ _ => some c
  | .bankAwake c _ _ => some c
  | .arbiterDecision c _ => some c
  | .veLineFetch c _ => some c
  | .veMemRequest c _ => some c
  | .vnop c _ => some c
  | .vtask c _ => some c
  | .vend c _ => some c
  | .vsetvl c _ => some c
  | .vld c _ => some c
  | .vst c _ => some c
  | .vldx c _ => some c
  | .vstx c _ => some c
  | .mld c _ => some c
  | .mst c _ => some c
  | .tld c _ => some c
  | .tst c _ => some c
  | .wld c _ => some c
  | .wst c _ => some c
  | .vsle c _ => some c
  | .vadd c _ _ _ => some c
  | .vsub c _ _ _ => some c
  | .vmul c _ _ _ => some c
  | .vfma c _ _ _ => some c
  | .vfms c _ _ _ => some c
  | .vmin c _ => some c
  | .vmax c _ => some c
  | .vabs c _ => some c
  | .vneg c _ => some c
  | .vdiv c _ => some c
  | .vsqrt c _ => some c
  | .vldexp c _ => some c
  | .vcvt c _ => some c
  | .vand c _ => some c
  | .vor c _ => some c
  | .vxor c _ => some c
  | .vshl c _ => some c
  | .vshr c _ => some c
  | .vsel c _ => some c
  | .vmovi c _ => some c
  | .vbcast c _ => some c
  | .vexp c _ => some c
  | .vexp2 c _ => some c
  | .vlog c _ => some c
  | .vlog2 c _ => some c
  | .vrcp c _ => some c
  | .vrsqrt c _ => some c
  | .vtanh c _ => some c
  | .vsigm c _ => some c
  | .vcmp c _ => some c
  | .mlogic c _ => some c
  | .mpopc c _ => some c
  | .vcomp c _ => some c
  | .vexpd c _ => some c
  | .vperm c _ => some c
  | .vslide c _ => some c
  | .vred c _ => some c
  | .tred c _ => some c
  | .tget c _ => some c
  | .tput c _ => some c
  | .topv c _ => some c
  | .topt c _ => some c
  | .smx c _ => some c
  | .rstat c _ => some c
  | .rcomb c _ => some c
  | .rmv c _ => some c
  | .wadd c _ => some c
  | .wfin c _ => some c
  | .streamRestart c _ _ => some c
  | .streamStep c _ _ => some c
  | .loop c _ => some c
  | .add c _ => some c
  | .set c _ => some c
  | .xfer c _ _ => some c
  | .fill c _ => some c
  | .skip c _ => some c
  | .progEnd c _ => some c
  | .blockListEntry c _ _ => some c
  | .transferRetire c _ _ => some c
  | .streamEnd c _ _ => some c
  | .tokenRefill c _ => some c
  | .stallCount c _ => some c
  | .stallLimit c _ _ => some c
  | .waitForCheck c => some c
  | .spillCopyBack c _ _ => some c
  | .streamStalled c _ _ => some c
  | .mergeHoldEnd c _ _ => some c
  | .taskPromote c _ => some c
  | .taskBind c _ => some c
  | .taskComplete c _ _ => some c
  | .sequenceAdmit c => some c
  | .ownerClaim c _ _ => some c
  | .stealRequest c _ _ => some c
  | .stealServe c _ => some c
  | .stealResponse c _ _ => some c
  | .stealBackoffEnd c _ _ => some c
  | .indexComplete c _ => some c
  | .deadlineDebt c _ => some c
  | .lockBreak c _ => some c
  | .hbmWindowStart c => some c
  | .lendingStart c => some c
  | .shareGateAdmit c _ => some c
  | .hbmReadComplete c _ _ _ _ _ => some c
  | .hbmReadModifyWrite c _ _ _ _ _ => some c
  | .refreshDue c _ => some c
  | .refreshEmergency c _ => some c
  | .scrubRead c _ _ _ _ => some c
  | .retrainExamine c _ _ => some c
  | .xltWalk c _ => some c
  | .invalidateDone c => some c
  | .pageFaultTimeout c _ => some c
  | .linkTrainStepDone c _ => some c
  | .linkTrainTimeout c _ => some c
  | .linkRetry c _ => some c
  | .linkRetrain c _ => some c
  | .markerSend c _ => some c
  | .markerLockLost c _ => some c
  | .flitSlot c _ _ => some c
  | .nakTimeout c _ => some c
  | .creditTimeout c _ => some c
  | .init c _ => some c
  | .ping c _ _ => some c
  | .pong c _ _ => some c
  | .credit c _ => some c
  | .rot c _ => some c
  | .rotAck c _ => some c
  | .txeq c _ => some c
  | .retrain c _ => some c
  | .rotationPhase c _ => some c
  | .laneRecalThreshold c _ _ => some c
  | .rdReq c => some c
  | .wrReq c => some c
  | .rdRsp c => some c
  | .wrAck c => some c
  | .requestTimeout c _ => some c
  | .bpUpdate c => some c
  | .fifoData c => some c
  | .bpData c => some c
  | .ctxMarkPacket c => some c
  | .routeSettleEnd c _ => some c
  | .fifoLevel c _ => some c
  | .biRspI c _ _ => some c
  | .biTimeout c _ => some c
  | .healthWindow c => some c
  | .coreRetireComplete c _ _ => some c
  | .coreRetireTimeout c _ _ => some c
  | .keeperFault c => some c
  | .fabricFault c => some c
  | .clockSwitch c => some c
  | .opChangeDone c => some c
  | .vcoreDroop c => some c
  | .droopRecover c => some c
  | .tempSample c _ _ _ => some c
  | .thermalRaise c => some c
  | .thermalLower c => some c
  | .debugPortAccess c _ _ _ _ _ => some c
  | _ => none

/-- The channel and the lantern of a command of the array and lantern domain (R2, R449). -/
def Instr.lanternOf : Instr → Option (Nat × Nat)
  | .insnLineFetch c g _ => some (c, g)
  | .nop c g _ => some (c, g)
  | .task c g _ => some (c, g)
  | .oload c g _ => some (c, g)
  | .oloadLineRequest c g _ => some (c, g)
  | .oloadLineWrite c g _ => some (c, g)
  | .transposeGather c g _ => some (c, g)
  | .tmul c g _ => some (c, g)
  | .tmulStart c g _ _ => some (c, g)
  | .intersectGroup c g _ => some (c, g)
  | .mergeCycle c g _ => some (c, g)
  | .gatherCycle c g _ => some (c, g)
  | .sliceStageBegin c g _ => some (c, g)
  | .sliceTakePair c g _ _ _ => some (c, g)
  | .accumulate c g _ _ => some (c, g)
  | .drain c g _ => some (c, g)
  | .drainStart c g _ => some (c, g)
  | .drainRowRead c g _ _ _ => some (c, g)
  | .drainLineWrite c g _ => some (c, g)
  | .fence c g _ => some (c, g)
  | .taskEnd c g _ => some (c, g)
  | .parkReached c g => some (c, g)
  | .lanternUnpark c g => some (c, g)
  | .lanternPipeCycle c g => some (c, g)
  | .scratchpadAccessGrant c g _ _ _ => some (c, g)
  | .fabricWriteHeader c g _ => some (c, g)
  | .bankPdRequest c g _ => some (c, g)
  | .bankRetention c g _ => some (c, g)
  | .bankPdTimeout c g _ => some (c, g)
  | .bankWake c g _ => some (c, g)
  | .bankAwake c g _ => some (c, g)
  | .veLineFetch c g => some (c, g)
  | .veMemRequest c g => some (c, g)
  | .vnop c g => some (c, g)
  | .vtask c g => some (c, g)
  | .vend c g => some (c, g)
  | .vsetvl c g => some (c, g)
  | .vld c g => some (c, g)
  | .vst c g => some (c, g)
  | .vldx c g => some (c, g)
  | .vstx c g => some (c, g)
  | .mld c g => some (c, g)
  | .mst c g => some (c, g)
  | .tld c g => some (c, g)
  | .tst c g => some (c, g)
  | .wld c g => some (c, g)
  | .wst c g => some (c, g)
  | .vsle c g => some (c, g)
  | .vadd c g _ _ => some (c, g)
  | .vsub c g _ _ => some (c, g)
  | .vmul c g _ _ => some (c, g)
  | .vfma c g _ _ => some (c, g)
  | .vfms c g _ _ => some (c, g)
  | .vmin c g => some (c, g)
  | .vmax c g => some (c, g)
  | .vabs c g => some (c, g)
  | .vneg c g => some (c, g)
  | .vdiv c g => some (c, g)
  | .vsqrt c g => some (c, g)
  | .vldexp c g => some (c, g)
  | .vcvt c g => some (c, g)
  | .vand c g => some (c, g)
  | .vor c g => some (c, g)
  | .vxor c g => some (c, g)
  | .vshl c g => some (c, g)
  | .vshr c g => some (c, g)
  | .vsel c g => some (c, g)
  | .vmovi c g => some (c, g)
  | .vbcast c g => some (c, g)
  | .vexp c g => some (c, g)
  | .vexp2 c g => some (c, g)
  | .vlog c g => some (c, g)
  | .vlog2 c g => some (c, g)
  | .vrcp c g => some (c, g)
  | .vrsqrt c g => some (c, g)
  | .vtanh c g => some (c, g)
  | .vsigm c g => some (c, g)
  | .vcmp c g => some (c, g)
  | .mlogic c g => some (c, g)
  | .mpopc c g => some (c, g)
  | .vcomp c g => some (c, g)
  | .vexpd c g => some (c, g)
  | .vperm c g => some (c, g)
  | .vslide c g => some (c, g)
  | .vred c g => some (c, g)
  | .tred c g => some (c, g)
  | .tget c g => some (c, g)
  | .tput c g => some (c, g)
  | .topv c g => some (c, g)
  | .topt c g => some (c, g)
  | .smx c g => some (c, g)
  | .rstat c g => some (c, g)
  | .rcomb c g => some (c, g)
  | .rmv c g => some (c, g)
  | .wadd c g => some (c, g)
  | .wfin c g => some (c, g)
  | .streamRestart c g _ => some (c, g)
  | .streamStep c g _ => some (c, g)
  | .loop c g => some (c, g)
  | .add c g => some (c, g)
  | .set c g => some (c, g)
  | .xfer c g _ => some (c, g)
  | .fill c g => some (c, g)
  | .skip c g => some (c, g)
  | .progEnd c g => some (c, g)
  | .blockListEntry c g _ => some (c, g)
  | .transferRetire c g _ => some (c, g)
  | .streamEnd c g _ => some (c, g)
  | .tokenRefill c g => some (c, g)
  | .stallCount c g => some (c, g)
  | .stallLimit c g _ => some (c, g)
  | .spillCopyBack c g _ => some (c, g)
  | .streamStalled c g _ => some (c, g)
  | .mergeHoldEnd c g _ => some (c, g)
  | .taskPromote c g => some (c, g)
  | .taskBind c g => some (c, g)
  | .taskComplete c g _ => some (c, g)
  | .ownerClaim c g _ => some (c, g)
  | .stealRequest c g _ => some (c, g)
  | .stealServe c g => some (c, g)
  | .stealResponse c g _ => some (c, g)
  | .stealBackoffEnd c g _ => some (c, g)
  | .indexComplete c g => some (c, g)
  | _ => none

/-- The command acts in the bridge and nowhere else. -/
def Instr.inBridge : Instr → Bool
  | .fsyncEdge _ => true
  | .timebaseLock => true
  | .freerunStart _ => true
  | .holdoverTick => true
  | .frameClockAlarm => true
  | .holdoverEnd => true
  | .functionLevelReset => true
  | .hostLinkDown => true
  | .configRequest _ _ _ => true
  | .crTailDoorbell .. => true
  | .cpHeadDoorbell _ _ => true
  | .commandFetch _ _ => true
  | .completionWrite _ => true
  | .msixCoalesceFlush _ => true
  | .msixUnmask _ _ _ _ => true
  | .identifyMemoryDevice => true
  | .getSupportedLogs => true
  | .getLog => true
  | .getHealthInfo => true
  | .mailboxUnsupported => true
  | .hostLinkUp _ _ _ => true
  | .deviceCacheSnoop _ => true
  | .getVersion => true
  | .getCapabilities => true
  | .negotiateAlgorithms => true
  | .getDigests => true
  | .getCertificate _ _ => true
  | .challenge => true
  | .getMeasurements _ => true
  | .spdmUnsupported => true
  | .romSelfTestDone _ _ _ => true
  | .electionTimeout _ => true
  | .lightTakeover _ => true
  | .halfWatchdog _ => true
  | .flashCmdDone _ => true
  | .fogNLow => true
  | .supplyFault => true
  | _ => false

end Sys2Proof
end

