-- ==== Sys2Proof/Safety.lean ====
section
/-! DEFINITION. What a safe run of the block is, and the conditions under which its units take their commands: the terms in which claims
are stated. -/

namespace Sys2Proof.Machine

/-- A step that does not stop: the command at the front names units that the module has (R22, R30, R140). -/
def State.SafeStep (s : State) : Prop := ∃ t, step s = .next t

/-- Every waiting command names units that the module has. -/
def State.QueueOk (s : State) : Prop := ∀ i ∈ s.pending, i.wellFormed = true

/-- The form of a state that every step keeps: the stored channels stand in rising order, none holds a message that the bridge has not
taken, and the memory of the host is in its canonical form. -/
def State.Inv (s : State) : Prop :=
  s.chans.sorted = true ∧ (∀ x ∈ s.chans, x.2.up = []) ∧ Memory.wf s.mod.hostMem = true

/-- The module is not in reset (R389). -/
def State.Up (s : State) : Prop := s.mod.boot.inReset = false

/-- A channel of the module that is neither held in reset nor powered down (R22, R389, R455). -/
def State.Runs (s : State) (c : Nat) : Prop := c < 12 ∧ s.mod.holds c = false

/-- A lantern of a running channel whose array clock runs (R30, R449). -/
def State.LanRuns (s : State) (c g : Nat) : Prop := s.Runs c ∧ g < 1536 ∧ (s.chan c).clkOn = true

/-- A physical core of such a lantern (R78, R140). -/
def State.CoreRuns (s : State) (c g k : Nat) : Prop := s.LanRuns c g ∧ k < 64

/-- The word at hand is the last of a line at or past which the task's END (VEND) must have come (R92, R177, R251). -/
def endOverdue (head : Option ILine) : Bool := (head.map (·.last)).getD false || (head.map (·.line)).getD 0 == 4095

/-- The vector engine of lantern `g` can issue the word `w` of the open task `t` in this cycle: the word has opcode `op`, it is valid,
its registers are ready, and it does not stand where a VEND must (R177, R181, R183, R251). -/
def Channel.VeReady (ch : Channel) (g op : Nat) (t : CTask) (w : Nat) : Prop :=
  (ch.lan g).ve.nextWord ch.cyc = some (t, w) ∧ vOp w = op ∧ t.empty = false ∧
    vecInvalid w (!t.opened) ((ch.lan g).mxShort w) = false ∧ (ch.lan g).ve.held w ch.cyc = false ∧
    ((ch.lan g).ve.ipos = 7 → endOverdue (ch.lan g).ve.ibuf.head? = false)

/-- The sequencer of core `k` can issue the word `w` of its task `t` in this cycle: the word has opcode `op`, it is valid, the task is
not empty, and the word does not stand where an END must (R92, R100, R108, R251). -/
def Channel.CoReady (ch : Channel) (g k op : Nat) (t : CTask) (w : Nat) : Prop :=
  (ch.core g k).nextWord ch.cyc = some (t, w) ∧ tOp w = op ∧ t.empty = false ∧ tileInvalid w (!t.opened) = false ∧
    (∀ u ∈ (ch.core g k).tasks, u.id = t.id → u.stopped = false) ∧
    ((ch.core g k).ipos = 3 → endOverdue (ch.core g k).ibuf.head? = false)

end Sys2Proof.Machine
end

