-- ==== Sys2Proof/Certificates/Slice0/Obligations.lean ====
section
/-! DEFINITION. The statements for the provers, one definition for each, by area of the spec, with the terms in which they are stated. -/

open Sys2Proof Sys2Proof.Machine

/-! ### Terms of the statements -/

namespace Sys2Proof.Machine

/-- Lantern `g` of channel `c` is the only lantern of the channel that changes. -/
def State.OnlyLantern (s u : State) (c g : Nat) : Prop := ∀ h, h ≠ g → (u.chan c).lan h = (s.chan c).lan h

/-- The requester reaches channel `c`: its access needs no attachment that has failed (R28). -/
def State.CanReach (s : State) (req : Requester) (c : Nat) : Prop := (overAttachment req && s.cutOff c) = false

/-- The level of the field's function lets the requester write it (R18, R19). -/
def State.Allows (s : State) (req : Requester) (f : Fld) : Prop :=
  levelRefuses (s.mod.r F.MOD_LEVEL_LEVEL) req f = false ∧ keeperLeaves (s.mod.r F.MOD_LEVEL_LEVEL) req f = false

/-- The counters named, each at its entry, are cleared, and one that has incremented in this very cycle ends at 1 (R113); every other
field of the block holds what it held. -/
structure Regs.Cleared (a b : Regs) (xs : List (Fld × Nat)) : Prop where
  zero : ∀ x ∈ xs, b.get x.1 x.2 = if (a.evs.find (x.1.key x.2)).isSome then 1 else 0
  rest : ∀ f n, (∀ x ∈ xs, f.key n ≠ x.1.key x.2) → b.get f n = a.get f n

/-- A record of the unit can go straight to the ring (R421, R424, R425): no channel-fatal record stands, the ring has room, and no record
of the unit is pending. -/
structure Channel.CanRecord (ch : Channel) (unit : Nat) : Prop where
  fatal : ch.r F.ERR_STATUS_FATAL = 0
  room : ch.entries < 64
  fresh : ∀ p ∈ ch.err.pend, p.unit ≠ unit

/-- One more record of the cause and the unit is pending and in the ring (R421, R422). -/
def Channel.Recorded (a b : Channel) (cause unit : Nat) : Prop :=
  (∃ p, b.err.pend = a.err.pend ++ [p] ∧ p.cause = cause ∧ p.unit = unit) ∧ b.entries = a.entries + 1

end Sys2Proof.Machine

/-! ### The queue, and where commands act -/

/-- A step runs the command at the front of the queue, with the rest of the queue waiting. -/
def Obligations.StepRunsTheFrontCommand : Prop :=
  ∀ (s : State) (i : Instr) (q : List Instr), s.pending = i :: q → step s = exec i { s with pending := q }

/-- Every well-formed command completes whatever the state, and the commands that wait go on waiting; a command that names a unit
which the module does not have stops (R22, R30, R140). -/
def Obligations.WellFormedCommandsComplete : Prop :=
  ∀ (i : Instr) (s : State),
    (i.wellFormed = true → ∃ t, exec i s = .next t ∧ t.pending = s.pending) ∧
    (i.wellFormed = false → exec i s = .fault .noSuchUnit)

/-- With no command waiting, the time of one array cycle at 850 MHz passes in every channel that runs (log entries 6 and 29, the model's
choice: the table has no row for a cycle). An array clock that runs counts a cycle as often as its operating point's frequency says, half
as often while VCORE droops (R445, R450); with a stopped clock the lanterns stay as they are (R449). Stated of a module in which no
block load after GO and no move of host traffic is open. -/
def Obligations.EmptyQueueRunsOneCycle : Prop :=
  ∀ s : State, s.pending = [] → s.Up → ∃ t, step s = .next t ∧ t.pending = [] ∧
    (s.mod.boot.going = false → s.mod.hp.xltOut = [] → ∀ c, s.Runs c → (s.chan c).hostNext = none →
      ((s.chan c).clkOn = false → (t.chan c).cyc = (s.chan c).cyc ∧ (t.chan c).lans = (s.chan c).lans) ∧
      ((s.chan c).clkOn = true → (t.chan c).cyc = (s.chan c).cyc +
        (if 1700 ≤ (s.chan c).pwr.part + (if (s.chan c).pwr.droop then 1 else 2) * opMhz (s.chan c).pwr.code then 1 else 0)))

/-- The state after reset is in the form that every step keeps, nothing waits, no channel is held and every register field holds its
reset value (R9). -/
def Obligations.ResetState : Prop :=
  State.reset.Inv ∧ State.reset.pending = [] ∧
    (∀ f ∈ bridgeFields, ∀ n, State.reset.mod.r f n = f.reset) ∧
    (∀ c, ∀ f ∈ channelFields, ∀ n, (State.reset.chan c).r f n = f.reset) ∧
    (∀ c g, ∀ f ∈ lanternFields, ∀ n, ((State.reset.chan c).lan g).r f n = f.reset)

/-- Every step keeps the form of the state. -/
def Obligations.StepKeepsTheForm : Prop :=
  ∀ s t : State, s.Inv → step s = .next t → t.Inv

/-- While the array clock of its channel is stopped, a command of the array and lantern domain leaves the whole module as it is (R449). -/
def Obligations.StoppedClockHoldsTheArray : Prop :=
  ∀ (i : Instr) (c g : Nat) (s t : State), i.lanternOf = some (c, g) → exec i s = .next t →
    (s.chan c).clkOn = false → (s.chan c).up = [] → (∀ d, t.chan d = s.chan d) ∧ t.mod = s.mod

/-- A command of one channel leaves every other channel, the timebase, the start-up state and the queue alone, and it does nothing while
its channel is held in reset or powered down (R24, R389, R455); a command of the bridge leaves every channel and the queue alone, and does
nothing while the module is in reset (R389). -/
def Obligations.CommandsStayInTheirUnit : Prop :=
  (∀ (i : Instr) (c : Nat) (s t : State), i.channelOf = some c → exec i s = .next t →
    (∀ d, d ≠ c → t.chan d = s.chan d) ∧ t.mod.tb = s.mod.tb ∧ t.mod.boot = s.mod.boot ∧ t.pending = s.pending ∧
      (s.mod.holds c = true → t = s)) ∧
  (∀ (i : Instr) (s t : State), i.inBridge = true → exec i s = .next t →
    t.chans = s.chans ∧ t.pending = s.pending ∧ (s.mod.boot.inReset = true → t = s))

/-! ### The sparse core: instructions -/

namespace Sys2Proof.Machine

/-- In a lantern, core `k` alone changes: the scratchpad with its banks, the vector engine, the tender and every other core stay. -/
structure Lantern.OnlyCore (a b : Lantern) (k : Nat) : Prop where
  sp : b.sp = a.sp
  banks : b.banks = a.banks
  ve : b.ve = a.ve
  td : b.td = a.td
  cores : ∀ j, j ≠ k → b.core j = a.core j

/-- The sequencer has issued the instruction at hand in cycle `cyc` and stands at the next one; the operand buffer and the accumulator
stay (R92, R100). -/
structure SparseCore.Passed (a b : SparseCore) (cyc : Nat) : Prop where
  next : b.nextIssue = cyc + 1
  pos : b.ipos = if a.ipos = 3 then 0 else a.ipos + 1
  lines : b.ibuf = if a.ipos = 3 then a.ibuf.drop 1 else a.ibuf
  obuf : b.obuf = a.obuf
  acc : b.acc = a.acc
  gone : b.gone = a.gone

/-- The queues of the core stay. -/
structure SparseCore.SameQueues (a b : SparseCore) : Prop where
  load : b.loadQ = a.loadQ
  mul : b.mulQ = a.mulQ
  drain : b.drainQ = a.drainQ

/-- What the issue of a tile instruction leaves alone: the other lanterns, and in this lantern every register of it but BUSY of
the core. -/
structure State.CoreFrame (s u : State) (c g k : Nat) : Prop where
  lans : s.OnlyLantern u c g
  rest : ((s.chan c).lan g).OnlyCore ((u.chan c).lan g) k
  regs : ∀ (f : Fld) (n : Nat), f.key n ≠ F.CO_STATUS_BUSY.key k → ((u.chan c).lan g).r f n = ((s.chan c).lan g).r f n

/-- The word `w` at hand of the open empty task `t` is valid, and is the last that the core has fetched (R108). -/
structure SparseCore.LastOfEmpty (a : SparseCore) (cyc : Nat) (t : CTask) (w : Nat) : Prop where
  word : a.nextWord cyc = some (t, w)
  empty : t.empty = true
  valid : tileInvalid w (!t.opened) = false
  last : a.ipos = 3 ∧ a.ibuf.length = 1 ∧ endOverdue a.ibuf.head? = false
  runs : ∀ u ∈ a.tasks, u.id = t.id → u.stopped = false

/-- An OLOAD that is neither invalid nor past the operand buffer (R94, R95, R83): its format word is `f`. -/
structure Lantern.OloadOk (l : Lantern) (w : Nat) (f : FmtWord) : Prop where
  fmt : l.fmt (olFmt w) = some f
  mode : olMode w ≠ 3
  lines : olMode w ≠ 2 → 1 ≤ olLines w
  sources : ∀ x ∈ olSources w (l.olCopy w), x ≤ 4095
  transpose : olMode w = 2 → f.vfmt ≠ .ternary ∧ f.vfmt.width ≤ 16 ∧ (olTrV w + 1) * f.vfmt.width ≤ 512
  fits : olDst w + olTotal w f.vfmt.width ≤ 64

end Sys2Proof.Machine

/-- NOP and FENCE pass and change nothing else of the core; FENCE passes once the queues that its bits name are empty, and held no
instruction in this cycle (R92, R98). -/
def Obligations.NopAndFencePass : Prop :=
  ∀ (s : State) (c g k : Nat) (t : CTask) (w : Nat), s.CoreRuns c g k →
    ((s.chan c).CoReady g k 0 t w →
      ∃ u, exec (.nop c g k) s = .next u ∧ ((s.chan c).core g k).Passed ((u.chan c).core g k) (s.chan c).cyc ∧
        ((s.chan c).core g k).SameQueues ((u.chan c).core g k) ∧ s.CoreFrame u c g k) ∧
    ((s.chan c).CoReady g k 5 t w → (isSet w 4 = true → ((s.chan c).core g k).places 0 (s.chan c).cyc = 0) →
      (isSet w 5 = true → ((s.chan c).core g k).places 1 (s.chan c).cyc = 0) →
      (isSet w 6 = true → ((s.chan c).core g k).places 2 (s.chan c).cyc = 0) →
      ∃ u, exec (.fence c g k) s = .next u ∧ ((s.chan c).core g k).Passed ((u.chan c).core g k) (s.chan c).cyc ∧
        ((s.chan c).core g k).SameQueues ((u.chan c).core g k) ∧ s.CoreFrame u c g k)

/-- OLOAD, TMUL and DRAIN join their queues of 4, 2 and 2 entries when there is room, with the number of the instruction, and change
nothing else of the core (R94, R96, R97, R100). In an empty task OLOAD and TMUL are passed over, and a DRAIN joins its queue as an empty
one (R108); stated of the last word of the last line that the core has, after which nothing more can be passed in the cycle. -/
def Obligations.TileInstructionsJoinTheirQueues : Prop :=
  ∀ (s : State) (c g k : Nat) (t : CTask) (w : Nat), s.CoreRuns c g k →
    ((s.chan c).CoReady g k 2 t w → ∀ f, ((s.chan c).lan g).OloadOk w f → ((s.chan c).core g k).places 0 (s.chan c).cyc < 4 →
      ∃ u o, exec (.oload c g k) s = .next u ∧ ((s.chan c).core g k).Passed ((u.chan c).core g k) (s.chan c).cyc ∧
        ((u.chan c).core g k).loadQ = ((s.chan c).core g k).loadQ ++ [o] ∧
        ((u.chan c).core g k).mulQ = ((s.chan c).core g k).mulQ ∧ ((u.chan c).core g k).drainQ = ((s.chan c).core g k).drainQ ∧
        o.seq = ((s.chan c).core g k).seq ∧ o.task = t.id ∧ o.w = w ∧ o.total = olTotal w f.vfmt.width ∧
        o.copy = ((s.chan c).lan g).olCopy w ∧ o.pad = f.elemOf f.pad ∧ s.CoreFrame u c g k) ∧
    ((s.chan c).CoReady g k 3 t w → ((s.chan c).core g k).places 1 (s.chan c).cyc < 2 →
      ∃ u, exec (.tmul c g k) s = .next u ∧ ((s.chan c).core g k).Passed ((u.chan c).core g k) (s.chan c).cyc ∧
        ((u.chan c).core g k).mulQ = ((s.chan c).core g k).mulQ ++
          [{ seq := ((s.chan c).core g k).seq, task := t.id, w := w, issued := (s.chan c).cyc }] ∧
        ((u.chan c).core g k).loadQ = ((s.chan c).core g k).loadQ ∧ ((u.chan c).core g k).drainQ = ((s.chan c).core g k).drainQ ∧
        s.CoreFrame u c g k) ∧
    ((s.chan c).CoReady g k 4 t w → ((s.chan c).core g k).places 2 (s.chan c).cyc < 2 →
      ∃ u, exec (.drain c g k) s = .next u ∧ ((s.chan c).core g k).Passed ((u.chan c).core g k) (s.chan c).cyc ∧
        ((u.chan c).core g k).drainQ = ((s.chan c).core g k).drainQ ++
          [{ seq := ((s.chan c).core g k).seq, task := t.id, w := w, issued := (s.chan c).cyc }] ∧
        ((u.chan c).core g k).loadQ = ((s.chan c).core g k).loadQ ∧ ((u.chan c).core g k).mulQ = ((s.chan c).core g k).mulQ ∧
        s.CoreFrame u c g k) ∧
    (((s.chan c).core g k).LastOfEmpty (s.chan c).cyc t w →
      ∀ x ∈ [(Instr.oload c g k, 2), (Instr.tmul c g k, 3)], tOp w = x.2 → (x.2 = 2 → ((s.chan c).lan g).oloadBad w = false) →
      ∃ u, exec x.1 s = .next u ∧ ((s.chan c).core g k).Passed ((u.chan c).core g k) (s.chan c).cyc ∧
        ((s.chan c).core g k).SameQueues ((u.chan c).core g k) ∧ s.CoreFrame u c g k) ∧
    (((s.chan c).core g k).LastOfEmpty (s.chan c).cyc t w → tOp w = 4 → ((s.chan c).core g k).places 2 (s.chan c).cyc < 2 →
      ∃ u, exec (.drain c g k) s = .next u ∧ ((s.chan c).core g k).Passed ((u.chan c).core g k) (s.chan c).cyc ∧
        ((u.chan c).core g k).drainQ = ((s.chan c).core g k).drainQ ++
          [{ seq := ((s.chan c).core g k).seq, task := t.id, w := w, issued := (s.chan c).cyc, empty := true }] ∧
        ((u.chan c).core g k).loadQ = ((s.chan c).core g k).loadQ ∧ ((u.chan c).core g k).mulQ = ((s.chan c).core g k).mulQ ∧
        s.CoreFrame u c g k)

/-- TASK opens its task with the CTX of the instruction, which CO_STATUS.CTX shows; the task is empty, which is counted, when a shape
register that it names holds 0 (R93, R108); END ends its task, drops the lines that are left of it and lets the next instruction issue in the cycle after (R99). -/
def Obligations.TaskOpensAndEndCloses : Prop :=
  ∀ (s : State) (c g k : Nat) (t : CTask) (w : Nat), s.CoreRuns c g k →
    ((s.chan c).CoReady g k 1 t w → (∀ n, n < 16 → isSet w (4 + n) = true → ((s.chan c).lan g).r F.LN_SHAPE_VALUE n ≠ 0) →
      ∃ u, exec (.task c g k) s = .next u ∧ ((s.chan c).core g k).Passed ((u.chan c).core g k) (s.chan c).cyc ∧
        ((s.chan c).core g k).SameQueues ((u.chan c).core g k) ∧
        (∀ x ∈ ((u.chan c).core g k).tasks, x.id = t.id → x.opened = true ∧ x.ctx = bits w 29 20 ∧ x.empty = false) ∧
        ((u.chan c).lan g).r F.CO_STATUS_CTX k = bits w 29 20 ∧ s.OnlyLantern u c g ∧
        ((s.chan c).lan g).OnlyCore ((u.chan c).lan g) k) ∧
    ((s.chan c).CoReady g k 1 t w → (∃ n, n < 16 ∧ isSet w (4 + n) = true ∧ ((s.chan c).lan g).r F.LN_SHAPE_VALUE n = 0) →
      ∃ u, exec (.task c g k) s = .next u ∧ ((s.chan c).core g k).Passed ((u.chan c).core g k) (s.chan c).cyc ∧
        (∀ x ∈ ((u.chan c).core g k).tasks, x.id = t.id → x.opened = true ∧ x.ctx = bits w 29 20 ∧ x.empty = true) ∧
        ((u.chan c).lan g).r F.CO_EMPTY_CNT_COUNT k = ((s.chan c).lan g).regs.plus F.CO_EMPTY_CNT_COUNT k 1 ∧ s.OnlyLantern u c g ∧
        ((s.chan c).lan g).OnlyCore ((u.chan c).lan g) k) ∧
    ((s.chan c).CoReady g k 6 t w →
      ∃ u, exec (.taskEnd c g k) s = .next u ∧
        (∀ x ∈ ((u.chan c).core g k).tasks, x.id = t.id → x.ended = true) ∧
        (∀ x ∈ ((u.chan c).core g k).ibuf, x.task ≠ t.id) ∧
        ((u.chan c).core g k).nextIssue = (s.chan c).cyc + 1 ∧ ((u.chan c).core g k).obuf = ((s.chan c).core g k).obuf ∧
        ((u.chan c).core g k).acc = ((s.chan c).core g k).acc ∧ ((s.chan c).core g k).SameQueues ((u.chan c).core g k) ∧
        s.CoreFrame u c g k)

/-! ### The sparse core: its engines -/

namespace Sys2Proof.Machine

/-- What the engines of core `k` leave alone: the other lanterns, and the scratchpad, vector engine, tender and other cores of this
one. -/
structure State.CoreOnly (s u : State) (c g k : Nat) : Prop where
  lans : s.OnlyLantern u c g
  rest : ((s.chan c).lan g).OnlyCore ((u.chan c).lan g) k

/-- Nothing of an earlier cycle stands in the way: the event of cycle `a` lies before `cyc`. -/
def before (a : Option Nat) (cyc : Nat) : Prop := ∀ x, a = some x → x < cyc

/-- What one accumulator write makes of the cell of a row: the clear, then each of the row's pairs in turn (R115, R116, R119, R420). -/
def AccWr.result (a : AccWr) (row : Nat) (x : Cell) : Cell :=
  (a.pairs.filter fun p => p.row == row).foldl (fun x p => if a.nan then x.poison else if a.fp then x.addFp p else (x.addLong p).1)
    (if a.clear.contains row then { v := 0, fp := a.fp, tag := 0 } else x)

end Sys2Proof.Machine

/-- The sequencer asks the lantern pipe for the next line of the task, one line ahead (R92), and the drain path for the write of its
oldest complete line (R133). -/
def Obligations.CoreAsksThePipe : Prop :=
  ∀ (s : State) (c g k : Nat), s.CoreRuns c g k →
    (∀ t, ((s.chan c).core g k).tasks.find? (fun t => !t.endReq && !t.stopped && !t.ended) = some t →
      ((s.chan c).core g k).nextFetch ≤ (s.chan c).cyc → t.fetch ≤ 4095 →
      ((s.chan c).lan g).pipeHolds (192 + ((s.chan c).lan g).logicalOf k) = false →
      (((s.chan c).core g k).ibuf.filter fun i => i.task == t.id).length < 2 →
      ∃ u a, exec (.insnLineFetch c g k) s = .next u ∧ ((u.chan c).lan g).pipeQ = ((s.chan c).lan g).pipeQ ++ [a] ∧ a.line = t.fetch ∧
        a.wr = false ∧ a.dst = .insn k t.id t.fetch (((s.chan c).lan g).holdsEnd t.fetch) ∧
        ((u.chan c).core g k).ibuf.length = ((s.chan c).core g k).ibuf.length + 1 ∧
        ((u.chan c).core g k).nextFetch = (s.chan c).cyc + 1 ∧ s.CoreOnly u c g k) ∧
    (∀ d x rest, ((s.chan c).core g k).drainQ.find? (fun d => !d.lines.isEmpty) = some d → d.lines = x :: rest →
      x.at_ ≤ (s.chan c).cyc → before ((s.chan c).core g k).lastLine (s.chan c).cyc →
      ((s.chan c).lan g).pipeHolds (((s.chan c).lan g).logicalOf k) = false →
      ∃ u a, exec (.drainLineWrite c g k) s = .next u ∧ ((u.chan c).lan g).pipeQ = ((s.chan c).lan g).pipeQ ++ [a] ∧ a.line = x.line ∧
        a.wr = true ∧ (∀ i, i < 64 → a.mask.getD i false = (x.bytes.find i).isSome ∧
          a.data.getD i 0 = BitVec.ofNat 8 (x.bytes.getD i 0)) ∧
        ((u.chan c).core g k).lastLine = some (s.chan c).cyc ∧ ((u.chan c).core g k).obuf = ((s.chan c).core g k).obuf ∧
        ((u.chan c).core g k).acc = ((s.chan c).core g k).acc ∧ s.CoreOnly u c g k)

/-- An OLOAD asks for one line a cycle in order, and a padding line takes its place without an access (R95, R104); its lines are written
into the operand buffer in order, and nothing else of the buffer changes (R94, R104), where the free bits `x` show only past the last
vector of a transposing one (log entry 120); a transposing one gathers a line of each bank at
a time and holds a transpose buffer meanwhile (R149). -/
def Obligations.OloadMovesLines : Prop :=
  ∀ (s : State) (c g k : Nat) (o : LoadOp), s.CoreRuns c g k →
    (((s.chan c).core g k).sending = some o → (s.chan c).olReady g k o = true → o.gatherDone = true →
      ∃ u, exec (.oloadLineRequest c g k) s = .next u ∧
        (∀ x ∈ ((u.chan c).core g k).loadQ, x.seq = o.seq → x.sent = o.sent + 1 ∧ x.next = (s.chan c).cyc + 1) ∧
        ((u.chan c).lan g).pipeQ.length = ((s.chan c).lan g).pipeQ.length + (if olMode o.w ≠ 2 ∧ o.sent < o.copy then 1 else 0) ∧
        ((u.chan c).core g k).lastReq = some (s.chan c).cyc ∧ ((u.chan c).core g k).obuf = ((s.chan c).core g k).obuf ∧
        s.CoreOnly u c g k) ∧
    (((s.chan c).core g k).sending = some o → (s.chan c).olReady g k o = true → o.gatherDone = false → olMode o.w = 2 →
      (o.tbuf = true ∨ ((s.chan c).lan g).tbufs < 4) →
      ∃ u, exec (.transposeGather c g k) s = .next u ∧
        ((u.chan c).lan g).pipeQ.map (·.line) = ((s.chan c).lan g).pipeQ.map (·.line) ++ (onePerBank [] o.toGather).1 ∧
        ((u.chan c).lan g).tbufs = ((s.chan c).lan g).tbufs + (if o.tbuf then 0 else 1) ∧
        (∀ x ∈ ((u.chan c).core g k).loadQ, x.seq = o.seq → x.tbuf = true ∧ x.toGather = (onePerBank [] o.toGather).2) ∧
        s.CoreOnly u c g k) ∧
    (∀ data due, ((s.chan c).core g k).loadQ.find? (fun o => !o.landing.isEmpty) = some o →
      o.landing.find? (fun x => x.1 == olDst o.w + o.done) = some (olDst o.w + o.done, data, due) → due ≤ (s.chan c).cyc →
      (data = none → o.toGather = [] ∧ ∀ x ∈ olSources o.w o.copy, (o.gathered.find x).isSome) →
      ∃ u, exec (.oloadLineWrite c g k) s = .next u ∧
        (∃ x, ((u.chan c).core g k).obuf = ((s.chan c).core g k).obuf.wrN (64 * (olDst o.w + o.done)) (data.getD (o.trLine o.done x))) ∧
        ((u.chan c).core g k).acc = ((s.chan c).core g k).acc ∧ ((u.chan c).core g k).mulQ = ((s.chan c).core g k).mulQ ∧
        (∀ x ∈ ((u.chan c).core g k).loadQ, x.seq = o.seq → x.done = o.done + 1) ∧ s.CoreOnly u c g k)

/-- A TMUL that reaches its start cycle and passes its checks goes on to its examination with the run-time shape, the mode of its
pairing and the class of its formats; one that a check stops raises its cause, sets OP_ERR and leaves with the accumulator as it was
(R85, R103, R107, R110). -/
def Obligations.TmulStarts : Prop :=
  ∀ (s : State) (c g k : Nat) (chk : Check) (m : MulOp), s.CoreRuns c g k →
    ((s.chan c).core g k).mulQ.find? (fun m => m.start.isNone) = some m → m.issued ≤ (s.chan c).cyc →
    before ((s.chan c).core g k).lastStart (s.chan c).cyc →
    (∀ x ∈ ((s.chan c).lan g).tmLines ((s.chan c).core g k).obuf m.w,
      ((s.chan c).core g k).lineLate m.seq (s.chan c).cyc x = false) →
    (∀ mode cls rows kbs, rows = (shapeOf ((s.chan c).lan g) (isSet m.w 92) (bits m.w 87 84) (tRows m.w)).1 →
      kbs = (if mode = .merge then 1 else (shapeOf ((s.chan c).lan g) (isSet m.w 93) (bits m.w 91 88) (tmKb m.w)).1) →
      ((s.chan c).lan g).tmCheck ((s.chan c).core g k) m rows = .inr (mode, cls) →
      tmCols m.w ≠ [] → rows ≠ 0 → (kbs ≠ 0 ∨ tmBegin m.w = true) →
      ∃ u, exec (.tmulStart c g k chk) s = .next u ∧ ((u.chan c).core g k).lastStart = some (s.chan c).cyc ∧
        (∀ x ∈ ((u.chan c).core g k).mulQ, x.seq = m.seq → x.start = some (s.chan c).cyc ∧ x.mode = mode ∧ x.cls = cls ∧
          x.rows = rows ∧ x.kbs = kbs ∧ x.nan = (chk == .uncorrectable)) ∧
        ((u.chan c).core g k).mulQ.length = ((s.chan c).core g k).mulQ.length ∧
        ((u.chan c).core g k).acc = ((s.chan c).core g k).acc ∧ ((u.chan c).core g k).obuf = ((s.chan c).core g k).obuf ∧
        s.CoreOnly u c g k) ∧
    (∀ cause, ((s.chan c).lan g).tmCheck ((s.chan c).core g k) m
        (shapeOf ((s.chan c).lan g) (isSet m.w 92) (bits m.w 87 84) (tRows m.w)).1 = .inl cause →
      ∃ u, exec (.tmulStart c g k chk) s = .next u ∧ ((u.chan c).lan g).r F.CO_STATUS_OP_ERR k = 1 ∧
        (∀ x ∈ ((u.chan c).core g k).mulQ, x.seq ≠ m.seq) ∧ ((u.chan c).core g k).acc = ((s.chan c).core g k).acc ∧
        s.CoreOnly u c g k)

/-- The intersection unit adds the matched pairs of a row to the queues of the columns it examines, of two columns in a group, of four
in a merge and of all in a gather, and to no other queue; pairs found in a cycle can be taken from the next (R86, R87, R89, R90). -/
def Obligations.IntersectionFindsPairs : Prop :=
  ∀ (s : State) (c g k : Nat) (m : MulOp) (a b : Operand), s.CoreRuns c g k →
    ((s.chan c).lan g).tmOperands m.w = some (a, b) →
    (((s.chan c).core g k).examining (s.chan c).cyc (fun m => m == .bitmap || m == .nmDecode) = some m →
      (∀ x ∈ ((tmCols m.w).drop m.ec).take 2, (((s.chan c).core g k).queue x).length +
        (matchPairs ((s.chan c).core g k).obuf a b (a.piece ((s.chan c).core g k).obuf m.er m.eb)
          (b.piece ((s.chan c).core g k).obuf x m.eb) m.seq (tRow0 m.w + m.er) m.er x m.eb ((s.chan c).cyc + 1)).length ≤ 64) →
      ∃ u, exec (.intersectGroup c g k) s = .next u ∧
        (∀ x, x ∈ ((tmCols m.w).drop m.ec).take 2 → ((u.chan c).core g k).queue x = ((s.chan c).core g k).queue x ++
          matchPairs ((s.chan c).core g k).obuf a b (a.piece ((s.chan c).core g k).obuf m.er m.eb)
            (b.piece ((s.chan c).core g k).obuf x m.eb) m.seq (tRow0 m.w + m.er) m.er x m.eb ((s.chan c).cyc + 1)) ∧
        (∀ x, x ∉ ((tmCols m.w).drop m.ec).take 2 → ((u.chan c).core g k).queue x = ((s.chan c).core g k).queue x) ∧
        ((u.chan c).core g k).acc = ((s.chan c).core g k).acc ∧ s.CoreOnly u c g k) ∧
    (((s.chan c).core g k).examining (s.chan c).cyc (· == .merge) = some m →
      (∀ x ∈ ((tmCols m.w).drop m.ec).take 4, (((s.chan c).core g k).queue x).length + 16 ≤ 64) →
      ∃ u, exec (.mergeCycle c g k) s = .next u ∧
        (∀ x, x ∈ ((tmCols m.w).drop m.ec).take 4 → ∃ ps, ((u.chan c).core g k).queue x = ((s.chan c).core g k).queue x ++ ps ∧
          ps.length ≤ 16 ∧ ∀ p ∈ ps, p.op = m.seq ∧ p.row = tRow0 m.w + m.er ∧ p.d = some 0 ∧ p.ready = (s.chan c).cyc + 1) ∧
        (∀ x, x ∉ ((tmCols m.w).drop m.ec).take 4 → ((u.chan c).core g k).queue x = ((s.chan c).core g k).queue x) ∧
        ((u.chan c).core g k).acc = ((s.chan c).core g k).acc ∧ s.CoreOnly u c g k) ∧
    (((s.chan c).core g k).examining (s.chan c).cyc (· == .gather) = some m →
      ∃ u, exec (.gatherCycle c g k) s = .next u ∧
        (∀ x, x ∈ tmCols m.w → ∃ ps, ((u.chan c).core g k).queue x = ((s.chan c).core g k).queue x ++ ps ∧
          (((s.chan c).core g k).queue x).length + ps.length ≤ max 64 (((s.chan c).core g k).queue x).length ∧
          ∀ p ∈ ps, p.op = m.seq ∧ p.row = tRow0 m.w + m.er ∧ p.ready = (s.chan c).cyc + 1) ∧
        (∀ x, x ∉ tmCols m.w → ((u.chan c).core g k).queue x = ((s.chan c).core g k).queue x) ∧
        ((u.chan c).core g k).acc = ((s.chan c).core g k).acc ∧ s.CoreOnly u c g k)

/-- A slice stage begins with the clear of the cells that a BEGIN names (R103, R115); a slice takes the pairs that stand ready for its
column, counts them, and sends them to the accumulator, where they arrive two cycles later (R79, R88, R103, R113). -/
def Obligations.SlicesTakePairs : Prop :=
  ∀ (s : State) (c g k col : Nat) (chk : Check) (m : MulOp), s.CoreRuns c g k → col < 16 →
    (∀ st, ((s.chan c).core g k).mulQ.find? (fun m => m.stage.isNone) = some m → m.start = some st → st + 4 ≤ (s.chan c).cyc →
      m.nan = false → (∀ x ∈ ((s.chan c).core g k).mulQ, x.seq < m.seq → x.lastPair.isSome = true) →
      before ((s.chan c).core g k).lastPair (s.chan c).cyc →
      (tmBegin m.w = true → ∀ r, r < m.rows → ((s.chan c).core g k).rowHeld m.seq (tSet m.w) (tRow0 m.w + r) = false) →
      ∃ u, exec (.sliceStageBegin c g k) s = .next u ∧
        ((u.chan c).core g k).accW.getD col [] = ((s.chan c).core g k).accW.getD col [] ++
          (if tmBegin m.w = true ∧ col ∈ tmCols m.w then
            [{ op := m.seq, set := tSet m.w, due := (s.chan c).cyc + 2, clear := (upto m.rows).map (tRow0 m.w + ·), fp := m.cls == 16 }]
          else []) ∧
        ((u.chan c).core g k).acc = ((s.chan c).core g k).acc ∧ s.CoreOnly u c g k) ∧
    (((s.chan c).core g k).mulQ.find? (fun m => m.stage.isSome && m.lastPair.isNone) = some m →
      m.stage.getD 0 + (if tmBegin m.w then 1 else 0) ≤ (s.chan c).cyc → ((s.chan c).core g k).cool.getD col 0 ≤ (s.chan c).cyc →
      ((s.chan c).lan g).nextPairs ((s.chan c).core g k) m col (s.chan c).cyc ≠ [] →
      ∃ u, exec (.sliceTakePair c g k col chk) s = .next u ∧
        ((u.chan c).lan g).r F.CO_PAIRS_COUNT k = ((s.chan c).lan g).regs.plus F.CO_PAIRS_COUNT k
          (((s.chan c).lan g).nextPairs ((s.chan c).core g k) m col (s.chan c).cyc).length ∧
        ((u.chan c).core g k).accW.getD col [] = ((s.chan c).core g k).accW.getD col [] ++
          [{ op := m.seq, set := tSet m.w, due := (s.chan c).cyc + 2, fp := m.cls == 16, nan := chk == .uncorrectable,
             pairs := ((s.chan c).lan g).nextPairs ((s.chan c).core g k) m col (s.chan c).cyc }] ∧
        ((u.chan c).core g k).acc = ((s.chan c).core g k).acc ∧ s.CoreOnly u c g k)

/-- The oldest write in flight of a column takes effect when it is due and no earlier DRAIN holds its rows: its cells are cleared, then
take each product of the row, rounded once in FP32 mode; every other cell stays (R102, R115, R116, R118, R119, R420). -/
def Obligations.AccumulatorWrites : Prop :=
  ∀ (s : State) (c g k col : Nat) (a : AccWr) (rest : List AccWr), s.CoreRuns c g k → col < 16 →
    ((s.chan c).core g k).accW.getD col [] = a :: rest → a.due ≤ (s.chan c).cyc →
    (∀ r ∈ a.clear ++ a.pairs.map (·.row), r < 32 ∧ ((s.chan c).core g k).rowHeld a.op a.set r = false) →
    ∃ u, exec (.accumulate c g k col) s = .next u ∧ ((u.chan c).core g k).accW.getD col [] = rest ∧
      (∀ row, row < 32 → ((u.chan c).core g k).cell a.set row col = a.result row (((s.chan c).core g k).cell a.set row col)) ∧
      (∀ set row x, row < 32 → x < 16 → (set ≠ a.set ∨ x ≠ col) →
        ((u.chan c).core g k).cell set row x = ((s.chan c).core g k).cell set row x) ∧
      ((u.chan c).core g k).obuf = ((s.chan c).core g k).obuf ∧ s.CoreOnly u c g k

/-- A DRAIN that reaches its start cycle takes its run-time shape, or raises the cause of R77 or R132 and leaves; a row passes the drain
path once the scoreboard has released it; neither changes a cell (R121, R132, R133). -/
def Obligations.DrainReadsRows : Prop :=
  ∀ (s : State) (c g k col : Nat) (chk : Check) (d : DrainOp), s.CoreRuns c g k →
    (((s.chan c).core g k).drainQ.find? (fun d => d.start.isNone) = some d →
      (∀ x ∈ ((s.chan c).core g k).drainQ, x.start.isSome = true → x.rowsDone = true) →
      before ((s.chan c).core g k).lastD0 (s.chan c).cyc → d.issued < (s.chan c).cyc →
      ∃ u, exec (.drainStart c g k) s = .next u ∧ ((u.chan c).core g k).acc = ((s.chan c).core g k).acc ∧ s.CoreOnly u c g k ∧
        (match ((s.chan c).lan g).fmt (bits d.w 21 16) with
         | none => ((u.chan c).lan g).r F.CO_STATUS_OP_ERR k = 1 ∧ ∀ x ∈ ((u.chan c).core g k).drainQ, x.seq ≠ d.seq
         | some f =>
           if drainInvalid d.w (((s.chan c).lan g).dparam (bits d.w 65 60)) f = true then
             ((u.chan c).lan g).r F.CO_STATUS_OP_ERR k = 1 ∧ ∀ x ∈ ((u.chan c).core g k).drainQ, x.seq ≠ d.seq
           else ∀ x ∈ ((u.chan c).core g k).drainQ, x.seq = d.seq → x.start = some (s.chan c).cyc ∧
             x.rows = (shapeOf ((s.chan c).lan g) (isSet d.w 70) (bits d.w 69 66) (tRows d.w)).1)) ∧
    (∀ f, ((s.chan c).core g k).drainQ.find? (fun d => d.start.isSome && !d.rowsDone) = some d →
      ((s.chan c).lan g).fmt (bits d.w 21 16) = some f → d.nextCy ≤ (s.chan c).cyc →
      (d.empty = false → d.next < d.rows →
        ((s.chan c).core g k).rowReleased d.seq (tSet d.w) (tRow0 d.w + d.next) (s.chan c).cyc = true) →
      ∃ u, exec (.drainRowRead c g k col chk) s = .next u ∧ ((u.chan c).core g k).lastD0 = some (s.chan c).cyc ∧
        (∃ x ∈ ((u.chan c).core g k).drainQ, x.seq = d.seq ∧ x.next = d.next + 1 ∧ x.rowsDone = (d.next + 1 == tRows d.w)) ∧
        ((u.chan c).core g k).acc = ((s.chan c).core g k).acc ∧ ((u.chan c).core g k).obuf = ((s.chan c).core g k).obuf ∧
        s.CoreOnly u c g k)

/-! ### Register accesses and attachments -/

namespace Sys2Proof.Machine

/-- An event has set bit 0 of a `W1C` field in the cycle in progress (R11). -/
def Lantern.setNow (l : Lantern) (f : Fld) : Bool := (l.regs.evs.getD (f.key 0) 0).testBit 0

end Sys2Proof.Machine

/-- What a written field does by its access code: an `RW` field holds the value and is in effect from the next tick (R12), an `RWL` field
keeps its value until the boundary and the value waits in its shadow (R13), a `W1C` field clears the bits written as 1 but for one that
an event has set in the same cycle (R11), and an `RWI` field of a lantern that is not parked refuses a different value and sets CFG_ERR
(R15, R475). -/
def Obligations.WrittenFieldsFollowTheirAccessCode : Prop :=
  ∀ (s : State) (req : Requester) (c g v : Nat), s.LanRuns c g → s.CanReach req c → v < 2 ^ 32 →
    (((s.chan c).lan g).regs.live.find (F.LN_BANK_PD_REQ.key 0) = none →
      ∃ u, exec (.registerWrite req (winBase c + lanBase g + F.LN_BANK_PD_REQ.off 0) 2 v) s = .next u ∧
        ((u.chan c).lan g).r F.LN_BANK_PD_REQ = v % 2 ^ 16 ∧
        ((u.chan c).lan g).eff F.LN_BANK_PD_REQ = ((s.chan c).lan g).r F.LN_BANK_PD_REQ ∧ s.OnlyLantern u c g ∧
        ((u.chan c).lan g).sp = ((s.chan c).lan g).sp) ∧
    (s.Allows req F.LN_ARB_CFG_BURST →
      ∃ u, exec (.registerWrite req (winBase c + lanBase g + F.LN_ARB_CFG_BURST.off 0) 2 v) s = .next u ∧
        ((u.chan c).lan g).r F.LN_ARB_CFG_BURST = ((s.chan c).lan g).r F.LN_ARB_CFG_BURST ∧
        ((u.chan c).lan g).regs.waiting F.LN_ARB_CFG_BURST = v % 2 ^ 8 ∧
        ((u.chan c).lan g).regs.waiting F.LN_ARB_CFG_WAIT_LIM = v / 2 ^ 8 % 2 ^ 10 ∧
        ((u.chan c).lan g).regs.waiting F.LN_ARB_CFG_HOLD_LIM = v / 2 ^ 18 % 2 ^ 12 ∧ s.OnlyLantern u c g) ∧
    (∃ u, exec (.registerWrite req (winBase c + lanBase g + F.LN_ARB_STAT_CUT.off 0) 2 v) s = .next u ∧
        ((u.chan c).lan g).r F.LN_ARB_STAT_CUT = (if v.testBit 0 ∧ ((s.chan c).lan g).setNow F.LN_ARB_STAT_CUT = false then 0
          else ((s.chan c).lan g).r F.LN_ARB_STAT_CUT) ∧
        ((u.chan c).lan g).r F.LN_ARB_STAT_FORCE = (if v.testBit 1 ∧ ((s.chan c).lan g).setNow F.LN_ARB_STAT_FORCE = false then 0
          else ((s.chan c).lan g).r F.LN_ARB_STAT_FORCE) ∧
        s.OnlyLantern u c g) ∧
    (s.Allows req F.LN_POISON_CTRL_EN → ((s.chan c).lan g).r F.LN_STATUS_PARKED ≠ 1 → req ≠ .debug →
      v % 2 ≠ ((s.chan c).lan g).r F.LN_POISON_CTRL_EN →
      ∃ u, exec (.registerWrite req (winBase c + lanBase g + F.LN_POISON_CTRL_EN.off 0) 2 v) s = .next u ∧
        ((u.chan c).lan g).r F.LN_POISON_CTRL_EN = ((s.chan c).lan g).r F.LN_POISON_CTRL_EN ∧
        ((u.chan c).lan g).r F.LN_STATUS_CFG_ERR = 1 ∧ s.OnlyLantern u c g)

/-- A 32-bit read of the low half of a 64-bit register of a channel block, a lantern block or the bridge block gives its low word and
keeps the high word for the requester's read of the high half (R5), and changes no field; CH_TICK is one such register (R276). A read of a
debug accumulator register gives its part of the cell that CO_ACC_SEL names while DBG_EN is 1, and else 0 (R139). -/
def Obligations.ReadsAnswerTheRequester : Prop :=
  ∀ (s : State) (req : Requester) (c g k : Nat), s.Runs c → s.CanReach req c →
    (∃ u, exec (.lowHalfRead req (winBase c + F.CH_TICK_TICK.off 0)) s = .next u ∧
      (u.chan c).answer.find req.num = some ((s.chan c).tick % 2 ^ 32) ∧
      (u.chan c).regs.capt.find (8 * F.CH_TICK_TICK.off 0 + req.num) =
        some ((s.chan c).tick / 2 ^ 32 % 2 ^ 16 + (s.chan c).phase % 2 ^ 10 * 2 ^ 16) ∧
      (∀ f n, (u.chan c).r f n = (s.chan c).r f n)) ∧
    (∀ o xs, o < 0x08000000 → o % 4 = 0 → wideAt channelFields o = some xs →
      ∃ u, exec (.lowHalfRead req (winBase c + o)) s = .next u ∧
        (u.chan c).answer.find req.num = some (regValue (s.chan c).show xs % 2 ^ 32) ∧
        (u.chan c).regs.capt.find (8 * o + req.num) = some (regValue (s.chan c).show xs / 2 ^ 32) ∧
        (∀ f n, (u.chan c).r f n = (s.chan c).r f n) ∧ (u.chan c).lans = (s.chan c).lans) ∧
    (∀ o xs, g < 1536 → o < 0xF000 → o % 4 = 0 → wideAt lanternFields o = some xs →
      ∃ u, exec (.lowHalfRead req (winBase c + lanBase g + o)) s = .next u ∧
        (u.chan c).answer.find req.num = some (regValue ((s.chan c).lan g).show xs % 2 ^ 32) ∧
        ((u.chan c).lan g).regs.capt.find (8 * o + req.num) = some (regValue ((s.chan c).lan g).show xs / 2 ^ 32) ∧
        (∀ f n, ((u.chan c).lan g).r f n = ((s.chan c).lan g).r f n) ∧ s.OnlyLantern u c g) ∧
    (∀ o xs, o < bridgeSize → cxlRegs o = false → o % 4 = 0 → wideAt bridgeFields o = some xs →
      ∃ u, exec (.lowHalfRead req (bridgeBase + o)) s = .next u ∧
        u.mod.hp.answer.find req.num = some (regValue s.mod.show xs % 2 ^ 32) ∧
        u.mod.regs.capt.find (8 * o + req.num) = some (regValue s.mod.show xs / 2 ^ 32) ∧
        (∀ f n, u.mod.r f n = s.mod.r f n) ∧ u.chans = s.chans) ∧
    (g < 1536 → k < 64 →
      (∀ part, part < 3 → ∃ u, exec (.coAccDataRead req c g k part) s = .next u ∧
        (u.chan c).answer.find req.num =
          some (((s.chan c).lan g).accRead k part % (if part = 0 then 2 ^ 64 else if part = 1 then 2 ^ 32 else 8)) ∧
        (∀ j, (u.chan c).core g j = (s.chan c).core g j) ∧ ((u.chan c).lan g).sp = ((s.chan c).lan g).sp ∧
        (∀ f n, ((u.chan c).lan g).r f n = ((s.chan c).lan g).r f n) ∧ s.OnlyLantern u c g) ∧
      (((s.chan c).lan g).r F.CO_DBG_DBG_EN k = 0 → ∀ part, part < 3 →
        ∃ u, exec (.coAccDataRead req c g k part) s = .next u ∧ (u.chan c).answer.find req.num = some 0))

/-- The I3C port reaches the bridge block and nothing else: a write inside it is the register write of R4 by this requester, a read inside
it gives the requester what the block's 32-bit read gives and changes no channel, and an access outside it is counted as R7 says and
changes no channel (R464, R474). -/
def Obligations.I3cReachesTheBridgeBlock : Prop :=
  ∀ (s : State) (o v : Nat) (wr : Bool), s.Up →
    (o < bridgeSize → v < 2 ^ 32 → exec (.i3cTransaction o true v) s = exec (.registerWrite .i3c (bridgeBase + o) 2 v) s ∧
      ∃ u, exec (.i3cTransaction o true v) s = .next u ∧ u.pending = s.pending) ∧
    (o < bridgeSize → ∃ u, exec (.i3cTransaction o false v) s = .next u ∧ u.chans = s.chans ∧
      u.mod = ((s.mod.blockRead .i3c o 4).2).answerTo .i3c (s.mod.blockRead .i3c o 4).1 ∧
      u.mod.hp.answer.find (Requester.num .i3c) = some (s.mod.blockRead .i3c o 4).1) ∧
    (bridgeSize ≤ o → o < 2 ^ 32 →
      ∃ u, exec (.i3cTransaction o wr v) s = .next u ∧ u.chans = s.chans ∧
        u.mod.r F.MOD_DECODE_MISS_CNT_COUNT = s.mod.regs.plus F.MOD_DECODE_MISS_CNT_COUNT 0 1 ∧
        u.mod.r F.MOD_DECODE_LAST_WRITE = b2n wr ∧ (wr = false → u.mod.hp.answer.find (Requester.num .i3c) = some 0))

/-- An attachment that fails is shown as down; a failure of the dark half's, while the other is up, is a corrected error of the channel,
and the lit half's leaves the channel's host traffic waiting for the light (R28). When the light has moved within 8 ms, the traffic goes
over the other half, once the accesses accepted on the old attachment are complete (R27), and the failure is a corrected error (stated of
a channel with no transfer under way); when it has not, the loss is channel-fatal. A keeper's access to another channel's window is a
contained error (R25). -/
def Obligations.AttachmentsAndMisdirectedAccesses : Prop :=
  ∀ (s : State) (c a : Nat), s.Runs c → a < 2 →
    (∃ u, exec (.attachmentFailed c a) s = .next u ∧
      (u.chan c).r (if a = 0 then F.CH_INFO_A0_UP else F.CH_INFO_A1_UP) = 0 ∧ a ∈ (u.chan c).attOut ∧
      (a = s.mod.r F.HP_LIGHT_LIT → (a, s.mod.boot.ms, false) ∈ (u.chan c).attDue) ∧
      (a ≠ s.mod.r F.HP_LIGHT_LIT → (s.chan c).r (if a = 0 then F.CH_INFO_A1_UP else F.CH_INFO_A0_UP) = 1 →
        (s.chan c).CanRecord ((s.chan c).attUnit a) → (s.chan c).Recorded (u.chan c) 0x89 ((s.chan c).attUnit a)) ∧
      (u.chan c).lans = (s.chan c).lans) ∧
    (∀ t, (s.chan c).attDue.find? (fun x => x.1 == a) = some (a, t, false) → t + 8 ≤ s.mod.boot.ms →
        ∃ u, exec (.attachmentLost c a) s = .next u ∧ (u.chan c).r F.ERR_STATUS_FATAL = 1 ∧ ∀ x ∈ (u.chan c).attDue, x.1 ≠ a) ∧
    (∀ t, (s.chan c).attDue.find? (fun x => x.1 == a) = some (a, t, true) → (∀ g, ((s.chan c).lan g).td.fq = []) →
        ∃ u, exec (.attachmentLost c a) s = .next u ∧ (∀ x ∈ (u.chan c).attDue, x.1 ≠ a) ∧
          (if (s.chan c).r F.CH_INFO_HOST_VIA ≠ s.mod.r F.HP_LIGHT_LIT ∧ (s.chan c).hostBusy = true then
            (u.chan c).hostNext = some (s.mod.r F.HP_LIGHT_LIT)
          else (u.chan c).r F.CH_INFO_HOST_VIA = s.mod.r F.HP_LIGHT_LIT % 2 ∧ (u.chan c).hostNext = none) ∧
          ((s.chan c).CanRecord ((s.chan c).attUnit a) → (s.chan c).Recorded (u.chan c) 0x89 ((s.chan c).attUnit a))) ∧
    (∀ d o, d < 12 → o < 0x10000000 → d ≠ (s.chan c).no → (s.chan c).CanRecord (unitWord (s.chan c).no 7 0 0 0) →
      ∃ u, exec (.misdirectedAccess c (winBase d + o)) s = .next u ∧
        (s.chan c).Recorded (u.chan c) 0x2B (unitWord (s.chan c).no 7 0 0 0) ∧ (u.chan c).lans = (s.chan c).lans)

/-- Writing 1 to CLR_CNT clears the counters of its block, of which one that has incremented in the same cycle ends at 1 (R113), and leaves
every other register of the block as it is, and everything that is no register: of a core (R113), a lantern (R173), its vector engine
(R207) and its tender (R244), of a channel's contexts (R297), its memory (R322), a port (R367), the route block (R368), the power block
(R457) and the error block (R439), and of the bridge's timebase (R280), host port (R388), module ring (R440) and address map (R474). -/
def Obligations.ClearingTheCounters : Prop :=
  (∀ (s : State) (req : Requester) (c g k : Nat), s.LanRuns c g → s.CanReach req c → k < 64 →
    ∀ x ∈ [(Instr.coClrCnt req c g k, coCounters.map (·, k)), (Instr.lnClrCnt req c g, (lnCounters ++ tqCounters).map (·, 0)),
        (Instr.veClrCnt req c g, veCounters.map (·, 0)),
        (Instr.tdClrCnt req c g, tdCounters.map (·, 0) ++ (upto 16).map (F.TD_S_LINES_COUNT, ·))],
      ∃ u, exec x.1 s = .next u ∧ ((s.chan c).lan g).regs.Cleared ((u.chan c).lan g).regs x.2 ∧
        (u.chan c).lan g = { (s.chan c).lan g with regs := ((u.chan c).lan g).regs } ∧ s.OnlyLantern u c g) ∧
  (∀ (s : State) (req : Requester) (c p : Nat), s.Runs c → s.CanReach req c → p < 3 →
    ∀ x ∈ [(Instr.chCtxClrCnt req c, ctxCounters.map (·, 0)), (Instr.hmClrCnt req c, hmCounters.map (·, 0)),
        (Instr.lkClrCnt req c p, lkCounters.map (·, p)),
        (Instr.lkRtClrCnt req c, rtCounters.map (·, 0) ++ (upto 32).flatMap fun n => fifoCounters.map (·, n)),
        (Instr.chPwrClrCnt req c, pwrCounters.map (·, 0)), (Instr.errClrCnt req c, errCounters.map (·, 0))],
      ∃ u, exec x.1 s = .next u ∧ (s.chan c).regs.Cleared (u.chan c).regs x.2 ∧
        u.chan c = { s.chan c with regs := (u.chan c).regs, up := [] }) ∧
  (∀ (s : State) (req : Requester), s.Up →
    ∀ x ∈ [(Instr.tbClrCnt req, tbCounters.map (·, 0)), (Instr.hpClrCnt req, hpCounters.map (·, 0)),
        (Instr.errModClrCnt req, errModCounters.map (·, 0)), (Instr.modMapClrCnt req, [(F.MOD_DECODE_MISS_CNT_COUNT, 0)])],
      ∃ u, exec x.1 s = .next u ∧ s.mod.regs.Cleared u.mod.regs x.2 ∧ u.mod = { s.mod with regs := u.mod.regs } ∧ u.chans = s.chans)

/-! ### Lanterns, banks and arbiters -/

namespace Sys2Proof.Machine

/-- Bank `b` is the only bank of the lantern that changes, and the scratchpad's contents, the cores, the vector engine and the tender
stay. -/
structure Lantern.OnlyBank (a z : Lantern) (b : Nat) : Prop where
  sp : z.sp = a.sp
  cores : z.cores = a.cores
  ve : z.ve = a.ve
  td : z.td = a.td
  banks : ∀ x, x ≠ b → z.bank x = a.bank x

/-- What a command of one bank leaves alone. -/
structure State.BankOnly (s u : State) (c g b : Nat) : Prop where
  lans : s.OnlyLantern u c g
  rest : ((s.chan c).lan g).OnlyBank ((u.chan c).lan g) b

end Sys2Proof.Machine

/-- PARK makes the park of a lantern pending; it is complete in a tick that begins with no open work; RESUME cancels a pending park at
once and ends parking at the start of the next tick (R143, R144), stated of a lantern whose streams parking has not stopped and which have
no shadow, or whose next park is pending. -/
def Obligations.ParkAndResume : Prop :=
  ∀ (s : State) (req : Requester) (c g : Nat), s.LanRuns c g →
    (s.CanReach req c → s.Allows req F.LN_CTRL_PARK →
      ∃ u, exec (.park req c g) s = .next u ∧ ((u.chan c).lan g).r F.LN_STATUS_PARK_PEND = 1 ∧
        ((u.chan c).lan g).sp = ((s.chan c).lan g).sp) ∧
    (((s.chan c).lan g).r F.LN_STATUS_PARK_PEND = 1 → ((s.chan c).lan g).parkReady = true → ((s.chan c).lan g).quiet = true →
      ∃ u, exec (.parkReached c g) s = .next u ∧ ((u.chan c).lan g).r F.LN_STATUS_PARKED = 1 ∧
        ((u.chan c).lan g).r F.LN_STATUS_PARK_PEND = 0 ∧ ((u.chan c).lan g).sp = ((s.chan c).lan g).sp ∧
        ((u.chan c).lan g).cores = ((s.chan c).lan g).cores ∧ s.OnlyLantern u c g) ∧
    (s.CanReach req c → s.Allows req F.LN_CTRL_RESUME → ((s.chan c).lan g).r F.LN_STATUS_PARKED = 1 →
      ∃ u, exec (.lanternResume req c g) s = .next u ∧ ((u.chan c).lan g).resumeReq = some (s.chan c).tick ∧
        ((u.chan c).lan g).r F.LN_STATUS_PARK_PEND = 0 ∧ ((u.chan c).lan g).r F.LN_STATUS_PARKED = 1 ∧ ((u.chan c).lan g).sp = ((s.chan c).lan g).sp ∧ s.OnlyLantern u c g) ∧
    (∀ t, ((s.chan c).lan g).resumeReq = some t → ((s.chan c).lan g).r F.LN_STATUS_PARKED = 1 → t ≠ (s.chan c).tick →
      (((s.chan c).lan g).r F.LN_STATUS_PARK_PEND = 1 ∨
        ∀ n, n < 16 → (((s.chan c).lan g).stm n).byPark = false ∧ (((s.chan c).lan g).stm n).shadow = none) →
      ∃ u, exec (.lanternUnpark c g) s = .next u ∧ ((u.chan c).lan g).r F.LN_STATUS_PARKED = 0 ∧
        ((u.chan c).lan g).resumeReq = none ∧ ((u.chan c).lan g).sp = ((s.chan c).lan g).sp ∧ s.OnlyLantern u c g)

/-- A bank whose power-down is asked for drains, enters retention once no write is outstanding and no access granted, and keeps its
contents; when LN_BANK_PD_TMO passes first it is forced in, and LOST says that the contents are gone; a wake-up lasts 64 cycles
(R159, R160, R162). -/
def Obligations.BankPowerStates : Prop :=
  ∀ (s : State) (c g b : Nat), s.LanRuns c g → b < 16 →
    (∃ u, exec (.fabricWriteHeader c g b) s = .next u ∧
      ((u.chan c).lan g).bank b = { ((s.chan c).lan g).bank b with
        writes := (((s.chan c).lan g).bank b).writes + 1, headers := (((s.chan c).lan g).bank b).headers + 1 } ∧
      s.BankOnly u c g b) ∧
    (isSet (((s.chan c).lan g).eff F.LN_BANK_PD_REQ) b = true → (((s.chan c).lan g).bank b).normal = true →
      ∃ u, exec (.bankPdRequest c g b) s = .next u ∧
        ((u.chan c).lan g).bank b = { ((s.chan c).lan g).bank b with draining := some (s.chan c).cyc } ∧ s.BankOnly u c g b) ∧
    (∀ t, (((s.chan c).lan g).bank b).draining = some t → t < (s.chan c).cyc → (((s.chan c).lan g).bank b).writes = 0 →
      (((s.chan c).lan g).bank b).granted = false →
      ∃ u, exec (.bankRetention c g b) s = .next u ∧
        ((u.chan c).lan g).bank b = { ((s.chan c).lan g).bank b with draining := none, retained := true } ∧
        isSet (((u.chan c).lan g).r F.LN_BANK_STAT_OFF) b = true ∧
        ((u.chan c).lan g).r F.LN_BANK_STAT_LOST = ((s.chan c).lan g).r F.LN_BANK_STAT_LOST ∧ s.BankOnly u c g b) ∧
    (∀ t, (((s.chan c).lan g).bank b).draining = some t → t + ((s.chan c).lan g).eff F.LN_BANK_PD_TMO_CYCLES ≤ (s.chan c).cyc →
      ((((s.chan c).lan g).bank b).writes ≠ 0 ∨ (((s.chan c).lan g).bank b).granted = true ∨
        ((s.chan c).lan g).eff F.LN_BANK_PD_TMO_CYCLES = 0) →
      ∃ u, exec (.bankPdTimeout c g b) s = .next u ∧
        ((u.chan c).lan g).bank b =
          { ((s.chan c).lan g).bank b with draining := none, retained := true, writes := 0, headers := 0 } ∧
        isSet (((u.chan c).lan g).r F.LN_BANK_STAT_OFF) b = true ∧ isSet (((u.chan c).lan g).r F.LN_BANK_STAT_LOST) b = true ∧
        ((u.chan c).lan g).r F.LN_STATUS_LOST = 1 ∧ s.BankOnly u c g b) ∧
    (isSet (((s.chan c).lan g).eff F.LN_BANK_PD_REQ) b = false →
      ∃ u, exec (.bankWake c g b) s = .next u ∧ (((u.chan c).lan g).bank b).draining = none ∧
        ((((s.chan c).lan g).bank b).draining = none → (((s.chan c).lan g).bank b).retained = true →
          (((u.chan c).lan g).bank b).retained = false ∧ (((u.chan c).lan g).bank b).waking = some ((s.chan c).cyc + 64)) ∧
        s.BankOnly u c g b) ∧
    (∀ x, (((s.chan c).lan g).bank b).waking = some x → x ≤ (s.chan c).cyc →
      ∃ u, exec (.bankAwake c g b) s = .next u ∧ ((u.chan c).lan g).bank b = { ((s.chan c).lan g).bank b with waking := none } ∧
        isSet (((u.chan c).lan g).r F.LN_BANK_STAT_OFF) b = false ∧ s.BankOnly u c g b)

/-- A granted access of the fabric port to a bank that is on moves at the grant (stated outside poison mode, and of a channel with no move
of its host traffic open): the bytes of a write under its mask reach the line and no
other byte of the scratchpad changes; a read of the window answers its requester and changes nothing (R145, R146, R164, R174). A write
to a retained bank is dropped (R161). -/
def Obligations.ScratchpadGrants : Prop :=
  ∀ (s : State) (c g b w : Nat) (chk : Check) (a : Acc1) (rest : List Acc1), s.LanRuns c g → b < 16 →
    (((s.chan c).lan g).bank b).arb.owner = some 2 → (((s.chan c).lan g).bank b).arb.moved = false →
    (((s.chan c).lan g).bank b).arb.from_ ≤ (s.chan c).cyc → (((s.chan c).lan g).bank b).fabric = a :: rest → bankOf a.line = b →
    ((s.chan c).lan g).r F.LN_POISON_CTRL_EN = 0 → (s.chan c).hostNext = none →
    (a.wr = true → a.dst = .none → Memory.wf ((s.chan c).lan g).sp = true → a.data.length = 64 → a.mask.length = 64 →
      ∃ u, exec (.scratchpadAccessGrant c g b w chk) s = .next u ∧
        (((u.chan c).lan g).bank b).arb = (((s.chan c).lan g).bank b).arb.beat ∧ (((u.chan c).lan g).bank b).fabric = rest ∧
        s.OnlyLantern u c g ∧ ((u.chan c).lan g).cores = ((s.chan c).lan g).cores ∧
        ((((s.chan c).lan g).bank b).off (s.chan c).cyc = true → ((u.chan c).lan g).sp = ((s.chan c).lan g).sp) ∧
        ((((s.chan c).lan g).bank b).off (s.chan c).cyc = false →
          (∀ i, i < 64 → ((u.chan c).lan g).sp.rd (64 * a.line + i) =
            if a.mask.getD i false then a.data.getD i 0 else ((s.chan c).lan g).sp.rd (64 * a.line + i)) ∧
          (∀ x, x < 64 * a.line ∨ 64 * a.line + 64 ≤ x → ((u.chan c).lan g).sp.rd x = ((s.chan c).lan g).sp.rd x))) ∧
    (∀ req off size, a.wr = false → a.dst = .window req off size → (((s.chan c).lan g).bank b).off (s.chan c).cyc = false → chk = .ok →
      ((s.chan c).lan g).spBad = [] →
      ∃ u, exec (.scratchpadAccessGrant c g b w chk) s = .next u ∧
        (((u.chan c).lan g).bank b).arb = (((s.chan c).lan g).bank b).arb.beat ∧ (((u.chan c).lan g).bank b).fabric = rest ∧
        (u.chan c).answer.find req.num =
          some (ofBytes (((((s.chan c).lan g).sp.rdN (64 * a.line) 64).drop (off % 64)).take size)) ∧
        ((u.chan c).lan g).sp = ((s.chan c).lan g).sp ∧ ((u.chan c).lan g).cores = ((s.chan c).lan g).cores ∧ s.OnlyLantern u c g)

/-- In a cycle the lantern pipe presents at most one line to each bank, all merged accesses of the line together; nothing is presented
twice in a cycle (R151, R152). What a conflict left is served in a stall cycle, which is counted and is a schedule violation (R154). While
a transposing read waits for a buffer, only accesses that fill the buffers in use are presented (R150, log entry 105). -/
def Obligations.LanternPipePresents : Prop :=
  ∀ (s : State) (c g : Nat), s.LanRuns c g → ((s.chan c).lan g).pipeAt ≠ some (s.chan c).cyc →
    ((s.chan c).lan g).arbStall ≠ some (s.chan c).cyc → (∀ x ∈ ((s.chan c).lan g).banks, x.2.pipe = []) →
    ∃ u, exec (.lanternPipeCycle c g) s = .next u ∧ ((u.chan c).lan g).pipeAt = some (s.chan c).cyc ∧
      (∀ b, b < 16 → ∀ x ∈ (((u.chan c).lan g).bank b).pipe, bankOf x.line = b ∧
        ∀ y ∈ (((u.chan c).lan g).bank b).pipe, y.line = x.line) ∧
      ((s.chan c).tbufStall g = true → ∀ b, b < 16 → ∀ x ∈ (((u.chan c).lan g).bank b).pipe, x.gathers = true) ∧
      ((s.chan c).tbufStall g = false → ((s.chan c).lan g).pipeNow = [] → ((u.chan c).lan g).pipeQ = []) ∧
      ((s.chan c).tbufStall g = false → ((s.chan c).lan g).pipeNow ≠ [] → ((u.chan c).lan g).r F.LN_STATUS_SCHED_VIOL = 1 ∧
        ((u.chan c).lan g).r F.LN_CONFLICT_CNT_COUNT = ((s.chan c).lan g).regs.plus F.LN_CONFLICT_CNT_COUNT 0 1) ∧
      ((u.chan c).lan g).sp = ((s.chan c).lan g).sp ∧ ((u.chan c).lan g).cores = ((s.chan c).lan g).cores ∧ s.OnlyLantern u c g

/-- An access of 4 or 8 bytes to the scratchpad window joins the fabric port's queue of the bank of its line with the bytes it writes,
whoever makes it (R174), where the level of a scale table takes the write (R18, R19, R20); setting LN_POISON_CTRL.EN gives every watched line its region's INIT and RPF (R157). -/
def Obligations.WindowAndPoisonMode : Prop :=
  ∀ (s : State) (req : Requester) (c g off v : Nat), s.LanRuns c g → s.CanReach req c →
    (∀ wr z, off < 4096 → z = 2 ∨ z = 3 → off % 2 ^ z = 0 →
      (wr = true → (s.chan c).winVerdict (s.mod.r F.MOD_LEVEL_LEVEL) req g off = .take) →
      ∃ u a, exec (.scratchpadWindowAccess req c g off z wr v) s = .next u ∧
        a.line = 64 * ((s.chan c).lan g).eff F.LN_SPWIN_BLOCK + off / 64 ∧ a.wr = wr ∧
        (∀ i, i < 64 → a.mask.getD i false = (decide (off % 64 ≤ i) && decide (i < off % 64 + 2 ^ z))) ∧
        (wr = true → (a.data.drop (off % 64)).take (2 ^ z) = toBytes (2 ^ z) v) ∧
        (((u.chan c).lan g).bank (bankOf a.line)).fabric = (((s.chan c).lan g).bank (bankOf a.line)).fabric ++ [a] ∧
        s.BankOnly u c g (bankOf a.line)) ∧
    (s.Allows req F.LN_POISON_CTRL_EN → (((s.chan c).lan g).r F.LN_STATUS_PARKED = 1 ∨ req = .debug) →
      ((s.chan c).lan g).r F.LN_POISON_CTRL_EN = 0 →
      ∃ u, exec (.lnPoisonEn req c g) s = .next u ∧ ((u.chan c).lan g).r F.LN_POISON_CTRL_EN = 1 ∧
        (∀ x k, x < 4096 → ((s.chan c).lan g).poisonRegion x = some k →
          (x, decide (((s.chan c).lan g).r F.LN_POISON_RGN_INIT k = 1), ((s.chan c).lan g).r F.LN_POISON_RGN_RPF k) ∈
            ((u.chan c).lan g).poison) ∧
        ((u.chan c).lan g).sp = ((s.chan c).lan g).sp ∧ s.OnlyLantern u c g)

/-- A shared arbiter gives the next slot only to a requester that asks, leaves it without an owner only when none asks, and keeps every requester ranked, as it does at reset (R163, R164, R167); a bank's decision is for the next cycle
(R163). -/
def Obligations.ArbitersServeRequesters : Prop :=
  (∀ r, r < 3 → r ∈ ({} : ArbSt).ranks) ∧
  (∀ (a : ArbSt) (cfg : ArbCfg) (req : Nat → Bool), (∀ r, r < 3 → r ∈ a.ranks) →
    (∀ r, r < 3 → r ∈ (a.decide cfg req).1.ranks) ∧
    (∀ o, (a.decide cfg req).1.owner = some o → req o = true) ∧
    ((a.decide cfg req).1.owner = none → ∀ r, r < 5 → req r = false)) ∧
  (∀ (s : State) (c g b : Nat), s.LanRuns c g → b < 16 → (((s.chan c).lan g).bank b).arb.from_ ≤ (s.chan c).cyc →
    ∃ u, exec (.arbiterDecision c (.bank g b)) s = .next u ∧ (((u.chan c).lan g).bank b).arb =
        { ((((s.chan c).lan g).bank b).arb.decide (lnArb.cfg ((s.chan c).lan g).regs 0) (((s.chan c).lan g).bank b).asks).1 with
          from_ := (s.chan c).cyc + 1 } ∧ s.BankOnly u c g b)

/-! ### The vector engine -/

namespace Sys2Proof.Machine

/-- What an instruction of the vector engine leaves alone: the other lanterns, and the scratchpad with its banks, the cores and the tender
of its own. -/
structure State.VeFrame (s u : State) (c g : Nat) : Prop where
  lans : s.OnlyLantern u c g
  sp : ((u.chan c).lan g).sp = ((s.chan c).lan g).sp
  banks : ((u.chan c).lan g).banks = ((s.chan c).lan g).banks
  cores : ((u.chan c).lan g).cores = ((s.chan c).lan g).cores
  td : ((u.chan c).lan g).td = ((s.chan c).lan g).td

/-- An instruction has been issued: it is counted, and the next may issue in the cycle after (R177, R206). -/
structure State.VeIssued (s u : State) (c g : Nat) : Prop where
  count : ((u.chan c).lan g).r F.VE_ISSUED_COUNT = ((s.chan c).lan g).regs.plus F.VE_ISSUED_COUNT 0 1
  next : ((u.chan c).lan g).ve.nextIssue = (s.chan c).cyc + 1

/-- The vector, tile and mask registers hold those of `o`. -/
structure VecEng.SameRegs (a b : VecEng) : Prop where
  v : b.v = a.v
  t : b.t = a.t
  m : b.m = a.m

/-- The operations on registers alone: their command, opcode (R182) and result. -/
def vectorOps : List ((Nat → Nat → Instr) × Nat × (Lantern → Nat → VOut)) :=
  [(Instr.vsle, 0x12, Lantern.vsle), (Instr.vmin, 0x25, Lantern.vmin), (Instr.vmax, 0x26, Lantern.vmax),
    (Instr.vabs, 0x27, Lantern.vabs), (Instr.vneg, 0x28, Lantern.vneg), (Instr.vdiv, 0x29, Lantern.vdiv),
    (Instr.vsqrt, 0x2A, Lantern.vsqrt), (Instr.vldexp, 0x2B, Lantern.vldexp), (Instr.vcvt, 0x2C, Lantern.vcvt),
    (Instr.vand, 0x2D, Lantern.vand), (Instr.vor, 0x2E, Lantern.vor), (Instr.vxor, 0x2F, Lantern.vxor),
    (Instr.vshl, 0x30, Lantern.vshl), (Instr.vshr, 0x31, Lantern.vshr), (Instr.vsel, 0x32, Lantern.vsel),
    (Instr.vmovi, 0x33, Lantern.vmovi), (Instr.vbcast, 0x34, Lantern.vbcast), (Instr.vexp, 0x38, (·.vtransc .exp)),
    (Instr.vexp2, 0x39, (·.vtransc .exp2)), (Instr.vlog, 0x3A, (·.vtransc .log)), (Instr.vlog2, 0x3B, (·.vtransc .log2)),
    (Instr.vrcp, 0x3C, (·.vtransc .rcp)), (Instr.vrsqrt, 0x3D, (·.vtransc .rsqrt)), (Instr.vtanh, 0x3E, (·.vtransc .tanh)),
    (Instr.vsigm, 0x3F, (·.vtransc .sigm)), (Instr.vcmp, 0x40, Lantern.vcmp), (Instr.mlogic, 0x41, Lantern.mlogic),
    (Instr.mpopc, 0x42, Lantern.mpopc), (Instr.vcomp, 0x48, Lantern.vcomp), (Instr.vexpd, 0x49, Lantern.vexpd),
    (Instr.vperm, 0x4A, Lantern.vperm), (Instr.vslide, 0x4B, Lantern.vslide), (Instr.vred, 0x50, Lantern.vred),
    (Instr.tred, 0x51, Lantern.tred), (Instr.tget, 0x52, Lantern.tget), (Instr.tput, 0x53, Lantern.tput),
    (Instr.topv, 0x54, Lantern.topv), (Instr.topt, 0x55, Lantern.topt), (Instr.smx, 0x58, Lantern.smx),
    (Instr.rstat, 0x59, Lantern.rstat), (Instr.rcomb, 0x5A, Lantern.rcomb), (Instr.rmv, 0x5B, Lantern.rmv),
    (Instr.wadd, 0x60, Lantern.wadd), (Instr.wfin, 0x61, Lantern.wfin)]

/-- The operations that the residue check of a lane covers (R420): their command without a fault, with one, opcode and result. -/
def checkedOps : List ((Nat → Nat → Nat → Check → Instr) × Nat × (Lantern → Nat → VOut)) :=
  [(Instr.vadd, 0x20, Lantern.vadd), (Instr.vsub, 0x21, Lantern.vsub), (Instr.vmul, 0x22, Lantern.vmul),
    (Instr.vfma, 0x23, Lantern.vfma), (Instr.vfms, 0x24, Lantern.vfms)]

/-- A vector result by element (R185): an active element takes `val`, an inactive one below VL is set to 0 with MZ and else kept, and so is
the tail; every other vector register, every tile and every mask stays. -/
structure ElementResult (a b : Lantern) (w : Nat) (val : Nat → Nat) : Prop where
  dest : ∀ i, i < 64 → b.ve.e (vVd w) i =
    if a.active w i then val i else if i < a.vl ∧ vMz w = true then 0 else a.ve.e (vVd w) i
  others : ∀ r i, r ≠ vVd w → r < 32 → i < 64 → b.ve.e r i = a.ve.e r i
  tiles : b.ve.t = a.ve.t
  masks : b.ve.m = a.ve.m

/-- Element results of R182 and R193 that need no rounding: command, opcode, the form's condition on the word, and the value of an active
element. -/
def elementOps : List ((Nat → Nat → Instr) × Nat × (Nat → Bool) × (Lantern → Nat → Nat → Nat)) :=
  [(fun c g => .vadd c g 0 .ok, 0x20, vTy, fun l w i => ofInt 32 (i32 (l.a w i) + i32 (l.b w i))),
    (fun c g => .vsub c g 0 .ok, 0x21, vTy, fun l w i => ofInt 32 (i32 (l.a w i) - i32 (l.b w i))),
    (fun c g => .vmul c g 0 .ok, 0x22, vTy, fun l w i => ofInt 32 (i32 (l.a w i) * i32 (l.b w i))),
    (Instr.vneg, 0x28, vTy, fun l w i => ofInt 32 (-i32 (l.a w i))),
    (Instr.vabs, 0x27, vTy, fun l w i => ofInt 32 ((i32 (l.a w i)).natAbs : Nat)),
    (Instr.vand, 0x2D, fun _ => true, fun l w i => l.a w i &&& l.b w i),
    (Instr.vor, 0x2E, fun _ => true, fun l w i => l.a w i ||| l.b w i),
    (Instr.vxor, 0x2F, fun _ => true, fun l w i => l.a w i ^^^ l.b w i),
    (Instr.vshl, 0x30, fun _ => true, fun l w i => if 31 < l.b w i then 0 else l.a w i * 2 ^ l.b w i % 2 ^ 32),
    (Instr.vshr, 0x31, fun w => vFn w == 0, fun l w i => if 31 < l.b w i then 0 else l.a w i / 2 ^ l.b w i),
    (Instr.vmovi, 0x33, fun w => vFn w == 0, fun _ w _ => ofInt 32 (sext 20 (vImm w))),
    (Instr.vmovi, 0x33, fun w => vFn w == 1, fun _ w _ => vImm w * 2 ^ 12),
    (Instr.vbcast, 0x34, fun _ => true, fun l w _ => l.a w (vImm w % 64)),
    (Instr.tget, 0x52, fun _ => true, fun l w i => l.ve.te (vVa w) (vImm w % 16) i)]

/-- Lines that a load or store names, in the order of its active elements, for the forms whose elements have a format (R184, R185). -/
def Lantern.vLines (l : Lantern) (w : Nat) (f : FmtWord) : List Nat := linesOf (l.vElems w f.vfmt.width)

end Sys2Proof.Machine

/-- A vector operation on registers issues and its result stands in the engine's registers; nothing outside the engine changes but the
counters (R177, R182, R206). -/
def Obligations.VectorOperationsWriteTheirResults : Prop :=
  ∀ x ∈ vectorOps, ∀ (s : State) (c g : Nat) (t : CTask) (w : Nat), s.LanRuns c g → (s.chan c).VeReady g x.2.1 t w →
    (x.2.2 ((s.chan c).lan g) w).bad = false →
    ∃ u, exec (x.1 c g) s = .next u ∧ (x.2.2 ((s.chan c).lan g) w).ve.SameRegs ((u.chan c).lan g).ve ∧ s.VeIssued u c g ∧ s.VeFrame u c g

/-- An operation whose format word is refused (R184) raises cause 2, changes no register of the engine, and the task goes on. -/
def Obligations.RefusedFormatWordsChangeNoRegister : Prop :=
  ∀ (s : State) (c g : Nat) (t : CTask) (w : Nat), s.LanRuns c g →
    (∀ x ∈ vectorOps, (s.chan c).VeReady g x.2.1 t w → (x.2.2 ((s.chan c).lan g) w).bad = true →
      ∃ u, exec (x.1 c g) s = .next u ∧ ((s.chan c).lan g).ve.SameRegs ((u.chan c).lan g).ve ∧
        ((s.chan c).CanRecord ((s.chan c).veUnit g) → (s.chan c).Recorded (u.chan c) 2 ((s.chan c).veUnit g)) ∧
        s.VeIssued u c g ∧ s.VeFrame u c g) ∧
    (∀ x ∈ [(Instr.vld, 0x08), (Instr.vst, 0x09), (Instr.vldx, 0x0A), (Instr.vstx, 0x0B), (Instr.tld, 0x0E), (Instr.tst, 0x0F)],
      (s.chan c).VeReady g x.2 t w → ((s.chan c).lan g).memFmt w = none →
      ∃ u, exec (x.1 c g) s = .next u ∧ ((s.chan c).lan g).ve.SameRegs ((u.chan c).lan g).ve ∧
        ((u.chan c).lan g).ve.mem = ((s.chan c).lan g).ve.mem ∧
        ((s.chan c).CanRecord ((s.chan c).veUnit g) → (s.chan c).Recorded (u.chan c) 2 ((s.chan c).veUnit g)) ∧
        s.VeIssued u c g ∧ s.VeFrame u c g)

/-- The multiply and add of a lane are checked (R420): with no fault, or one that a repeat corrects, the result stands; with a second
mismatch the element of an active lane is 0, or the canonical NaN in FP32, and every other element is as the operation gives it. -/
def Obligations.LaneChecks : Prop :=
  ∀ x ∈ checkedOps, ∀ (s : State) (c g lane : Nat) (chk : Check) (t : CTask) (w : Nat), s.LanRuns c g →
    (s.chan c).VeReady g x.2.1 t w → lane < 64 →
    ∃ u, exec (x.1 c g lane chk) s = .next u ∧ s.VeIssued u c g ∧ s.VeFrame u c g ∧
      (∀ r i, r < 32 → i < 64 → ((u.chan c).lan g).ve.e r i =
        if chk = .uncorrectable ∧ ((s.chan c).lan g).active w lane = true ∧ r = vVd w ∧ i = lane then (if vTy w then 0 else qnan)
        else (x.2.2 ((s.chan c).lan g) w).ve.e r i) ∧
      ((u.chan c).lan g).ve.t = ((s.chan c).lan g).ve.t ∧ ((u.chan c).lan g).ve.m = ((s.chan c).lan g).ve.m ∧
      ((x.2.2 ((s.chan c).lan g) w).cnt = [] → (s.chan c).CanRecord ((s.chan c).veUnit g) → ((s.chan c).lan g).active w lane = true →
        (chk = .corrected → (s.chan c).Recorded (u.chan c) 0xA8 ((s.chan c).veUnit g)) ∧
        (chk = .uncorrectable → (s.chan c).Recorded (u.chan c) 0xA9 ((s.chan c).veUnit g)))

/-- What the integer, logical, shift, immediate, broadcast and tile-row operations compute for each element, and what they leave alone:
inactive elements by MZ, the tail, and every other register (R182, R185, R193). -/
def Obligations.VectorElementValues : Prop :=
  ∀ x ∈ elementOps, ∀ (s : State) (c g : Nat) (t : CTask) (w : Nat), s.LanRuns c g → (s.chan c).VeReady g x.2.1 t w →
    x.2.2.1 w = true →
    ∃ u, exec (x.1 c g) s = .next u ∧
      ElementResult ((s.chan c).lan g) ((u.chan c).lan g) w (x.2.2.2 ((s.chan c).lan g) w) ∧ s.VeIssued u c g ∧ s.VeFrame u c g

/-- VSEL chooses by the mask whatever ME says (R182); VCMP writes a mask bit for each active element and follows MZ (R185); MPOPC
counts the active elements into element 0, and of the others MZ sets the inactive ones below VL to 0 (R185, R186); each changes no other
register. -/
def Obligations.MasksSelectAndCount : Prop :=
  ∀ (s : State) (c g : Nat) (t : CTask) (w : Nat), s.LanRuns c g →
    ((s.chan c).VeReady g 0x32 t w →
      ∃ u, exec (.vsel c g) s = .next u ∧ (∀ i, i < 64 → ((u.chan c).lan g).ve.e (vVd w) i =
        if i < ((s.chan c).lan g).vl then
          (if ((s.chan c).lan g).maskOf w i then ((s.chan c).lan g).a w i else ((s.chan c).lan g).b w i)
        else ((s.chan c).lan g).ve.e (vVd w) i) ∧ ((u.chan c).lan g).ve.m = ((s.chan c).lan g).ve.m) ∧
    ((s.chan c).VeReady g 0x40 t w →
      ∃ u, exec (.vcmp c g) s = .next u ∧ (∀ i, i < 64 → isSet (((u.chan c).lan g).ve.mk_ (vVd w)) i =
        if ((s.chan c).lan g).active w i then cmpOp (vFn w) (vTy w) (((s.chan c).lan g).a w i) (((s.chan c).lan g).b w i)
        else if i < ((s.chan c).lan g).vl ∧ vMz w = true then false else isSet (((s.chan c).lan g).ve.mk_ (vVd w)) i) ∧
        (∀ r, r < 8 → r ≠ vVd w % 8 → ((u.chan c).lan g).ve.mk_ r = ((s.chan c).lan g).ve.mk_ r) ∧
        ((u.chan c).lan g).ve.v = ((s.chan c).lan g).ve.v) ∧
    ((s.chan c).VeReady g 0x42 t w →
      ∃ u, exec (.mpopc c g) s = .next u ∧ ((u.chan c).lan g).ve.e (vVd w) 0 = (((s.chan c).lan g).actives w).length ∧
        (∀ i, 0 < i → i < 64 → ((u.chan c).lan g).ve.e (vVd w) i =
          if i < ((s.chan c).lan g).vl ∧ vMz w = true ∧ ((s.chan c).lan g).active w i = false then 0
          else ((s.chan c).lan g).ve.e (vVd w) i) ∧
        (∀ r i, r < 32 → i < 64 → r ≠ vVd w → ((u.chan c).lan g).ve.e r i = ((s.chan c).lan g).ve.e r i))

/-- VNOP passes; VTASK opens the task with VL 64 and its CTX, and the task is empty, which is counted, when a shape register that it names
holds 0; VSETVL sets VL, which stops at
64; VEND ends the task and drops its lines (R177, R179). -/
def Obligations.VectorTaskControl : Prop :=
  ∀ (s : State) (c g : Nat) (t : CTask) (w : Nat), s.LanRuns c g →
    ((s.chan c).VeReady g 0 t w →
      ∃ u, exec (.vnop c g) s = .next u ∧ ((s.chan c).lan g).ve.SameRegs ((u.chan c).lan g).ve ∧
        ((u.chan c).lan g).vl = ((s.chan c).lan g).vl ∧ s.VeIssued u c g ∧ s.VeFrame u c g) ∧
    ((s.chan c).VeReady g 1 t w → (∀ n, n < 16 → isSet (vImm w) n = true → ((s.chan c).lan g).r F.LN_SHAPE_VALUE n ≠ 0) →
      ∃ u, exec (.vtask c g) s = .next u ∧ ((u.chan c).lan g).vl = 64 ∧ ((u.chan c).lan g).r F.VE_STATUS_CTX = bits w 17 8 ∧
        (∀ x ∈ ((u.chan c).lan g).ve.tasks, x.id = t.id → x.opened = true ∧ x.ctx = bits w 17 8 ∧ x.empty = false) ∧
        ((s.chan c).lan g).ve.SameRegs ((u.chan c).lan g).ve ∧ s.VeIssued u c g ∧ s.VeFrame u c g) ∧
    ((s.chan c).VeReady g 1 t w → (∃ n, n < 16 ∧ isSet (vImm w) n = true ∧ ((s.chan c).lan g).r F.LN_SHAPE_VALUE n = 0) →
      ∃ u, exec (.vtask c g) s = .next u ∧
        (∀ x ∈ ((u.chan c).lan g).ve.tasks, x.id = t.id → x.opened = true ∧ x.ctx = bits w 17 8 ∧ x.empty = true) ∧
        ((u.chan c).lan g).r F.VE_EMPTY_TASK_CNT_COUNT = ((s.chan c).lan g).regs.plus F.VE_EMPTY_TASK_CNT_COUNT 0 1 ∧
        ((s.chan c).lan g).ve.SameRegs ((u.chan c).lan g).ve ∧ s.VeIssued u c g ∧ s.VeFrame u c g) ∧
    ((s.chan c).VeReady g 3 t w → vFn w = 0 → vImm w % 128 ≠ 0 →
      ∃ u, exec (.vsetvl c g) s = .next u ∧ ((u.chan c).lan g).vl = min (vImm w % 128) 64 ∧
        ((s.chan c).lan g).ve.SameRegs ((u.chan c).lan g).ve ∧ s.VeIssued u c g ∧ s.VeFrame u c g) ∧
    ((s.chan c).VeReady g 3 t w → vFn w = 1 → ((s.chan c).lan g).r F.LN_SHAPE_VALUE (vImm w % 16) ≠ 0 →
      ∃ u, exec (.vsetvl c g) s = .next u ∧ ((u.chan c).lan g).vl = min (((s.chan c).lan g).r F.LN_SHAPE_VALUE (vImm w % 16)) 64) ∧
    ((s.chan c).VeReady g 3 t w → 2 ≤ vFn w → 0 < i32 (((s.chan c).lan g).a w 0) →
      ∃ u, exec (.vsetvl c g) s = .next u ∧ (((u.chan c).lan g).vl : Int) = min (i32 (((s.chan c).lan g).a w 0)) 64) ∧
    ((s.chan c).VeReady g 2 t w →
      ∃ u, exec (.vend c g) s = .next u ∧ (∀ x ∈ ((u.chan c).lan g).ve.tasks, x.id = t.id → x.ended = true) ∧
        (∀ x ∈ ((u.chan c).lan g).ve.ibuf, x.task ≠ t.id) ∧ ((s.chan c).lan g).ve.SameRegs ((u.chan c).lan g).ve ∧
        s.VeIssued u c g ∧ s.VeFrame u c g)

/-- An instruction that R92 calls invalid in a core, or R181 in a vector engine, stops its task, whatever instruction the command names:
INV_INSN is set (and in a core OP_ERR), no line of the task is left in the instruction buffer, and nothing of it issues any more (R92,
R110, R181). -/
def Obligations.InvalidInstructionsStopTheirTask : Prop :=
  (∀ (s : State) (c g k : Nat) (t : CTask) (w : Nat) (i : Instr), s.CoreRuns c g k →
    ((s.chan c).core g k).nextWord (s.chan c).cyc = some (t, w) → tileInvalid w (!t.opened) = true →
    i ∈ [Instr.nop c g k, .task c g k, .oload c g k, .tmul c g k, .drain c g k, .fence c g k, .taskEnd c g k] →
    ∃ u, exec i s = .next u ∧ ((u.chan c).lan g).r F.CO_STATUS_INV_INSN k = 1 ∧ ((u.chan c).lan g).r F.CO_STATUS_OP_ERR k = 1 ∧
      (∀ x ∈ ((u.chan c).core g k).tasks, x.id = t.id → x.stopped = true) ∧
      (∀ x ∈ ((u.chan c).core g k).ibuf, x.task ≠ t.id)) ∧
  (∀ x ∈ vectorOps, ∀ (s : State) (c g : Nat) (t : CTask) (w : Nat), s.LanRuns c g →
    ((s.chan c).lan g).ve.nextWord (s.chan c).cyc = some (t, w) →
    vecInvalid w (!t.opened) (((s.chan c).lan g).mxShort w && !t.empty) = true →
    ∃ u, exec (x.1 c g) s = .next u ∧ ((u.chan c).lan g).r F.VE_STATUS_INV_INSN = 1 ∧
      (∀ y ∈ ((u.chan c).lan g).ve.tasks, y.id = t.id → y.stopped = true) ∧ (∀ y ∈ ((u.chan c).lan g).ve.ibuf, y.task ≠ t.id) ∧
      ((s.chan c).lan g).ve.SameRegs ((u.chan c).lan g).ve)

/-- A load or store issues into the engine's list with the lines that its active elements name, and the register file stays until the lines
have come (R184, R202); one that names no line sends no request. The engine asks the lantern pipe for its next instruction line, one line
ahead, and, when no instruction line falls due, for the next line of its oldest load or store, at most one access in a cycle (R177, R183,
R184). -/
def Obligations.VectorMemoryInstructionsAskThePipe : Prop :=
  (∀ (s : State) (c g : Nat) (t : CTask) (w : Nat), s.LanRuns c g →
    (∀ x ∈ [(Instr.vld, 0x08), (Instr.vst, 0x09), (Instr.vldx, 0x0A), (Instr.vstx, 0x0B), (Instr.tld, 0x0E), (Instr.tst, 0x0F)],
      (s.chan c).VeReady g x.2 t w → ∀ f, ((s.chan c).lan g).memFmt w = some f →
      (((s.chan c).lan g).vLines w f ≠ [] →
        ∃ u m, exec (x.1 c g) s = .next u ∧ ((u.chan c).lan g).ve.mem = ((s.chan c).lan g).ve.mem ++ [m] ∧ m.task = t.id ∧ m.w = w ∧
          m.todo.map (·.1) = ((s.chan c).lan g).vLines w f ∧ ((s.chan c).lan g).ve.SameRegs ((u.chan c).lan g).ve ∧
          s.VeIssued u c g ∧ s.VeFrame u c g) ∧
      (((s.chan c).lan g).vLines w f = [] →
        ∃ u, exec (x.1 c g) s = .next u ∧ ((u.chan c).lan g).ve.mem = ((s.chan c).lan g).ve.mem ∧ s.VeIssued u c g ∧
          s.VeFrame u c g)) ∧
    (∀ x ∈ [(Instr.wld, 0x10), (Instr.wst, 0x11)], (s.chan c).VeReady g x.2 t w →
      linesOf ((((s.chan c).lan g).actives w).map fun i => (i, elemAddr (vLine w) 128 i)) ≠ [] →
      ∃ u m, exec (x.1 c g) s = .next u ∧ ((u.chan c).lan g).ve.mem = ((s.chan c).lan g).ve.mem ++ [m] ∧ m.task = t.id ∧ m.w = w ∧
        m.todo.map (·.1) = linesOf ((((s.chan c).lan g).actives w).map fun i => (i, elemAddr (vLine w) 128 i)) ∧
        ((s.chan c).lan g).ve.SameRegs ((u.chan c).lan g).ve ∧ s.VeIssued u c g ∧ s.VeFrame u c g) ∧
    ((s.chan c).VeReady g 0x0C t w → ((s.chan c).lan g).actives w ≠ [] →
      ∃ u m, exec (.mld c g) s = .next u ∧ ((u.chan c).lan g).ve.mem = ((s.chan c).lan g).ve.mem ++ [m] ∧ m.task = t.id ∧ m.w = w ∧
        m.todo.map (·.1) = [vLine w] ∧ ((s.chan c).lan g).ve.SameRegs ((u.chan c).lan g).ve ∧ s.VeIssued u c g ∧ s.VeFrame u c g) ∧
    ((s.chan c).VeReady g 0x0D t w →
      ∃ u m, exec (.mst c g) s = .next u ∧ ((u.chan c).lan g).ve.mem = ((s.chan c).lan g).ve.mem ++ [m] ∧ m.task = t.id ∧ m.w = w ∧
        m.todo.map (·.1) = [vLine w] ∧
        (∀ x ∈ m.todo, (x.2.1.drop (8 * vFn w)).take 8 = toBytes 8 (((s.chan c).lan g).ve.mk_ (vVa w)) ∧
          ∀ i, i < 64 → x.2.2.getD i false = (decide (8 * vFn w ≤ i) && decide (i < 8 * vFn w + 8))) ∧
        ((s.chan c).lan g).ve.SameRegs ((u.chan c).lan g).ve ∧ s.VeIssued u c g ∧ s.VeFrame u c g)) ∧
  (∀ (s : State) (c g : Nat), s.LanRuns c g → ((s.chan c).lan g).ve.lastAcc ≠ some (s.chan c).cyc →
    ((s.chan c).lan g).pipeHolds 64 = false →
    (∀ t, ((s.chan c).lan g).ve.tasks.find? (fun t => !t.endReq && !t.stopped && !t.ended) = some t → t.fetch ≤ 4095 →
      (((s.chan c).lan g).ve.ibuf.filter fun i => i.task == t.id).length < 2 →
      ∃ u a, exec (.veLineFetch c g) s = .next u ∧ ((u.chan c).lan g).pipeQ = ((s.chan c).lan g).pipeQ ++ [a] ∧ a.line = t.fetch ∧
        a.wr = false ∧ ((u.chan c).lan g).ve.ibuf.length = ((s.chan c).lan g).ve.ibuf.length + 1 ∧
        ((u.chan c).lan g).ve.lastAcc = some (s.chan c).cyc ∧ ((s.chan c).lan g).ve.SameRegs ((u.chan c).lan g).ve ∧
        s.VeFrame u c g) ∧
    (∀ m x data mask rest, ((s.chan c).lan g).ve.mem.find? (fun m => !m.todo.isEmpty) = some m → m.todo = (x, data, mask) :: rest →
      m.issued < (s.chan c).cyc → ((s.chan c).lan g).veDue (s.chan c).cyc = none →
      ∃ u a, exec (.veMemRequest c g) s = .next u ∧ ((u.chan c).lan g).pipeQ = ((s.chan c).lan g).pipeQ ++ [a] ∧ a.line = x ∧
        a.wr = !data.isEmpty ∧ a.data = data ∧ a.mask = mask ∧
        (∀ n ∈ ((u.chan c).lan g).ve.mem, n.seq = m.seq → n.todo = rest ∧ n.asked = m.asked + 1) ∧
        ((u.chan c).lan g).ve.lastAcc = some (s.chan c).cyc ∧ ((s.chan c).lan g).ve.SameRegs ((u.chan c).lan g).ve ∧
        s.VeFrame u c g))

/-! ### Three rules as they stand -/

/-- R14: a second write to an `RWL` field before the first has taken effect replaces it in the shadow, the field keeps its value meanwhile,
and the last value is the one that the boundary puts into the field: of every such field of every block, and of two register writes to
the arbiter register of a lantern, one after the other. -/
def Obligations.OnlyTheLastLatchedValueTakesEffect : Prop :=
  (∀ (w : WrOut) (f : Fld) (n x y : Nat), f.acc = .rwl → w.regs.shadow.sorted = true → x < 2 ^ f.wid → y < 2 ^ f.wid →
    ((w.take f n x).take f n y).regs = (w.take f n y).regs ∧
    ((w.take f n x).take f n y).regs.get f n = w.regs.get f n ∧
    ((w.take f n x).take f n y).regs.shadow.find (f.key n) = some y ∧
    ((w.take f n x).take f n y).regs.copyShadows.get f n = y) ∧
  (∀ (s : State) (req : Requester) (c g v x : Nat), s.LanRuns c g → s.CanReach req c → s.Allows req F.LN_ARB_CFG_BURST →
    v < 2 ^ 32 → x < 2 ^ 32 →
    ∃ u z, exec (.registerWrite req (winBase c + lanBase g + F.LN_ARB_CFG_BURST.off 0) 2 v) s = .next u ∧
      exec (.registerWrite req (winBase c + lanBase g + F.LN_ARB_CFG_BURST.off 0) 2 x) u = .next z ∧
      ((z.chan c).lan g).r F.LN_ARB_CFG_BURST = ((s.chan c).lan g).r F.LN_ARB_CFG_BURST ∧
      ((z.chan c).lan g).regs.waiting F.LN_ARB_CFG_BURST = x % 2 ^ 8 ∧
      ((z.chan c).lan g).regs.waiting F.LN_ARB_CFG_WAIT_LIM = x / 2 ^ 8 % 2 ^ 10 ∧
      ((z.chan c).lan g).regs.waiting F.LN_ARB_CFG_HOLD_LIM = x / 2 ^ 18 % 2 ^ 12 ∧ s.OnlyLantern z c g)

/-- R144: one write with both PARK and RESUME is discarded and sets LN_STATUS.CFG_ERR, and nothing else of the lantern changes; a RESUME
while PARK_PEND is set cancels the pending park, clears PARK_PEND and does not set PARKED. -/
def Obligations.ParkAndResumeTogetherAreDiscarded : Prop :=
  ∀ (s : State) (req : Requester) (c g v : Nat), s.LanRuns c g → s.CanReach req c →
    (v < 2 ^ 32 → v % 4 = 3 →
      ∃ u, exec (.registerWrite req (winBase c + lanBase g + F.LN_CTRL_PARK.off 0) 2 v) s = .next u ∧
        (u.chan c).lan g = ((s.chan c).lan g).w F.LN_STATUS_CFG_ERR 0 1 ∧ ((u.chan c).lan g).r F.LN_STATUS_CFG_ERR = 1 ∧
        s.OnlyLantern u c g) ∧
    (s.Allows req F.LN_CTRL_RESUME → ((s.chan c).lan g).r F.LN_STATUS_PARK_PEND = 1 →
      ∃ u, exec (.lanternResume req c g) s = .next u ∧ ((u.chan c).lan g).r F.LN_STATUS_PARK_PEND = 0 ∧
        ((u.chan c).lan g).r F.LN_STATUS_PARKED = ((s.chan c).lan g).r F.LN_STATUS_PARKED ∧
        ((u.chan c).lan g).sp = ((s.chan c).lan g).sp ∧ ((u.chan c).lan g).cores = ((s.chan c).lan g).cores ∧
        ((u.chan c).lan g).ve = ((s.chan c).lan g).ve ∧ s.OnlyLantern u c g)

/-- R187: VCOMP packs the active elements of VA in ascending order into the first elements of VD, and the rest of VD follows MZ, the tail
included; every other register of the engine stays. -/
def Obligations.VcompPacksTheActiveElements : Prop :=
  ∀ (s : State) (c g : Nat) (t : CTask) (w : Nat), s.LanRuns c g → (s.chan c).VeReady g 0x48 t w →
    ∃ u, exec (.vcomp c g) s = .next u ∧
      (∀ i, i < 64 → ((u.chan c).lan g).ve.e (vVd w) i =
        if i < (((s.chan c).lan g).actives w).length then ((s.chan c).lan g).a w ((((s.chan c).lan g).actives w).getD i 0)
        else if vMz w then 0 else ((s.chan c).lan g).ve.e (vVd w) i) ∧
      (∀ i, i ∈ ((s.chan c).lan g).actives w ↔ i < 64 ∧ ((s.chan c).lan g).active w i = true) ∧
      (((s.chan c).lan g).actives w).Pairwise (· < ·) ∧
      (∀ r i, r ≠ vVd w → r < 32 → i < 64 → ((u.chan c).lan g).ve.e r i = ((s.chan c).lan g).ve.e r i) ∧
      ((u.chan c).lan g).ve.t = ((s.chan c).lan g).ve.t ∧ ((u.chan c).lan g).ve.m = ((s.chan c).lan g).ve.m ∧
      s.VeIssued u c g ∧ s.VeFrame u c g

/-! ### Streams, transfers and buoy pairs -/

namespace Sys2Proof.Machine

/-- The fields that show the tender's queues, which follow them (R244, R245). -/
def tdShown : List Fld := [F.TD_FQ_USED, F.TD_STATUS_ACTIVE, F.TD_S_STAT_SPILLED, F.TD_S_POS_FQ_USED, F.TD_S_SPILL_LINES]

/-- What a command of stream `n` leaves alone: the other lanterns and streams, and in its lantern the scratchpad, the banks, the cores, the
vector engine, the fetch queue and every register field but `fs` of the stream and those that show the queues. -/
structure State.StreamOnly (s u : State) (c g n : Nat) (fs : List Fld) : Prop where
  lans : s.OnlyLantern u c g
  sp : ((u.chan c).lan g).sp = ((s.chan c).lan g).sp
  banks : ((u.chan c).lan g).banks = ((s.chan c).lan g).banks
  cores : ((u.chan c).lan g).cores = ((s.chan c).lan g).cores
  ve : ((u.chan c).lan g).ve = ((s.chan c).lan g).ve
  fq : ((u.chan c).lan g).td.fq = ((s.chan c).lan g).td.fq
  streams : ∀ m, m ≠ n → ((u.chan c).lan g).stm m = ((s.chan c).lan g).stm m
  regs : ∀ f m, (∀ x ∈ tdShown, ∀ j, j < 16 → f.key m ≠ x.key j) → (∀ x ∈ fs, f.key m ≠ x.key n) →
    ((u.chan c).lan g).r f m = ((s.chan c).lan g).r f m

/-- The positions of a stream. -/
def tdPos : List Fld := [F.TD_S_POS_PC, F.TD_S_POS_LIST_IDX, F.TD_S_SO_SO, F.TD_S_DO_DO, F.TD_S_LOOPA_C0, F.TD_S_LOOPA_C1,
  F.TD_S_LOOPA_C2, F.TD_S_LOOPA_C3, F.TD_S_LOOPB_C4, F.TD_S_LOOPB_C5]

/-- The state of a stream and its wait. -/
def tdRun : List Fld := [F.TD_S_STAT_STATE, F.TD_S_STAT_WAIT_CAUSE, F.TD_S_STAT_STALL]

/-- What a start that passes its checks leaves (R214): the program in its store, every position 0, the bucket full and the stream in
RUN, its first step in the cycle 9 cycles later. -/
def State.Started (s u : State) (c g n : Nat) : Prop :=
  ((u.chan c).lan g).stmState n = 1 ∧ (∀ f ∈ tdPos, ((u.chan c).lan g).r f n = 0) ∧
  ((u.chan c).lan g).r F.TD_S_TOKENS_TOKENS n = ((s.chan c).lan g).r F.TD_S_DESC7_DEPTH n % 2 ^ 24 ∧
  (((u.chan c).lan g).stm n).prog = ((s.chan c).lan g).progWords (((s.chan c).lan g).r F.TD_S_DESC3_PROG_LINE n) ∧
  (((u.chan c).lan g).stm n).readyAt = (s.chan c).cyc + 9 ∧ (((u.chan c).lan g).stm n).loops = [] ∧
  s.StreamOnly u c g n (F.TD_S_TOKENS_TOKENS :: tdPos ++ tdRun)

/-- The check at START of the stream's descriptor and program (R214). -/
def Lantern.checkOf (l : Lantern) (g n : Nat) : Option Nat := l.startCheck g n (l.progWords (l.r F.TD_S_DESC3_PROG_LINE n))

/-- Stream `n` has the step of this cycle and stands at instruction `i` of its program (R217, R229). -/
structure Channel.StandsAt (ch : Channel) (g n : Nat) (i : SInsn) : Prop where
  num : n < 16
  step : (ch.lan g).td.granted = some (n, ch.cyc)
  prog : (ch.lan g).r F.TD_S_DESC0_MODE n ≠ 1
  insn : (ch.lan g).stmInsn n = some i

/-- After position `p` the program goes on at `p + 1`, unless `p` ends the innermost loop and that loop has repetitions left: then its
index rises and its body begins again (R217). -/
def Lantern.MovesOn (a z : Lantern) (n p : Nat) : Prop :=
  match (a.stm n).loops with
  | [] => z.r F.TD_S_POS_PC n = (p + 1) % 32
  | (q, b, lv, cnt) :: _ =>
    (q + b ≠ p → z.r F.TD_S_POS_PC n = (p + 1) % 32) ∧
    (q + b = p → a.r (loopFld lv) n + 1 < cnt →
      z.r F.TD_S_POS_PC n = (q + 1) % 32 ∧ z.r (loopFld lv) n = (a.r (loopFld lv) n + 1) % 2 ^ 16 ∧ (z.stm n).loops = (a.stm n).loops)

/-- The transfer's data would go to the spill reserve (R241). -/
def Channel.toReserve (ch : Channel) (g n : Nat) (i : Issue) : Bool :=
  (ch.lan g).r F.TD_S_DESC0_DST_BP_EN n == 1 &&
    (if ((ch.lan g).stm n).dstOpen then ((ch.lan g).stm n).dstSpill else ch.wouldSpill g n i.plain)

/-- The conditions of a transfer hold: nothing refuses or faults its addresses, and R230 is satisfied. -/
def Channel.MayIssue (ch : Channel) (g n : Nat) (i : Issue) : Prop :=
  n < 16 ∧ ch.blockOf (16 * g + n) i.src i.dst = .clear ∧ ch.issueWait g n (ceilDiv i.len 64) i.len i.reads i.claim i.plain = 0

/-- One transfer has entered the fetch queue, with its acquisitions and its tokens (R230, R231, R233, R241). -/
structure Channel.Issued (a z : Channel) (g n : Nat) (i : Issue) : Prop where
  ids : (z.lan g).td.fq.map (·.xid) = (a.lan g).td.fq.map (·.xid) ++ [(a.lan g).td.nextXid]
  next : (z.lan g).td.nextXid = (a.lan g).td.nextXid + 1
  xfer : ∃ t ∈ (z.lan g).td.fq, t.xid = (a.lan g).td.nextXid ∧ t.st = n ∧ t.len = i.len ∧ t.ctx = (a.lan g).stmCtx n ∧
    t.src = i.src.map (a.placeOf (16 * g + n) false) ∧ (a.toReserve g n i = false → t.dst = i.dst.map (a.placeOf (16 * g + n) true))
  reserve : (z.lan g).td.spillUsed = (a.lan g).td.spillUsed ++
    (if a.toReserve g n i then (a.lan g).takeReserve (ceilDiv i.len 64 + 1) else [])
  tokens : (z.lan g).r F.TD_S_TOKENS_TOKENS n = if (a.lan g).r F.TD_S_DESC0_REG_EN n = 1
    then ofInt 24 (sext 24 ((a.lan g).r F.TD_S_TOKENS_TOKENS n) - (ceilDiv i.len 64 : Nat)) else (a.lan g).r F.TD_S_TOKENS_TOKENS n
  free : (a.lan g).r F.TD_S_DESC0_DST_BP_EN n = 1 → ((a.lan g).stm n).dstOpen = false → a.toReserve g n i = false →
    z.bpCount g ((a.lan g).r F.TD_S_DESC0_DST_BP n) false = (a.bpCount g ((a.lan g).r F.TD_S_DESC0_DST_BP n) false - 1) % 2 ^ 16
  ready : (a.lan g).r F.TD_S_DESC0_SRC_BP_EN n = 1 → i.reads = true → ((a.lan g).stm n).srcOpen = false →
    z.bpCount (a.srcPair g n).1 (a.srcPair g n).2 true = (a.bpCount (a.srcPair g n).1 (a.srcPair g n).2 true - 1) % 2 ^ 16
  sp : ∀ h, (z.lan h).sp = (a.lan h).sp
  cores : ∀ h, (z.lan h).cores = (a.lan h).cores

/-- The entry after an entry of a block list is next, or the list is at its end (R221). -/
def Lantern.ListMovesOn (a z : Lantern) (n : Nat) (last : Bool) : Prop :=
  z.r F.TD_S_POS_LIST_IDX n = (a.r F.TD_S_POS_LIST_IDX n + 1) % 2 ^ 13 ∧
  ((z.stm n).ending = true ↔ last = true ∨ a.r F.TD_S_DESC6_LIST_LEN n ≤ a.r F.TD_S_POS_LIST_IDX n + 1 ∨ (a.stm n).ending = true)

/-- One more of READY or FREE, which stop at 65,535 (R225, R226). -/
def bpPlus (v k : Nat) : Nat := min (v + k) 65535

end Sys2Proof.Machine

/-- START loads a stream that passes its checks, or leaves it IDLE with its error recorded (R214); STOP leaves it STOPPED with its positions
once its transfers have retired; RESUME and ABORT act as R237 says; a re-arm replaces the endpoints of a moored stream in IDLE, or waits
in the shadow, and the stream restarts in the next cycle, but not in a lantern that is parked or is to be (R143, R235, R236). A re-arm in
the very cycle of the end that applied an earlier one replaces that one's words, and is counted as such (R236, log entry 53). -/
def Obligations.StreamCommands : Prop :=
  ∀ (s : State) (req : Requester) (c g n : Nat), s.LanRuns c g → n < 16 →
    (s.CanReach req c → s.Allows req F.TD_S_CMD_START →
      (((s.chan c).lan g).stmState n = 0 → ((s.chan c).lan g).checkOf g n = none →
        ∃ u, exec (.start req c g n) s = .next u ∧ s.Started u c g n) ∧
      (∀ cause, ((s.chan c).lan g).stmState n = 0 → ((s.chan c).lan g).checkOf g n = some cause →
        (s.chan c).CanRecord ((s.chan c).stmUnit g n) →
        ∃ u, exec (.start req c g n) s = .next u ∧ ((u.chan c).lan g).stmState n = 0 ∧ ((u.chan c).lan g).r F.TD_S_STAT_ERR n = 1 ∧
          (s.chan c).Recorded (u.chan c) cause ((s.chan c).stmUnit g n) ∧ s.StreamOnly u c g n [F.TD_S_STAT_ERR]) ∧
      (((s.chan c).lan g).stmState n = 1 ∨ ((s.chan c).lan g).stmState n = 2 → (((s.chan c).lan g).stm n).aborting = false →
        (((s.chan c).lan g).stm n).ending = false →
        ∃ u, exec (.stop req c g n) s = .next u ∧
          ((u.chan c).lan g).stmState n = (if ((s.chan c).lan g).issuedOf n = [] then 4 else ((s.chan c).lan g).stmState n) ∧
          (((u.chan c).lan g).stm n).stopping = !(((s.chan c).lan g).issuedOf n).isEmpty ∧ s.StreamOnly u c g n tdRun) ∧
      (((s.chan c).lan g).stmState n = 3 ∨ ((s.chan c).lan g).stmState n = 4 →
        ∃ u, exec (.resume req c g n) s = .next u ∧ ((u.chan c).lan g).stmState n = 1 ∧ s.StreamOnly u c g n tdRun) ∧
      (((s.chan c).lan g).stmState n < 3 →
        ∃ u, exec (.resume req c g n) s = .next u ∧ ((u.chan c).lan g).stmState n = ((s.chan c).lan g).stmState n ∧
          ((u.chan c).lan g).r F.TD_STATUS_CFG_ERR = 1 ∧ s.OnlyLantern u c g) ∧
      (∃ u, exec (.abort req c g n) s = .next u ∧ ((u.chan c).lan g).r F.TD_S_STAT_REARM_PEND n = 0 ∧
        (((u.chan c).lan g).stm n).shadow = none ∧
        (((s.chan c).lan g).issuedOf n = [] → ((u.chan c).lan g).stmState n = 0 ∧ ((u.chan c).lan g).r F.TD_S_STAT_ERR n = 1) ∧
        (((s.chan c).lan g).issuedOf n ≠ [] → (((u.chan c).lan g).stm n).aborting = true) ∧
        s.StreamOnly u c g n ([F.TD_S_STAT_REARM_PEND, F.TD_S_STAT_ERR] ++ tdRun))) ∧
    (∀ dst, s.CanReach req c → s.Allows req F.TD_S_REARM_DST_DST →
      (((s.chan c).lan g).r F.TD_S_DESC0_MOORED n = 0 →
        ∃ u, exec (.rearm req c g n dst) s = .next u ∧ ((u.chan c).lan g).r F.TD_STATUS_CFG_ERR = 1 ∧
          ((u.chan c).lan g).stm n = ((s.chan c).lan g).stm n ∧ s.OnlyLantern u c g) ∧
      (((s.chan c).lan g).r F.TD_S_DESC0_MOORED n = 1 → ((s.chan c).lan g).stmState n = 0 → (((s.chan c).lan g).stm n).shadow = none →
        ∃ u, exec (.rearm req c g n dst) s = .next u ∧
          ((u.chan c).lan g).r F.TD_S_DESC1_SRC n = ((s.chan c).lan g).r F.TD_S_REARM_SRC_SRC n % 2 ^ 64 ∧
          ((u.chan c).lan g).r F.TD_S_DESC2_DST n = dst % 2 ^ 64 ∧ (((u.chan c).lan g).stm n).restart = some ((s.chan c).cyc + 1) ∧
          ((((s.chan c).lan g).stm n).endAt = some ((s.chan c).cyc, true) → ((u.chan c).lan g).r F.TD_S_STAT_REARM_OVW n = 1 ∧
            ((u.chan c).lan g).r F.TD_REARM_OVW_CNT_COUNT = ((s.chan c).lan g).regs.plus F.TD_REARM_OVW_CNT_COUNT 0 1) ∧
          ((((s.chan c).lan g).stm n).endAt ≠ some ((s.chan c).cyc, true) →
            s.StreamOnly u c g n [F.TD_S_DESC1_SRC, F.TD_S_DESC2_DST])) ∧
      (((s.chan c).lan g).r F.TD_S_DESC0_MOORED n = 1 →
        ((s.chan c).lan g).stmState n ≠ 0 ∨ (((s.chan c).lan g).stm n).shadow ≠ none →
        ∃ u, exec (.rearm req c g n dst) s = .next u ∧ ((u.chan c).lan g).r F.TD_S_STAT_REARM_PEND n = 1 ∧
          (((u.chan c).lan g).stm n).shadow = some (((s.chan c).lan g).r F.TD_S_REARM_SRC_SRC n, dst % 2 ^ 64) ∧
          (((s.chan c).lan g).r F.TD_S_STAT_REARM_PEND n = 1 → ((u.chan c).lan g).r F.TD_S_STAT_REARM_OVW n = 1 ∧
            ((u.chan c).lan g).r F.TD_REARM_OVW_CNT_COUNT = ((s.chan c).lan g).regs.plus F.TD_REARM_OVW_CNT_COUNT 0 1) ∧
          s.OnlyLantern u c g)) ∧
    (∀ t, (((s.chan c).lan g).stm n).restart = some t → t ≤ (s.chan c).cyc → ((s.chan c).lan g).stmState n = 0 →
      ((s.chan c).lan g).halted = false → ((s.chan c).lan g).checkOf g n = none →
      ∃ u, exec (.streamRestart c g n) s = .next u ∧ s.Started u c g n ∧ (((u.chan c).lan g).stm n).restart = none)

/-- The tender gives the cycle's step to the one stream that can proceed, and a stream that cannot proceed waits with its cause (R229, R230).
The instruction that a stream with the step stands at has its effect: LOOP opens a loop or passes over it, ADD and SET change an
offset, SKIP passes over instructions, END ends the program (R215 to R218, R224). -/
def Obligations.StreamProgramSteps : Prop :=
  ∀ (s : State) (c g n : Nat), s.LanRuns c g →
    (∀ host, n < 16 → ((s.chan c).lan g).td.nextStep ≤ (s.chan c).cyc →
      ((s.chan c).lan g).td.order.filter ((s.chan c).stepping g) = [n] →
      ((s.chan c).lan g).r F.TD_S_DESC0_MODE n ≠ 1 → ((s.chan c).lan g).r F.TD_S_DESC0_PRIO n < 4 →
      ∃ u, exec (.streamStep c g host) s = .next u ∧ s.StreamOnly u c g n tdRun ∧
        ((s.chan c).stepWait g n = none → ((u.chan c).lan g).td.granted = some (n, (s.chan c).cyc) ∧
          ((u.chan c).lan g).td.nextStep = (s.chan c).cyc + 1 ∧ ((u.chan c).lan g).stmState n = 1 ∧
          ((u.chan c).lan g).td.order.getLast? = some n) ∧
        (∀ w, (s.chan c).stepWait g n = some w → ((u.chan c).lan g).stmState n = 2 ∧
          ((u.chan c).lan g).r F.TD_S_STAT_WAIT_CAUSE n = w ∧ ((u.chan c).lan g).td.granted = ((s.chan c).lan g).td.granted)) ∧
    (∀ lv sh k b, (s.chan c).StandsAt g n (.loop lv sh k b) →
      ∃ u, exec (.loop c g) s = .next u ∧ ((u.chan c).lan g).td.granted = none ∧
        (let cnt := match sh with
          | some x => ((s.chan c).lan g).r F.LN_SHAPE_VALUE x
          | none => k
        (cnt = 0 → ((s.chan c).lan g).MovesOn ((u.chan c).lan g) n (((s.chan c).lan g).r F.TD_S_POS_PC n + b)) ∧
        (cnt ≠ 0 → (((u.chan c).lan g).stm n).loops =
            (((s.chan c).lan g).r F.TD_S_POS_PC n, b, lv, cnt) :: (((s.chan c).lan g).stm n).loops ∧
          ((u.chan c).lan g).r (loopFld lv) n = 0 ∧
          ((u.chan c).lan g).r F.TD_S_POS_PC n = (((s.chan c).lan g).r F.TD_S_POS_PC n + 1) % 32)) ∧
        s.StreamOnly u c g n tdPos) ∧
    (∀ dst imm, (s.chan c).StandsAt g n (.set dst imm) →
      ∃ u, exec (.set c g) s = .next u ∧ ((u.chan c).lan g).r (if dst then F.TD_S_DO_DO else F.TD_S_SO_SO) n = ofInt 42 imm ∧
        ((s.chan c).lan g).MovesOn ((u.chan c).lan g) n (((s.chan c).lan g).r F.TD_S_POS_PC n) ∧
        ((u.chan c).lan g).td.granted = none ∧ s.StreamOnly u c g n tdPos) ∧
    (∀ dst st neg imm, (s.chan c).StandsAt g n (.add dst st neg imm) →
      ∃ u, exec (.add c g) s = .next u ∧
        ((u.chan c).lan g).r (if dst then F.TD_S_DO_DO else F.TD_S_SO_SO) n =
          ofInt 42 (((s.chan c).lan g).offReg n dst + (match st with
            | some k => if neg then -((s.chan c).lan g).stride n k else ((s.chan c).lan g).stride n k
            | none => imm)) ∧
        ((s.chan c).lan g).MovesOn ((u.chan c).lan g) n (((s.chan c).lan g).r F.TD_S_POS_PC n) ∧
        ((u.chan c).lan g).td.granted = none ∧ s.StreamOnly u c g n tdPos) ∧
    (∀ lv sh rel k shift, (s.chan c).StandsAt g n (.skip lv sh rel k shift) →
      ∃ u, exec (.skip c g) s = .next u ∧
        ((s.chan c).lan g).MovesOn ((u.chan c).lan g) n (((s.chan c).lan g).r F.TD_S_POS_PC n +
          (if skipHolds rel (((s.chan c).lan g).r (loopFld lv) n * 2 ^ shift) (((s.chan c).lan g).r F.LN_SHAPE_VALUE sh) then k else 0)) ∧
        ((u.chan c).lan g).td.granted = none ∧ s.StreamOnly u c g n tdPos) ∧
    ((s.chan c).StandsAt g n .end_ →
      ∃ u, exec (.progEnd c g) s = .next u ∧ ((u.chan c).lan g).stm n = { ((s.chan c).lan g).stm n with ending := true } ∧
        ((u.chan c).lan g).td.granted = none ∧ s.StreamOnly u c g n [])

/-- An XFER, a FILL or a block-list entry whose conditions hold issues one transfer and moves its program or its list on; an invalid entry
or one with LEN 0 issues none (R216, R220 to R222, R230, R231, R233, R241). A held request is sent when its hold ends (R232). -/
def Obligations.TransfersIssue : Prop :=
  ∀ (s : State) (c g n : Nat) (host : List (BitVec 8)) (i : Issue), s.LanRuns c g →
    (∀ len dEnd sEnd incS incD, (s.chan c).StandsAt g n (.xfer len dEnd sEnd incS incD) →
      (s.chan c).progIssue g n len false dEnd sEnd = some i → (s.chan c).MayIssue g n i →
      ∃ u, exec (.xfer c g host) s = .next u ∧ (s.chan c).Issued (u.chan c) g n i ∧
        ((u.chan c).lan g).offReg n false =
          (if incS then sext 42 (ofInt 42 (((s.chan c).lan g).offReg n false + (ceilDiv len 64 : Nat))) else ((s.chan c).lan g).offReg n false) ∧
        ((u.chan c).lan g).offReg n true =
          (if incD then sext 42 (ofInt 42 (((s.chan c).lan g).offReg n true + (ceilDiv len 64 : Nat))) else ((s.chan c).lan g).offReg n true) ∧
        ((s.chan c).lan g).MovesOn ((u.chan c).lan g) n (((s.chan c).lan g).r F.TD_S_POS_PC n)) ∧
    (∀ len dEnd incD, (s.chan c).StandsAt g n (.fill len dEnd incD) →
      (s.chan c).progIssue g n len true dEnd false = some i → (s.chan c).MayIssue g n i →
      ∃ u, exec (.fill c g) s = .next u ∧ (s.chan c).Issued (u.chan c) g n i ∧
        ((u.chan c).lan g).offReg n false = ((s.chan c).lan g).offReg n false ∧
        ((s.chan c).lan g).MovesOn ((u.chan c).lan g) n (((s.chan c).lan g).r F.TD_S_POS_PC n)) ∧
    (∀ e, n < 16 → ((s.chan c).lan g).td.granted = some (n, (s.chan c).cyc) → ((s.chan c).lan g).r F.TD_S_DESC0_MODE n ≠ 0 →
      ((s.chan c).lan g).listEntry n = some e → ((s.chan c).lan g).listIssue g n e = some i →
      (e.invalid i = false → e.len ≠ 0 → (s.chan c).MayIssue g n i →
        ∃ u, exec (.blockListEntry c g host) s = .next u ∧ (s.chan c).Issued (u.chan c) g n i ∧
          ((s.chan c).lan g).ListMovesOn ((u.chan c).lan g) n e.last) ∧
      (e.invalid i = false → e.len = 0 → e.slotEnd = false →
        ∃ u, exec (.blockListEntry c g host) s = .next u ∧ ((s.chan c).lan g).ListMovesOn ((u.chan c).lan g) n e.last ∧
          ((u.chan c).lan g).td.granted = none ∧ s.StreamOnly u c g n [F.TD_S_POS_LIST_IDX]) ∧
      (e.invalid i = true → e.slotEnd = false → (((s.chan c).lan g).stm n).listErr = false →
        (s.chan c).CanRecord ((s.chan c).stmUnit g n) →
        ∃ u, exec (.blockListEntry c g host) s = .next u ∧ ((s.chan c).lan g).ListMovesOn ((u.chan c).lan g) n e.last ∧
          ((u.chan c).lan g).r F.TD_LIST_ERR_CNT_COUNT = ((s.chan c).lan g).regs.plus F.TD_LIST_ERR_CNT_COUNT 0 1 ∧
          (s.chan c).Recorded (u.chan c) 0x22 ((s.chan c).stmUnit g n) ∧ ((u.chan c).lan g).td.fq = ((s.chan c).lan g).td.fq ∧
          s.OnlyLantern u c g)) ∧
    (∀ h, n < 16 → ((s.chan c).lan g).td.hold.find n = some h → h.until_ ≤ (s.chan c).cyc →
      (((s.chan c).lan g).td.fq.map (·.xid)).Nodup →
      ∃ u, exec (.mergeHoldEnd c g n) s = .next u ∧
        ((u.chan c).lan g).td.fq.map (·.xid) = ((s.chan c).lan g).td.fq.map (·.xid) ∧
        (∀ t ∈ ((u.chan c).lan g).td.fq, t.xid ∈ h.xids → t.sent = true) ∧
        (∀ k, ((u.chan c).lan k).sp = ((s.chan c).lan k).sp ∧ ((u.chan c).lan k).cores = ((s.chan c).lan k).cores))

/-- The oldest transfer of a stream leaves the fetch queue once its data has landed, and its END bits advance the buoy pairs then (R224, R231);
a stream that has reached its end with nothing outstanding is IDLE with DONE set, and a staged re-arm takes effect (R224, R235); the
token buckets refill to at most DEPTH (R233); the oldest complete spilled slot is copied back, from its reserve lines to the lines
recorded for it, once its pair has a free slot and its own transfers have retired, as many of its transfers at a time as the fetch queue
has room for (R241). -/
def Obligations.StreamsRetireAndRefill : Prop :=
  ∀ (s : State) (c g n : Nat), s.LanRuns c g → n < 16 →
    (∀ t, ((s.chan c).lan g).td.fq.find? (fun x => x.st == n) = some t → t.landed = true →
      ∃ u, exec (.transferRetire c g n) s = .next u ∧
        ((u.chan c).lan g).td.fq = ((s.chan c).lan g).td.fq.filter (fun x => x.xid != t.xid) ∧
        ((u.chan c).lan g).r F.TD_LINES_COUNT = ((s.chan c).lan g).regs.plus F.TD_LINES_COUNT 0 t.lines ∧
        (t.copyBack = false → t.dstEnd = true → ((s.chan c).lan g).r F.TD_S_DESC0_DST_BP_EN n = 1 →
          (u.chan c).bpCount g (((s.chan c).lan g).r F.TD_S_DESC0_DST_BP n) true =
            bpPlus ((s.chan c).bpCount g (((s.chan c).lan g).r F.TD_S_DESC0_DST_BP n) true) 1) ∧
        (t.copyBack = false → t.srcEnd = true →
          (u.chan c).bpCount ((s.chan c).srcPair g n).1 ((s.chan c).srcPair g n).2 false =
            bpPlus ((s.chan c).bpCount ((s.chan c).srcPair g n).1 ((s.chan c).srcPair g n).2 false) 1) ∧
        (∀ h, ((u.chan c).lan h).sp = ((s.chan c).lan h).sp ∧ ((u.chan c).lan h).cores = ((s.chan c).lan h).cores)) ∧
    ((((s.chan c).lan g).stm n).ending = true → (((s.chan c).lan g).stm n).aborting = false → ((s.chan c).lan g).issuedOf n = [] →
      ∃ u, exec (.streamEnd c g n) s = .next u ∧ ((u.chan c).lan g).stmState n = 0 ∧ ((u.chan c).lan g).r F.TD_S_STAT_DONE n = 1 ∧
        ((((s.chan c).lan g).stm n).dstOpen = true → (((s.chan c).lan g).stm n).dstSpill = false →
          (u.chan c).bpCount g (((s.chan c).lan g).r F.TD_S_DESC0_DST_BP n) true =
            bpPlus ((s.chan c).bpCount g (((s.chan c).lan g).r F.TD_S_DESC0_DST_BP n) true) 1) ∧
        (((u.chan c).lan g).stm n).endAt = some ((s.chan c).cyc, (((s.chan c).lan g).stm n).shadow.isSome) ∧
        (∀ a b, ((s.chan c).lan g).halted = false → (((s.chan c).lan g).stm n).shadow = some (a, b) → ((u.chan c).lan g).r F.TD_S_DESC1_SRC n = a % 2 ^ 64 ∧
          ((u.chan c).lan g).r F.TD_S_DESC2_DST n = b % 2 ^ 64 ∧ ((u.chan c).lan g).r F.TD_S_STAT_REARM_PEND n = 0 ∧
          (((u.chan c).lan g).stm n).restart = some ((s.chan c).cyc + 1)) ∧
        (∀ h, ((u.chan c).lan h).sp = ((s.chan c).lan h).sp ∧ ((u.chan c).lan h).cores = ((s.chan c).lan h).cores)) ∧
    (((s.chan c).lan g).td.nextRefill ≤ (s.chan c).cyc →
      ∃ u, exec (.tokenRefill c g) s = .next u ∧
        ((u.chan c).lan g).td.nextRefill = (s.chan c).cyc - (s.chan c).cyc % 64 + 64 ∧
        (∀ m, m < 16 → ((u.chan c).lan g).r F.TD_S_TOKENS_TOKENS m =
          if ((s.chan c).lan g).r F.TD_S_DESC0_REG_EN m = 0 ∨ ((s.chan c).lan g).stmState m = 0 ∨ ((s.chan c).lan g).stmState m = 4 then
            ((s.chan c).lan g).r F.TD_S_TOKENS_TOKENS m
          else ofInt 24 (min (((s.chan c).lan g).r F.TD_S_DESC7_DEPTH m : Int)
            ((sext 24 (((s.chan c).lan g).r F.TD_S_TOKENS_TOKENS m) * 256 + ((((s.chan c).lan g).stm m).frac : Int) +
              (((s.chan c).lan g).r F.TD_S_DESC7_RATE m : Int)) / 256))) ∧
        ((u.chan c).lan g).td.fq = ((s.chan c).lan g).td.fq ∧ ((u.chan c).lan g).sp = ((s.chan c).lan g).sp ∧ s.OnlyLantern u c g) ∧
    (∀ x rest now, ((s.chan c).lan g).spillsOf n = x :: rest → x.closed = true →
      now = (x.parts.filter fun p => !p.sent).take (32 - ((s.chan c).lan g).td.fq.length) → now ≠ [] →
      (x.copying = true ∨ (s.chan c).bpSeen g x.bp false ≠ 0) →
      (∀ p ∈ x.parts, ∀ y ∈ ((s.chan c).lan g).td.fq, y.xid ≠ p.xid) →
      ∃ u, exec (.spillCopyBack c g n) s = .next u ∧
        (u.chan c).bpCount g x.bp false =
          (if x.copying then (s.chan c).bpCount g x.bp false else ((s.chan c).bpCount g x.bp false - 1) % 2 ^ 16) ∧
        ((u.chan c).lan g).td.fq.map (·.xid) =
          ((s.chan c).lan g).td.fq.map (·.xid) ++ rangeFrom ((s.chan c).lan g).td.nextXid now.length ∧
        (∀ k p, now[k]? = some p → ∃ t ∈ ((u.chan c).lan g).td.fq, t.xid = ((s.chan c).lan g).td.nextXid + k ∧ t.st = n ∧
          t.copyBack = true ∧ t.len = p.len ∧ t.dst = p.dst ∧
          t.src = (p.lines.drop 1).map fun y => .dev (((s.chan c).lan g).reserveAddr y)) ∧
        (∀ h, ((u.chan c).lan h).sp = ((s.chan c).lan h).sp ∧ ((u.chan c).lan h).cores = ((s.chan c).lan h).cores))

/-- STALL counts the whole ticks a stream waits with cause 4, and at STALL_LIM the keeper is told once (R239); a stalled stream that waits on
itself alone is a cycle, and it is chosen to spill (R240); at STALL_ERR without a cycle a contained error is recorded (R242). The counts of a
buoy pair rise by what is written and stop at 65,535, with OVF and a record (R225, R226); INIT initialises the pair of a parked lantern
(R228). -/
def Obligations.StallsAndBuoyPairs : Prop :=
  ∀ (s : State) (req : Requester) (c g n : Nat), s.LanRuns c g →
    (((s.chan c).lan g).td.stallTick < (s.chan c).tick →
      ∃ u, exec (.stallCount c g) s = .next u ∧ ((u.chan c).lan g).td.stallTick = (s.chan c).tick ∧
        (∀ m, m < 16 → ((u.chan c).lan g).r F.TD_S_STAT_STALL m =
          match (((s.chan c).lan g).stm m).wait4 with
          | some t => if t + 1 < (s.chan c).tick then ((s.chan c).lan g).regs.plus F.TD_S_STAT_STALL m 1
              else ((s.chan c).lan g).r F.TD_S_STAT_STALL m
          | none => ((s.chan c).lan g).r F.TD_S_STAT_STALL m) ∧
        ((u.chan c).lan g).td.streams = ((s.chan c).lan g).td.streams ∧ s.OnlyLantern u c g) ∧
    (n < 16 → ((s.chan c).lan g).r F.TD_S_STAT_STALL n ≠ 0 →
      ((s.chan c).lan g).eff F.TD_CFG_STALL_LIM ≤ ((s.chan c).lan g).r F.TD_S_STAT_STALL n →
      (((s.chan c).lan g).stm n).notified = false →
      ∃ u, exec (.stallLimit c g n) s = .next u ∧ ((u.chan c).lan g).r F.TD_STATUS_STALL = 1 ∧
        ((u.chan c).lan g).stm n = { ((s.chan c).lan g).stm n with notified := true } ∧
        ((u.chan c).lan g).sp = ((s.chan c).lan g).sp ∧ s.OnlyLantern u c g) ∧
    (((s.chan c).lans.map (·.1)).Nodup → (∀ h m, m < 16 → (((s.chan c).lan h).stalled m = true ↔ h = g ∧ m = n)) → n < 16 → (s.chan c).waitsOn (g, n) = some (g, n) →
      (((s.chan c).lan g).stm n).victim = false →
      ∃ u, exec (.waitForCheck c) s = .next u ∧
        ((u.chan c).lan g).stm n = { ((s.chan c).lan g).stm n with inCycle := true, victim := true } ∧
        ((u.chan c).lan g).regs = ((s.chan c).lan g).regs ∧ s.OnlyLantern u c g) ∧
    (n < 16 → ((s.chan c).lan g).r F.TD_S_STAT_STALL n ≠ 0 →
      ((s.chan c).lan g).eff F.TD_CFG_STALL_ERR ≤ ((s.chan c).lan g).r F.TD_S_STAT_STALL n →
      (((s.chan c).lan g).stm n).inCycle = false → (((s.chan c).lan g).stm n).stallErr = false →
      (s.chan c).CanRecord ((s.chan c).stmUnit g n) →
      ∃ u, exec (.streamStalled c g n) s = .next u ∧ (s.chan c).Recorded (u.chan c) 0x27 ((s.chan c).stmUnit g n) ∧
        ((u.chan c).lan g).stm n = { ((s.chan c).lan g).stm n with stallErr := true } ∧ s.StreamOnly u c g n []) ∧
    (∀ v, n < 32 → v < 2 ^ 16 → v ≠ 0 → s.CanReach req c → s.Allows req F.LN_BP_INC_READY_INC →
      (s.chan c).CanRecord (unitWord (s.chan c).no 6 g 0 n) →
      (∃ u, exec (.bpReadyInc req c g n v) s = .next u ∧
        (u.chan c).bpCount g n true = bpPlus ((s.chan c).bpCount g n true) v ∧
        (65535 < (s.chan c).bpCount g n true + v → ((u.chan c).lan g).r F.LN_BP_STAT_OVF n = 1 ∧
          (s.chan c).Recorded (u.chan c) 0x23 (unitWord (s.chan c).no 6 g 0 n)) ∧
        (u.chan c).bpCount g n false = (s.chan c).bpCount g n false ∧ ((u.chan c).lan g).td = ((s.chan c).lan g).td ∧
        ((u.chan c).lan g).sp = ((s.chan c).lan g).sp ∧ s.OnlyLantern u c g) ∧
      (∃ u, exec (.bpFreeInc req c g n v) s = .next u ∧
        (u.chan c).bpCount g n false = bpPlus ((s.chan c).bpCount g n false) v ∧
        (u.chan c).bpCount g n true = (s.chan c).bpCount g n true ∧ ((u.chan c).lan g).td = ((s.chan c).lan g).td ∧
        (((s.chan c).lan g).r F.LN_BP_CFG_LINK n ≠ 1 → (u.chan c).link = (s.chan c).link) ∧
        ((u.chan c).lan g).sp = ((s.chan c).lan g).sp ∧ s.OnlyLantern u c g)) ∧
    (n < 32 → s.CanReach req c → s.Allows req F.LN_BP_CTRL_INIT →
      (((s.chan c).lan g).r F.LN_STATUS_PARKED = 0 →
        ∃ u, exec (.bpInit req c g n) s = .next u ∧ ((u.chan c).lan g).r F.LN_STATUS_CFG_ERR = 1 ∧
          (u.chan c).bpCount g n true = (s.chan c).bpCount g n true ∧ (u.chan c).bpCount g n false = (s.chan c).bpCount g n false ∧
          s.OnlyLantern u c g) ∧
      (((s.chan c).lan g).r F.LN_STATUS_PARKED = 1 →
        ∃ u, exec (.bpInit req c g n) s = .next u ∧ (u.chan c).bpCount g n true = 0 ∧
          (u.chan c).bpCount g n false = ((s.chan c).lan g).r F.LN_BP_CFG_CAP n % 2 ^ 16 ∧
          ((u.chan c).lan g).r F.LN_BP_STAT_WIDX n = 0 ∧ ((u.chan c).lan g).td = ((s.chan c).lan g).td ∧ s.OnlyLantern u c g))

/-! ### Tasks and work counters -/

namespace Sys2Proof.Machine

/-- What the task unit of a lantern leaves alone: the other lanterns, and the scratchpad, the banks and the tender of this one. -/
structure State.TaskOnly (s u : State) (c g : Nat) : Prop where
  lans : s.OnlyLantern u c g
  sp : ((u.chan c).lan g).sp = ((s.chan c).lan g).sp
  banks : ((u.chan c).lan g).banks = ((s.chan c).lan g).banks
  td : ((u.chan c).lan g).td = ((s.chan c).lan g).td

/-- Every sequence in progress has a task entry in another lantern than `g`, so that none completes by what happens in `g` (R289), and no
dispatched item waits for a parked lantern (R143). -/
def Channel.SeqsElsewhere (ch : Channel) (g : Nat) : Prop :=
  ch.ctx.held = [] ∧ ∀ k x, ch.ctx.seqs.find k = some x → ∃ h, h ≠ g ∧ ∃ e ∈ (ch.lan h).tq.entries, e.slot = some k

/-- The entry that a write of LN_TQ_PUSH_HI pushes (R246). -/
def Lantern.pushed (l : Lantern) (hi : Nat) : Nat := l.r F.LN_TQ_PUSH_LO_ENTRY + (hi % 2 ^ 64) <<< 64

/-- The index of which the claim of `w` gets its streams and its task (R258, R259). -/
def Lantern.claims (a z : Lantern) (cyc w i issuer : Nat) : Prop :=
  (∀ e, a.poolEntry w = some e → z.tq.entries = a.tq.entries.map fun x =>
    if x.num = e.num then { x with claims := x.claims ++ [(i, issuer)], open_ := x.open_ + 1 } else x) ∧
  ((a.poolEntry w).isSome = true → a.r F.LN_WC_CFG_FEED_EN w = 1 →
    (cyc + 1, a.r F.LN_WC_CFG_FEED_S w, true, (a.r F.LN_WC_FEED_BASE w + i * a.r F.LN_WC_FEED_STEP w * 64) % 2 ^ 48) ∈ z.tq.rearms) ∧
  ((a.poolEntry w).isSome = true → a.r F.LN_WC_CFG_OUT_EN w = 1 →
    (cyc + 1, a.r F.LN_WC_CFG_OUT_S w, false, (a.r F.LN_WC_OUTB_BASE w + i * a.r F.LN_WC_OUTB_STEP w * 64) % 2 ^ 48) ∈ z.tq.rearms)

end Sys2Proof.Machine

/-- A pushed entry joins the queue, or is refused and recorded when it is invalid or the queue is full (R246, R248); SQUASH removes the
unpromoted speculative entries (R254). A promotion makes the acquisitions of its task and chooses its variant (R249, R250); a ready
task is bound to a free unit, which fetches its first line (R251); a completed task leaves, and what it owes its pairs is
answered (R252). A waiting context is admitted into a free sequence slot and its task entry is pushed (R255, R288, R396). -/
def Obligations.TasksRunThroughTheQueue : Prop :=
  ∀ (s : State) (req : Requester) (c g : Nat), s.LanRuns c g →
    (∀ hi, s.CanReach req c → s.Allows req F.LN_TQ_PUSH_HI_ENTRY → (s.chan c).CanRecord ((s.chan c).lanUnit g) →
      (teInvalid (((s.chan c).lan g).pushed hi) = true →
        ∃ u, exec (.taskPush req c g hi) s = .next u ∧ ((u.chan c).lan g).r F.LN_TQ_STAT_INV = 1 ∧
          ((u.chan c).lan g).tq = ((s.chan c).lan g).tq ∧ (s.chan c).Recorded (u.chan c) 0x2A ((s.chan c).lanUnit g) ∧
          s.TaskOnly u c g) ∧
      (teInvalid (((s.chan c).lan g).pushed hi) = false → 64 ≤ ((s.chan c).lan g).tq.entries.length →
        ∃ u, exec (.taskPush req c g hi) s = .next u ∧ ((u.chan c).lan g).r F.LN_TQ_STAT_OVF = 1 ∧
          ((u.chan c).lan g).tq = ((s.chan c).lan g).tq ∧ (s.chan c).Recorded (u.chan c) 0x29 ((s.chan c).lanUnit g) ∧
          s.TaskOnly u c g) ∧
      (teInvalid (((s.chan c).lan g).pushed hi) = false → ((s.chan c).lan g).tq.entries.length < 64 →
        ∃ u, exec (.taskPush req c g hi) s = .next u ∧
          ((u.chan c).lan g).tq.entries = ((s.chan c).lan g).tq.entries ++
            [{ num := ((s.chan c).lan g).tq.pushes, w := ((s.chan c).lan g).pushed hi }] ∧
          ((u.chan c).lan g).r F.LN_TQ_STAT_USED = ((s.chan c).lan g).tq.entries.length + 1 ∧ s.TaskOnly u c g)) ∧
    (s.CanReach req c → s.Allows req F.LN_TQ_CTRL_SQUASH →
      ∃ u, exec (.squash req c g) s = .next u ∧
        ((u.chan c).lan g).tq = { ((s.chan c).lan g).tq with
          entries := ((s.chan c).lan g).tq.entries.filter fun e => !(teSpec e.w && !e.promoted) } ∧
        (∀ n r, (u.chan c).bpCount g n r = (s.chan c).bpCount g n r) ∧ s.TaskOnly u c g) ∧
    (∀ e passed, ((s.chan c).lan g).halted = false → ((s.chan c).lan g).tq.nextPromote ≤ (s.chan c).cyc →
      (s.chan c).promotion g = some (e, passed) →
      ∃ u t, exec (.taskPromote c g) s = .next u ∧ ((u.chan c).lan g).tq.tasks = ((s.chan c).lan g).tq.tasks ++ [t] ∧
        t.entry = e.num ∧ t.w = e.w ∧ t.on = none ∧ t.done = false ∧
        (teWaitEn e.w = true → t.line =
          teLine e.w + ((s.chan c).lan g).r F.LN_XACQ_CONS (teWaitBp e.w) % (teVars e.w + 1) * teVstep e.w) ∧
        (teWaitEn e.w = false → tePool e.w = false → t.line = teLine e.w ∧ t.index = none) ∧
        (∀ i iss, teWaitEn e.w = false → tePool e.w = true → e.claims.head? = some (i, iss) →
          t.line = teLine e.w + i % (teVars e.w + 1) * teVstep e.w ∧ t.index = some (i, iss)) ∧
        (teWaitEn e.w = true → (u.chan c).bpCount g (teWaitBp e.w) true = ((s.chan c).bpCount g (teWaitBp e.w) true - 1) % 2 ^ 16) ∧
        (teOutEn e.w = true → (u.chan c).bpCount g (teOutBp e.w) false = ((s.chan c).bpCount g (teOutBp e.w) false - 1) % 2 ^ 16) ∧
        (passed = true → ((u.chan c).lan g).r F.LN_PASS_CNT_COUNT = ((s.chan c).lan g).regs.plus F.LN_PASS_CNT_COUNT 0 1) ∧
        ((u.chan c).lan g).tq.nextPromote = (s.chan c).cyc + 1 ∧ ((u.chan c).lan g).cores = ((s.chan c).lan g).cores ∧ s.TaskOnly u c g) ∧
    (∀ t k, ((s.chan c).lan g).tq.tasks.filter (fun t => t.on.isNone) = [t] → (s.chan c).unitFor g t.w = some k →
      ∃ u, exec (.taskBind c g) s = .next u ∧ (∀ x ∈ ((u.chan c).lan g).tq.tasks, x.id = t.id → x.on = some k) ∧
        (k = 64 → ((u.chan c).lan g).ve.tasks = ((s.chan c).lan g).ve.tasks ++ [{ id := t.id, ctx := teCtx t.w, fetch := t.line }]) ∧
        (k ≠ 64 → ((u.chan c).core g k).tasks = ((s.chan c).core g k).tasks ++ [{ id := t.id, ctx := teCtx t.w, fetch := t.line }] ∧
          ((u.chan c).core g k).nextFetch = max ((s.chan c).core g k).nextFetch ((s.chan c).cyc + 1)) ∧ s.TaskOnly u c g) ∧
    (∀ t k, k < 65 → ((s.chan c).lan g).tq.tasks.find? (fun t => t.on == some k && t.done) = some t → t.index = none →
      (((s.chan c).lan g).tq.tasks.map (·.id)).Nodup → (s.chan c).SeqsElsewhere g →
      ∃ u, exec (.taskComplete c g k) s = .next u ∧
        ((u.chan c).lan g).tq.tasks = ((s.chan c).lan g).tq.tasks.filter (fun x => x.id != t.id) ∧
        (∀ e ∈ ((u.chan c).lan g).tq.entries, e.num ≠ t.entry) ∧
        ((u.chan c).lan g).r F.LN_TASK_DONE_COUNT = ((s.chan c).lan g).regs.plus F.LN_TASK_DONE_COUNT 0 1 ∧
        (∀ a, teOutEn t.w = true → ((s.chan c).lan g).tq.acqs.getD (teOutBp t.w) [] = [a] → a.task = t.id → a.cons = false →
          (u.chan c).bpCount g (teOutBp t.w) true = bpPlus ((s.chan c).bpCount g (teOutBp t.w) true) 1) ∧
        (∀ a, teWaitEn t.w = true → ((s.chan c).lan g).tq.acqs.getD (teWaitBp t.w) [] = [a] → a.task = t.id → a.cons = true →
          (u.chan c).bpCount g (teWaitBp t.w) false = bpPlus ((s.chan c).bpCount g (teWaitBp t.w) false) 1) ∧
        ((u.chan c).lan g).cores = ((s.chan c).lan g).cores ∧ s.TaskOnly u c g) ∧
    (∀ d n k b, (s.chan c).r F.CH_INFO_FWD_ONLY ≠ 1 → (s.chan c).lv.testBit 4 = false → (s.chan c).ctx.held = [] →
      ((s.chan c).lan g).halted = false → (s.chan c).queued = [(d, n)] →
      (upto 8).find? (fun k => ((s.chan c).ctx.seqs.find k).isNone) = some k →
      (s.chan c).ctx.tables.getD ((s.chan c).ctx.tableOf ((s.chan c).r F.CTX_CHAR_PLAN n) ((s.chan c).ctx.alt.contains n)) [] = b →
      b.length = 16 → num b 0 4 = lanBase g + F.LN_TQ_PUSH_HI_ENTRY.base → num b 4 4 = 0 →
      teInvalid (((s.chan c).lan g).pushed (putBits (num b 8 8) 2 3 k)) = false → ((s.chan c).lan g).tq.entries.length < 64 →
      ∃ u, exec (.sequenceAdmit c) s = .next u ∧ (u.chan c).r F.CTX_STATE_STATE n = 4 ∧ (u.chan c).r F.CTX_STATE_SEQ n = k ∧
        (u.chan c).ctx.seqs.find k = some { ctxs := [n] } ∧
        (∃ e ∈ ((u.chan c).lan g).tq.entries, e.w = ((s.chan c).lan g).pushed (putBits (num b 8 8) 2 3 k) ∧ e.slot = some k) ∧
        s.TaskOnly u c g)

/-- ARM sets the range of a finished counter whose pool entry is gone, and is refused otherwise (R256); an owner claim takes a replay index,
else the HEAD (R257, R258, R261); a lantern out of work sends a steal to a victim, which takes the TAIL or answers "empty", and the
answer reaches the thief (R257, R259); a completed index is counted once at its issuer, and a second time is a duplicate
(R260, R261). -/
def Obligations.WorkCountersAndStealing : Prop :=
  ∀ (s : State) (req : Requester) (c g w : Nat), s.LanRuns c g → w < 16 →
    (∀ head tail, head < 2 ^ 13 → tail < 2 ^ 13 → s.CanReach req c → s.Allows req F.LN_WC_ARM_HEAD →
      (((s.chan c).lan g).r F.LN_WC_STAT_FIN w = 1 → ((s.chan c).lan g).poolEntry w = none → head ≤ tail → tail - head ≤ 4096 →
        ∃ u, exec (.wcArm req c g w head tail) s = .next u ∧ ((u.chan c).lan g).r F.LN_WC_RANGE_HEAD w = head ∧
          ((u.chan c).lan g).r F.LN_WC_RANGE_TAIL w = tail ∧ ((u.chan c).lan g).r F.LN_WC_BASE_BASE w = head ∧
          ((u.chan c).lan g).r F.LN_WC_BASE_COUNT w = tail - head ∧ ((u.chan c).lan g).r F.LN_WC_STAT_DONE w = 0 ∧
          ((u.chan c).lan g).r F.LN_WC_STAT_FIN w = b2n (tail == head) ∧ (((u.chan c).lan g).wc w).bitmap = 0 ∧ s.TaskOnly u c g) ∧
      ((((s.chan c).lan g).r F.LN_WC_STAT_FIN w ≠ 1 ∨ tail < head ∨ 4096 < tail - head) →
        ∃ u, exec (.wcArm req c g w head tail) s = .next u ∧ ((u.chan c).lan g).r F.LN_STATUS_CFG_ERR = 1 ∧
          ((u.chan c).lan g).r F.LN_WC_RANGE_HEAD w = ((s.chan c).lan g).r F.LN_WC_RANGE_HEAD w ∧
          ((u.chan c).lan g).r F.LN_WC_RANGE_TAIL w = ((s.chan c).lan g).r F.LN_WC_RANGE_TAIL w ∧
          ((u.chan c).lan g).tq = ((s.chan c).lan g).tq ∧ s.TaskOnly u c g)) ∧
    ((s.chan c).mayClaim g w = true →
      ∃ u, exec (.ownerClaim c g w) s = .next u ∧
        ((((s.chan c).lan g).wc w).replays = [] →
          ((u.chan c).lan g).r F.LN_WC_RANGE_HEAD w = (((s.chan c).lan g).r F.LN_WC_RANGE_HEAD w + 1) % 2 ^ 13 ∧
          ((s.chan c).lan g).claims ((u.chan c).lan g) (s.chan c).cyc w (((s.chan c).lan g).r F.LN_WC_RANGE_HEAD w) g) ∧
        (∀ i rest, (((s.chan c).lan g).wc w).replays = i :: rest → (((u.chan c).lan g).wc w).replays = rest ∧
          ((u.chan c).lan g).r F.LN_WC_RANGE_HEAD w = ((s.chan c).lan g).r F.LN_WC_RANGE_HEAD w ∧
          ((s.chan c).lan g).claims ((u.chan c).lan g) (s.chan c).cyc w i g) ∧
        ((u.chan c).lan g).r F.LN_WC_STAT_OUTST w = ((s.chan c).lan g).regs.plus F.LN_WC_STAT_OUTST w 1 ∧
        ((u.chan c).lan g).tq.nextOwner = (s.chan c).cyc + 1 ∧ s.TaskOnly u c g) ∧
    (∀ k rest t, (s.chan c).maySteal g w = true → ((s.chan c).lan g).victims w = k :: rest →
      (((s.chan c).lan g).wc w).thief.since = some t → t + ((s.chan c).lan g).eff F.LN_STEAL_CFG_WAIT ≤ (s.chan c).cyc →
      (((s.chan c).lan g).wc w).thief.waiting = false → (((s.chan c).lan g).wc w).thief.backoff = none →
      ∃ u v, exec (.stealRequest c g w) s = .next u ∧
        v = 48 * ((s.chan c).lan g).r F.LN_STEAL_ROW k + ((s.chan c).lan g).r F.LN_STEAL_COL k ∧
        (((u.chan c).lan g).wc w).thief.waiting = true ∧ (((u.chan c).lan g).wc w).thief.victim = (k + 1) % 8 ∧
        (((s.chan c).lan v).tq.steals.length < 8 →
          { thief := g, w := w, at_ := (s.chan c).cyc } ∈ ((u.chan c).lan v).tq.steals ∧
          ((u.chan c).lan v).tq.steals.length = ((s.chan c).lan v).tq.steals.length + 1) ∧
        (8 ≤ ((s.chan c).lan v).tq.steals.length → ((u.chan c).lan v).tq.steals = ((s.chan c).lan v).tq.steals ∧
          (((u.chan c).lan g).wc w).thief.answer = some (none, v)) ∧
        (∀ h, h ≠ g → h ≠ v → (u.chan c).lan h = (s.chan c).lan h)) ∧
    (∀ x rest, ((s.chan c).lan g).tq.steals = x :: rest → ((s.chan c).lan g).tq.nextSteal ≤ (s.chan c).cyc →
      (∀ m, m < 16 → (s.chan c).mayClaim g m = false) →
      ∃ u, exec (.stealServe c g) s = .next u ∧ ((u.chan c).lan g).tq.steals = rest ∧
        (((s.chan c).lan g).r F.LN_WC_RANGE_HEAD x.w ≠ ((s.chan c).lan g).r F.LN_WC_RANGE_TAIL x.w →
          ((u.chan c).lan g).r F.LN_WC_RANGE_TAIL x.w = (((s.chan c).lan g).r F.LN_WC_RANGE_TAIL x.w - 1) % 2 ^ 13 ∧
          ((u.chan c).lan g).r F.LN_STOLEN_CNT_COUNT = ((s.chan c).lan g).regs.plus F.LN_STOLEN_CNT_COUNT 0 1 ∧
          (((u.chan c).lan x.thief).wc x.w).thief.answer = some (some (((s.chan c).lan g).r F.LN_WC_RANGE_TAIL x.w - 1), g)) ∧
        (((s.chan c).lan g).r F.LN_WC_RANGE_HEAD x.w = ((s.chan c).lan g).r F.LN_WC_RANGE_TAIL x.w →
          ((u.chan c).lan g).regs = ((s.chan c).lan g).regs ∧
          (((u.chan c).lan x.thief).wc x.w).thief.answer = some (none, g)) ∧
        (∀ h, h ≠ g → h ≠ x.thief → (u.chan c).lan h = (s.chan c).lan h)) ∧
    (∀ i v, (((s.chan c).lan g).wc w).thief.answer = some (i, v) →
      ∃ u, exec (.stealResponse c g w) s = .next u ∧ (((u.chan c).lan g).wc w).thief.answer = none ∧
        (((u.chan c).lan g).wc w).thief.waiting = false ∧
        (∀ k, i = some k → ((u.chan c).lan g).r F.LN_STEAL_OK_CNT_COUNT =
            ((s.chan c).lan g).regs.plus F.LN_STEAL_OK_CNT_COUNT 0 1 ∧
          ((s.chan c).lan g).claims ((u.chan c).lan g) (s.chan c).cyc w k v) ∧
        (i = none → ((u.chan c).lan g).r F.LN_STEAL_EMPTY_CNT_COUNT =
            ((s.chan c).lan g).regs.plus F.LN_STEAL_EMPTY_CNT_COUNT 0 1 ∧
          ((((s.chan c).lan g).victims w).length ≤ (((s.chan c).lan g).wc w).thief.asked + 1 →
            (((u.chan c).lan g).wc w).thief.backoff = some ((s.chan c).cyc + ((s.chan c).lan g).eff F.LN_STEAL_CFG_BACKOFF))) ∧
        s.TaskOnly u c g) ∧
    (∀ t, (((s.chan c).lan g).wc w).thief.backoff = some t → t ≤ (s.chan c).cyc →
      ∃ u, exec (.stealBackoffEnd c g w) s = .next u ∧ (((u.chan c).lan g).wc w).thief.backoff = none ∧
        ((u.chan c).lan g).regs = ((s.chan c).lan g).regs ∧ ((u.chan c).lan g).tq.entries = ((s.chan c).lan g).tq.entries ∧
        s.TaskOnly u c g) ∧
    (∀ iss i rest, ((s.chan c).lan g).tq.sent = (iss, w, i) :: rest → (s.chan c).SeqsElsewhere iss →
      ∃ u, exec (.indexComplete c g) s = .next u ∧ ((u.chan c).lan g).tq.sent = rest ∧
        (iss = g → ((u.chan c).lan g).r F.LN_WC_STAT_OUTST w = (((s.chan c).lan g).r F.LN_WC_STAT_OUTST w - 1) % 2 ^ 4) ∧
        (((s.chan c).lan iss).r F.LN_WC_BASE_BASE w ≤ i →
          i < ((s.chan c).lan iss).r F.LN_WC_BASE_BASE w + ((s.chan c).lan iss).r F.LN_WC_BASE_COUNT w →
          isSet (((s.chan c).lan iss).wc w).bitmap (i - ((s.chan c).lan iss).r F.LN_WC_BASE_BASE w) = false →
          ((u.chan c).lan iss).r F.LN_WC_STAT_DONE w = (((s.chan c).lan iss).r F.LN_WC_STAT_DONE w + 1) % 2 ^ 13 ∧
          (((s.chan c).lan iss).r F.LN_WC_STAT_DONE w + 1 = ((s.chan c).lan iss).r F.LN_WC_BASE_COUNT w →
            ((u.chan c).lan iss).r F.LN_WC_STAT_FIN w = 1)) ∧
        (((s.chan c).lan iss).r F.LN_WC_BASE_BASE w ≤ i →
          isSet (((s.chan c).lan iss).wc w).bitmap (i - ((s.chan c).lan iss).r F.LN_WC_BASE_BASE w) = true →
          ((u.chan c).lan iss).r F.LN_TQ_STAT_DUP = 1 ∧
          ((u.chan c).lan iss).r F.LN_WC_STAT_DONE w = ((s.chan c).lan iss).r F.LN_WC_STAT_DONE w) ∧
        (∀ h, h ≠ g → h ≠ iss → (u.chan c).lan h = (s.chan c).lan h)) ∧
    (∀ i, i < 2 ^ 13 → s.CanReach req c → s.Allows req F.LN_WC_REPLAY_INDEX → ((s.chan c).lan g).r F.LN_WC_BASE_BASE w ≤ i →
      i < ((s.chan c).lan g).r F.LN_WC_BASE_BASE w + ((s.chan c).lan g).r F.LN_WC_BASE_COUNT w →
      isSet (((s.chan c).lan g).wc w).bitmap (i - ((s.chan c).lan g).r F.LN_WC_BASE_BASE w) = false →
      (((((s.chan c).lan g).wc w).replays.length < 4 →
        ∃ u, exec (.wcReplay req c g w i) s = .next u ∧
          (((u.chan c).lan g).wc w).replays = (((s.chan c).lan g).wc w).replays ++ [i] ∧
          ((u.chan c).lan g).r F.LN_WC_STAT_REPLAYS w = (((s.chan c).lan g).wc w).replays.length + 1 ∧
          ((u.chan c).lan g).r F.LN_REPLAY_CNT_COUNT = ((s.chan c).lan g).regs.plus F.LN_REPLAY_CNT_COUNT 0 1 ∧ s.TaskOnly u c g)) ∧
      (4 ≤ (((s.chan c).lan g).wc w).replays.length →
        ∃ u, exec (.wcReplay req c g w i) s = .next u ∧ ((u.chan c).lan g).r F.LN_STATUS_CFG_ERR = 1 ∧
          ((u.chan c).lan g).tq = ((s.chan c).lan g).tq ∧ s.TaskOnly u c g))

/-! ### Frame time and contexts -/

namespace Sys2Proof.Machine

/-- A command on context `n` changes only the context's record of channel `c` and the keeper's list of contexts ever locked. -/
structure State.CtxOnly (s u : State) (c n : Nat) : Prop where
  lans : (u.chan c).lans = (s.chan c).lans
  hbm : (u.chan c).hbm = (s.chan c).hbm
  link : (u.chan c).link = (s.chan c).link
  seqs : (u.chan c).ctx.seqs = (s.chan c).ctx.seqs
  regs : ∀ f m, f.key m / 64 < 0x100000 + 0x40 * n ∨ 0x100000 + 0x40 * n + 0x40 ≤ f.key m / 64 → (u.chan c).r f m = (s.chan c).r f m

/-- A rejected context command is counted and changes no record (R292). -/
structure State.CtxRejected (s u : State) (c : Nat) : Prop where
  rej : (u.chan c).r F.CH_CTX_STAT_REJ = 1
  cnt : (u.chan c).r F.CH_CTX_REJ_CNT_COUNT = (s.chan c).regs.plus F.CH_CTX_REJ_CNT_COUNT 0 1
  records : ∀ f m, 0x100000 ≤ f.key m / 64 → (u.chan c).r f m = (s.chan c).r f m
  lans : (u.chan c).lans = (s.chan c).lans

end Sys2Proof.Machine

/-- An edge inside the window of a locked timebase begins the next tick (R269, R270); one before it is spurious (R270). Without lock an
edge counts by the interval since the last one (R274; that it does so in ticks that began without lock too is the model's choice, log entry
114). The lock, a free-running start and a holdover tick begin ticks as R271 and R274 say; MISS_ALARM misses raise the alarm and ALERT_N,
and one record for each holdover episode (R272); RELOCK accepted edges end holdover (R273). No channel changes. -/
def Obligations.TheTimebaseTicks : Prop :=
  ∀ (s : State), s.Up →
    (∀ at_, s.mod.r F.TB_CFG_SRC ≠ 1 → s.mod.tb.now ≤ at_ → s.mod.r F.TB_STAT_EN = 0 →
      ∃ u, exec (.fsyncEdge at_) s = .next u ∧ u.mod.tb.last = some at_ ∧ u.mod.regs = s.mod.regs ∧ u.chans = s.chans) ∧
    (∀ at_, s.mod.r F.TB_CFG_SRC ≠ 1 → s.mod.tb.now ≤ at_ → s.mod.r F.TB_STAT_EN = 1 → s.mod.tb.tickAt = none →
      ∃ u, exec (.fsyncEdge at_) s = .next u ∧ u.mod.tb.last = some at_ ∧
        u.mod.tb.good = (if s.mod.intervalOk at_ then s.mod.tb.good + 1 else 0) ∧ u.mod.tb.tickAt = none ∧ u.chans = s.chans) ∧
    (∀ at_ ts, s.mod.r F.TB_CFG_SRC ≠ 1 → s.mod.tb.now ≤ at_ → s.mod.r F.TB_STAT_EN = 1 → s.mod.tb.tickAt = some ts →
      (s.mod.r F.TB_STAT_LOCKED ≠ 0 → s.mod.phaseOf ts at_ + s.mod.r F.TB_CFG_WIN < 1024 →
        ∃ u, exec (.fsyncEdge at_) s = .next u ∧ u.mod.r F.TB_SPUR_CNT_COUNT = s.mod.regs.plus F.TB_SPUR_CNT_COUNT 0 1 ∧
          u.mod.r F.TB_STAT_SPUR = 1 ∧ u.mod.r F.TB_TICK_TICK = s.mod.r F.TB_TICK_TICK ∧ u.mod.tb.last = s.mod.tb.last ∧
          u.chans = s.chans) ∧
      (s.mod.r F.TB_STAT_LOCKED = 0 → s.mod.intervalOk at_ = false → s.mod.phaseOf ts at_ < 1024 + s.mod.r F.TB_CFG_WIN →
        ∃ u, exec (.fsyncEdge at_) s = .next u ∧ u.mod.tb.last = some at_ ∧ u.mod.tb.good = 0 ∧ u.mod.tb.tickAt = some ts ∧
          u.mod.r F.TB_TICK_TICK = s.mod.r F.TB_TICK_TICK ∧ u.chans = s.chans) ∧
      ((if s.mod.r F.TB_STAT_LOCKED = 0 then s.mod.intervalOk at_ = true else 1024 ≤ s.mod.phaseOf ts at_ + s.mod.r F.TB_CFG_WIN) →
        s.mod.phaseOf ts at_ < 1024 + s.mod.r F.TB_CFG_WIN →
        ∃ u, exec (.fsyncEdge at_) s = .next u ∧ u.mod.r F.TB_TICK_TICK = (s.mod.r F.TB_TICK_TICK + 1) % 2 ^ 48 ∧
          u.mod.r F.TB_STAT_MISS_RUN = 0 ∧
          u.mod.r F.TB_PHASE_ERR_ERR = ofInt 12 ((s.mod.phaseOf ts at_ : Int) - 1024) % 2 ^ 12 ∧
          u.mod.tb.tickAt = some (16 * at_) ∧ u.mod.tb.last = some at_ ∧ u.mod.tb.good = s.mod.tb.good + 1 ∧ u.chans = s.chans)) ∧
    (∀ l, s.mod.tb.tickAt = none → s.mod.tb.last = some l → s.mod.r F.TB_STAT_EN = 1 → s.mod.r F.TB_CFG_RELOCK ≤ s.mod.tb.good →
      ∃ u, exec .timebaseLock s = .next u ∧ u.mod.r F.TB_STAT_LOCKED = 1 ∧ u.mod.r F.TB_TICK_TICK = s.mod.tb.count % 2 ^ 48 ∧
        u.mod.tb.tickAt = some (16 * l) ∧ u.chans = s.chans) ∧
    (∀ at_, s.mod.r F.TB_STAT_EN = 1 → s.mod.r F.TB_CFG_FREERUN = 1 → s.mod.tb.tickAt = none → s.mod.tb.now ≤ at_ →
      s.mod.tb.enAt + 1000 * s.mod.r F.TB_PERIOD_P ≤ at_ →
      ∃ u, exec (.freerunStart at_) s = .next u ∧ u.mod.r F.TB_STAT_HOLDOVER = 1 ∧ u.mod.r F.TB_TICK_TICK = 0 ∧
        u.mod.r F.TB_STAT_ALARM = 1 ∧ u.mod.alert = true ∧
        u.mod.r F.TB_HOLD_TICKS_COUNT = s.mod.regs.plus F.TB_HOLD_TICKS_COUNT 0 1 ∧ u.mod.tb.tickAt = some (16 * at_) ∧
        u.chans = s.chans) ∧
    (∀ ts, s.mod.tb.tickAt = some ts →
      ∃ u, exec .holdoverTick s = .next u ∧ u.mod.r F.TB_TICK_TICK = (s.mod.r F.TB_TICK_TICK + 1) % 2 ^ 48 ∧
        u.mod.r F.TB_STAT_HOLDOVER = 1 ∧ u.mod.r F.TB_STAT_MISS_RUN = s.mod.regs.plus F.TB_STAT_MISS_RUN 0 1 ∧
        u.mod.r F.TB_MISS_CNT_COUNT = s.mod.regs.plus F.TB_MISS_CNT_COUNT 0 1 ∧
        u.mod.r F.TB_HOLD_TICKS_COUNT = s.mod.regs.plus F.TB_HOLD_TICKS_COUNT 0 1 ∧
        u.mod.tb.tickAt = some (ts + s.mod.r F.TB_PERIOD_P) ∧ u.mod.tb.good = 0 ∧ u.chans = s.chans) ∧
    (s.mod.r F.TB_STAT_HOLDOVER = 1 → s.mod.tb.rang = false → s.mod.r F.TB_CFG_MISS_ALARM ≤ s.mod.r F.TB_STAT_MISS_RUN →
      ∃ u, exec .frameClockAlarm s = .next u ∧ u.mod.r F.TB_STAT_ALARM = 1 ∧ u.mod.alert = true ∧ u.mod.tb.alarmed = true ∧
        (s.mod.tb.alarmed = false → s.mod.r F.ERR_MOD_STATUS_ENTRIES < 64 → (∀ p ∈ s.mod.pend, p.unit ≠ tbUnit) →
          ∃ p, u.mod.pend = s.mod.pend ++ [p] ∧ p.cause = 0x40 ∧ p.unit = tbUnit) ∧
        (s.mod.tb.alarmed = true → u.mod.pend = s.mod.pend) ∧ u.chans = s.chans) ∧
    (s.mod.r F.TB_STAT_HOLDOVER = 1 → s.mod.r F.TB_CFG_RELOCK ≤ s.mod.tb.good →
      ∃ u, exec .holdoverEnd s = .next u ∧ u.mod.r F.TB_STAT_HOLDOVER = 0 ∧ u.mod.r F.TB_STAT_LOCKED = 1 ∧
        u.mod.tb.alarmed = false ∧ u.mod.tb.rang = false ∧ u.mod.r F.TB_TICK_TICK = s.mod.r F.TB_TICK_TICK ∧ u.chans = s.chans)

/-- The message of a tick of the bridge reaches a channel once and waits there, and the tick it announces takes its count; when none comes
within the acceptance window the channel's own timebase counts on (R276, R277; the window is the bridge's, log entry 115). At a boundary of a context in WAIT without debtors' input the period starts: QUEUED, with its nominal boundary, its start
and its shortened deadline (R284, R287, R288; stated of ticks that are no boundary of the channel and of a channel whose compute has
stopped, so that no context is admitted). An expired lock is broken (R294, R296), and a debt at the alarm is recorded once (R290). -/
def Obligations.ChannelTicksAndContexts : Prop :=
  ∀ (s : State) (c : Nat), s.Runs c →
    ((s.chan c).r F.CH_INFO_A0_UP = 1 ∨ (s.chan c).r F.CH_INFO_A1_UP = 1 → c ∈ s.mod.tb.due →
      ∃ u, exec (.tickMessage c) s = .next u ∧ (u.chan c).ctx.msg = some (s.mod.r F.TB_TICK_TICK, s.portMask) ∧
        (u.chan c).ctx.perP = s.mod.r F.TB_PERIOD_P ∧ c ∉ u.mod.tb.due ∧
        (u.chan c).regs = (s.chan c).regs ∧ (u.chan c).lans = (s.chan c).lans) ∧
    (∀ count mask, (s.chan c).ctx.msg = some (count, mask) → count < 2 ^ 48 → (s.chan c).ctx.held = [] →
      count % (s.chan c).r F.CH_CHAR_PERIOD ≠ (s.chan c).r F.CH_CHAR_PHASE → (s.chan c).r F.CH_INFO_FWD_ONLY = 1 →
      ∃ u, exec (.channelTick c) s = .next u ∧ (u.chan c).tick = count ∧ (u.chan c).r F.CH_TICK_HOLD = 0 ∧
        (u.chan c).ctx.msg = none ∧
        (∀ n, (s.chan c).ctx.known = [n] → n < 1024 → (s.chan c).r F.CTX_STATE_STATE n = 1 →
          count % ((s.chan c).r F.CTX_CHAR_PERIOD n + 1) = (s.chan c).r F.CTX_CHAR_PHASE n →
          (s.chan c).r F.CTX_LOCK_OWNER n = 0 → (s.chan c).r F.CTX_STATE_BROKEN n = 0 → (s.chan c).r F.CTX_STATE_HOLD_PEND n = 0 →
          (s.chan c).r F.CTX_STATE_FREE_PEND n = 0 → (s.chan c).r F.CTX_STATE_EARLY n = 0 → (s.chan c).r F.CTX_CHAR_INMODE n = 0 →
          (s.chan c).r F.CTX_STATE_PEND_B n = 0 → (∀ f ∈ ctxLatched, (s.chan c).regs.shadow.find (f.key n) = none) →
          (u.chan c).r F.CTX_STATE_STATE n = 3 ∧ (u.chan c).r F.CTX_STATE_PEND_B n = 0 ∧ (u.chan c).r F.CTX_BOUNDARY_B n = count ∧
          (u.chan c).r F.CTX_STARTED_STARTED n = count ∧
          (u.chan c).r F.CTX_DEADLINE_DEADLINE n = (count + ((s.chan c).r F.CTX_CHAR_WINDOW n + 1) -
            min ((s.chan c).r F.CTX_STATE_DEBT n)
              (((s.chan c).r F.CTX_CHAR_WINDOW n + 1) * (s.chan c).r F.CTX_CHAR_SHORTEN n / 16)) % 2 ^ 48)) ∧
    ((s.chan c).ctx.ticking = true → (s.chan c).ctx.msg = none → 1024 + s.mod.r F.TB_CFG_WIN ≤ (s.chan c).tickPhase →
      (((s.chan c).tick + 1) % 2 ^ 48) % (s.chan c).r F.CH_CHAR_PERIOD ≠ (s.chan c).r F.CH_CHAR_PHASE →
      (s.chan c).r F.CH_INFO_FWD_ONLY = 1 →
      ∃ u, exec (.channelHoldoverTick c) s = .next u ∧ (u.chan c).tick = ((s.chan c).tick + 1) % 2 ^ 48 ∧
        (u.chan c).r F.CH_TICK_HOLD = 1) ∧
    (∀ n, n < 1024 → (s.chan c).r F.CTX_STATE_DEBT n ≠ 0 → (s.chan c).eff F.CH_CTX_CFG_DEBT_ALARM ≤ (s.chan c).r F.CTX_STATE_DEBT n →
      (s.chan c).ctx.alarmed.contains n = false → (s.chan c).CanRecord (unitWord (s.chan c).no 7 0 0 0) →
      ∃ u, exec (.deadlineDebt c n) s = .next u ∧ (s.chan c).Recorded (u.chan c) 0x43 (unitWord (s.chan c).no 7 0 0 0) ∧
        n ∈ (u.chan c).ctx.alarmed ∧ (u.chan c).lans = (s.chan c).lans) ∧
    (∀ n, n < 1024 → (s.chan c).r F.CTX_LOCK_OWNER n ≠ 0 → (s.chan c).r F.CTX_LOCK_LEASE_END n = (s.chan c).tick →
      (s.chan c).eff F.CH_CTX_CFG_AUTO_REVAL = 0 → (s.chan c).CanRecord (unitWord (s.chan c).no 7 0 0 0) →
      ∃ u, exec (.lockBreak c n) s = .next u ∧ (u.chan c).r F.CTX_LOCK_OWNER n = 0 ∧ (u.chan c).r F.CTX_STATE_BROKEN n = 1 ∧
        (s.chan c).Recorded (u.chan c) 0x44 (unitWord (s.chan c).no 7 0 0 0) ∧ (u.chan c).lans = (s.chan c).lans)

/-- Each context command has the effect that R293 gives it on the context it names when its condition holds (R292 to R296, R409), and is
rejected and counted by an owner that does not hold the lock (R292). -/
def Obligations.ContextCommands : Prop :=
  ∀ (s : State) (req : Requester) (c n owner lease arg : Nat), s.Runs c → s.CanReach req c → n < 1024 → owner < 2 ^ 16 →
    lease < 2 ^ 16 → arg < 256 →
    (∃ u, exec (.ctxNone req c n) s = .next u ∧ (u.chan c).ctx = (s.chan c).ctx ∧ s.CtxOnly u c n ∧
      (∀ f m, (u.chan c).r f m = (s.chan c).r f m)) ∧
    (owner ≠ 0 → (s.chan c).r F.CTX_LOCK_OWNER n = owner →
      (∀ w, (s.chan c).r F.CTX_STATE_STATE n = 0 → arg ≠ 255 → (s.chan c).ctx.templates.find arg = some w → (s.chan c).ctx.run = true →
        ((s.chan c).ctxWords n w.1 w.2).recordValid (((s.chan c).ctxWords n w.1 w.2).r · n) = true →
        ∃ u, exec (.ctxArm req c n owner arg) s = .next u ∧ (u.chan c).r F.CTX_STATE_STATE n = 1 ∧
          (u.chan c).r F.CTX_STATE_DEBT n = 0 ∧ (u.chan c).r F.CTX_STATE_IN_CNT n = 0 ∧ (u.chan c).r F.CTX_STATS_PERIODS n = 0 ∧
          (u.chan c).r F.CTX_CHAR_PERIOD n = w.1 % 2 ^ 12 ∧ (u.chan c).r F.CTX_HBM_BASE n = w.2 % 2 ^ 48 ∧ s.CtxOnly u c n) ∧
      ((s.chan c).r F.CTX_STATE_STATE n = 1 ∨ (s.chan c).r F.CTX_STATE_STATE n = 2 →
        ∃ u, exec (.ctxHold req c n owner) s = .next u ∧ (u.chan c).r F.CTX_STATE_STATE n = 5 ∧
          (u.chan c).r F.CTX_STATE_PEND_B n = 0 ∧ s.CtxOnly u c n) ∧
      ((s.chan c).r F.CTX_STATE_STATE n = 3 ∨ (s.chan c).r F.CTX_STATE_STATE n = 4 →
        (∃ u, exec (.ctxHold req c n owner) s = .next u ∧ (u.chan c).r F.CTX_STATE_HOLD_PEND n = 1 ∧
          (u.chan c).r F.CTX_STATE_STATE n = (s.chan c).r F.CTX_STATE_STATE n ∧ s.CtxOnly u c n) ∧
        (∃ u, exec (.ctxFree req c n owner) s = .next u ∧ (u.chan c).r F.CTX_STATE_FREE_PEND n = 1 ∧
          (u.chan c).r F.CTX_STATE_STATE n = (s.chan c).r F.CTX_STATE_STATE n ∧ s.CtxOnly u c n)) ∧
      ((s.chan c).r F.CTX_STATE_STATE n = 1 ∨ (s.chan c).r F.CTX_STATE_STATE n = 2 ∨ (s.chan c).r F.CTX_STATE_STATE n = 5 →
        ∃ u, exec (.ctxFree req c n owner) s = .next u ∧ (u.chan c).r F.CTX_STATE_STATE n = 0 ∧
          (u.chan c).r F.CTX_LOCK_OWNER n = 0 ∧ (u.chan c).r F.CTX_STATE_DEBT n = 0 ∧ s.CtxOnly u c n) ∧
      ((s.chan c).r F.CTX_STATE_STATE n = 5 →
        ∃ u, exec (.ctxUnhold req c n owner) s = .next u ∧ (u.chan c).r F.CTX_STATE_STATE n = 1 ∧ s.CtxOnly u c n) ∧
      (∃ u, exec (.ctxClearDebt req c n owner) s = .next u ∧ (u.chan c).r F.CTX_STATE_DEBT n = 0 ∧
        (u.chan c).r F.CTX_STATE_CATCHUP n = 0 ∧ s.CtxOnly u c n) ∧
      (lease ≠ 0 →
        ∃ u, exec (.ctxRenew req c n owner lease) s = .next u ∧
          (u.chan c).r F.CTX_LOCK_LEASE_END n = ((s.chan c).tick + lease) % 2 ^ 48 ∧ (u.chan c).r F.CTX_LOCK_OWNER n = owner ∧
          s.CtxOnly u c n) ∧
      (∃ u, exec (.ctxRelease req c n owner) s = .next u ∧ (u.chan c).r F.CTX_LOCK_OWNER n = 0 ∧ s.CtxOnly u c n) ∧
      ((s.chan c).r F.CTX_STATE_BROKEN n = 1 →
        ∃ u, exec (.ctxRevalidate req c n owner) s = .next u ∧ (u.chan c).r F.CTX_STATE_BROKEN n = 0 ∧ s.CtxOnly u c n)) ∧
    ((s.chan c).r F.CTX_STATE_STATE n ≠ 0 → (s.chan c).r F.CTX_STATE_STATE n ≠ 5 → (s.chan c).r F.CTX_STATE_IN_CNT n + arg < 256 →
      ∃ u, exec (.ctxMark req c n arg) s = .next u ∧
        (u.chan c).r F.CTX_STATE_IN_CNT n = (s.chan c).r F.CTX_STATE_IN_CNT n + arg ∧ s.CtxOnly u c n) ∧
    ((s.chan c).r F.CTX_LOCK_OWNER n = 0 → owner ≠ 0 → lease ≠ 0 →
      ∃ u, exec (.ctxAcquire req c n owner lease) s = .next u ∧ (u.chan c).r F.CTX_LOCK_OWNER n = owner ∧
        (u.chan c).r F.CTX_LOCK_LEASE_END n = ((s.chan c).tick + lease) % 2 ^ 48 ∧ n ∈ (u.chan c).ctx.known ∧ s.CtxOnly u c n) ∧
    (∀ cmd ∈ [Instr.ctxArm req c n owner arg, .ctxHold req c n owner, .ctxUnhold req c n owner, .ctxFree req c n owner,
        .ctxClearDebt req c n owner, .ctxRenew req c n owner lease, .ctxRelease req c n owner, .ctxRevalidate req c n owner],
      owner = 0 ∨ (s.chan c).r F.CTX_LOCK_OWNER n ≠ owner → ∃ u, exec cmd s = .next u ∧ s.CtxRejected u c)

/-! ### HBM memory -/

namespace Sys2Proof.Machine

/-- What the memory controller leaves alone: the lanterns and the link. -/
structure State.HbmOnly (s u : State) (c : Nat) : Prop where
  lans : (u.chan c).lans = (s.chan c).lans
  link : (u.chan c).link = (s.chan c).link

/-- The request stands at place `i` of the port's command queue, and no earlier one of its line does (R303). -/
def Hbm.FirstOf (h : Hbm) (p i : Nat) (r : HReq) : Prop :=
  (h.port p).cmd[i]? = some r ∧ ∀ x ∈ (h.port p).cmd.take i, x.line ≠ r.line

end Sys2Proof.Machine

/-- A share window sets the budgets and the counts, and lending begins in it (R304, R305); the gate admits the first request of a class that is
in order, has budget and finds room, and refuses one of a protected region (R303 to R306, R321); a read of a clean line answers with its 64
bytes, and one that is uncorrectable with zeros and a record (R311); a partial write changes the bytes it names (R301, R312); refreshes are
owed and become urgent (R308); a scrub read of a clean line changes no line, a corrected or an uncorrectable one leaves its write-back
waiting, the latter as a poison write, and a poisoned one is recorded again (R312, R313); a pin moves its sampling point by the counts of its second sampler (R314). -/
def Obligations.MemoryControllerServes : Prop :=
  ∀ (s : State) (c p : Nat), s.Runs c → p < 64 →
    (∃ u, exec (.hbmWindowStart c) s = .next u ∧ (u.chan c).hbm.cnt = [0, 0, 0] ∧
      (u.chan c).hbm.bud = [F.HM_SHARE_READ, F.HM_SHARE_WRITE, F.HM_SHARE_REMOTE].map
        (fun f => (s.chan c).r F.HM_WINDOW_LINES_LINES * (s.chan c).r f / 32) ∧
      (u.chan c).hbm.lending = false ∧ ((u.chan c).hbm.lend = true ↔ (s.chan c).r F.HM_SHARE_LEND = 1) ∧
      (u.chan c).hbm.mem = (s.chan c).hbm.mem ∧ s.HbmOnly u c) ∧
    (∃ u, exec (.lendingStart c) s = .next u ∧ (u.chan c).hbm = { (s.chan c).hbm with lending := (s.chan c).hbm.lend } ∧ s.HbmOnly u c) ∧
    (∀ cls front r back, cls < 3 → gateSplit cls (s.chan c).hbm.gate = some (front, r, back) →
      (∀ q ∈ front, ¬ (q.src = r.src ∧ q.line = r.line)) →
      (((s.chan c).hbm.port (hbmPc r.line)).queue cls).length < 16 →
      ((s.chan c).hbm.inBudget cls = true ∨ (s.chan c).mayBorrow = true) → (∀ sid i, r.dst ≠ .remote sid i) →
      (r.refusedIn = false →
        ∃ u, exec (.shareGateAdmit c cls) s = .next u ∧ (u.chan c).hbm.gate = front ++ back ∧
          ((u.chan c).hbm.port (hbmPc r.line)).queue cls =
            ((s.chan c).hbm.port (hbmPc r.line)).queue cls ++ [{ r with adm := 3 * (s.chan c).hbm.mcy + cls }] ∧
          (u.chan c).hbm.cnt = modAt (s.chan c).hbm.cnt cls (· + 1) ∧
          (u.chan c).r (linesFld cls) = (s.chan c).regs.plus (linesFld cls) 0 1 ∧ (u.chan c).hbm.mem = (s.chan c).hbm.mem) ∧
      (r.refusedIn = true →
        ∃ u, exec (.shareGateAdmit c cls) s = .next u ∧ (u.chan c).hbm.ports = (s.chan c).hbm.ports ∧
          (u.chan c).r F.HM_PROT_CNT_COUNT = (s.chan c).regs.plus F.HM_PROT_CNT_COUNT 0 1 ∧
          (u.chan c).hbm.mem = (s.chan c).hbm.mem)) ∧
    (∀ i r tag, (s.chan c).hbm.FirstOf p i r → r.wr = false → r.dst = .host tag →
      (((s.chan c).hbm.decode r.line []).fixed = some [] →
        ∃ u, exec (.hbmReadComplete c p i [] false []) s = .next u ∧
          (u.chan c).hbm.hostRd.find tag = some ((s.chan c).hbm.mem.rdN (64 * r.line) 64, false) ∧ s.HbmOnly u c) ∧
      (∀ errs, ((s.chan c).hbm.decode r.line errs).fixed = none → (s.chan c).CanRecord ((s.chan c).pcUnit r.line) →
        ∃ u, exec (.hbmReadComplete c p i errs false []) s = .next u ∧
          (u.chan c).hbm.hostRd.find tag = some (List.replicate 64 0, true) ∧
          (u.chan c).r F.HM_UE_CNT_COUNT = (s.chan c).regs.plus F.HM_UE_CNT_COUNT 0 1 ∧
          (u.chan c).r F.HM_STATUS_UE = 1 ∧ (u.chan c).r F.HM_UE_LOG_LINE = r.line % 2 ^ 30 ∧
          (s.chan c).Recorded (u.chan c) 0x61 ((s.chan c).pcUnit r.line) ∧ s.HbmOnly u c)) ∧
    (∀ i r, (s.chan c).hbm.FirstOf p i r → r.wr = true → r.full = false → Memory.wf (s.chan c).hbm.mem = true →
      r.mask.length = 64 → r.data.length = 64 → (∀ x ∈ dropAt ((s.chan c).hbm.port p).cmd i, x.line ≠ r.line) →
      ((s.chan c).hbm.decode r.line []).fixed = some [] →
      ∃ u, exec (.hbmReadModifyWrite c p i [] false []) s = .next u ∧
        (∀ j, j < 64 → (u.chan c).hbm.mem.rd (64 * r.line + j) =
          if r.mask.getD j false then r.data.getD j 0 else (s.chan c).hbm.mem.rd (64 * r.line + j)) ∧ s.HbmOnly u c) ∧
    (∃ u, exec (.refreshDue c p) s = .next u ∧ ((u.chan c).hbm.port p).owed = ((s.chan c).hbm.port p).owed + 1 ∧
      (u.chan c).hbm.mem = (s.chan c).hbm.mem ∧ s.HbmOnly u c) ∧
    (0 < ((s.chan c).hbm.port p).owed → (s.chan c).eff F.HM_REF_CFG_POSTPONE ≤ ((s.chan c).hbm.port p).owed →
      ∃ u, exec (.refreshEmergency c p) s = .next u ∧ ((u.chan c).hbm.port p).em = true ∧
        ((u.chan c).hbm.port p).owed = ((s.chan c).hbm.port p).owed ∧ (u.chan c).hbm.mem = (s.chan c).hbm.mem ∧ s.HbmOnly u c) ∧
    (∀ line errs odecc miss, line < 2 ^ 30 → (s.chan c).eff F.HM_SCRUB_CFG_EN = 1 →
      (∀ k, k < 3 → ((s.chan c).hbm.port (hbmPc line)).queue k = []) → ((s.chan c).hbm.port (hbmPc line)).owed = 0 →
      (∀ r ∈ ((s.chan c).hbm.port (hbmPc line)).cmd, r.line ≠ line) → (∀ e ∈ (s.chan c).hbm.dir, e.1 ≠ line) →
      (((s.chan c).hbm.decode line errs).fixed = some [] →
        ∃ u, exec (.scrubRead c line errs odecc miss) s = .next u ∧ (u.chan c).hbm.mem = (s.chan c).hbm.mem ∧
          (u.chan c).hbm.wbs = (s.chan c).hbm.wbs ∧ (u.chan c).r F.HM_ODECC_CNT_COUNT =
            (s.chan c).regs.plus F.HM_ODECC_CNT_COUNT 0 (if odecc then 1 else 0) ∧ s.HbmOnly u c) ∧
      (∀ e es, ((s.chan c).hbm.decode line errs).fixed = some (e :: es) →
        ∃ u, exec (.scrubRead c line errs odecc miss) s = .next u ∧
          (line, ((s.chan c).hbm.decode line errs).data, false) ∈ (u.chan c).hbm.wbs ∧ (u.chan c).hbm.mem = (s.chan c).hbm.mem ∧
          (u.chan c).r F.HM_SCRUB_CE_CNT_COUNT = (s.chan c).regs.plus F.HM_SCRUB_CE_CNT_COUNT 0 1 ∧ s.HbmOnly u c) ∧
      (((s.chan c).hbm.decode line errs).fixed = none → (s.chan c).CanRecord ((s.chan c).pcUnit line) →
        ∃ u, exec (.scrubRead c line errs odecc miss) s = .next u ∧ (u.chan c).r F.HM_UE_LOG_CLASS = 3 ∧
          ((s.chan c).hbm.poison.contains line = false →
            (line, ((s.chan c).hbm.decode line errs).data, true) ∈ (u.chan c).hbm.wbs ∧ (u.chan c).r F.HM_UE_LOG_POISON = 0) ∧
          ((s.chan c).hbm.poison.contains line = true →
            (u.chan c).hbm.wbs = (s.chan c).hbm.wbs ∧ (u.chan c).r F.HM_UE_LOG_POISON = 1) ∧
          (u.chan c).hbm.mem = (s.chan c).hbm.mem ∧ (u.chan c).r F.HM_UE_LOG_LINE = line ∧
          (s.chan c).Recorded (u.chan c) 0x62 ((s.chan c).pcUnit line) ∧ s.HbmOnly u c)) ∧
    (∀ pin x, pin < 36 → x = (s.chan c).hbm.pins.getD (36 * p + pin) {} → (s.chan c).eff F.HM_RETRAIN_CFG_EN = 1 →
      x.since + 2 ^ (s.chan c).eff F.HM_RETRAIN_CFG_WIN_LOG2 ≤ ((s.chan c).hbm.port p).used →
      ∃ u, exec (.retrainExamine c p pin) s = .next u ∧
        ((u.chan c).hbm.pins.getD (36 * p + pin) {}).early = 0 ∧ ((u.chan c).hbm.pins.getD (36 * p + pin) {}).late = 0 ∧
        (x.late + (s.chan c).eff F.HM_RETRAIN_CFG_THRESH ≤ x.early → x.late < x.early →
          ((u.chan c).hbm.pins.getD (36 * p + pin) {}).steps = x.steps + 1) ∧
        (x.early + (s.chan c).eff F.HM_RETRAIN_CFG_THRESH ≤ x.late → x.early < x.late →
          ((u.chan c).hbm.pins.getD (36 * p + pin) {}).steps = x.steps - 1) ∧
        (u.chan c).hbm.mem = (s.chan c).hbm.mem ∧ s.HbmOnly u c)

/-- A walk that ends fills the cache with a valid entry, and an absent one is answered to the streams that wait for it (R316, R318); an invalidation removes the entry of
its page, or every entry, notes the accesses that the removed entries translated, and is done when none of those is outstanding (R318);
a page for which no ready signal comes in FAULT_TMO ticks aborts the stream that it halted, at the basic level of streams (R18, R319). -/
def Obligations.TranslationAndPageFaults : Prop :=
  ∀ (s : State) (req : Requester) (c : Nat), s.Runs c →
    (∀ page e who, page < 98304 → (s.chan c).hbm.walks.find page = some { entry := some e, stale := false, who := who } →
      ∃ u, exec (.xltWalk c page) s = .next u ∧
        (isSet e 0 = true → (u.chan c).hbm.cached page = some e) ∧
        (isSet e 0 = false → (who ≠ [] → (u.chan c).hbm.absent.find page = some who) ∧ (u.chan c).hbm.xlt = (s.chan c).hbm.xlt) ∧
        (u.chan c).hbm.mem = (s.chan c).hbm.mem ∧ s.HbmOnly u c) ∧
    (s.CanReach req c → (s.chan c).hbm.invs = [] →
      (∀ page, page < 2 ^ 17 →
        ∃ u, exec (.xltInvPage req c page) s = .next u ∧ (u.chan c).hbm.cached page = none ∧
          (∀ q, q ≠ page → (u.chan c).hbm.cached q = (s.chan c).hbm.cached q) ∧ (u.chan c).hbm.invs = [some page] ∧
          (u.chan c).hbm.invWait = ((s.chan c).lans.flatMap fun x => (x.2.td.using (some page)).map fun y => (x.1, y)) ∧
          (u.chan c).r F.HM_STATUS_XLT_BUSY = 1 ∧ (u.chan c).hbm.mem = (s.chan c).hbm.mem ∧ s.HbmOnly u c) ∧
      (∃ u, exec (.xltInvAll req c) s = .next u ∧ (∀ q, (u.chan c).hbm.cached q = none) ∧ (u.chan c).hbm.invs = [none] ∧
        (u.chan c).hbm.invWait = ((s.chan c).lans.flatMap fun x => (x.2.td.using none).map fun y => (x.1, y)) ∧
        (u.chan c).r F.HM_STATUS_XLT_BUSY = 1 ∧ (u.chan c).hbm.mem = (s.chan c).hbm.mem ∧ s.HbmOnly u c)) ∧
    (∀ i rest, (s.chan c).hbm.invs = i :: rest → (∀ x ∈ (s.chan c).hbm.invWait, x.2 ∉ ((s.chan c).lan x.1).td.unmade) →
      ∃ u, exec (.invalidateDone c) s = .next u ∧ (u.chan c).hbm.invs = rest ∧
        (rest = [] → (u.chan c).r F.HM_STATUS_XLT_BUSY = 0 ∧ (u.chan c).hbm.xlt = (s.chan c).hbm.xlt) ∧ s.HbmOnly u c) ∧
    (∀ page f, page < 98304 → (s.chan c).hbm.faults.find? (fun f => f.page == page) = some f →
      f.tick + (s.chan c).r F.HM_XLT_CFG_FAULT_TMO ≤ (s.chan c).tick →
      (∃ u, exec (.pageFaultTimeout c page) s = .next u ∧ (∀ x ∈ (u.chan c).hbm.faults, x.page ≠ page) ∧
        ((s.chan c).haltedOn page = [] ∨ (s.chan c).keepsStreams = false → (u.chan c).lans = (s.chan c).lans) ∧
        (∀ g n, (s.chan c).keepsStreams = true → (s.chan c).haltedOn page = [(g, n)] → n < 16 → ((s.chan c).lan g).issuedOf n = [] →
          (s.chan c).CanRecord ((s.chan c).stmUnit g n) →
          ((u.chan c).lan g).stmState n = 0 ∧ ((u.chan c).lan g).r F.TD_S_STAT_ERR n = 1 ∧
          (s.chan c).Recorded (u.chan c) 0x25 ((s.chan c).stmUnit g n) ∧ s.OnlyLantern u c g)))

/-! ### The Chrobupra link -/

namespace Sys2Proof.Machine

/-- What happens at port `p` leaves alone: the lanterns, the memory, and the state of the other ports. -/
structure State.PortOnly (s u : State) (c p : Nat) : Prop where
  lans : (u.chan c).lans = (s.chan c).lans
  hbm : (u.chan c).hbm = (s.chan c).hbm
  ports : ∀ q, q ≠ p → (u.chan c).lport q = (s.chan c).lport q

/-- The port has begun a training attempt (R329, R330). -/
def Channel.Training (ch : Channel) (p : Nat) : Prop :=
  ch.lkState p = 1 ∧ (ch.lport p).rxLock = [] ∧ (ch.lport p).wait = false ∧ (ch.lport p).pongs = 0

/-- A retrain has begun: the replay buffer and the credits stay, and it is counted and recorded (R341). -/
structure State.Retrains (s u : State) (c p : Nat) : Prop where
  training : (u.chan c).Training p
  again : ((u.chan c).lport p).again = true
  held : ((u.chan c).lport p).held = ((s.chan c).lport p).held
  credit : ((u.chan c).lport p).credit = ((s.chan c).lport p).credit
  cnt : (u.chan c).r F.LK_RETRAIN_CNT_COUNT p = (s.chan c).regs.plus F.LK_RETRAIN_CNT_COUNT p 1
  record : (s.chan c).Recorded (u.chan c) 0x82 ((s.chan c).portUnit p)
  rest : s.PortOnly u c p

/-- An attempt has failed and the port waits 10 ms to try again (R330). -/
def Channel.FailedOnce (a z : Channel) (p : Nat) : Prop :=
  z.lkState p = 0 ∧ (z.lport p).wait = true ∧ (z.lport p).tries = (a.lport p).tries + 1

/-- The flit of 256 bytes that a slot brings on the physical lanes (R326, R327). -/
def Channel.slotIn (ch : Channel) (p : Nat) (lanes : List (List (BitVec 8))) : List (BitVec 8) :=
  let w := ch.width p
  let seen := (upto 5).map fun n =>
    let b := fitTo (256 / w) 0 (lanes.getD n [])
    scrBytes ((ch.lport p).rxScr.getD n 0) (if (ch.lport p).rxInv.contains n then b.map (~~~ ·) else b)
  laneJoin w ((upto w).map fun k => (seen.getD (ch.rxFrom p k) (0, [])).2)

/-- The oldest accepted LINK flit of the port has body `b` and subtype `sub` (R346). -/
def Channel.LinkNext (ch : Channel) (p sub : Nat) (b : List (BitVec 8)) : Prop :=
  ∃ rest, (ch.lport p).linkIn = b :: rest ∧ (b.headD 0).toNat = sub

end Sys2Proof.Machine

/-- A port that trains sends frames whose header says how far its receiver is, and takes its peer's (R325, R329); training goes through its
steps, and a step that ends, fails or times out leads where R329 to R332 say; a failed attempt is repeated, and the third leaves the port
down (R330); a retrain keeps the replay buffer and the credits (R341); markers carry PATTERN and MCOUNT, load the scramblers and begin a
group (R327, R328, R336); lanes are rotated, recalibrated and retired (R365, R366). What a neighbour in the ring has sent arrives by
`State.arriving` (R32). When the transmitter goes over to flit slots is the model's choice (log entry 117). -/
def Obligations.LinkTrainsAndKeepsItsLanes : Prop :=
  ∀ (s : State) (req : Requester) (c p : Nat), s.Runs c → p < 3 →
    (∀ lane hdr eq desk bs t h inv, 1 ≤ (s.chan c).lkState p → (s.chan c).lkState p ≤ 3 → lane < 5 →
      ((s.chan c).lport p).rxLost.contains lane = false → s.arriving c p lane [hdr] = some (bs, t) →
      TrainHdr.parse (bs.headD []) = some (h, inv) →
      ∃ u, exec (.trainingFrame c p lane hdr eq desk) s = .next u ∧ lane ∈ ((u.chan c).lport p).rxLock ∧
        (h.locked = true → h.phys ∈ ((u.chan c).lport p).peerLock) ∧ (inv = true → lane ∈ ((u.chan c).lport p).rxInv) ∧
        (eq = true → 2 ≤ (s.chan c).lkState p → lane ∈ ((u.chan c).lport p).rxEq) ∧
        (u.chan c).regs = (s.chan c).regs ∧ s.PortOnly u c p) ∧
    (∀ now, 1 ≤ (s.chan c).lkState p → (s.chan c).lkState p ≤ 3 → ((s.chan c).lport p).flits = false →
      (((s.chan c).lport p).piece = 0 →
        ∃ u out, exec (.flitSlot c p now) s = .next u ∧ ((u.chan c).lport p).txOut = [out] ∧ ((u.chan c).lport p).piece = 1 ∧
          (∀ n, n < 5 → ∃ r, ((s.chan c).lkState p ≠ 2 ∨ ((s.chan c).lport p).rxEq.contains n = true → r = 0) ∧
            out[n]? = some (TrainHdr.bytes
              { phys := n, step := (s.chan c).lkState p, coefReq := r,
                coefSt := ((s.chan c).lport p).coefSt.getD n 0, locked := ((s.chan c).lport p).rxLock.contains n,
                eq := ((s.chan c).lport p).rxEq.contains n, desk := ((s.chan c).lport p).rxDesk })) ∧ s.PortOnly u c p) ∧
      (∀ k, ((s.chan c).lport p).piece = k + 1 →
        ∃ u, exec (.flitSlot c p now) s = .next u ∧ ((u.chan c).lport p).piece = (if k < 62 then k + 2 else 0) ∧
          ((u.chan c).lport p).flits = (decide (62 ≤ k) && ((s.chan c).lport p).frDesk && (s.chan c).lkState p == 3) ∧
          s.PortOnly u c p)) ∧
    (((s.chan c).lport p).stepEnds ((s.chan c).lkState p) = true →
      ((s.chan c).lkState p = 1 → ∃ u, exec (.linkTrainStepDone c p) s = .next u ∧ (u.chan c).lkState p = 2 ∧ s.PortOnly u c p) ∧
      ((s.chan c).lkState p = 2 → ((s.chan c).buildMaps p).isSome = true →
        ∃ u, exec (.linkTrainStepDone c p) s = .next u ∧ (u.chan c).lkState p = 3 ∧ s.PortOnly u c p) ∧
      ((s.chan c).lkState p = 3 →
        ∃ u, exec (.linkTrainStepDone c p) s = .next u ∧ (u.chan c).lkState p = 4 ∧
          ((u.chan c).lport p).linkQ = ((s.chan c).initBody p, 0, 0) :: ((s.chan c).lport p).linkQ ∧
          ((u.chan c).lport p).mcount = 0 ∧ ((u.chan c).lport p).flits = true ∧
          ((u.chan c).lport p).held = ((s.chan c).lport p).held ∧ s.PortOnly u c p) ∧
      ((s.chan c).lkState p = 4 →
        ∃ u, exec (.linkTrainStepDone c p) s = .next u ∧ (u.chan c).lkState p = 5 ∧
          (u.chan c).r F.LK_LAT_LAT p = ((s.chan c).lport p).latSum / 8 % 2 ^ 16 ∧ ((u.chan c).lport p).again = false ∧
          s.PortOnly u c p)) ∧
    ((s.chan c).lkState p = 1 → 2 ≤ ((s.chan c).lport p).rxLock.length → 2 ≤ ((s.chan c).lport p).peerLock.length →
      ∃ u, exec (.linkTrainTimeout c p) s = .next u ∧ (u.chan c).lkState p = 2 ∧ s.PortOnly u c p) ∧
    ((s.chan c).lkState p = 3 ∨ (s.chan c).lkState p = 4 →
      (((s.chan c).lport p).tries < 2 →
        ∃ u, exec (.linkTrainTimeout c p) s = .next u ∧ (s.chan c).FailedOnce (u.chan c) p ∧ s.PortOnly u c p) ∧
      (((s.chan c).lport p).tries = 2 → (s.chan c).link.egress = [] → ((s.chan c).lport p).leaving = [] → ((s.chan c).lport p).asm = [] →
        (s.chan c).CanRecord ((s.chan c).portUnit p) →
        ∃ u, exec (.linkTrainTimeout c p) s = .next u ∧ (u.chan c).lkState p = 0 ∧ ((u.chan c).lport p).wait = false ∧
          ((u.chan c).lport p).held = [] ∧ (u.chan c).r F.LK_STAT_DOWN_EV p = 1 ∧
          (s.chan c).Recorded (u.chan c) 0x80 ((s.chan c).portUnit p) ∧ s.PortOnly u c p)) ∧
    (((s.chan c).lport p).wait = true →
      ∃ u, exec (.linkRetry c p) s = .next u ∧ (u.chan c).Training p ∧ s.PortOnly u c p) ∧
    ((s.chan c).CanRecord ((s.chan c).portUnit p) → (s.chan c).lkState p = 5 →
      (((s.chan c).lport p).due = true → ∃ u, exec (.linkRetrain c p) s = .next u ∧ s.Retrains u c p) ∧
      (s.CanReach req c → s.Allows req F.LK_CTRL_RETRAIN → ∃ u, exec (.lkCtrlRetrain req c p) s = .next u ∧ s.Retrains u c p) ∧
      ((∃ x ∈ ((s.chan c).lport p).missed, 3 ≤ x.2) → ∃ u, exec (.markerLockLost c p) s = .next u ∧ s.Retrains u c p) ∧
      (∀ b, (s.chan c).LinkNext p 8 b → ∃ u, exec (.retrain c p) s = .next u ∧ s.Retrains u c p)) ∧
    (3 ≤ (s.chan c).lkState p → ((s.chan c).lport p).flits = true → 4095 ≤ ((s.chan c).lport p).slot →
      ∃ u out, exec (.markerSend c p) s = .next u ∧ ((u.chan c).lport p).slot = 0 ∧
        ((u.chan c).lport p).mcount = (((s.chan c).lport p).mcount + 1) % 2 ^ 32 ∧ ((u.chan c).lport p).txOut = [out] ∧
        out.length = 5 ∧ (∀ b ∈ out, b.length = 64 ∧ b.take 8 = toBytes 8 0x4BD8270F953E6AC1) ∧
        (u.chan c).regs = (s.chan c).regs ∧ s.PortOnly u c p) ∧
    (∀ (lg : Nat → Nat) (mcount rot : Nat) (blocks bs : List (List (BitVec 8))) (t : State), 3 ≤ (s.chan c).lkState p →
      ((s.chan c).lport p).rxInv = [] → mcount < 2 ^ 32 → s.arriving c p 5 blocks = some (bs, t) →
      (∀ n, n < 5 → lg n < 256 ∧ bs.getD n [] = markerBlock (lg n) n mcount rot) →
      ∃ u, exec (.markerReceive c p blocks) s = .next u ∧ ((u.chan c).lport p).rxMark = mcount ∧ ((u.chan c).lport p).rxGroup = [] ∧
        (∀ n, n < 5 → ((u.chan c).lport p).rxScr.getD n 0 = scrSeed (if lg n < 4 then lg n else 4)) ∧ s.PortOnly u c p) ∧
    (∀ n sp, n < 5 → (s.chan c).lkState p = 5 → isSet ((s.chan c).r F.LK_LANEMAP_RX_RETIRED p) n = false → (s.chan c).rxSpare p = some sp →
      ((s.chan c).eff F.LK_CFG_RETIRE_TH p ≤ ((s.chan c).lport p).leaky.getD n 0 → ((s.chan c).lport p).recal.contains n = true →
        (s.chan c).CanRecord ((s.chan c).laneUnit p n) →
        ∃ u, exec (.laneRecalThreshold c p n) s = .next u ∧ isSet ((u.chan c).r F.LK_LANEMAP_RX_RETIRED p) n = true ∧
          (u.chan c).r F.LK_LANEMAP_RX_MAP p = mapOf ((upto ((s.chan c).width p)).map fun k =>
            if mapLane ((s.chan c).r F.LK_LANEMAP_RX_MAP p) k = n then sp else mapLane ((s.chan c).r F.LK_LANEMAP_RX_MAP p) k) % 2 ^ 12 ∧
          (u.chan c).r F.LK_STAT_RETIRE p = 1 ∧ (u.chan c).r F.LK_STAT_SPARE p = 0 ∧
          (s.chan c).Recorded (u.chan c) 0x83 ((s.chan c).laneUnit p n) ∧ s.PortOnly u c p) ∧
      ((s.chan c).eff F.LK_CFG_RECAL_TH p ≤ ((s.chan c).lport p).leaky.getD n 0 →
        ((s.chan c).lport p).leaky.getD n 0 < (s.chan c).eff F.LK_CFG_RETIRE_TH p →
        ∃ u, exec (.laneRecalThreshold c p n) s = .next u ∧ ((u.chan c).lport p).rotWant = some n ∧ s.PortOnly u c p)) ∧
    (∀ n, n < 5 → (s.chan c).lkState p = 5 → isSet ((s.chan c).r F.LK_LANEMAP_RX_RETIRED p) n = false → (s.chan c).rxSpare p = none →
      (s.chan c).eff F.LK_CFG_RETIRE_TH p ≤ ((s.chan c).lport p).leaky.getD n 0 →
      ∃ u, exec (.laneRecalThreshold c p n) s = .next u ∧ (u.chan c).Training p ∧ ((u.chan c).lport p).again = true ∧
        n ∈ ((u.chan c).lport p).rxLost ∧ isSet ((u.chan c).r F.LK_LANEMAP_RX_RETIRED p) n = true ∧ s.PortOnly u c p) ∧
    (∀ x rest, ((s.chan c).lport p).txPlan = [] → ((s.chan c).lport p).rxPlan = x :: rest → x.at_ ≤ ((s.chan c).lport p).rxMark →
      (x.acked = true → x.phase = 4 →
        ∃ u, exec (.rotationPhase c p) s = .next u ∧ (u.chan c).r F.LK_STAT_ROT_PHASE p = 0 ∧ (u.chan c).r F.LK_STAT_ROT_LANE p = 7 ∧
          (u.chan c).r F.LK_ROT_CNT_COUNT p = (s.chan c).regs.plus F.LK_ROT_CNT_COUNT p 1 ∧
          ((u.chan c).lport p).rotGap = (s.chan c).eff F.LK_CFG_GAP p ∧ s.PortOnly u c p) ∧
      (x.acked = true → x.phase = 1 → x.lane < 5 →
        ∃ u, exec (.rotationPhase c p) s = .next u ∧ (u.chan c).r F.LK_STAT_ROT_PHASE p = 1 ∧
          (u.chan c).r F.LK_STAT_ROT_LANE p = x.lane ∧ ((u.chan c).lport p).rxPlan = rest ∧ s.PortOnly u c p) ∧
      (x.acked = false →
        ∃ u, exec (.rotationPhase c p) s = .next u ∧ (u.chan c).r F.LK_STAT_ROT_PHASE p = 0 ∧ ((u.chan c).lport p).rxPlan = [] ∧
          s.PortOnly u c p))

/-- A flit slot of an active port sends a flit of the packet that holds the egress, else a waiting LINK flit, else NULL, and one that is asked
for again first; what takes a SEQ, LINK flits of T4 among it, is held until it is acknowledged (R339, R340, R345). A received flit that fails its CRC is counted and
asked for again; one with the expected SEQ is accepted (R338 to R340). The LINK flits have the effects of R331, R332, R343, R346, R364 and
R365. -/
def Obligations.FlitsAndLinkControl : Prop :=
  ∀ (s : State) (c p now : Nat), s.Runs c → p < 3 →
    ((s.chan c).lkState p = 5 → ((s.chan c).lport p).flits = true → ((s.chan c).lport p).slot < 4095 →
      (∀ sq f n, ((s.chan c).lport p).replay = [sq] → ((s.chan c).lport p).held = [(f, n)] → f.seq = sq →
        ∃ u f', exec (.flitSlot c p now) s = .next u ∧ ((u.chan c).lport p).held = [(f', n + 1)] ∧ f'.seq = sq ∧ f'.body = f.body ∧
          ((u.chan c).lport p).replay = [] ∧ ((u.chan c).lport p).seq = ((s.chan c).lport p).seq ∧
          ((u.chan c).lport p).slot = ((s.chan c).lport p).slot + 1 ∧ s.PortOnly u c p) ∧
      (((s.chan c).lport p).replay = [] → ((s.chan c).lport p).linkQ = [] →
        (((s.chan c).lport p).arb.owner = none →
          ∃ u, exec (.flitSlot c p now) s = .next u ∧ ((u.chan c).lport p).held = ((s.chan c).lport p).held ∧
            ((u.chan c).lport p).seq = ((s.chan c).lport p).seq ∧ ((u.chan c).lport p).slot = ((s.chan c).lport p).slot + 1 ∧
            s.PortOnly u c p) ∧
        (∀ vc l body left, ((s.chan c).lport p).arb.owner = some vc → ((s.chan c).lport p).held.length < 512 →
          (s.chan c).vcAsks p vc = true → (s.chan c).canSend p vc 0 = true → ((s.chan c).lport p).leaving.find (2 * vc) = some l →
          l.next = (body, false, left) →
          ∃ u f, exec (.flitSlot c p now) s = .next u ∧ ((u.chan c).lport p).held = ((s.chan c).lport p).held ++ [(f, 1)] ∧
            f.ftype = 1 ∧ f.vc = vc ∧ f.seq = ((s.chan c).lport p).seq ∧ f.body = body ∧ f.eop = false ∧
            (l.o.pid = none → body = l.rest.take 224) ∧
            ((u.chan c).lport p).seq = (((s.chan c).lport p).seq + 1) % 4096 ∧
            ((u.chan c).lport p).credit.getD (2 * vc) 0 = ((s.chan c).lport p).credit.getD (2 * vc) 0 - 1 ∧
            (u.chan c).r F.LK_FLITS_TX_COUNT p = (s.chan c).regs.plus F.LK_FLITS_TX_COUNT p 1 ∧ (l.o.pid = none → s.PortOnly u c p)))) ∧
    ((s.chan c).lkState p = 4 ∨ (s.chan c).lkState p = 5 → ((s.chan c).lport p).flits = true → ((s.chan c).lport p).slot < 4095 →
      (∀ b n t rest, ((s.chan c).lport p).replay = [] → ((s.chan c).lport p).linkQ = (b, n, t) :: rest →
        ((s.chan c).lkState p = 5 → ((s.chan c).lport p).arb.owner = none) → ((s.chan c).lport p).held.length < 512 →
        ∃ u f, exec (.flitSlot c p now) s = .next u ∧ ((u.chan c).lport p).held = ((s.chan c).lport p).held ++ [(f, 1)] ∧ f.ftype = 2 ∧
          ((u.chan c).lport p).linkQ.length = rest.length ∧ ((u.chan c).lport p).seq = (((s.chan c).lport p).seq + 1) % 4096 ∧
          s.PortOnly u c p)) ∧
    (∀ lanes bs t b, 3 ≤ (s.chan c).lkState p → (s.chan c).lightFec p = true → s.arriving c p 6 lanes = some (bs, t) →
      (lightDecode ((s.chan c).slotIn p bs)).flits = [b] →
      (crcGood b = false →
        ∃ u, exec (.flitReceive c p lanes) s = .next u ∧
          (u.chan c).r F.LK_CRC_ERR_CNT_COUNT p = (s.chan c).regs.plus F.LK_CRC_ERR_CNT_COUNT p 1 ∧
          ((u.chan c).lport p).nak = true ∧ ((u.chan c).lport p).sendNak = true ∧
          ((u.chan c).lport p).exp = ((s.chan c).lport p).exp ∧ s.PortOnly u c p) ∧
      (crcGood b = true → (Flit.parse b).ackv = false → (Flit.parse b).nak = false → (Flit.parse b).ftype = 2 →
        (Flit.parse b).seq = ((s.chan c).lport p).exp → ((s.chan c).lkState p = 5 ∨ linkSub (Flit.parse b).body ≠ 1) →
        ∃ u, exec (.flitReceive c p lanes) s = .next u ∧
          ((u.chan c).lport p).linkIn = ((s.chan c).lport p).linkIn ++ [(Flit.parse b).body] ∧
          ((u.chan c).lport p).exp = (((s.chan c).lport p).exp + 1) % 4096 ∧ ((u.chan c).lport p).nak = false ∧ s.PortOnly u c p)) ∧
    (((s.chan c).lport p).nak = true → (s.chan c).eff F.LK_REPLAY_CFG_NAK_TMO p ≤ ((s.chan c).lport p).nakFor →
      ∃ u, exec (.nakTimeout c p) s = .next u ∧ ((u.chan c).lport p).sendNak = true ∧ ((u.chan c).lport p).nakFor = 0 ∧
        s.PortOnly u c p) ∧
    ((s.chan c).lkState p = 5 → 16 ≤ ((s.chan c).lport p).owed.foldl (fun n e => n + e.2) 0 →
      ∃ u, exec (.creditTimeout c p) s = .next u ∧
        ((u.chan c).lport p).linkQ = ((s.chan c).lport p).linkQ ++ [(((s.chan c).lport p).creditBody, 0, 0)] ∧
        ((u.chan c).lport p).owed = [] ∧ s.PortOnly u c p) ∧
    (∀ b, (s.chan c).LinkNext p 1 b → (s.chan c).lkState p = 4 → ((s.chan c).lport p).initIn = false →
      (bodyNat b 1 1 = 1 → (p ≠ 2 → bodyNat b 2 3 % 2 ^ 20 = (s.chan c).module * 16 + (if p = 0 then ((s.chan c).no + 11) % 12 else ((s.chan c).no + 1) % 12) ∧
          bodyNat b 5 1 % 4 = 1 - p) →
        bit (bodyNat b 5 1) 2 = b2n ((s.chan c).lightFec p) → bit (bodyNat b 5 1) 3 = (s.chan c).r F.LK_STAT_WIDTH p →
        ∃ u, exec (.init c p) s = .next u ∧ ((u.chan c).lport p).initIn = true ∧ (u.chan c).r F.LK_PEER_VALID p = 1 ∧
          (u.chan c).r F.LK_PEER_NODE p = bodyNat b 2 3 % 2 ^ 20 ∧
          ((u.chan c).lport p).linkQ = ((s.chan c).lport p).linkQ ++ List.replicate 64 (toBytes 1 2, 0, 0) ∧
          (((s.chan c).lport p).again = false → ∀ k, k < 8 → ((u.chan c).lport p).credit.getD k 0 = bodyNat b (8 + 2 * k) 2) ∧
          (((s.chan c).lport p).again = true → ((u.chan c).lport p).credit = ((s.chan c).lport p).credit ∧
            ((u.chan c).lport p).replay = ((u.chan c).lport p).held.map (·.1.seq) ∧
            (isSet (bodyNat b 40 2) 15 = false → ((u.chan c).lport p).held = ((s.chan c).lport p).held)) ∧ s.PortOnly u c p) ∧
      (bodyNat b 1 1 ≠ 1 → ((s.chan c).lport p).tries < 2 → (s.chan c).CanRecord ((s.chan c).portUnit p) →
        ∃ u, exec (.init c p) s = .next u ∧ (s.chan c).FailedOnce (u.chan c) p ∧
          (s.chan c).Recorded (u.chan c) 0x81 ((s.chan c).portUnit p) ∧ s.PortOnly u c p)) ∧
    (∀ b, (s.chan c).LinkNext p 2 b →
      ∃ u, exec (.ping c p now) s = .next u ∧
        ((u.chan c).lport p).linkQ = ((s.chan c).lport p).linkQ ++ [(toBytes 8 3 ++ (b.drop 8).take 8, 0, now)] ∧ s.PortOnly u c p) ∧
    (∀ b, (s.chan c).LinkNext p 3 b →
      ∃ u, exec (.pong c p now) s = .next u ∧ ((u.chan c).lport p).pongs = ((s.chan c).lport p).pongs + 1 ∧
        ((u.chan c).lport p).latSum = ((s.chan c).lport p).latSum + (now - bodyNat b 8 8 - bodyNat b 16 4) ∧ s.PortOnly u c p) ∧
    (∀ b, (s.chan c).LinkNext p 4 b →
      ∃ u, exec (.credit c p) s = .next u ∧ (∀ k, k < 8 → ((u.chan c).lport p).credit.getD k 0 =
        ((s.chan c).lport p).credit.getD k 0 + bodyNat b (8 + 2 * k) 2) ∧ s.PortOnly u c p) ∧
    (∀ b, (s.chan c).LinkNext p 5 b → (s.chan c).lkState p = 5 → (rotOf b).lane < 5 → (rotOf b).phase < 5 → ((s.chan c).lport p).mcount ≤ (rotOf b).at_ →
      (spareOf ((s.chan c).r F.LK_LANEMAP_TX_MAP p) ((s.chan c).r F.LK_LANEMAP_TX_RETIRED p) ((s.chan c).width p)).isSome = true →
      ∃ u, exec (.rot c p) s = .next u ∧
        ((u.chan c).lport p).txPlan = ((s.chan c).lport p).txPlan ++ [{ rotOf b with acked := true }] ∧
        ((u.chan c).lport p).linkQ.length = ((s.chan c).lport p).linkQ.length + 1 ∧ s.PortOnly u c p) ∧
    (∀ b, (s.chan c).LinkNext p 6 b →
      ∃ u, exec (.rotAck c p) s = .next u ∧
        (bodyNat b 8 1 = 0 → ∀ x ∈ ((u.chan c).lport p).rxPlan, x.phase = (rotOf b).phase → x.at_ = (rotOf b).at_ → x.acked = true) ∧
        (bodyNat b 8 1 ≠ 0 → ∀ x ∈ ((u.chan c).lport p).rxPlan, ¬ (x.phase = (rotOf b).phase ∧ x.at_ = (rotOf b).at_)) ∧
        s.PortOnly u c p) ∧
    (∀ b, (s.chan c).LinkNext p 7 b → bodyNat b 2 1 ≠ 0 →
      ∃ u, exec (.txeq c p) s = .next u ∧
        ((u.chan c).lport p).taps = (((s.chan c).lport p).coef (bodyNat b 1 1)
          (if ((s.chan c).lport p).txRot = 2 ∧ ((s.chan c).lport p).txRotLane = bodyNat b 1 1 then bodyNat b 2 1 else 0)).taps ∧
        ((u.chan c).lport p).linkQ.length = ((s.chan c).lport p).linkQ.length + 1 ∧ s.PortOnly u c p)

/-! ### Packets, routes and receive FIFOs -/

namespace Sys2Proof.Machine

/-- The next packet of type `t` that the channel takes is `p`, and `rest` waits on: no earlier packet of its source and VC waits before it. -/
def Channel.Takes (ch : Channel) (t : Nat) (p : Packet) (rest : List Packet) : Prop := inboxPick t ch.link.inbox [] = some (p, rest)

/-- The lines of a remote request that a channel serves from its remote share, in order (R301, R349). -/
def Channel.Serves (a z : Channel) (p : Packet) (wr : Bool) : Prop :=
  z.hbm.served.find a.hbm.nextSid = some { p := p, left := ceilDiv p.len 64 } ∧
  z.hbm.gate.length = a.hbm.gate.length + ceilDiv p.len 64 ∧ z.hbm.gate.take a.hbm.gate.length = a.hbm.gate ∧
  ∀ i, i < ceilDiv p.len 64 → ∃ q, z.hbm.gate[a.hbm.gate.length + i]? = some q ∧ q.line = devLine (bits p.arg0 47 0) + i ∧
    q.cls = 2 ∧ q.wr = wr ∧ q.dst = .remote a.hbm.nextSid i ∧
    (wr = true → ∀ j, j < 64 → (q.mask.getD j false = true ↔ 64 * i + j < p.len) ∧
      (64 * i + j < p.len → q.data.getD j 0 = p.data.getD (64 * i + j) 0))

/-- An address outside this channel's HBM, or a range that crosses its end (R349). -/
def Channel.NotMine (ch : Channel) (p : Packet) : Prop :=
  bits p.arg0 47 0 / 2 ^ 36 ≠ ch.no ∨ 2 ^ 36 < bits p.arg0 47 0 % 2 ^ 36 + p.len

/-- The request is answered with STATUS 2 by the rules of sending (R349, R355 to R359), and nothing else happens. -/
def Channel.AnswersTwo (a z : Channel) (p : Packet) (rest : List Packet) : Prop :=
  ∃ m : Channel, z = m.send (p.answer a.node 2) none ∧ m.link.inbox = rest ∧ m.regs = a.regs ∧ m.lans = a.lans ∧ m.hbm = a.hbm

/-- A response that no outstanding request of its kind waits for (R350). -/
def Channel.Late (ch : Channel) (p : Packet) (wr : Bool) : Prop := ∀ t, ch.link.tracked.find p.tag = some t → t.wr ≠ wr

/-- A late response is discarded and counted (R350). -/
structure State.Discards (s u : State) (c : Nat) (rest : List Packet) : Prop where
  cnt : (u.chan c).r F.LK_LATE_RSP_CNT_COUNT = (s.chan c).regs.plus F.LK_LATE_RSP_CNT_COUNT 0 1
  tracked : (u.chan c).link.tracked = (s.chan c).link.tracked
  inbox : (u.chan c).link.inbox = rest
  lans : (u.chan c).lans = (s.chan c).lans
  hbm : (u.chan c).hbm = (s.chan c).hbm

/-- The transfer's line `i` is done, with or without an error indication, and nothing else in its lantern changes (R231, R350). -/
def Channel.LineDone (a z : Channel) (g xid i : Nat) (bad : Bool) : Prop :=
  (z.lan g).td.fq = ((a.lan g).td.fq.map fun x =>
    if x.xid = xid then { x with done := if x.done.contains i then x.done else i :: x.done, bad := if bad then i :: x.bad else x.bad }
    else x) ∧
  (z.lan g).sp = (a.lan g).sp ∧ (z.lan g).regs = (a.lan g).regs

end Sys2Proof.Machine

/-- Remote requests, their answers and their timeouts (R349, R350), with the lines that a completed request brings (which lines of an error
answer are affected is the model's choice, log entry 110); buoy updates, FIFO data, stream data, marks and broadcasts (R227, R351 to R354,
R360; a packet past its slot still ends it when it is a slot-end packet, log entry 111); the end of a settling time (R358); and the cut, the
flush and the level of a receive FIFO (R361, R362). -/
def Obligations.PacketsActByTheirType : Prop :=
  ∀ (s : State) (req : Requester) (c n at_ tag dst : Nat) (p : Packet) (rest : List Packet), s.Runs c → (s.chan c).up = [] → n < 32 →
    ((s.chan c).Takes 1 p rest →
      (¬ (s.chan c).NotMine p → ∃ u, exec (.rdReq c) s = .next u ∧ (s.chan c).Serves (u.chan c) p false ∧
        (u.chan c).hbm.mem = (s.chan c).hbm.mem ∧ (u.chan c).link.inbox = rest ∧ (u.chan c).lans = (s.chan c).lans) ∧
      ((s.chan c).NotMine p → ∃ u, exec (.rdReq c) s = .next u ∧ (s.chan c).AnswersTwo (u.chan c) p rest)) ∧
    ((s.chan c).Takes 2 p rest →
      (¬ (s.chan c).NotMine p → ∃ u, exec (.wrReq c) s = .next u ∧ (s.chan c).Serves (u.chan c) p true ∧
        (u.chan c).hbm.mem = (s.chan c).hbm.mem ∧ (u.chan c).link.inbox = rest ∧ (u.chan c).lans = (s.chan c).lans) ∧
      ((s.chan c).NotMine p → ∃ u, exec (.wrReq c) s = .next u ∧ (s.chan c).AnswersTwo (u.chan c) p rest)) ∧
    ((s.chan c).Takes 3 p rest →
      ((s.chan c).Late p false → ∃ u, exec (.rdRsp c) s = .next u ∧ s.Discards u c rest) ∧
      (∀ t, (s.chan c).link.tracked.find p.tag = some t → t.wr = false → t.list = none → p.status = 0 → (s.chan c).link.waiting = [] →
        ∀ xid i x a, t.parts = [(xid, i)] → (s.chan c).xfer? t.g xid = some x → x.queued.contains i = false →
          x.dst.getD i .none = .dev a → devChan a = (s.chan c).no →
          ∃ u q, exec (.rdRsp c) s = .next u ∧ (u.chan c).link.tracked = (s.chan c).link.tracked.del p.tag ∧
            (u.chan c).hbm.gate = (s.chan c).hbm.gate ++ [q] ∧ q.wr = true ∧ q.line = devLine a ∧ q.cls = 1 ∧
            q.data = fitTo 64 0 (p.data.take 64) ∧ q.mask = x.mask i ∧ (u.chan c).regs = (s.chan c).regs ∧
            s.OnlyLantern u c t.g) ∧
      (∀ t st k, (s.chan c).link.tracked.find p.tag = some t → t.wr = false → t.list = some st → p.status = 0 →
        (s.chan c).link.waiting = [] → t.parts = [((((s.chan c).lan t.g).stm st).run, k)] →
        (((s.chan c).lan t.g).stm st).listReq.contains k = true →
        ∃ u, exec (.rdRsp c) s = .next u ∧ (u.chan c).link.tracked = (s.chan c).link.tracked.del p.tag ∧
          (((u.chan c).lan t.g).stm st).listBuf.find k = some (fitTo 64 0 (p.data.take 64)) ∧
          (((u.chan c).lan t.g).stm st).listReq = (((s.chan c).lan t.g).stm st).listReq.filter (· != k) ∧ s.OnlyLantern u c t.g)) ∧
    ((s.chan c).Takes 4 p rest →
      ((s.chan c).Late p true → ∃ u, exec (.wrAck c) s = .next u ∧ s.Discards u c rest) ∧
      (∀ t xid i, (s.chan c).link.tracked.find p.tag = some t → t.wr = true → t.list = none → t.parts = [(xid, i)] →
        (s.chan c).link.waiting = [] →
        (p.status = 0 → ∃ u, exec (.wrAck c) s = .next u ∧ (u.chan c).link.tracked = (s.chan c).link.tracked.del p.tag ∧
          (s.chan c).LineDone (u.chan c) t.g xid i false ∧ (u.chan c).regs = (s.chan c).regs ∧ s.OnlyLantern u c t.g) ∧
        (p.status ≠ 0 → p.status ≠ 5 → p.data = [] → (s.chan c).CanRecord (s.chan c).wholeUnit → onceKey 0x85 0 ∉ (s.chan c).err.once →
          ∃ u, exec (.wrAck c) s = .next u ∧ (u.chan c).link.tracked = (s.chan c).link.tracked.del p.tag ∧
            (s.chan c).LineDone (u.chan c) t.g xid i true ∧ (s.chan c).Recorded (u.chan c) 0x85 (s.chan c).wholeUnit ∧
            s.OnlyLantern u c t.g))) ∧
    (∀ t xid i, tag < 1024 → (s.chan c).link.tracked.find tag = some t → t.wr = true → t.list = none → t.parts = [(xid, i)] →
      (s.chan c).link.waiting = [] → (s.chan c).CanRecord (s.chan c).wholeUnit → onceKey 0x86 0 ∉ (s.chan c).err.once →
      ∃ u, exec (.requestTimeout c tag) s = .next u ∧ (u.chan c).link.tracked = (s.chan c).link.tracked.del tag ∧
        (u.chan c).r F.LK_REQ_TMO_CNT_COUNT = (s.chan c).regs.plus F.LK_REQ_TMO_CNT_COUNT 0 1 ∧
        (s.chan c).LineDone (u.chan c) t.g xid i true ∧ (s.chan c).Recorded (u.chan c) 0x86 (s.chan c).wholeUnit ∧
        s.OnlyLantern u c t.g) ∧
    ((s.chan c).Takes 5 p rest →
      ((p.onGrid && (s.chan c).lanActive p.grid) = true → ∃ u, exec (.bpUpdate c) s = .next u ∧
        (u.chan c).bpCount p.grid (bits p.arg0 4 0) false =
          bpPlus ((s.chan c).bpCount p.grid (bits p.arg0 4 0) false) (bits p.arg0 31 16) ∧ s.OnlyLantern u c p.grid) ∧
      ((p.onGrid && (s.chan c).lanActive p.grid) = false → ∃ u, exec (.bpUpdate c) s = .next u ∧
        (u.chan c).r F.LK_BADPKT_CNT_COUNT = (s.chan c).regs.plus F.LK_BADPKT_CNT_COUNT 0 1 ∧
        (u.chan c).lans = (s.chan c).lans)) ∧
    ((s.chan c).Takes 0x10 p rest →
      (∀ pid, p.resv = some (n, pid) → pid ∉ ((s.chan c).fifo n).cuts → ∃ u, exec (.fifoData c) s = .next u ∧
        ((u.chan c).fifo n).pkts = (((s.chan c).fifo n).pkts.map fun q =>
          if q.pid = pid ∧ q.whole = false then { q with bytes := p.data, whole := true } else q) ∧
        (u.chan c).r F.LK_FIFO_RX_BYTES_COUNT n = (s.chan c).regs.plus F.LK_FIFO_RX_BYTES_COUNT n p.data.length ∧
        (u.chan c).r F.LK_FIFO_STAT_FILL n = ((u.chan c).fifo n).fill % 2 ^ 17 ∧ (u.chan c).lans = (s.chan c).lans) ∧
      (p.resv = none → p.arg0 % 256 = n → ((s.chan c).fifo n).reserved + p.len ≤ 65536 → ((s.chan c).fifo n).pkts.length < 256 →
        ∀ pid, pid = (s.chan c).link.nextPid + 1 → pid ∉ ((s.chan c).fifo n).cuts → (∀ q ∈ ((s.chan c).fifo n).pkts, q.pid ≠ pid) →
        ∃ u, exec (.fifoData c) s = .next u ∧
          ((u.chan c).fifo n).pkts = ((s.chan c).fifo n).pkts ++ [{ pid := pid, len := p.len, bytes := p.data, whole := true }] ∧
          (u.chan c).r F.LK_FIFO_RX_BYTES_COUNT n = (s.chan c).regs.plus F.LK_FIFO_RX_BYTES_COUNT n p.data.length ∧
          (u.chan c).lans = (s.chan c).lans) ∧
      (p.resv = none → p.arg0 % 256 = n → 65536 < ((s.chan c).fifo n).reserved + p.len ∨ 256 ≤ ((s.chan c).fifo n).pkts.length →
        ∃ u, exec (.fifoData c) s = .next u ∧ (u.chan c).fifo n = (s.chan c).fifo n ∧ (u.chan c).r F.LK_FIFO_STAT_OVF n = 1 ∧
          (u.chan c).r F.LK_FIFO_OVF_CNT_COUNT n = (s.chan c).regs.plus F.LK_FIFO_OVF_CNT_COUNT n 1 ∧
          (u.chan c).lans = (s.chan c).lans)) ∧
    ((s.chan c).Takes 0x11 p rest → ∀ g bp off last, g = p.grid → bp = bits p.arg0 4 0 → off = bits p.arg0 27 16 →
      last = (p.flags % 2 == 1) →
      ((p.onGrid && (s.chan c).lanActive g) = false ∨ ((s.chan c).lan g).r F.LN_BP_CFG_LINK bp = 0 →
        (s.chan c).CanRecord (s.chan c).wholeUnit → ∃ u, exec (.bpData c) s = .next u ∧
          (u.chan c).r F.LK_BADPKT_CNT_COUNT = (s.chan c).regs.plus F.LK_BADPKT_CNT_COUNT 0 1 ∧
          (s.chan c).Recorded (u.chan c) 0x24 (s.chan c).wholeUnit ∧ (u.chan c).lans = (s.chan c).lans) ∧
      ((p.onGrid && (s.chan c).lanActive g) = true → ((s.chan c).lan g).r F.LN_BP_CFG_LINK bp ≠ 0 →
        ((s.chan c).landing g bp).dropping = false → ((s.chan c).landing g bp).open_ = false →
        (0 < (s.chan c).bpSeen g bp false → off + ceilDiv p.len 64 ≤ ((s.chan c).lan g).r F.LN_BP_CFG_SLOT_LINES bp →
          ((s.chan c).lan g).r F.LN_BP_CFG_RING_BASE bp +
            ((s.chan c).lan g).r F.LN_BP_STAT_WIDX bp * ((s.chan c).lan g).r F.LN_BP_CFG_SLOT_LINES bp + off + ceilDiv p.len 64 ≤ 4096 →
          ∃ u, exec (.bpData c) s = .next u ∧ (u.chan c).bpCount g bp false = ((s.chan c).bpCount g bp false - 1) % 2 ^ 16 ∧
            ((u.chan c).landing g bp).open_ = !last ∧
            ((u.chan c).lan g).r F.LN_BP_STAT_WIDX bp =
              (if last then (if ((s.chan c).lan g).r F.LN_BP_CFG_CAP bp ≤ ((s.chan c).lan g).r F.LN_BP_STAT_WIDX bp + 1 then 0
                else ((s.chan c).lan g).r F.LN_BP_STAT_WIDX bp + 1) % 2 ^ 12 else ((s.chan c).lan g).r F.LN_BP_STAT_WIDX bp) ∧
            (u.chan c).link.landOut.getD p.src 0 = (s.chan c).link.landOut.getD p.src 0 + ceilDiv p.len 64 ∧ s.OnlyLantern u c g) ∧
        (0 < (s.chan c).bpSeen g bp false → ((s.chan c).lan g).r F.LN_BP_CFG_SLOT_LINES bp < off + ceilDiv p.len 64 →
          ∃ u, exec (.bpData c) s = .next u ∧ ((u.chan c).lan g).r F.LN_BP_STAT_LAND_ERR bp = 1 ∧
            (u.chan c).link.landOut = (s.chan c).link.landOut ∧ ((u.chan c).landing g bp).open_ = !last ∧
            ((u.chan c).lan g).r F.LN_BP_STAT_WIDX bp =
              (if last then (if ((s.chan c).lan g).r F.LN_BP_CFG_CAP bp ≤ ((s.chan c).lan g).r F.LN_BP_STAT_WIDX bp + 1 then 0
                else ((s.chan c).lan g).r F.LN_BP_STAT_WIDX bp + 1) % 2 ^ 12 else ((s.chan c).lan g).r F.LN_BP_STAT_WIDX bp) ∧
            (last = false → (s.chan c).CanRecord (unitWord (s.chan c).no 6 g 0 bp) →
              (s.chan c).Recorded (u.chan c) 0x24 (unitWord (s.chan c).no 6 g 0 bp)) ∧ s.OnlyLantern u c g) ∧
        ((s.chan c).bpSeen g bp false = 0 → (s.chan c).CanRecord (unitWord (s.chan c).no 6 g 0 bp) →
          ∃ u, exec (.bpData c) s = .next u ∧ ((u.chan c).landing g bp).dropping = !last ∧
            ((u.chan c).lan g).r F.LN_BP_STAT_LAND_ERR bp = 1 ∧
            ((u.chan c).lan g).r F.LN_BP_STAT_WIDX bp = ((s.chan c).lan g).r F.LN_BP_STAT_WIDX bp ∧
            (s.chan c).Recorded (u.chan c) 0x24 (unitWord (s.chan c).no 6 g 0 bp) ∧ s.OnlyLantern u c g))) ∧
    ((s.chan c).Takes 0x12 p rest →
      (0 < (s.chan c).link.landOut.getD p.src 0 → ∃ u, exec (.ctxMarkPacket c) s = .next u ∧ (∀ d, u.chan d = s.chan d)) ∧
      ((s.chan c).link.landOut.getD p.src 0 = 0 → ∀ k, k = bits p.arg0 9 0 →
        (s.chan c).r F.CTX_STATE_STATE k ≠ 0 → (s.chan c).r F.CTX_STATE_STATE k ≠ 5 →
        ∃ u, exec (.ctxMarkPacket c) s = .next u ∧ (u.chan c).link.inbox = rest ∧
          (u.chan c).r F.CTX_STATE_IN_CNT k = min ((s.chan c).r F.CTX_STATE_IN_CNT k + bits p.arg0 17 10) 255 ∧
          (u.chan c).lans = (s.chan c).lans ∧ (u.chan c).hbm = (s.chan c).hbm)) ∧
    ((s.chan c).Takes 0x20 p rest →
      (s.mod.r F.TB_CFG_SRC_CH ≠ c ∨ p.port ≠ some 2 → ∃ u, exec (.tick c at_) s = .next u ∧ u.mod = s.mod ∧
        (u.chan c).link.inbox = rest ∧ (u.chan c).regs = (s.chan c).regs ∧ (u.chan c).lans = (s.chan c).lans) ∧
      (∀ t, s.mod.r F.TB_CFG_SRC_CH = c → p.port = some 2 → s.mod.r F.TB_CFG_SRC ≠ 0 →
        t = at_ - (s.chan c).r F.LK_LAT_LAT 2 / 16 - bits p.arg0 57 48 * s.mod.tbP / 16384 → s.mod.tb.now ≤ at_ →
        (s.mod.r F.TB_STAT_EN = 0 → ∃ u, exec (.tick c at_) s = .next u ∧ u.mod.tb.last = some t ∧ u.mod.regs = s.mod.regs ∧
          (u.chan c).link.inbox = rest) ∧
        (∀ ts, s.mod.r F.TB_STAT_EN = 1 → s.mod.tb.tickAt = some ts → s.mod.r F.TB_STAT_LOCKED ≠ 0 →
          s.mod.phaseOf ts t + s.mod.r F.TB_CFG_WIN < 1024 →
          ∃ u, exec (.tick c at_) s = .next u ∧ u.mod.r F.TB_SPUR_CNT_COUNT = s.mod.regs.plus F.TB_SPUR_CNT_COUNT 0 1 ∧
            u.mod.r F.TB_STAT_SPUR = 1 ∧ u.mod.r F.TB_TICK_TICK = s.mod.r F.TB_TICK_TICK ∧ (u.chan c).link.inbox = rest) ∧
        (∀ ts, s.mod.r F.TB_STAT_EN = 1 → s.mod.tb.tickAt = some ts →
          (if s.mod.r F.TB_STAT_LOCKED = 0 then s.mod.intervalOk t = true else 1024 ≤ s.mod.phaseOf ts t + s.mod.r F.TB_CFG_WIN) →
          s.mod.phaseOf ts t < 1024 + s.mod.r F.TB_CFG_WIN →
          ∃ u, exec (.tick c at_) s = .next u ∧ u.mod.r F.TB_TICK_TICK = bits p.arg0 47 0 ∧ u.mod.tb.tickAt = some (16 * t) ∧
            u.mod.tb.hops = bits p.arg0 63 60 + 1 ∧ u.mod.r F.TB_EPOCH_EPOCH = p.arg1 % 2 ^ F.TB_EPOCH_EPOCH.wid ∧
            (u.chan c).link.inbox = rest))) ∧
    ((s.chan c).Takes 0x21 p rest → ∀ k, k = (p.src, p.arg0 % 256) →
      (k ∈ (s.chan c).link.fogs → ∃ u, exec (.fog c) s = .next u ∧ u.mod = s.mod ∧ (u.chan c).link.inbox = rest ∧
        (u.chan c).link.egress = (s.chan c).link.egress) ∧
      (s.fogKnown k = false → s.mod.eff F.ERR_MOD_CFG_FOG_ACT ≠ 1 → ∃ u, exec (.fog c) s = .next u ∧
        (u.chan c).link.fogs = (k :: (s.chan c).link.fogs).take 16 ∧ u.mod.r F.ERR_FOG_LAST_NODE = p.src % 2 ^ 20 ∧
        u.mod.r F.ERR_FOG_LAST_SEQ = p.arg0 % 256 ∧ u.mod.r F.ERR_FOG_LAST_CAUSE = bits p.arg0 15 8 ∧
        u.mod.r F.ERR_MOD_STATUS_FOG_IN = 1 ∧ u.mod.alert = true ∧
        u.mod.r F.ERR_FOG_RX_CNT_COUNT = s.mod.regs.plus F.ERR_FOG_RX_CNT_COUNT 0 1 ∧
        (∀ q, q < 3 → 0 < p.hops → (s.chan c).portUp q = true → p.port ≠ some q →
          ∃ o, (u.chan c).link.egress.getD (4 * q + 3) [] = (s.chan c).link.egress.getD (4 * q + 3) [] ++ [o] ∧
            o.p.ptype = 0x21 ∧ o.p.hops = p.hops - 1 ∧ o.p.arg0 = p.arg0) ∧
        (∀ q, q < 3 → p.hops = 0 ∨ (s.chan c).portUp q = false ∨ p.port = some q →
          (u.chan c).link.egress.getD (4 * q + 3) [] = (s.chan c).link.egress.getD (4 * q + 3) []))) ∧
    (∀ o q, (s.chan c).link.held = [o] → o.p.dst = dst → (s.chan c).route dst = .port q → 2 ≤ o.p.hops →
      ∃ u o', exec (.routeSettleEnd c dst) s = .next u ∧ (u.chan c).link.held = [] ∧ dst ∉ (u.chan c).link.settling ∧
        (u.chan c).link.egress.getD (4 * q + (ptypeVc o.p.ptype).getD 0) [] =
          (s.chan c).link.egress.getD (4 * q + (ptypeVc o.p.ptype).getD 0) [] ++ [o'] ∧
        o'.p = { o.p with hops := o.p.hops - 1 } ∧ (u.chan c).lans = (s.chan c).lans) ∧
    (s.CanReach req c →
      (((s.chan c).fifo n).pkts = [] → ∃ u, exec (.cut req c n) s = .next u ∧ (u.chan c).fifo n = (s.chan c).fifo n ∧
        (u.chan c).r F.LK_FIFO_CUT_CNT_COUNT n = (s.chan c).r F.LK_FIFO_CUT_CNT_COUNT n ∧ (u.chan c).lans = (s.chan c).lans) ∧
      (∀ x xs, ((s.chan c).fifo n).pkts = x :: xs → (∀ y ∈ xs, y.pid ≠ x.pid) →
        ∃ u, exec (.cut req c n) s = .next u ∧ ((u.chan c).fifo n).pkts = xs ∧
          (u.chan c).r F.LK_FIFO_CUT_CNT_COUNT n = (s.chan c).regs.plus F.LK_FIFO_CUT_CNT_COUNT n 1 ∧
          (x.whole = false → (u.chan c).r F.LK_FIFO_STAT_CUT_PEND n = 1 ∧ x.pid ∈ ((u.chan c).fifo n).cuts) ∧
          (u.chan c).lans = (s.chan c).lans) ∧
      (∃ u, exec (.flush req c n) s = .next u ∧ ((u.chan c).fifo n).pkts = [] ∧
        (u.chan c).r F.LK_FIFO_CUT_CNT_COUNT n =
          (if ((s.chan c).fifo n).pkts = [] then (s.chan c).r F.LK_FIFO_CUT_CNT_COUNT n
            else (s.chan c).regs.plus F.LK_FIFO_CUT_CNT_COUNT n ((s.chan c).fifo n).pkts.length) ∧
        (u.chan c).lans = (s.chan c).lans)) ∧
    (∀ lv, lv = 64 * (s.chan c).eff F.LK_FIFO_CFG_LEVEL n →
      (lv = 0 ∨ lv ≤ ((s.chan c).fifo n).prev ∨ ((s.chan c).fifo n).fill < lv → ∃ u, exec (.fifoLevel c n) s = .next u ∧
        (u.chan c).r F.LK_FIFO_STAT_LVL n = (s.chan c).r F.LK_FIFO_STAT_LVL n ∧
        ((u.chan c).fifo n).prev = ((s.chan c).fifo n).fill ∧ (u.chan c).lans = (s.chan c).lans) ∧
      (0 < lv → ((s.chan c).fifo n).prev < lv → lv ≤ ((s.chan c).fifo n).fill → ∀ g,
        g = 48 * (s.chan c).eff F.LK_FIFO_CFG_ROW n + (s.chan c).eff F.LK_FIFO_CFG_COL n → ∃ u, exec (.fifoLevel c n) s = .next u ∧
        (u.chan c).r F.LK_FIFO_STAT_LVL n = 1 ∧ ((u.chan c).fifo n).prev = ((s.chan c).fifo n).fill ∧
        ((s.chan c).eff F.LK_FIFO_CFG_TGT_BP n = 1 → g < 1536 →
          (u.chan c).bpCount g ((s.chan c).eff F.LK_FIFO_CFG_BP n) true =
            bpPlus ((s.chan c).bpCount g ((s.chan c).eff F.LK_FIFO_CFG_BP n) true) 1) ∧
        ((s.chan c).eff F.LK_FIFO_CFG_TGT_BP n ≠ 1 → (u.chan c).lans = (s.chan c).lans)))

/-! ### The host port -/

namespace Sys2Proof.Machine

/-- The host-port state after the reset of R372: configuration space, BARs, HDM decoders, MSI-X table and rings are at their
reset values, and the events that waited were dropped and counted (R372, R384). -/
structure Bridge.HostFresh (a z : Bridge) : Prop where
  cfg : z.hp.cfg = []
  cxl : z.hp.cxl = []
  msix : z.hp.msix = [] ∧ z.hp.pba = []
  rings : z.hp.rings = []
  ringRegs : ∀ f ∈ bridgeFields, ∀ n, ringKey (f.key n) = true → z.r f n = f.reset
  events : z.events = []
  drops : z.r F.HP_EVT_DROP_CNT_COUNT =
    if a.events = [] then a.r F.HP_EVT_DROP_CNT_COUNT else a.regs.plus F.HP_EVT_DROP_CNT_COUNT 0 a.events.length
  tb : z.tb = a.tb
  boot : z.boot = a.boot

/-- A vector's message stands in host memory at the address of its table entry, or its pending bit is set (R377). -/
def Bridge.Signalled (a z : Bridge) (vec : Nat) : Prop :=
  (a.unmasked vec = true → z.hostMem.rdN (a.msixWord vec 0 + a.msixWord vec 1 * 2 ^ 32) 4 = toBytes 4 (a.msixWord vec 2)) ∧
  (a.unmasked vec = false → vec ∈ z.hp.pba ∧ z.hostMem = a.hostMem)

/-- The command has left the ring pair and is counted, and its completion waits, but for the QUIET command with STATUS 0 (R383, R384). -/
structure Bridge.Completed (a z : Bridge) (r : Nat) (x : HCmd) (status : Nat) (payload : List (BitVec 8)) : Prop where
  count : z.r F.HP_CMD_CNT_COUNT = a.regs.plus F.HP_CMD_CNT_COUNT 0 1
  cmds : (z.ring r).cmds = (a.ring r).cmds.filter fun y => y.id != x.id
  done : (z.ring r).done = if status = 0 ∧ isSet (x.arg 1 1) 1 then (a.ring r).done
    else (a.ring r).done ++ [{ cid := x.arg 2 2, type := 0, status := status, payload := payload }]
  stopped : (z.ring r).stopped = (a.ring r).stopped

/-- The command completes with a status and has no effect (R383). -/
def State.OnlyCompletes (s u : State) (r : Nat) (x : HCmd) (status : Nat) : Prop :=
  s.mod.Completed u.mod r x status [] ∧ u.chans = s.chans ∧ u.mod.hostMem = s.mod.hostMem

/-- The command has started, and stands in its ring pair until it completes (R382). -/
def State.Started1 (u : State) (r : Nat) (x : HCmd) (left status : Nat) : Prop :=
  ∀ y ∈ (u.mod.ring r).cmds, y.id = x.id → y.started = true ∧ y.left = left ∧ y.status = status

/-- The error of R381: the ring pair stops, and ERR and RING_ERR are set. -/
structure Bridge.RingStops (a z : Bridge) (r : Nat) : Prop where
  err : z.r F.HP_RING_STAT_ERR r = 1
  ringErr : z.r F.HP_STATUS_RING_ERR = 1
  stopped : (z.ring r).stopped = true
  tail : (z.ring r).tail = (a.ring r).tail ∧ (z.ring r).cpHead = (a.ring r).cpHead
  event : a.hp.perst = false → a.eff F.HP_EVT_EN ≠ 0 → ∃ e, z.events = a.events ++ [e] ∧ e.type = 2

end Sys2Proof.Machine

/-- PERST_N and a function level reset restore the host-port state and no channel, and PERST_N takes the link down and stops host traffic
(R372, R373); the link counts its downs and reports the best common rate and width (R371); configuration requests, BARs and the aperture
(R374 to R376, R407); MSI-X (R377); HDM reads and writes enter the memory controller, a channel that cannot answer poisons and drops
them, and one that takes no host traffic keeps them waiting (R27, R28, R378); back-invalidation (R379); the device cache (R382); and the device mailbox (R370). -/
def Obligations.HostPortServes : Prop :=
  ∀ s : State, s.Up → s.Inv →
    (∃ u, exec .perstAssert s = .next u ∧ s.mod.HostFresh u.mod ∧ u.mod.hp.perst = true ∧ u.mod.hp.training = false ∧
      u.mod.r F.HP_STATUS_LINK_UP ≠ 1 ∧ (∀ c, s.Runs c → (u.chan c).hostStop = true) ∧
      (∀ c, (u.chan c).lans = (s.chan c).lans ∧ (u.chan c).hbm = (s.chan c).hbm ∧ (u.chan c).link = (s.chan c).link ∧
        (u.chan c).ctx = (s.chan c).ctx ∧ (u.chan c).regs = (s.chan c).regs)) ∧
    (∃ u, exec .functionLevelReset s = .next u ∧ s.mod.HostFresh u.mod ∧ u.mod.hp.perst = s.mod.hp.perst ∧
      u.mod.r F.HP_STATUS_LINK_UP = s.mod.r F.HP_STATUS_LINK_UP ∧
      u.mod.r F.HP_LINKDN_CNT_COUNT = s.mod.r F.HP_LINKDN_CNT_COUNT ∧ u.chans = s.chans) ∧
    (∃ u, exec .perstDeassert s = .next u ∧ u.mod.hp.perst = false ∧
      (u.mod.hp.training = true ↔ s.mod.boot.grant.isSome = true ∧ s.mod.r F.HP_STATUS_LINK_UP = 0) ∧ u.mod.tb = s.mod.tb ∧
      (∀ c, s.Runs c → (u.chan c).hostStop = false) ∧ ∀ c, (u.chan c).hbm.mem = (s.chan c).hbm.mem) ∧
    (∃ u, exec .hostLinkDown s = .next u ∧ u.mod.r F.HP_STATUS_LINK_UP ≠ 1 ∧
      (s.mod.r F.HP_STATUS_LINK_UP = 1 →
        u.mod.r F.HP_LINKDN_CNT_COUNT = s.mod.regs.plus F.HP_LINKDN_CNT_COUNT 0 1) ∧
      (s.mod.r F.HP_STATUS_LINK_UP ≠ 1 → u.mod.r F.HP_LINKDN_CNT_COUNT = s.mod.r F.HP_LINKDN_CNT_COUNT) ∧
      (u.mod.hp.training = true ↔ s.mod.boot.grant.isSome = true ∧ s.mod.hp.perst = false) ∧ u.chans = s.chans) ∧
    (∀ rates widths flit68 r w, s.mod.hp.training = true → r < 4 → w < 3 → rates.testBit r = true → widths.testBit w = true →
      (flit68 = true → 1 ≤ r) → (∀ j, j < r → rates.testBit j = true → flit68 = true ∧ j = 0) →
      (∀ j, j < w → widths.testBit j = false) →
      ∃ u, exec (.hostLinkUp rates widths flit68) s = .next u ∧ u.mod.r F.HP_STATUS_LINK_UP = 1 ∧ u.mod.r F.HP_STATUS_RATE = r ∧
        u.mod.r F.HP_STATUS_WIDTH = w ∧ u.mod.r F.HP_STATUS_FLIT68 = b2n flit68 ∧ u.mod.hp.training = false ∧ u.chans = s.chans) ∧
    (∀ o v, (s.mod.boot.cfgOk = false → ∀ wr, ∃ u, exec (.configRequest o wr v) s = .next u ∧ u.mod.hp.cfgAns = none ∧
        u.mod.hp.cfg = s.mod.hp.cfg ∧ u.chans = s.chans) ∧
      (s.mod.boot.cfgOk = true → ∃ u, exec (.configRequest o true v) s = .next u ∧
        u.mod.hp.cfg.find (o - o % 4) = some (v % 2 ^ 32) ∧ u.mod.hp.cfgAns = some 0 ∧ u.mod.regs = s.mod.regs ∧ u.chans = s.chans) ∧
      (s.mod.boot.cfgOk = true → ∃ u x, exec (.configRequest o false v) s = .next u ∧ u.mod.hp.cfgAns = some x ∧
        (o = 0 → x = 0xB1201D7A) ∧ (o = 8 → x / 2 ^ 8 = 0x120000) ∧ (o = 0x10 → x % 2 ^ 26 = 4) ∧ (o = 0x18 → x % 2 ^ 20 = 4) ∧
        u.mod.hp.cfg = s.mod.hp.cfg ∧ u.mod.regs = s.mod.regs ∧ u.chans = s.chans)) ∧
    (∀ off z v c blk, c = s.mod.eff F.HP_APER_CHAN → blk = s.mod.eff F.HP_APER_BLOCK →
      (∃ u, exec (.apertureAccess off z true v) s = .next u ∧
        exec (.registerWrite .host (winBase c + blk * 0x400000 + off % 0x400000) z v) s = .next u) ∧
      (c < 12 → blk < 64 → s.mod.holds c = true →
        (∃ u, exec (.apertureAccess off z true v) s = .next u ∧ u.mod.r F.HP_STATUS_CFG_ERR = 1 ∧ u.chans = s.chans) ∧
        (∃ u, exec (.apertureAccess off z false v) s = .next u ∧ u.mod.r F.HP_STATUS_CFG_ERR = 1 ∧
          u.mod.hp.answer.find (Requester.num .host) = some 0 ∧ u.chans = s.chans))) ∧
    (∀ d tag enter data mask, d < 0xC000000000 → s.cutOff (d / 2 ^ 36) = true →
      exec (.hdmRead d tag enter) s = .next s ∧ exec (.hdmWrite d tag data mask) s = .next s) ∧
    (∀ d tag enter data mask c, d < 0xC000000000 → c = d / 2 ^ 36 → s.mod.hp.perst = false → s.cutOff c = false →
      (s.mod.hostBlocked c = false →
        (∃ u q, exec (.hdmRead d tag enter) s = .next u ∧ (u.chan c).hbm.gate = (s.chan c).hbm.gate ++ [q] ∧ q.cls = 0 ∧ q.wr = false ∧
          q.line = d % 2 ^ 36 / 64 ∧ q.dst = .host tag ∧ q.enter = enter ∧ (u.chan c).hbm.mem = (s.chan c).hbm.mem ∧
          (u.chan c).lans = (s.chan c).lans) ∧
        (∃ u q, exec (.hdmWrite d tag data mask) s = .next u ∧ (u.chan c).hbm.gate = (s.chan c).hbm.gate ++ [q] ∧ q.cls = 1 ∧
          q.wr = true ∧ q.line = d % 2 ^ 36 / 64 ∧ q.dst = .host tag ∧ q.data = fitTo 64 0 data ∧ q.mask = fitTo 64 false mask ∧
          u.mod.hp.written = s.mod.hp.written ∧ (u.chan c).hbm.mem = (s.chan c).hbm.mem ∧ (u.chan c).lans = (s.chan c).lans)) ∧
      (s.mod.hostBlocked c = true →
        (∃ u, exec (.hdmRead d tag enter) s = .next u ∧ u.mod.hp.poisoned = s.mod.hp.poisoned ++ [tag] ∧
          u.mod.r F.HP_POISON_CNT_COUNT = s.mod.regs.plus F.HP_POISON_CNT_COUNT 0 1 ∧ u.chans = s.chans) ∧
        (∃ u, exec (.hdmWrite d tag data mask) s = .next u ∧ u.mod.hp.written = s.mod.hp.written ++ [tag] ∧
          u.mod.r F.HP_POISON_CNT_COUNT = s.mod.regs.plus F.HP_POISON_CNT_COUNT 0 1 ∧ u.chans = s.chans))) ∧
    (∀ c line, s.Runs c → (s.chan c).hbm.dir.contains (line, true) = true →
      (∃ u, exec (.biRspI c line none) s = .next u ∧ (∀ e ∈ (u.chan c).hbm.dir, e.1 ≠ line) ∧ (u.chan c).hbm.mem = (s.chan c).hbm.mem ∧
        u.mod.r F.HP_BI_SNP_CNT_COUNT = s.mod.regs.plus F.HP_BI_SNP_CNT_COUNT 0 1 ∧ (u.chan c).lans = (s.chan c).lans) ∧
      (∀ d, Memory.wf (s.chan c).hbm.mem = true → d.length = 64 → ∃ u, exec (.biRspI c line (some d)) s = .next u ∧
        (∀ e ∈ (u.chan c).hbm.dir, e.1 ≠ line) ∧ (u.chan c).hbm.mem.rdN (64 * line) 64 = d ∧
        (∀ a, a / 64 ≠ line → (u.chan c).hbm.mem.rd a = (s.chan c).hbm.mem.rd a) ∧
        u.mod.r F.HP_BI_SNP_CNT_COUNT = s.mod.regs.plus F.HP_BI_SNP_CNT_COUNT 0 1 ∧ (u.chan c).lans = (s.chan c).lans) ∧
      ((s.chan c).CanRecord ((s.chan c).pcUnit line) → ∃ u, exec (.biTimeout c line) s = .next u ∧
        (∀ e ∈ (u.chan c).hbm.dir, e.1 ≠ line) ∧ (u.chan c).hbm.mem = (s.chan c).hbm.mem ∧
        u.mod.r F.HP_BI_TMO_CNT_COUNT = s.mod.regs.plus F.HP_BI_TMO_CNT_COUNT 0 1 ∧
        (s.chan c).Recorded (u.chan c) 0x66 ((s.chan c).pcUnit line) ∧ (u.chan c).lans = (s.chan c).lans)) ∧
    (∀ n addr data, n < 2048 → addr < 2 ^ 64 → s.mod.hp.pba = [n] → s.mod.hp.fmask = false → s.mod.msixWord n 3 % 2 = 1 →
      (s.mod.hp.perst = false → ∃ u, exec (.msixUnmask (some n) addr data false) s = .next u ∧ u.mod.hp.pba = [] ∧
        u.mod.hostMem.rdN addr 4 = toBytes 4 (data % 2 ^ 32) ∧ u.chans = s.chans) ∧
      (∃ u, exec (.msixUnmask (some n) addr data true) s = .next u ∧ u.mod.hp.pba = [n] ∧ u.mod.hostMem = s.mod.hostMem ∧
        u.mod.msixWord n 0 = addr % 2 ^ 32 ∧ u.mod.msixWord n 2 = data % 2 ^ 32 ∧ u.chans = s.chans)) ∧
    (∀ addr data, (∃ u, exec (.msixUnmask none addr data true) s = .next u ∧ u.mod.hp.fmask = true ∧ u.mod.hp.pba = s.mod.hp.pba ∧
        u.mod.hostMem = s.mod.hostMem ∧ u.chans = s.chans) ∧
      (∀ n, s.mod.hp.pba = [n] → s.mod.msixWord n 3 % 2 = 0 → s.mod.hp.perst = false →
        ∃ u, exec (.msixUnmask none addr data false) s = .next u ∧ u.mod.hp.pba = [] ∧
          u.mod.hostMem.rdN (s.mod.msixWord n 0 + s.mod.msixWord n 1 * 2 ^ 32) 4 = toBytes 4 (s.mod.msixWord n 2) ∧
          u.chans = s.chans)) ∧
    (∀ addr, s.mod.hp.cache.sorted = true → ∃ u, exec (.deviceCacheSnoop addr) s = .next u ∧
      u.mod.hp.cache.find (addr - addr % 64) = none ∧
      (∀ a, a ≠ addr - addr % 64 → u.mod.hp.cache.find a = s.mod.hp.cache.find a) ∧ u.chans = s.chans) ∧
    (∃ u, exec .identifyMemoryDevice s = .next u ∧ u.mod.boot.mbox = some (.identify 3072 0) ∧ u.mod.regs = s.mod.regs ∧
      u.chans = s.chans) ∧
    (∃ u v, exec .getSupportedLogs s = .next u ∧ u.mod.boot.mbox = some (.logs v) ∧ u.mod.regs = s.mod.regs ∧ u.chans = s.chans) ∧
    (∃ u v, exec .getLog s = .next u ∧ u.mod.boot.mbox = some (.log v) ∧ u.mod.regs = s.mod.regs ∧ u.chans = s.chans) ∧
    (∃ u v, exec .getHealthInfo s = .next u ∧ u.mod.boot.mbox = some (.health v) ∧ u.mod.regs = s.mod.regs ∧ u.chans = s.chans) ∧
    (∃ u, exec .mailboxUnsupported s = .next u ∧ u.mod.boot.mbox = some .unsupported ∧ u.mod.regs = s.mod.regs ∧ u.chans = s.chans)

/-- Doorbells move a ring or stop it, and any other write of a doorbell page is refused (R380, R381); enabling a pair restarts it with its sizes (R381); the bridge reads entries in order
and keeps them in the device cache (R382); each host command has its effect and completes with its status (R383); and completions and
events are written at the tail with the phase, wait or are dropped when the ring is full, and are signalled by COAL (R382, R384, R385). -/
def Obligations.RingsAndHostCommands : Prop :=
  ∀ (s : State) (req : Requester) (r : Nat), s.Up → s.Inv → r < 16 →
    (∀ v, s.mod.eff F.HP_RING_CFG_EN r = 0 ∨ (s.mod.ring r).stopped = true →
      (∃ u, exec (.crTailDoorbell r 0 4 v) s = .next u ∧ u.mod = s.mod ∧ u.chans = s.chans) ∧
      (∃ u, exec (.cpHeadDoorbell r v) s = .next u ∧ u.mod = s.mod ∧ u.chans = s.chans)) ∧
    (∀ off size v, (size ≠ 4 ∨ off ≠ 0 ∧ off ≠ 8 → ∃ u, exec (.crTailDoorbell r off size v) s = .next u ∧
        u.mod.r F.HP_STATUS_CFG_ERR = 1 ∧ u.mod.hp = s.mod.hp ∧
        (∀ f n, f.key n ≠ F.HP_STATUS_CFG_ERR.key 0 → u.mod.r f n = s.mod.r f n) ∧ u.chans = s.chans) ∧
      exec (.crTailDoorbell r 8 4 v) s = exec (.cpHeadDoorbell r v) s) ∧
    (∀ v i, i = v % 2 ^ 16 → s.mod.eff F.HP_RING_CFG_EN r ≠ 0 → (s.mod.ring r).stopped = false →
      (∀ n, n = 2 ^ (s.mod.ring r).crLog →
        (i < n → ((s.mod.ring r).tail + n - s.mod.crHead r) % n + (i + n - (s.mod.ring r).tail) % n < n →
          ∃ u, exec (.crTailDoorbell r 0 4 v) s = .next u ∧ u.mod.ring r = { s.mod.ring r with tail := i } ∧
            u.mod.regs = s.mod.regs ∧ u.chans = s.chans) ∧
        (n ≤ i ∨ n ≤ ((s.mod.ring r).tail + n - s.mod.crHead r) % n + (i + n - (s.mod.ring r).tail) % n →
          ∃ u, exec (.crTailDoorbell r 0 4 v) s = .next u ∧ s.mod.RingStops u.mod r ∧ u.chans = s.chans)) ∧
      (i < 2 ^ (s.mod.ring r).cpLog → ∃ u, exec (.cpHeadDoorbell r v) s = .next u ∧ (u.mod.ring r).cpHead = i ∧
        u.mod.r F.HP_RING_STAT_CP_FULL r =
          (if (s.mod.cpTail r + 1) % 2 ^ (s.mod.ring r).cpLog = i then s.mod.r F.HP_RING_STAT_CP_FULL r else 0) ∧ (u.mod.ring r).cmds = (s.mod.ring r).cmds ∧ u.chans = s.chans) ∧
      (2 ^ (s.mod.ring r).cpLog ≤ i → ∃ u, exec (.cpHeadDoorbell r v) s = .next u ∧ s.mod.RingStops u.mod r ∧ u.chans = s.chans)) ∧
    (s.mod.r F.HP_RING_CFG_EN r = 0 → s.mod.eff F.HP_RING_CFG_EN r = 0 →
      ∃ u, exec (.ringEnable req r) s = .next u ∧ u.mod.r F.HP_RING_CFG_EN r = 1 ∧
        u.mod.ring r = { crLog := u.mod.r F.HP_RING_CFG_CR_LOG2 r, cpLog := u.mod.r F.HP_RING_CFG_CP_LOG2 r } ∧
        (s.mod.r F.HP_RING_CFG_CR_LOG2 r < 32 → u.mod.r F.HP_RING_CFG_CR_LOG2 r = s.mod.r F.HP_RING_CFG_CR_LOG2 r) ∧
        (s.mod.r F.HP_RING_CFG_CP_LOG2 r < 32 → u.mod.r F.HP_RING_CFG_CP_LOG2 r = s.mod.r F.HP_RING_CFG_CP_LOG2 r) ∧
        u.mod.crHead r = 0 ∧ u.mod.cpTail r = 0 ∧ u.mod.r F.HP_RING_STAT_PHASE r = 1 ∧ u.chans = s.chans) ∧
    (∀ entry a, s.mod.eff F.HP_RING_CFG_EN r ≠ 0 → (s.mod.ring r).stopped = false → s.mod.crHead r ≠ (s.mod.ring r).tail →
      s.mod.hp.perst = false → a = s.mod.crAddr r (s.mod.crHead r) →
      ∃ u x, exec (.commandFetch r entry) s = .next u ∧ (u.mod.ring r).cmds = (s.mod.ring r).cmds ++ [x] ∧ x.started = false ∧
        x.entry = (s.mod.hp.cache.find a).getD (fitTo 64 0 entry) ∧ u.mod.hp.cache.find a = some x.entry ∧
        u.mod.crHead r = (s.mod.crHead r + 1) % 2 ^ (s.mod.ring r).crLog % 2 ^ 16 ∧ u.chans = s.chans) ∧
    (∀ x, s.mod.nextCmd r = some x →
      (x.op = 0 → x.formed = true → ∃ u, exec (.cmdNop r) s = .next u ∧ s.OnlyCompletes u r x 0) ∧
      (5 < x.op → ∃ u, exec (.cmdNop r) s = .next u ∧ s.OnlyCompletes u r x 2) ∧
      (x.formed = false →
        (x.op = 0 → ∃ u, exec (.cmdNop r) s = .next u ∧ s.OnlyCompletes u r x 2) ∧
        (x.op = 3 → ∀ data errs, ∃ u, exec (.cmdMove r data errs) s = .next u ∧ s.OnlyCompletes u r x 2) ∧
        (x.op = 5 → ∃ u, exec (.cmdRegWrite r) s = .next u ∧ s.OnlyCompletes u r x 2)) ∧
      (x.op = 1 → x.formed = true → (s.mod.ring r).cmds = [x] → ∀ w, w = x.arg 0x08 8 → ctxFormed w = true →
        (s.mod.hostBlocked x.chan = false → s.cutOff x.chan = false →
          ∃ u ch, exec (.cmdCtx r) s = .next u ∧ ch = ((s.chan x.chan).w F.CH_CTX_STAT_REJ 0 0).ctxCmd w ∧
            (∀ f n, f.key n ≠ F.CH_CTX_STAT_REJ.key 0 → (u.chan x.chan).r f n = ch.r f n) ∧
            (∀ y ∈ (u.mod.ring r).cmds, y.id = x.id →
              y.started = true ∧ y.tick = (s.chan x.chan).tick ∧ y.status = ch.r F.CH_CTX_STAT_REJ) ∧
            ∀ d, d ≠ x.chan → u.chan d = s.chan d)) ∧
      (x.op = 2 → x.formed = true → ∀ page, page = x.arg 0x08 4 →
        (98303 < page → ∃ u, exec (.cmdPageReady r) s = .next u ∧ s.OnlyCompletes u r x 2) ∧
        (page ≤ 98303 → s.mod.hostBlocked x.chan = false → s.cutOff x.chan = false →
          ((s.chan x.chan).haltedOn page = [] →
            ∃ u, exec (.cmdPageReady r) s = .next u ∧ (∀ f ∈ (u.chan x.chan).hbm.faults, f.page ≠ page) ∧
              (u.chan x.chan).lans = (s.chan x.chan).lans ∧ s.mod.Completed u.mod r x 0 []) ∧
          ((s.chan x.chan).keepsStreams = false →
            ∃ u, exec (.cmdPageReady r) s = .next u ∧ (u.chan x.chan).lans = (s.chan x.chan).lans ∧ s.mod.Completed u.mod r x 0 []) ∧
          (∀ g n, (s.chan x.chan).keepsStreams = true → (s.chan x.chan).haltedOn page = [(g, n)] → n < 16 → ((s.chan x.chan).lan g).stmState n = 3 →
            ∃ u, exec (.cmdPageReady r) s = .next u ∧ (∀ f ∈ (u.chan x.chan).hbm.faults, f.page ≠ page) ∧
              ((u.chan x.chan).lan g).stmState n = 1 ∧ s.OnlyLantern u x.chan g ∧ s.mod.Completed u.mod r x 0 []))) ∧
      (x.op = 3 → x.formed = true → ∀ data errs len dev c n, len = x.arg 0x18 4 → dev = x.arg 0x10 8 → c = dev / 2 ^ 36 → n = len / 64 →
        (x.arg 0x08 8 % 64 ≠ 0 ∨ dev % 64 ≠ 0 ∨ len % 64 ≠ 0 ∨ len < 64 ∨ 16777216 < len ∨ 1 < x.arg 0x1C 1 →
          ∃ u, exec (.cmdMove r data errs) s = .next u ∧ s.OnlyCompletes u r x 2) ∧
        (x.arg 0x08 8 % 64 = 0 → dev % 64 = 0 → len % 64 = 0 → 64 ≤ len → len ≤ 16777216 → x.arg 0x1C 1 < 2 →
          (12 ≤ c ∨ (dev + len - 1) / 2 ^ 36 ≠ c ∨ protectedLine (dev % 2 ^ 36 / 64 + n - 1) = true →
            ∃ u, exec (.cmdMove r data errs) s = .next u ∧ s.OnlyCompletes u r x 3) ∧
          (c < 12 → (dev + len - 1) / 2 ^ 36 = c → protectedLine (dev % 2 ^ 36 / 64 + n - 1) = false →
            (s.mod.hostBlocked c = true → ∃ u, exec (.cmdMove r data errs) s = .next u ∧ s.OnlyCompletes u r x 4) ∧
            (s.mod.hostBlocked c = false → s.cutOff c = false → (∀ i, i < n → errs.contains i = true) →
              ∃ u, exec (.cmdMove r data errs) s = .next u ∧ s.OnlyCompletes u r x 6) ∧
            (s.mod.hostBlocked c = false → s.cutOff c = false → errs = [] → ∃ u, exec (.cmdMove r data errs) s = .next u ∧
              u.Started1 r x n 0 ∧ (u.chan c).hbm.gate.length = (s.chan c).hbm.gate.length + n ∧
              (∀ i, i < n → ∃ q, (u.chan c).hbm.gate[(s.chan c).hbm.gate.length + i]? = some q ∧ q.dst = .move r x.id i ∧
                q.line = dev % 2 ^ 36 / 64 + i ∧ q.cls = 1 - x.arg 0x1C 1 ∧ (q.wr = true ↔ x.arg 0x1C 1 = 0) ∧
                (x.arg 0x1C 1 = 0 → q.data = fitTo 64 0 (slice data (64 * i) 64))) ∧
              (u.chan c).hbm.mem = (s.chan c).hbm.mem ∧ (u.chan c).lans = (s.chan c).lans)))) ∧
      (x.op = 4 → x.formed = true → ∀ a host len, a = x.arg 0x08 8 → host = x.arg 0x10 8 → len = x.arg 0x18 4 →
        (a % 8 ≠ 0 ∨ host % 64 ≠ 0 ∨ len % 8 ≠ 0 ∨ len < 8 ∨ 4096 < len →
          ∃ u, exec (.cmdSnap r) s = .next u ∧ s.OnlyCompletes u r x 2) ∧
        (a % 8 = 0 → host % 64 = 0 → len % 8 = 0 → 8 ≤ len → len ≤ 4096 →
          (snapRange a len = false → ∃ u, exec (.cmdSnap r) s = .next u ∧ s.OnlyCompletes u r x 3) ∧
          (snapRange a len = true → s.cutOffAt a = false → len = 8 →
            ∃ u, exec (.cmdSnap r) s = .next u ∧ s.mod.Completed u.mod r x 0 [] ∧
              u.mod.hostMem.rdN host 8 = toBytes 8 (s.snapRead a).1))) ∧
      (x.op = 5 → x.formed = true → ∀ i, i < 3 → isSet (x.slot i).1 63 = true → (x.slot i).1 % 2 ^ 48 < winBase 0 →
        ∃ u, exec (.cmdRegWrite r) s = .next u ∧ s.OnlyCompletes u r x 2) ∧
      (x.op = 5 → x.formed = true → ∀ a v, x.slot 0 = (a, v) → isSet a 63 = true → isSet (x.slot 1).1 63 = false →
        isSet (x.slot 2).1 63 = false → winBase 0 ≤ a % 2 ^ 48 → s.cutOffAt (a % 2 ^ 48) = false →
        ∃ t u, exec (.registerWrite .hostCmd (a % 2 ^ 48) (if isSet a 62 then 3 else 2) v) s = .next t ∧
          exec (.cmdRegWrite r) s = .next u ∧ t.mod.Completed u.mod r x 0 [] ∧ u.chans = t.chans)) ∧
    (∀ x, (s.mod.ring r).cmds.find? (fun x => x.op == 1 && x.started && (s.chan x.chan).tick != x.tick) = some x →
      ∃ u, exec (.cmdCtx r) s = .next u ∧ s.mod.Completed u.mod r x x.status ((s.chan x.chan).ctxRecord (x.arg 0x08 8 % 1024)) ∧
        u.chans = s.chans) ∧
    (s.mod.eff F.HP_RING_CFG_EN r ≠ 0 → s.mod.hp.perst = false → ∀ e es t,
      ((s.mod.ring r).done = e :: es ∨ (s.mod.ring r).done = [] ∧ s.mod.eff F.HP_EVT_RING = r ∧ s.mod.events = e :: es) →
      t = (s.mod.cpTail r + 1) % 2 ^ (s.mod.ring r).cpLog % 2 ^ 16 →
      (s.mod.cpRoom r = true → (s.mod.ring r).cpLog ≤ 16 → ∃ u, exec (.completionWrite r) s = .next u ∧ u.mod.cpTail r = t ∧
        u.mod.r F.HP_RING_STAT_PHASE r = (if t = 0 then 1 - s.mod.r F.HP_RING_STAT_PHASE r else s.mod.r F.HP_RING_STAT_PHASE r) ∧
        ((s.mod.ring r).done = e :: es → (u.mod.ring r).done = es ∧ u.mod.events = s.mod.events) ∧
        ((s.mod.ring r).done = [] → u.mod.events = es) ∧
        ((s.mod.ring r).unsig < s.mod.eff F.HP_RING_CFG_COAL r → (u.mod.ring r).unsig = (s.mod.ring r).unsig + 1 ∧
          u.mod.hostMem.rdN (s.mod.cpAddr r (s.mod.cpTail r)) 64 = s.mod.entryBytes r e) ∧
        (s.mod.eff F.HP_RING_CFG_COAL r ≤ (s.mod.ring r).unsig → (u.mod.ring r).unsig = 0 ∧
          (s.mod.unmasked (s.mod.r F.HP_RING_CFG_VEC r) = false → s.mod.r F.HP_RING_CFG_VEC r ∈ u.mod.hp.pba ∧
            u.mod.hostMem.rdN (s.mod.cpAddr r (s.mod.cpTail r)) 64 = s.mod.entryBytes r e) ∧
          (s.mod.unmasked (s.mod.r F.HP_RING_CFG_VEC r) = true → s.mod.Signalled u.mod (s.mod.r F.HP_RING_CFG_VEC r))) ∧
        u.chans = s.chans) ∧
      (s.mod.cpRoom r = false →
        ((s.mod.ring r).done = e :: es → ∃ u, exec (.completionWrite r) s = .next u ∧ u.mod.r F.HP_RING_STAT_CP_FULL r = 1 ∧
          (u.mod.ring r).done = e :: es ∧ u.mod.hostMem = s.mod.hostMem ∧ u.chans = s.chans) ∧
        ((s.mod.ring r).done = [] → ∃ u, exec (.completionWrite r) s = .next u ∧ u.mod.events = es ∧
          u.mod.r F.HP_EVT_DROP_CNT_COUNT = s.mod.regs.plus F.HP_EVT_DROP_CNT_COUNT 0 1 ∧ u.mod.r F.HP_STATUS_EVT_OVF = 1 ∧
          (e.type = 1 → u.mod.hp.dropped = s.mod.hp.dropped ++ [(ofBytes (e.payload.take 4), e.payload)]) ∧
          u.mod.hostMem = s.mod.hostMem ∧ u.chans = s.chans))) ∧
    (0 < (s.mod.ring r).unsig → s.mod.hp.perst = false → ∃ u, exec (.msixCoalesceFlush r) s = .next u ∧ (u.mod.ring r).unsig = 0 ∧
      s.mod.Signalled u.mod (s.mod.r F.HP_RING_CFG_VEC r) ∧ u.mod.regs = s.mod.regs ∧ u.chans = s.chans)

/-! ### Start-up, the light, identity and attestation -/

namespace Sys2Proof.Machine

/-- Every channel of the module is held. -/
def State.AllHeld (s : State) : Prop := ∀ c, c < 12 → s.mod.holds c = true

/-- A half is as it was. -/
def State.SameHalf (s u : State) (h : Nat) : Prop := u.mod.half h = s.mod.half h

/-- Verification of the device in turn has failed with a cause: the recovery device is next, or the module has no image, and every channel is
in reset (R398, R399). -/
structure State.VerifyFailed (s u : State) (cause : Nat) : Prop where
  held : u.AllHeld
  image : u.mod.boot.image = none
  first : s.mod.r F.MOD_BOOT_SOURCE = 0 → u.mod.r F.MOD_BOOT_FAIL_P = cause % 16 ∧ u.mod.r F.MOD_BOOT_SOURCE = 1 ∧
    u.mod.r F.MOD_BOOT_STAGE = 1
  second : s.mod.r F.MOD_BOOT_SOURCE ≠ 0 → u.mod.r F.MOD_BOOT_FAIL_R = cause % 16 ∧ u.mod.r F.MOD_BOOT_STAGE = 7 ∧
    u.mod.boot.cfgOk = true

/-- The mailbox's answer, and nothing else that software sees. -/
def State.Answers (s u : State) (a : SpdmAns) : Prop :=
  u.mod.boot.spdm = some a ∧ u.mod.regs = s.mod.regs ∧ u.mod.hp = s.mod.hp ∧ u.chans = s.chans

/-- At the next frame time the port select grants as before (R402): the half with the grant has sent a LIT frame within 8 ms, and no other
half has sent three in a row. -/
def Bridge.GrantStands (b : Bridge) : Prop :=
  (∀ g, b.boot.grant = some g → g < 2 ∧ ∃ t, (b.half g).last = some (t, 1) ∧ b.boot.ms + 1 ≤ t + 8) ∧
    ∀ k, k < 2 → b.boot.grant ≠ some k → (b.half k).run < 3

/-- A valid LIT frame that is the third in a row from half `h` (R401, R402). -/
structure Bridge.ThirdLit (b : Bridge) (h w : Nat) : Prop where
  valid : tokenValid w = true
  lit : bits w 9 8 = 1
  run : (b.half h).run = 2
  last : ∃ t, (b.half h).last = some (t, 1) ∧ t + 1 = b.boot.ms

end Sys2Proof.Machine

/-- MOD_RESET_N resets the whole module and keeps the flash devices (R389); after it rises every channel is held (R390). A half's self-test,
its election, its frames, the end of its grant, its claim and its watchdog follow R401 to R405, and the third LIT frame of a qualifying half takes the light
(R402, R404). -/
def Obligations.ResetAndTheLight : Prop :=
  ∀ s : State, s.Inv →
    (∃ u, exec .modResetAssert s = .next u ∧ u.mod.boot.inReset = true ∧ u.pending = s.pending ∧ u.mod.hostMem = s.mod.hostMem ∧
      u.mod.boot.flash = s.mod.boot.flash ∧ (∀ f ∈ bridgeFields, ∀ n, u.mod.r f n = f.reset) ∧ (∀ c, ∀ f ∈ channelFields, ∀ n, (u.chan c).r f n = f.reset) ∧
      (∀ c g, ∀ f ∈ lanternFields, ∀ n, ((u.chan c).lan g).r f n = f.reset) ∧ u.mod.events = [] ∧ u.mod.tb.tickAt = none) ∧
    (s.mod.boot.inReset = true → ∀ pref, ∃ u, exec (.modResetRelease pref) s = .next u ∧ u.mod.boot.inReset = false ∧ u.AllHeld ∧
      u.mod.boot.pref = pref % 2 ∧ u.mod.regs = s.mod.regs) ∧
    (s.Up → ∀ pref, exec (.modResetRelease pref) s = .next s) ∧
    (s.Up → ∀ h, h < 2 →
      (∀ idOk, ∃ u, exec (.romSelfTestDone h false idOk) s = .next u ∧ (u.mod.half h).role = 2 ∧ (u.mod.half h).test = some false ∧
        u.mod.r F.MOD_BOOT_HALF_FAIL = 1 ∧ u.mod.r F.MOD_BOOT_ID_OK = s.mod.r F.MOD_BOOT_ID_OK ∧ s.SameHalf u (1 - h) ∧
        u.chans = s.chans) ∧
      ((s.mod.half h).fresh = false ∨ (s.mod.half h).heard = none → ∀ idOk, ∃ u, exec (.romSelfTestDone h true idOk) s = .next u ∧ (u.mod.half h).test = some true ∧
        (u.mod.half h).role = (if s.mod.boot.pref = h then 1 else (s.mod.half h).role) ∧
        (idOk = true → u.mod.r F.MOD_BOOT_ID_OK = 1 ∧ u.mod.r F.SEC_DEVID_ID = deviceId % 2 ^ 64) ∧
        (idOk = false → u.mod.regs = s.mod.regs) ∧ s.SameHalf u (1 - h) ∧ u.chans = s.chans) ∧
      ((s.mod.half h).fresh = true → (s.mod.half h).heard ≠ none → ∀ idOk, ∃ u, exec (.romSelfTestDone h true idOk) s = .next u ∧
        (u.mod.half h).test = some true ∧ (u.mod.half h).role = (s.mod.half h).role ∧ u.chans = s.chans ∧
        ∀ img, s.mod.boot.grant = some (1 - h) → s.mod.boot.image = some img →
          (u.mod.half h).held = img.seq ∧ u.mod.r F.HP_LIGHT_DARK_OK = 1) ∧
      (s.mod.boot.pref ≠ h → (s.mod.half h).test = some true → (s.mod.half h).role = 0 → (s.mod.half h).heard = none →
        ((s.mod.half h).start + 20 ≤ s.mod.boot.ms → ∃ u, exec (.electionTimeout h) s = .next u ∧ (u.mod.half h).role = 1 ∧
          s.SameHalf u (1 - h) ∧ u.mod.regs = s.mod.regs ∧ u.chans = s.chans) ∧
        (s.mod.boot.ms < (s.mod.half h).start + 20 → ∃ u, exec (.electionTimeout h) s = .next u ∧ u.mod = s.mod ∧
          u.chans = s.chans)) ∧
      (∀ silent, s.mod.GrantStands → ∃ u, exec (.tokenFrameSend silent) s = .next u ∧ u.mod.boot.ms = s.mod.boot.ms + 1 ∧
        (h ∈ silent → s.SameHalf u h) ∧
        (h ∉ silent → (u.mod.half h).sentAt = s.mod.boot.ms + 1 ∧ (u.mod.half h).role = (s.mod.half h).role ∧
          ((s.mod.half h).role < 4 → s.mod.r F.HP_LIGHT_DARK_OK < 2 → tokenValid (u.mod.half h).line = true ∧
            bits (u.mod.half h).line 9 8 = (s.mod.half h).role ∧ bits (u.mod.half h).line 43 12 = (s.mod.half h).held % 2 ^ 32)) ∧
        u.mod.boot.grant = s.mod.boot.grant ∧ u.mod.regs = s.mod.regs ∧ u.chans = s.chans) ∧
      (∀ silent t, s.mod.boot.grant = some h → (s.mod.half h).last = some (t, 1) → t + 8 ≤ s.mod.boot.ms →
        (s.mod.half (1 - h)).run < 3 → ∃ u, exec (.tokenFrameSend silent) s = .next u ∧ u.mod.boot.grant = none ∧
          u.mod.r F.HP_STATUS_LINK_UP ≠ 1 ∧ u.mod.hp.training = false ∧ u.mod.r F.HP_LIGHT_LIT = s.mod.r F.HP_LIGHT_LIT ∧
          u.chans = s.chans) ∧
      (∀ w, s.mod.boot.grant = none → s.mod.boot.granted = false → (s.mod.half (1 - h)).run < 3 →
        (tokenValid w = false → ∃ u, exec (.tokenFrame h w) s = .next u ∧ (u.mod.half h).run = 0 ∧ u.mod.boot.grant = none ∧
          u.chans = s.chans) ∧
        (s.mod.ThirdLit h w → ∃ u, exec (.tokenFrame h w) s = .next u ∧ u.mod.boot.grant = some h ∧ u.mod.r F.HP_LIGHT_LIT = h ∧
          u.mod.r F.MOD_NODE_LIT = h ∧ u.mod.r F.MOD_BOOT_STAGE = 1 ∧ u.mod.r F.HP_LIGHT_COUNT = s.mod.r F.HP_LIGHT_COUNT ∧
          (u.mod.hp.training = true ↔ s.mod.hp.perst = false) ∧ u.AllHeld)) ∧
      (∀ w t, s.mod.boot.grant = some (1 - h) → s.mod.boot.granted = true → s.mod.r F.HP_LIGHT_LIT = 1 - h →
        (s.mod.half (1 - h)).last = some (t, 1) → t + 8 < s.mod.boot.ms → s.mod.ThirdLit h w →
        s.mod.r F.ERR_MOD_STATUS_ENTRIES < 64 → (∀ q ∈ s.mod.pend, q.unit ≠ unitWord 0 13 0 h 0) →
        ∃ u q, exec (.tokenFrame h w) s = .next u ∧ u.mod.boot.grant = some h ∧ u.mod.r F.HP_LIGHT_LIT = h ∧
          u.mod.r F.HP_LIGHT_COUNT = (s.mod.r F.HP_LIGHT_COUNT + 1) % 2 ^ 16 ∧ u.mod.r F.HP_LIGHT_DARK_OK = 0 ∧
          u.mod.r F.HP_STATUS_LINK_UP ≠ 1 ∧ u.mod.pend = s.mod.pend ++ [q] ∧ q.cause = 0x45 ∧
          ((s.mod.half h).held = 0 → u.mod.r F.MOD_BOOT_STAGE = 1 ∧ u.mod.r F.MOD_BOOT_SOURCE = 0 ∧ u.AllHeld) ∧
          ((s.mod.half h).held ≠ 0 → ∀ c, s.Runs c →
            ((s.chan c).hostBusy = false → (u.chan c).r F.CH_INFO_HOST_VIA = h) ∧
            ((s.chan c).hostBusy = true → (s.chan c).r F.CH_INFO_HOST_VIA ≠ h →
              (u.chan c).r F.CH_INFO_HOST_VIA = (s.chan c).r F.CH_INFO_HOST_VIA ∧ (u.chan c).hostNext = some h))) ∧
      (∀ t, (s.mod.half h).heard = some t → (s.mod.half h).test = some true → (s.mod.half h).role = 0 → s.mod.boot.grant ≠ some h →
        (t + 8 ≤ s.mod.boot.ms → ∃ u, exec (.lightTakeover h) s = .next u ∧ (u.mod.half h).role = 1 ∧ s.SameHalf u (1 - h) ∧
          u.mod.boot.grant = s.mod.boot.grant ∧ u.mod.regs = s.mod.regs ∧ u.chans = s.chans) ∧
        (s.mod.boot.ms < t + 8 → ∃ u, exec (.lightTakeover h) s = .next u ∧ u.mod = s.mod ∧ u.chans = s.chans)) ∧
      ((s.mod.half h).sentAt + 16 ≤ s.mod.boot.ms → ∃ u, exec (.halfWatchdog h) s = .next u ∧ (u.mod.half h).role = 0 ∧
        (u.mod.half h).held = 0 ∧ (u.mod.half h).test = none ∧ (u.mod.half h).start = s.mod.boot.ms ∧
        u.mod.r F.HP_LIGHT_DARK_OK = 0 ∧ s.SameHalf u (1 - h) ∧ u.chans = s.chans) ∧
      (s.mod.boot.ms < (s.mod.half h).sentAt + 16 → ∃ u, exec (.halfWatchdog h) s = .next u ∧ u.mod = s.mod ∧ u.chans = s.chans))

/-- Verification takes a sound image into distribution or fails with its cause (R398, R399); keeper firmware lands and releases its channel
(R406); calibration ends with a placement and RUN, WAIT_GO or STOPPED (R408, R409); GO loads the placement's blocks and then starts RUN (R265,
R409); the flash commands, of which PROGRAM takes the page that the buffer holds when it is written (R12, R415);
and SPDM (R414). -/
def Obligations.StartUpAndIdentity : Prop :=
  ∀ (s : State) (req : Requester), s.Up → s.Inv →
    (s.mod.boot.grant ≠ none → s.mod.r F.MOD_BOOT_STAGE = 1 →
      (∃ u, exec (.imageVerify false) s = .next u ∧ s.VerifyFailed u 1) ∧
      (∃ u, exec (.imageVerify true) s = .next u ∧
        match s.mod.verify (s.mod.r F.MOD_BOOT_SOURCE) true with
        | .inl cause => s.VerifyFailed u cause
        | .inr (img, missing) => if img.levelOk = true then
            u.mod.boot.image = some img ∧ u.mod.boot.cfgOk = true ∧ u.AllHeld ∧
            (img.moduleRecs = [] → u.mod.r F.MOD_BOOT_STAGE = 2 ∧ u.mod.r F.MOD_IMAGE_SEQ = img.seq % 2 ^ 32 ∧
              u.mod.r F.MOD_IMAGE_SVN = img.svn % 2 ^ 16 ∧ u.mod.r F.MOD_IMAGE_FLOOR = img.floor % 2 ^ 16 ∧
              (missing = true → u.mod.r F.MOD_BOOT_FLOOR_MISSING = 1))
          else s.VerifyFailed u 8)) ∧
    (∀ img c, c < 12 → s.mod.boot.image = some img → s.mod.r F.MOD_BOOT_STAGE = 2 → c ∉ s.mod.boot.landed →
      ((s.bootChannel img c).imageOk (s.mod.r F.MOD_LEVEL_LEVEL) = true →
        ∃ u, exec (.keeperFwLanded c) s = .next u ∧ u.mod.boot.landed = s.mod.boot.landed ++ [c] ∧ c ∉ u.mod.boot.resetCh ∧
          (u.chan c).lkState 0 = 1 ∧ (u.chan c).lkState 1 = 1 ∧ (isSet s.mod.boot.p2 c = true → (u.chan c).lkState 2 = 1) ∧
          u.mod.r F.MOD_BOOT_STAGE = (if s.mod.boot.landed.length = 11 then 3 else 2) ∧ ∀ d, d ≠ c → u.chan d = s.chan d) ∧
      ((s.bootChannel img c).imageOk (s.mod.r F.MOD_LEVEL_LEVEL) = false →
        ∃ u, exec (.keeperFwLanded c) s = .next u ∧ s.VerifyFailed u 8 ∧ u.chans = []) ∧
      (∃ u, exec (.distributionTimeout c) s = .next u ∧ s.VerifyFailed u 9 ∧ u.chans = [])) ∧
    (∀ c n, c < 12 → s.mod.r F.MOD_BOOT_STAGE = 3 → c ∉ s.mod.boot.reported → c ∉ s.mod.boot.failedCh →
      n = s.mod.boot.reported.length + s.mod.boot.failedCh.length →
      (∀ rep rate, rep.rate = some rate → 1408 ≤ ((upto 1536).filter (calLanOk rep)).length →
        (n < 11 → ∃ u, exec (.calibrationDone c rep) s = .next u ∧ u.mod.boot.reported = s.mod.boot.reported ++ [c] ∧
          u.mod.r F.MOD_BOOT_STAGE = 3 ∧ (u.chan c).r F.CH_INFO_USABLE = 1 ∧ (u.chan c).r F.HM_STATUS_TRAINED = 1 ∧
          (u.chan c).r F.HM_STATUS_RATE = rate % 4 ∧ (u.chan c).r F.HM_WINDOW_LINES_LINES = rateLines rate ∧
          (∀ g, g ∈ (u.chan c).err.failed ↔ g < 1536 ∧ calLanOk rep g = false) ∧
          ∀ d, d ≠ c → u.chan d = s.chan d) ∧
        (n = 11 → s.mod.boot.failedCh = [] → ∃ u, exec (.calibrationDone c rep) s = .next u ∧ u.mod.r F.TB_STAT_EN = 1 ∧
          u.mod.r F.MOD_BOOT_PLACE = 0 ∧
          u.mod.r F.MOD_BOOT_CH_USABLE = (s.mod.boot.reported ++ [c]).foldl (fun m d => m + 2 ^ d) 0 % 2 ^ 12 ∧
          u.mod.r F.MOD_BOOT_STAGE = (if s.mod.boot.autoGo then 5 else 4))) ∧
      (∀ rep, rep.rate = none → n < 11 → (s.chan c).r F.ERR_STATUS_FATAL = 0 →
        ∃ u, exec (.calibrationDone c rep) s = .next u ∧ u.mod.boot.failedCh = s.mod.boot.failedCh ++ [c] ∧
          (u.chan c).r F.CH_INFO_USABLE = (s.chan c).r F.CH_INFO_USABLE ∧ (u.chan c).r F.ERR_STATUS_FATAL = 1) ∧
      (n < 11 → ∃ u, exec (.calibrationTimeout c) s = .next u ∧ u.mod.boot.failedCh = s.mod.boot.failedCh ++ [c] ∧
        u.mod.r F.MOD_BOOT_STAGE = 3 ∧ u.chans = s.chans) ∧
      (n = 11 → s.mod.boot.failedCh ≠ [] → ∃ u, exec (.calibrationTimeout c) s = .next u ∧ u.mod.r F.MOD_BOOT_STAGE = 6 ∧
        u.chans = s.chans) ∧
      (∀ img p, n = 11 → s.mod.boot.failedCh = [] → s.mod.boot.image = some img → img.without c = some p →
        ∃ u, exec (.calibrationTimeout c) s = .next u ∧ u.mod.r F.MOD_BOOT_PLACE = p % 2 ^ 8 ∧ u.mod.r F.TB_STAT_EN = 1 ∧
          u.mod.r F.MOD_BOOT_STAGE = (if s.mod.boot.autoGo then 5 else 4))) ∧
    (s.mod.r F.MOD_BOOT_STAGE = 4 → s.mod.boot.going = false →
      ((∀ x ∈ s.chans, x.2.ctx.loads = [] ∧ x.2.blocks = []) → ∃ u, exec (.go req) s = .next u ∧ u.mod.r F.MOD_BOOT_STAGE = 5 ∧
        u.mod.boot.going = false ∧ ∀ c, s.Runs c → (u.chan c).ctx.run = true ∧ (u.chan c).regs = (s.chan c).regs) ∧
      (∀ c, s.Runs c → (s.chan c).r F.CH_INFO_USABLE = 1 → (∃ b ∈ (s.chan c).blocks, 0 < b.lines) →
        ∃ u, exec (.go req) s = .next u ∧ u.mod.r F.MOD_BOOT_STAGE = 4 ∧ u.mod.boot.going = true ∧
          (u.chan c).ctx.loads.length = (s.chan c).ctx.loads.length + ((s.chan c).blocks.map (·.lines)).sum ∧
          (u.chan c).hbm.gate.length = (s.chan c).hbm.gate.length + ((s.chan c).blocks.map (·.lines)).sum ∧
          (u.chan c).lans = (s.chan c).lans ∧ (u.chan c).regs = (s.chan c).regs)) ∧
    (s.mod.r F.MOD_BOOT_STAGE = 4 → s.mod.boot.going = true → ∃ u, exec (.go req) s = .next u ∧ u.mod.r F.MOD_BOOT_STAGE = 4 ∧
      u.chans = s.chans) ∧
    (s.mod.r F.MOD_BOOT_STAGE ≠ 4 → ∃ u, exec (.go req) s = .next u ∧ u.mod.r F.MOD_BOOT_STAGE = s.mod.r F.MOD_BOOT_STAGE ∧
      u.mod.r F.MOD_BOOT_CFG_ERR = 1 ∧ u.chans = s.chans) ∧
    (∀ dev addr, addr < 2 ^ 26 →
      (s.mod.r F.SEC_FLASH_STAT_BUSY = 0 →
        (addr % 256 = 0 →
          (∃ u, exec (.flashRead req dev addr) s = .next u ∧ u.mod.r F.SEC_FLASH_STAT_BUSY = 1 ∧
            u.mod.boot.fcmd = some (0, dev % 2, addr) ∧ u.mod.boot.flash = s.mod.boot.flash ∧ u.chans = s.chans) ∧
          (65536 ≤ addr → ∃ u, exec (.flashProgram req dev addr) s = .next u ∧ u.mod.r F.SEC_FLASH_STAT_BUSY = 1 ∧
            u.mod.boot.fcmd = some (1, dev % 2, addr) ∧ u.mod.boot.fpage = s.mod.flashBuf ∧ u.chans = s.chans) ∧
          (addr < 65536 → ∃ u, exec (.flashProgram req dev addr) s = .next u ∧ u.mod.r F.SEC_FLASH_STAT_BUSY = 0 ∧
            u.mod.r F.SEC_FLASH_STAT_REFUSED = 1 ∧ u.mod.boot.fcmd = s.mod.boot.fcmd ∧ u.chans = s.chans)) ∧
        (addr % 65536 = 0 → 65536 ≤ addr → ∃ u, exec (.flashErase req dev addr) s = .next u ∧ u.mod.r F.SEC_FLASH_STAT_BUSY = 1 ∧
          u.mod.boot.fcmd = some (2, dev % 2, addr) ∧ u.chans = s.chans) ∧
        (addr = 0 → ∃ u, exec (.flashErase req dev addr) s = .next u ∧ u.mod.r F.SEC_FLASH_STAT_REFUSED = 1 ∧
          u.mod.r F.SEC_FLASH_STAT_BUSY = 0 ∧ u.chans = s.chans) ∧
        (addr % 65536 ≠ 0 → ∃ u, exec (.flashErase req dev addr) s = .next u ∧ u.mod.r F.SEC_FLASH_STAT_ERR = 1 ∧
          u.mod.r F.SEC_FLASH_STAT_BUSY = 0 ∧ u.mod.boot.fcmd = s.mod.boot.fcmd ∧ u.chans = s.chans)) ∧
      (s.mod.r F.SEC_FLASH_STAT_BUSY = 1 → ∃ u, exec (.flashErase req dev addr) s = .next u ∧
        u.mod.boot.fcmd = s.mod.boot.fcmd ∧ u.mod.r F.SEC_FLASH_STAT_BUSY = 1)) ∧
    (∀ op dev addr, s.mod.boot.fcmd = some (op, dev, addr) →
      (∃ u, exec (.flashCmdDone true) s = .next u ∧ u.mod.r F.SEC_FLASH_STAT_BUSY = 0 ∧ u.mod.r F.SEC_FLASH_STAT_ERR = 1 ∧
        u.mod.boot.fcmd = none ∧ u.mod.boot.flash = s.mod.boot.flash ∧ u.chans = s.chans) ∧
      (∃ u, exec (.flashCmdDone false) s = .next u ∧ u.mod.r F.SEC_FLASH_STAT_BUSY = 0 ∧ u.mod.boot.fcmd = none ∧
        u.chans = s.chans ∧
        (op = 0 → u.mod.boot.flash = s.mod.boot.flash ∧ ∀ i, i < 32 →
          u.mod.r F.SEC_FLASH_BUF_DATA i = ofBytes (s.mod.flashRd dev (addr + 8 * i) 8)) ∧
        (Memory.wf (s.mod.boot.flash.getD dev []) = true → op = 1 → s.mod.boot.fpage.length = 256 →
          u.mod.flashRd dev addr 256 = s.mod.boot.fpage) ∧
        (Memory.wf (s.mod.boot.flash.getD dev []) = true → op = 2 → ∀ i, i < 65536 → u.mod.flashRd dev (addr + i) 1 = [0xFF]))) ∧
    (∃ u, exec .getVersion s = .next u ∧ s.Answers u (.version 0x12)) ∧
    (∃ u, exec .getCapabilities s = .next u ∧ s.Answers u (.capabilities true true true)) ∧
    (∃ u, exec .negotiateAlgorithms s = .next u ∧ s.Answers u (.algorithms true true)) ∧
    (s.mod.r F.MOD_BOOT_ID_OK ≠ 0 → ∀ off len index,
      (∃ u, exec .getDigests s = .next u ∧ s.Answers u (.digests (sha256 s.mod.chain))) ∧
      (∃ u, exec (.getCertificate off len) s = .next u ∧
        s.Answers u (.certificate ((s.mod.chain.drop off).take len) (s.mod.chain.length - off - len))) ∧
      (∃ u nonce sig, exec .challenge s = .next u ∧ s.Answers u (.challenge (sha256 s.mod.chain) nonce sig)) ∧
      (∃ u ms sig, exec (.getMeasurements index) s = .next u ∧ s.Answers u (.measurements ms sig) ∧
        (1 ≤ index → index ≤ 6 → ms = [(index, s.mod.measure index)]) ∧
        (index = 255 → ms.map (·.1) = [1, 2, 3, 4, 5, 6])) ∧
      (∃ u, exec .spdmUnsupported s = .next u ∧ s.Answers u .unsupported)) ∧
    (s.mod.r F.MOD_BOOT_ID_OK = 0 → ∀ off len index,
      (∃ u, exec .getDigests s = .next u ∧ s.Answers u .unspecified) ∧
      (∃ u, exec (.getCertificate off len) s = .next u ∧ s.Answers u .unspecified) ∧
      (∃ u, exec .challenge s = .next u ∧ s.Answers u .unspecified) ∧
      (∃ u, exec (.getMeasurements index) s = .next u ∧ s.Answers u .unspecified))

/-! ### Errors, spares and fatal dumps -/

namespace Sys2Proof.Machine

/-- The record at the head of a channel's ring (R421). -/
def Channel.headWords (ch : Channel) : List Nat := ch.regs.getWords F.ERR_RING_REC (4 * (ch.r F.ERR_RING_PTR_HEAD % 64)) 4

/-- The pending record at the head of the ring, which the keeper has not taken. -/
def Channel.HeadIs (ch : Channel) (p : PendRec) : Prop :=
  ch.err.pend.find? (fun q => q.seq == ch.headWords.getD 0 0 % 2 ^ 32 && !q.taken) = some p

/-- The bridge writes events for the host (R372, R384). -/
def Bridge.Events (b : Bridge) : Prop := b.hp.perst = false ∧ b.eff F.HP_EVT_EN ≠ 0

end Sys2Proof.Machine

/-- The keeper takes the record at the head of its ring: HEAD advances, the copy is forwarded by its class, a record without a remedy stops
being pending (R421, R422), and a lasting slice fault binds the spare slice (R428). A health window halves every count once (R427). A core
retirement binds the lowest spare, loads the core's blocks and ends with its record (R265, R429). A channel-fatal record stops the channel's compute and orders a placement or ends the job, and
the last keeper's report ends the order (R431). A module-fatal record drives the fog (R434), and a fog on the line is recorded (R435). A
dump goes to the stack as class-1 writes, of which the last rewrites its header with STATE 1 and ends the dump, and the lit half copies a
dump whose lines stand in the stack to the host (R301, R436 to R438). -/
def Obligations.ErrorsSparesAndDumps : Prop :=
  ∀ (s : State) (c : Nat), s.Inv → s.Up →
    (s.Runs c →
      ((s.chan c).entries = 0 → ∃ u, exec (.keeperTakeRecord (some c)) s = .next u ∧ (u.chan c).regs = (s.chan c).regs ∧
        (u.chan c).err = (s.chan c).err ∧ (u.chan c).lans = (s.chan c).lans ∧ u.mod = s.mod) ∧
      (∀ p, 0 < (s.chan c).entries → (s.chan c).entries ≤ 64 → (s.chan c).HeadIs p → p.cls < 2 →
        (p.lasting = false → ∃ u, exec (.keeperTakeRecord (some c)) s = .next u ∧ (u.chan c).entries = (s.chan c).entries - 1 ∧
          (u.chan c).r F.ERR_RING_PTR_HEAD = ((s.chan c).r F.ERR_RING_PTR_HEAD + 1) % 2 ^ 8 ∧
          (u.chan c).err.pend = (s.chan c).err.pend.filter (fun q => q.seq != p.seq) ∧ (u.chan c).lans = (s.chan c).lans ∧
          (s.mod.Events → (s.chan c).fwdMin ≤ bits ((s.chan c).headWords.getD 0 0) 33 32 →
            ∃ e, u.mod.events = s.mod.events ++ [e] ∧ e.type = 2 ∧
              e.payload = fitTo 48 0 ((s.chan c).headWords.flatMap (toBytes 8))) ∧
          (bits ((s.chan c).headWords.getD 0 0) 33 32 < (s.chan c).fwdMin → u.mod = s.mod)) ∧
        (∀ g k i, p.lasting = true → p.cause = 0xA0 → g = unitGrid p.unit → k = bits p.unit 20 15 → i = bits p.unit 25 21 → i < 16 →
          ((s.chan c).lan g).r F.CO_SLICEMAP_SPARE_FOR k = 31 → ((s.chan c).lan g).r F.CO_SLICEMAP_SLICE_BAD k = 0 →
          ∃ u, exec (.keeperTakeRecord (some c)) s = .next u ∧ ((u.chan c).lan g).r F.CO_SLICEMAP_SPARE_FOR k = i ∧
            ((u.chan c).lan g).r F.CO_SLICEMAP_SLICE_BAD k = 2 ^ i ∧ s.OnlyLantern u c g)) ∧
      ((s.chan c).tick % 2 ^ (s.chan c).r F.ERR_CFG_WIN_LOG2 = 0 → (s.chan c).err.halved ≠ some (s.chan c).tick →
        ∃ u, exec (.healthWindow c) s = .next u ∧ (u.chan c).err.halved = some (s.chan c).tick ∧
        (∀ k, (u.chan c).err.health.getD k 0 = (s.chan c).err.health.getD k 0 / 2) ∧
        (∀ p n, p < 3 → ((u.chan c).lport p).leaky.getD n 0 = ((s.chan c).lport p).leaky.getD n 0 / 2) ∧
        (u.chan c).err.pend = (s.chan c).err.pend ∧ (u.chan c).regs = (s.chan c).regs ∧ (u.chan c).lans = (s.chan c).lans) ∧
      ((s.chan c).tick % 2 ^ (s.chan c).r F.ERR_CFG_WIN_LOG2 ≠ 0 ∨ (s.chan c).err.halved = some (s.chan c).tick → ∃ u, exec (.healthWindow c) s = .next u ∧
        (u.chan c).err = (s.chan c).err ∧ (u.chan c).link = (s.chan c).link) ∧
      (∀ g n x sp, g < 1536 → n < 60 → (s.chan c).retireOf g n = some x → ((s.chan c).lan g).coreOpen x.phys = false →
        lowestSet 64 0 (((s.chan c).lan g).r F.LN_CORE_SPARE_MASK) = some sp →
        x.spare = none → (s.chan c).loading g = false → (∀ b ∈ (s.chan c).coreBlocks g n, b.lines = 0) →
        (s.chan c).CanRecord (unitWord (s.chan c).no 2 g x.phys 0) →
        ∃ u, exec (.coreRetireComplete c g n) s = .next u ∧ ((u.chan c).lan g).r F.LN_CORE_BIND_PHYS n = sp ∧
          (x.phys < 64 → isSet (((u.chan c).lan g).r F.LN_CORE_BAD_MASK) x.phys = true) ∧
          isSet (((u.chan c).lan g).r F.LN_CORE_SPARE_MASK) sp = false ∧
          (u.chan c).r F.CH_SPARES_CO_FREE = ((s.chan c).r F.CH_SPARES_CO_FREE - 1) % 2 ^ 13 ∧
          x.phys ∉ ((u.chan c).lan g).tq.barred ∧ (u.chan c).retireOf g n = none ∧
          (∃ q ∈ (u.chan c).err.pend, q.cause = 0xAB) ∧ s.OnlyLantern u c g) ∧
      (∀ g n x sp, g < 1536 → n < 60 → (s.chan c).retireOf g n = some x → ((s.chan c).lan g).coreOpen x.phys = false →
        lowestSet 64 0 (((s.chan c).lan g).r F.LN_CORE_SPARE_MASK) = some sp → x.spare = none →
        (∃ b ∈ (s.chan c).coreBlocks g n, 0 < b.lines) →
        ∃ u, exec (.coreRetireComplete c g n) s = .next u ∧ ((u.chan c).lan g).r F.LN_CORE_BIND_PHYS n = sp ∧
          (u.chan c).retireOf g n = some { x with spare := some sp } ∧ sp ∈ ((u.chan c).lan g).tq.barred ∧
          (u.chan c).loading g = true ∧ (u.chan c).err.pend = (s.chan c).err.pend ∧ s.OnlyLantern u c g) ∧
      (∀ g n x sp, g < 1536 → n < 60 → (s.chan c).retireOf g n = some x → x.spare = some sp →
        ((s.chan c).loading g = false → (s.chan c).CanRecord (unitWord (s.chan c).no 2 g x.phys 0) →
          ∃ u, exec (.coreRetireComplete c g n) s = .next u ∧ sp ∉ ((u.chan c).lan g).tq.barred ∧ (u.chan c).retireOf g n = none ∧
            (∃ q ∈ (u.chan c).err.pend, q.cause = 0xAB) ∧ s.OnlyLantern u c g) ∧
        ((s.chan c).loading g = true → ∃ u, exec (.coreRetireComplete c g n) s = .next u ∧ (u.chan c).err = (s.chan c).err ∧
          (u.chan c).lans = (s.chan c).lans)) ∧
      (∀ g n x, g < 1536 → n < 60 → (s.chan c).retireOf g n = some x → ((s.chan c).lan g).coreOpen x.phys = true →
        x.limit ≤ (s.chan c).tick → ((s.chan c).lan g).tq.tasks = [] → (s.chan c).ctx.seqs = [] →
        ∃ u, exec (.coreRetireTimeout c g n) s = .next u ∧ (u.chan c).core g x.phys = {} ∧
          ((u.chan c).lan g).r F.CO_STATUS_BUSY x.phys = 0 ∧ ((u.chan c).lan g).r F.CO_STATUS_CTX x.phys = 0 ∧
          ((u.chan c).lan g).sp = ((s.chan c).lan g).sp ∧ s.OnlyLantern u c g) ∧
      (∀ d cause p, s.mod.lossDue.find? (fun x => x.1 == c) = some (d, cause) → s.mod.r F.ERR_MOD_STATUS_ENTRIES < 63 →
        (∃ img, s.mod.boot.image = some img ∧ img.placeMask (s.mod.r F.MOD_BOOT_PLACE) = 0xFFF ∧ img.without c = some p) →
        s.mod.boot.order = none → c ∉ s.mod.boot.failedCh →
        ∃ u, exec (.channelLoss c) s = .next u ∧ (u.chan c).r F.CH_INFO_FWD_ONLY = 1 ∧ (∀ x ∈ u.mod.lossDue, x.1 ≠ c) ∧
          (u.mod.r F.MOD_BOOT_CH_USABLE).testBit c = false ∧ u.mod.boot.order = some (p, c, []) ∧
          (∃ q ∈ u.mod.pend, q.cause = 0xAF) ∧
          ((s.chan c).err.dumping = none → (s.chan c).err.dumped = false →
            (u.chan c).err.dumping = some ((s.chan c).tick, (s.chan c).phase, cause == 0xC1)) ∧
          (u.chan c).hbm.mem = (s.chan c).hbm.mem ∧ ∀ e, e ≠ c → u.chan e = s.chan e) ∧
      (∀ d cause, s.mod.lossDue.find? (fun x => x.1 == c) = some (d, cause) → s.mod.r F.ERR_MOD_STATUS_ENTRIES < 63 →
        s.mod.boot.image = none → s.mod.r F.ERR_MOD_STATUS_MOD_FATAL ≠ 1 → s.mod.fatalDue = none → c ∉ s.mod.boot.failedCh →
        ∃ u, exec (.channelLoss c) s = .next u ∧ (u.chan c).r F.CH_INFO_FWD_ONLY = 1 ∧ u.mod.fatalDue = some 0xE0 ∧
          (u.mod.r F.MOD_BOOT_CH_USABLE).testBit c = false) ∧
      (∀ d cause, s.mod.lossDue.find? (fun x => x.1 == c) = some (d, cause) → s.mod.r F.ERR_MOD_STATUS_ENTRIES < 64 →
        c ∈ s.mod.boot.failedCh → ∃ u, exec (.channelLoss c) s = .next u ∧ (u.chan c).r F.CH_INFO_FWD_ONLY = 1 ∧
          (u.mod.r F.MOD_BOOT_CH_USABLE).testBit c = false ∧ u.mod.boot.order = s.mod.boot.order ∧ (∃ q ∈ u.mod.pend, q.cause = 0xAF) ∧
          ∀ e, e ≠ c → u.chan e = s.chan e) ∧
      (∀ p lost got y, s.mod.boot.order = some (p, lost, got) → (s.chan c).ctx.moving = 1 → (s.chan c).working = [] →
        (s.chan c).ctx.loads = [] → y = ((s.chan c).applyPlacement p).modCtx (fun x => { x with place := p }) →
        (∃ b ∈ y.blocks, 0 < b.lines) → ∃ u, exec (.placementResume c) s = .next u ∧ (u.chan c).ctx.place = p ∧
          (u.chan c).ctx.moving = 2 ∧ (u.chan c).ctx.loads.length = (y.blocks.map (·.lines)).sum ∧
          u.mod.boot.order = some (p, lost, got) ∧ ∀ e, e ≠ c → u.chan e = s.chan e) ∧
      (∀ p lost got, s.mod.boot.order = some (p, lost, got) → (s.chan c).ctx.loads = [] → ((s.chan c).ctx.moving = 2 → (s.chan c).ctx.place = p) →
        ((s.chan c).ctx.moving = 1 → (s.chan c).working = [] ∧
          ∀ b ∈ (((s.chan c).applyPlacement p).modCtx (fun x => { x with place := p })).blocks, b.lines = 0) →
        (s.chan c).ctx.moving = 1 ∨ (s.chan c).ctx.moving = 2 → c ∉ got →
        ((∃ k, k < 12 ∧ (s.mod.r F.MOD_BOOT_CH_USABLE).testBit k = true ∧ k ≠ c ∧ k ∉ got) →
          ∃ u, exec (.placementResume c) s = .next u ∧ (u.chan c).ctx.place = p ∧ (u.chan c).ctx.moving = 2 ∧
            u.mod.boot.order = some (p, lost, got ++ [c]) ∧ u.mod.r F.MOD_BOOT_PLACE = s.mod.r F.MOD_BOOT_PLACE ∧
            ∀ e, e ≠ c → u.chan e = s.chan e) ∧
        ((∀ k, k < 12 → (s.mod.r F.MOD_BOOT_CH_USABLE).testBit k = true → k = c ∨ k ∈ got) →
          s.mod.r F.ERR_MOD_STATUS_ENTRIES < 64 →
          ∃ u, exec (.placementResume c) s = .next u ∧ (u.chan c).ctx.place = p ∧ (u.chan c).ctx.moving = 3 ∧
            u.mod.boot.order = none ∧ u.mod.r F.MOD_BOOT_PLACE = p % 2 ^ 8 ∧ ∃ q ∈ u.mod.pend, q.cause = 0xAE)) ∧
      ((s.chan c).r F.ERR_STATUS_FATAL = 0 →
        (∃ u, exec (.keeperFault c) s = .next u ∧ (u.chan c).r F.ERR_STATUS_FATAL = 1 ∧
          u.mod.lossDue = s.mod.lossDue ++ [(c, 0xC1)] ∧ (u.chan c).lans = (s.chan c).lans) ∧
        (∃ u, exec (.fabricFault c) s = .next u ∧ (u.chan c).r F.ERR_STATUS_FATAL = 1 ∧
          u.mod.lossDue = s.mod.lossDue ++ [(c, 0xC2)] ∧ (u.chan c).lans = (s.chan c).lans)) ∧
      ((s.chan c).r F.ERR_STATUS_FATAL = 1 → ∃ u, exec (.keeperFault c) s = .next u ∧ u.mod = s.mod ∧
        (u.chan c).r F.ERR_LOST_CNT_COUNT = (s.chan c).regs.plus F.ERR_LOST_CNT_COUNT 0 1 ∧ (u.chan c).lans = (s.chan c).lans) ∧
      (∀ t ph byLit, (s.chan c).err.dumping = some (t, ph, byLit) →
        ∃ u qs a b, exec (.dumpDone c) s = .next u ∧ (u.chan c).err.dumping = none ∧ (u.chan c).err.dumped = true ∧
          (u.chan c).hbm.gate = (s.chan c).hbm.gate ++ a :: qs ++ [b] ∧ (∀ q ∈ qs, dumpBase / 64 < q.line) ∧
          (∀ q ∈ a :: qs ++ [b], q.wr = true ∧ q.cls = 1 ∧ q.src = keeperSrc) ∧ a.line = dumpBase / 64 ∧ b.line = dumpBase / 64 ∧
          ofBytes (a.data.take 4) = 0x504D4448 ∧ b.data.take 12 = a.data.take 12 ∧
          ofBytes ((a.data.drop 6).take 2) = ((s.chan c).no + (if byLit then 16 else 0)) % 2 ^ 16 ∧
          ofBytes ((a.data.drop 12).take 4) = 0 ∧ ofBytes ((b.data.drop 12).take 4) = 1 ∧ b.dst = .dump true ∧
          (∀ q ∈ a :: qs, q.dst = .dump false) ∧ (u.chan c).hbm.mem = (s.chan c).hbm.mem ∧ (u.chan c).regs = (s.chan c).regs ∧
          (u.chan c).lans = (s.chan c).lans)) ∧
    (s.mod.r F.ERR_MOD_STATUS_ENTRIES = 0 → ∃ u, exec (.keeperTakeRecord none) s = .next u ∧ u.mod = s.mod ∧ u.chans = s.chans) ∧
    (0 < s.mod.r F.ERR_MOD_STATUS_ENTRIES → s.mod.r F.ERR_MOD_STATUS_ENTRIES ≤ 64 →
      ∃ u, exec (.keeperTakeRecord none) s = .next u ∧
        u.mod.r F.ERR_MOD_STATUS_ENTRIES = s.mod.r F.ERR_MOD_STATUS_ENTRIES - 1 ∧
        u.mod.r F.ERR_MOD_RING_PTR_HEAD = (s.mod.r F.ERR_MOD_RING_PTR_HEAD + 1) % 2 ^ 8 ∧
        (s.mod.Events → ∃ e, u.mod.events = s.mod.events ++ [e] ∧ e.type = 2) ∧ u.chans = s.chans) ∧
    (∀ cause, s.mod.fatalDue = some cause → ∃ u, exec .moduleFatal s = .next u ∧ u.mod.boot.fogOut = true ∧ u.mod.alert = true ∧
      u.mod.fatalDue = none ∧ u.mod.r F.ERR_MOD_STATUS_FOG_OUT = 1 ∧ u.mod.r F.ERR_MOD_STATUS_MOD_FATAL = 1 ∧
      u.mod.r F.HP_STATUS_VIRAL = 1 ∧ u.mod.r F.MOD_BOOT_STAGE = 6 ∧
      u.mod.r F.ERR_FOG_LAST_SENT_SEQ = (s.mod.r F.ERR_FOG_LAST_SENT_SEQ + 1) % 256 ∧
      (∀ e, s.Runs e → (s.mod.r F.MOD_BOOT_CH_USABLE).testBit e = true → (s.chan e).portUp 2 = true →
        ∃ o ∈ (u.chan e).link.egress.getD 11 [], o.p.ptype = 0x21 ∧ o.p.hops = 15 ∧
          o.p.arg0 = (s.mod.r F.ERR_FOG_LAST_SENT_SEQ + 1) % 256 + cause % 256 * 256 + s.mod.r F.TB_TICK_TICK % 2 ^ 48 * 65536) ∧
      (∀ e, s.Runs e → (s.mod.r F.MOD_BOOT_CH_USABLE).testBit e = true → (u.chan e).dumps = true)) ∧
    (s.mod.boot.fogOut = false → s.mod.eff F.ERR_MOD_CFG_FOG_IN_EN ≠ 0 → ∃ u, exec .fogNLow s = .next u ∧
      u.mod.r F.ERR_MOD_STATUS_FOG_IN = 1 ∧ u.mod.alert = true ∧ u.mod.boot.fogWait = true ∧ u.chans = s.chans) ∧
    (s.mod.boot.fogOut = true ∨ s.mod.eff F.ERR_MOD_CFG_FOG_IN_EN = 0 → ∃ u, exec .fogNLow s = .next u ∧ u.mod = s.mod ∧
      u.chans = s.chans) ∧
    (s.mod.boot.fogWait = true → ∃ u, exec .fogLineTimeout s = .next u ∧ u.mod.r F.ERR_FOG_LAST_NODE = 0xFFFFF ∧
      u.mod.r F.ERR_FOG_LAST_VIA_LINE = 1 ∧ u.mod.r F.ERR_FOG_RX_CNT_COUNT = s.mod.regs.plus F.ERR_FOG_RX_CNT_COUNT 0 1 ∧
      u.mod.boot.fogWait = false ∧ (s.mod.eff F.ERR_MOD_CFG_FOG_ACT = 1 → u.mod.r F.MOD_BOOT_STAGE = 6) ∧
      (s.mod.eff F.ERR_MOD_CFG_FOG_ACT ≠ 1 → u.mod.r F.MOD_BOOT_STAGE = s.mod.r F.MOD_BOOT_STAGE ∧ u.chans = s.chans)) ∧
    (s.mod.boot.fogWait = false → ∃ u, exec .fogLineTimeout s = .next u ∧ u.mod = s.mod ∧ u.chans = s.chans) ∧
    (∀ d host k, s.mod.boot.copyAt < s.mod.eff F.ERR_DUMP_SIZE_MIB * 2 ^ 20 → (s.chan d).dumpFlying = false →
      (upto 12).find? (fun e => (s.chan e).dumps && !s.mod.boot.copied.contains e) = some d →
      (s.chan d).r F.ERR_STATUS_DUMP_DONE = 1 → host = s.mod.eff F.ERR_DUMP_HOST_ADDR * 4096 → k = s.mod.boot.copied.length → k < 12 →
      ∃ u, exec .dumpHostCopy s = .next u ∧ u.mod.boot.copied = s.mod.boot.copied ++ [d] ∧ u.chans = s.chans ∧
        u.mod.hostMem.rdNat (host + 0x100 + 16 * k) 2 = 0x80 + d ∧
        ((∀ e, e < 12 → (s.chan e).dumps = true → e = d ∨ e ∈ s.mod.boot.copied) → u.mod.r F.ERR_MOD_STATUS_DUMP_DONE = 1)) ∧
    (s.mod.eff F.ERR_DUMP_SIZE_MIB * 2 ^ 20 ≤ s.mod.boot.copyAt → ∃ u, exec .dumpHostCopy s = .next u ∧ u.mod = s.mod ∧ u.chans = s.chans)

/-! ### Power, clocks and temperature -/

namespace Sys2Proof.Machine

/-- Nothing of channel `c` changes but its power state and the registers of its CH_ block from offset 0x200. -/
structure State.PowerOnly (s u : State) (c : Nat) : Prop where
  lans : (u.chan c).lans = (s.chan c).lans
  hbm : (u.chan c).hbm = (s.chan c).hbm
  link : (u.chan c).link = (s.chan c).link
  ctx : (u.chan c).ctx = (s.chan c).ctx
  regs : ∀ f n, f.key n / 64 < 0x200 ∨ 0x224 ≤ f.key n / 64 → (u.chan c).r f n = (s.chan c).r f n

/-- A ring neighbour of `c` that runs (R32, R447). -/
def State.RunsBeside (s : State) (c d : Nat) : Prop := (d = (c + 11) % 12 ∨ d = (c + 1) % 12) ∧ s.mod.holds d = false

/-- The setpoint of `c` is more than 150 mV above that of a neighbour (R447); setpoints are in 0.1 mV. -/
def State.TooHigh (s : State) (c : Nat) : Prop :=
  ∃ d, s.RunsBeside c d ∧ (s.chan d).vcore (s.chan d).opAlone + 1500 < (s.chan c).vcore (s.chan c).opAlone

/-- `c` is more than `k` degrees hotter than a neighbour (R452). -/
def State.Hotter (s : State) (c : Nat) (k : Int) : Prop := ∃ d, s.RunsBeside c d ∧ (s.chan d).tj + k < (s.chan c).tj

/-- The channel whose cap R454 raises: the highest measured power among those whose effective code is below 3, the lowest-numbered
among equals. -/
def State.Hungriest (s : State) (watts : List Nat) (c : Nat) : Prop :=
  s.Runs c ∧ (s.chan c).r F.CH_OP_EFFECTIVE < 3 ∧ ∀ d, s.Runs d → (s.chan d).r F.CH_OP_EFFECTIVE < 3 →
    watts.getD d 0 < watts.getD c 0 ∨ watts.getD d 0 = watts.getD c 0 ∧ c ≤ d

/-- A module-fatal cause waits for the lit half (R426, R434). -/
def State.Dooms (s u : State) (cause : Nat) : Prop := u.mod.fatalDue = some cause ∧ u.chans = s.chans

end Sys2Proof.Machine

/-- Supplies out of limits for ten samples end the module (R443); NB_CAP holds the higher of two neighbours (R447); the array clock stops at
the switch and the change ends with the new frequency (R448); a droop stretches the clock and is flagged (R450); temperatures are
reported and throttle, and ten samples at 105 °C end the module (R451 to R453); the power cap rises and falls (R454); a channel that the
placement does not use is powered down (R455); a removed supply loses all state (R456); and the debug port queues its accesses (R170). -/
def Obligations.PowerClocksAndTemperature : Prop :=
  ∀ (s : State) (req : Requester) (c : Nat), s.Inv → s.Up →
    (∀ vin vaux,
      (∃ u, exec (.supplySample vin vaux []) s = .next u ∧
        u.mod.boot.supply.getD 1020 0 = (if vin < 38000 ∨ 60000 < vin then s.mod.boot.supply.getD 1020 0 + 1 else 0) ∧
        u.mod.boot.supply.getD 1016 0 = (if vaux < 3000 ∨ 3600 < vaux then s.mod.boot.supply.getD 1016 0 + 1 else 0) ∧
        u.mod.r F.MOD_PWR_STAT_VIN_MARGIN = (if 38000 ≤ vin ∧ vin < 40000 ∨ 58000 < vin ∧ vin ≤ 60000 then 1
          else s.mod.r F.MOD_PWR_STAT_VIN_MARGIN) ∧ u.chans = s.chans) ∧
      (∀ row sub v k, c < 12 → row < 7 → sub < 4 → k = 4 * (16 * c + row) + sub →
        ∃ u, exec (.supplySample vin vaux [(c, row, sub, v)]) s = .next u ∧ u.mod.boot.supply.getD k 0 =
          (if s.mod.holds c = false ∧
              (s.railSet c row sub < 20 * (v - s.railSet c row sub) ∨ s.railSet c row sub < 20 * (s.railSet c row sub - v))
            then s.mod.boot.supply.getD k 0 + 1 else 0) ∧ u.chans = s.chans)) ∧
    (s.mod.fatalDue = none → s.mod.r F.ERR_MOD_STATUS_MOD_FATAL ≠ 1 →
      (∀ kv, s.mod.boot.supply.find? (fun kv => decide (10 ≤ kv.2)) = some kv →
        ∃ u, exec .supplyFault s = .next u ∧ s.Dooms u 0xE2) ∧
      (s.Runs c → 10 ≤ (s.chan c).pwr.hot → ∃ u, exec (.overTemperature c) s = .next u ∧ s.Dooms u 0xE3)) ∧
    ((∀ kv ∈ s.mod.boot.supply, kv.2 < 10) → ∃ u, exec .supplyFault s = .next u ∧ u.mod = s.mod ∧ u.chans = s.chans) ∧
    (s.Runs c → (s.chan c).pwr.hot < 10 → ∃ u, exec (.overTemperature c) s = .next u ∧ u.mod = s.mod ∧ u.chans = s.chans) ∧
    (∃ u, exec .neighbourVoltageCheck s = .next u ∧ (∀ d, s.Runs d →
        (s.TooHigh d → (u.chan d).r F.CH_OP_NB_CAP = 1) ∧ (¬ s.TooHigh d → (u.chan d).r F.CH_OP_NB_CAP = 0) ∧
        (u.chan d).r F.CH_OP_EFFECTIVE = (s.chan d).r F.CH_OP_EFFECTIVE ∧ s.PowerOnly u d) ∧
      ((∃ d, s.Runs d ∧ s.TooHigh d ∧ (s.chan d).opAlone = 0) → u.mod.r F.MOD_PWR_LOG_REASON = 3 ∧ u.mod.r F.MOD_PWR_LOG_NEW_OP = 1)) ∧
    (∃ u, exec .neighbourTempCheck s = .next u ∧ ∀ d, s.Runs d →
        (s.Hotter d 35 → (u.chan d).pwr.diff = true ∧ ((s.chan d).r F.CH_OP_THERM_CAP < 3 →
          (u.chan d).r F.CH_OP_THERM_CAP = (s.chan d).r F.CH_OP_THERM_CAP + 1 ∧ (u.chan d).r F.CH_PWR_STAT_DIFF_T = 1 ∧
          (u.chan d).r F.CH_DIFF_T_CNT_COUNT = (s.chan d).regs.plus F.CH_DIFF_T_CNT_COUNT 0 1)) ∧
        (¬ s.Hotter d 35 → (u.chan d).regs = (s.chan d).regs ∧ (s.Hotter d 30 → (u.chan d).pwr = (s.chan d).pwr)) ∧
        (¬ s.Hotter d 35 → ¬ s.Hotter d 30 → (u.chan d).pwr.diff = false) ∧ s.PowerOnly u d) ∧
    (s.Runs c →
      ((s.chan c).pwr.stage = 1 → ∃ u, exec (.clockSwitch c) s = .next u ∧ (u.chan c).clkOn = false ∧ (u.chan c).pwr.stage = 2 ∧
        (u.chan c).regs = (s.chan c).regs ∧ s.PowerOnly u c) ∧
      ((s.chan c).pwr.stage = 2 → ∃ u, exec (.clockSwitch c) s = .next u ∧ (u.chan c).clkOn = true ∧ (u.chan c).pwr.stage = 3 ∧
        (u.chan c).pwr.code = (s.chan c).r F.CH_OP_EFFECTIVE ∧ (u.chan c).regs = (s.chan c).regs ∧ s.PowerOnly u c) ∧
      (2 ≤ (s.chan c).pwr.stage → ∃ u, exec (.opChangeDone c) s = .next u ∧ (u.chan c).clkOn = true ∧ (u.chan c).pwr.stage = 0 ∧
        (u.chan c).r F.CH_OP_TRANS = 0 ∧ (u.chan c).pwr.code = (s.chan c).r F.CH_OP_EFFECTIVE ∧ s.PowerOnly u c) ∧
      ((s.chan c).pwr.stage < 2 → ∃ u, exec (.opChangeDone c) s = .next u ∧ (u.chan c).clkOn = (s.chan c).clkOn ∧
        (u.chan c).pwr = (s.chan c).pwr ∧ (u.chan c).regs = (s.chan c).regs ∧ s.PowerOnly u c) ∧
      (∃ u, exec (.vcoreDroop c) s = .next u ∧ (u.chan c).pwr.droop = true ∧ (u.chan c).r F.CH_PWR_STAT_DROOP = 1 ∧ s.PowerOnly u c) ∧
      (∃ u, exec (.droopRecover c) s = .next u ∧ (u.chan c).pwr.droop = false ∧ (u.chan c).regs = (s.chan c).regs ∧ s.PowerOnly u c) ∧
      (∀ logic base stack t b, t ∈ logic → (∀ x ∈ logic, x ≤ t) → b ∈ base → (∀ x ∈ base, x ≤ b) → -128 ≤ t → t < 128 → -128 ≤ b →
        b < 128 → -128 ≤ stack → stack < 128 →
        ∃ u, exec (.tempSample c logic base stack) s = .next u ∧ (u.chan c).tj = t ∧ sext 8 ((u.chan c).r F.CH_TEMP_BASE_C) = b ∧
          sext 8 ((u.chan c).r F.HM_TEMP_STACK_C) = stack ∧
          ((u.chan c).r F.HM_STATUS_HOT = 1 ↔ ((s.chan c).eff F.HM_REF_CFG_HOT_C : Int) < stack) ∧
          (u.chan c).pwr.hot = (if 105 ≤ t then (s.chan c).pwr.hot + 1 else 0) ∧ (u.chan c).lans = (s.chan c).lans) ∧
      (((s.chan c).eff F.CH_THERM_CFG_THR_HI : Int) ≤ (s.chan c).tj → (s.chan c).r F.CH_OP_THERM_CAP < 3 →
        ∃ u, exec (.thermalRaise c) s = .next u ∧ (u.chan c).r F.CH_OP_THERM_CAP = (s.chan c).r F.CH_OP_THERM_CAP + 1 ∧
          (u.chan c).r F.CH_PWR_STAT_THROTTLED = 1 ∧
          (u.chan c).r F.CH_THROTTLE_CNT_COUNT = (s.chan c).regs.plus F.CH_THROTTLE_CNT_COUNT 0 1 ∧
          u.mod.r F.MOD_PWR_LOG_REASON = 1 ∧ u.mod.r F.MOD_PWR_LOG_CHAN = c ∧ s.PowerOnly u c) ∧
      ((s.chan c).tj < ((s.chan c).eff F.CH_THERM_CFG_THR_HI : Int) ∨ 3 ≤ (s.chan c).r F.CH_OP_THERM_CAP →
        ∃ u, exec (.thermalRaise c) s = .next u ∧ (u.chan c).regs = (s.chan c).regs ∧ u.mod = s.mod ∧ s.PowerOnly u c) ∧
      ((s.chan c).tj < ((s.chan c).eff F.CH_THERM_CFG_THR_LO : Int) → (s.chan c).pwr.diff = false → 0 < (s.chan c).r F.CH_OP_THERM_CAP →
        (s.chan c).r F.CH_OP_THERM_CAP < 4 →
        ∃ u, exec (.thermalLower c) s = .next u ∧ (u.chan c).r F.CH_OP_THERM_CAP = (s.chan c).r F.CH_OP_THERM_CAP - 1 ∧
          s.PowerOnly u c) ∧
      (((s.chan c).eff F.CH_THERM_CFG_THR_LO : Int) ≤ (s.chan c).tj ∨ (s.chan c).pwr.diff = true →
        ∃ u, exec (.thermalLower c) s = .next u ∧ (u.chan c).regs = (s.chan c).regs ∧ s.PowerOnly u c)) ∧
    (∀ mv ma w watts,
      (∃ u, exec (.powerCapRaise mv ma w watts) s = .next u ∧ u.mod.r F.MOD_PWR_STAT_VIN = mv / 10 % 2 ^ 16 ∧
        u.mod.r F.MOD_PWR_STAT_IIN = ma / 100 % 2 ^ 12 ∧ u.mod.r F.MOD_PWR_W_POWER = w % 2 ^ 16 ∧
        (s.mod.eff F.MOD_PWR_CFG_ILIM * 1000 < ma ∨ s.mod.eff F.MOD_PWR_CFG_PLIM * 10 < w → u.mod.boot.lowMs = 0 ∧
          (s.Hungriest watts c → (u.chan c).r F.CH_OP_PWR_CAP = min 3 ((s.chan c).r F.CH_OP_PWR_CAP + 1) ∧
            u.mod.r F.MOD_PCAP_CNT_COUNT = s.mod.regs.plus F.MOD_PCAP_CNT_COUNT 0 1 ∧ u.mod.r F.MOD_PWR_LOG_REASON = 0 ∧
            u.mod.r F.MOD_PWR_LOG_CHAN = c ∧ s.PowerOnly u c ∧ ∀ d, d ≠ c → u.chan d = s.chan d)) ∧
        (ma ≤ s.mod.eff F.MOD_PWR_CFG_ILIM * 1000 → w ≤ s.mod.eff F.MOD_PWR_CFG_PLIM * 10 → u.chans = s.chans ∧
          u.mod.boot.lowMs = if ma * 100 < s.mod.eff F.MOD_PWR_CFG_ILIM * 1000 * 95 ∧ w * 100 < s.mod.eff F.MOD_PWR_CFG_PLIM * 10 * 95
            then s.mod.boot.lowMs + 1 else 0))) ∧
    (s.mod.boot.lowMs < 10 → ∃ u, exec .powerCapLower s = .next u ∧ u.mod = s.mod ∧ u.chans = s.chans) ∧
    (10 ≤ s.mod.boot.lowMs → s.Runs c → 0 < (s.chan c).r F.CH_OP_PWR_CAP → (s.chan c).r F.CH_OP_PWR_CAP < 4 →
      (∀ d, d < c → s.Runs d → (s.chan d).r F.CH_OP_PWR_CAP = 0) →
      ∃ u, exec .powerCapLower s = .next u ∧ (u.chan c).r F.CH_OP_PWR_CAP = (s.chan c).r F.CH_OP_PWR_CAP - 1 ∧
        u.mod.boot.lowMs = 0 ∧ u.mod.r F.MOD_PCAP_CNT_COUNT = s.mod.regs.plus F.MOD_PCAP_CNT_COUNT 0 1 ∧
        u.mod.r F.MOD_PWR_LOG_REASON = 4 ∧ s.PowerOnly u c ∧ ∀ d, d ≠ c → u.chan d = s.chan d) ∧
    (∀ named, c < 12 → (named = true ↔ ∃ img, s.mod.boot.image = some img ∧ isSet (img.placeMask (s.mod.r F.MOD_BOOT_PLACE)) c = true) →
      (isSet (s.mod.r F.MOD_BOOT_CH_USABLE) c = false ∨ named = false → s.mod.r F.MOD_CH_OFF_OFF < 2 ^ 12 →
        ∃ u, exec (.channelPowerDown req (2 ^ c)) s = .next u ∧ u.mod.r F.MOD_CH_OFF_OFF = s.mod.r F.MOD_CH_OFF_OFF ||| 2 ^ c ∧
          u.mod.holds c = true ∧ u.chans = s.chans) ∧
      (isSet (s.mod.r F.MOD_BOOT_CH_USABLE) c = true → named = true →
        ∃ u, exec (.channelPowerDown req (2 ^ c)) s = .next u ∧ u.mod.r F.MOD_CH_OFF_OFF = s.mod.r F.MOD_CH_OFF_OFF ∧
          u.mod.r F.MOD_BOOT_CFG_ERR = 1 ∧ u.chans = s.chans)) ∧
    (∃ u, exec .supplyRemoved s = .next u ∧ u.mod.boot.inReset = true ∧ u.mod.boot.noPower = true ∧
      u.mod.boot.flash = s.mod.boot.flash ∧ u.pending = s.pending ∧ (∀ f ∈ bridgeFields, ∀ n, u.mod.r f n = f.reset) ∧
      (∀ d, ∀ f ∈ channelFields, ∀ n, (u.chan d).r f n = f.reset) ∧ ∀ d g, ((u.chan d).lan g).sp = []) ∧
    (∀ line wr data mask, s.Runs c →
      (∀ g b, g < 1536 → b < 16 → (s.chan c).clkOn = true →
        ∃ u a, exec (.debugPortAccess c (.bank g b) line wr data mask) s = .next u ∧
          (((u.chan c).lan g).bank (line % 4096 % 16)).dbg = (((s.chan c).lan g).bank (line % 4096 % 16)).dbg ++ [a] ∧
          a.line = line % 4096 ∧ a.wr = wr ∧ a.data = fitTo 64 0 data ∧ ((u.chan c).lan g).sp = ((s.chan c).lan g).sp ∧
          s.OnlyLantern u c g) ∧
      (∀ p, p < 64 → ∃ u q, exec (.debugPortAccess c (.hbm p) line wr data mask) s = .next u ∧
        ((u.chan c).hbm.port (hbmPc (line % 2 ^ 30))).queue 4 = ((s.chan c).hbm.port (hbmPc (line % 2 ^ 30))).queue 4 ++ [q] ∧
        q.line = line % 2 ^ 30 ∧ q.wr = wr ∧ q.data = fitTo 64 0 data ∧ (u.chan c).hbm.mem = (s.chan c).hbm.mem ∧
        (u.chan c).lans = (s.chan c).lans))
end

