-- ==== Sys2Proof/Laws/Memory.lean ====
section
/-! SUPPORT. Laws of the two containers of the state: sparse maps and byte memories. Every operation keeps the canonical form, a read
after a write gives what was written, and a write leaves every other place alone. -/

namespace Sys2Proof.Machine

/-! ### Sparse maps -/

variable {α : Type}

@[simp] theorem SMap.find_nil (i : Nat) : SMap.find ([] : SMap α) i = none := rfl

@[simp] theorem SMap.find_put_self (m : SMap α) (i : Nat) (a : α) : (m.put i a).find i = some a := by
  induction m with
  | nil => simp [SMap.put, SMap.find]
  | cons x m ih =>
    obtain ⟨k, v⟩ := x
    simp only [SMap.put]
    split
    · simp [SMap.find]
    · split
      · simp [SMap.find]
      · rename_i h1 h2
        simp only [SMap.find, if_neg h1, if_neg h2]
        exact ih

theorem SMap.find_put_ne (m : SMap α) {i j : Nat} (a : α) (h : j ≠ i) : (m.put i a).find j = m.find j := by
  induction m with
  | nil =>
    simp only [SMap.put, SMap.find]
    rw [if_neg (fun e => h e.symm)]
    split <;> rfl
  | cons x m ih =>
    obtain ⟨k, v⟩ := x
    simp only [SMap.put]
    split
    · rename_i hk
      subst hk
      have hkj : ¬ k = j := fun e => h e.symm
      simp only [SMap.find, if_neg hkj]
    · split
      · rename_i h1 h2
        simp only [SMap.find]
        rw [if_neg (fun e => h e.symm)]
        by_cases hj : j < i
        · rw [if_pos hj, if_neg (by omega), if_pos (by omega)]
        · rw [if_neg hj]
      · rename_i h1 h2
        simp only [SMap.find, ih]

@[simp] theorem SMap.getD_put_self (m : SMap α) (i : Nat) (a d : α) : (m.put i a).getD i d = a := by
  simp [SMap.getD]

theorem SMap.getD_put_ne (m : SMap α) {i j : Nat} (a d : α) (h : j ≠ i) : (m.put i a).getD j d = m.getD j d := by
  simp [SMap.getD, SMap.find_put_ne m a h]

theorem SMap.getD_put (m : SMap α) (i j : Nat) (a d : α) : (m.put i a).getD j d = if j = i then a else m.getD j d := by
  by_cases h : j = i
  · subst h; simp
  · simp [h, SMap.getD_put_ne m a d h]

theorem SMap.put_put (m : SMap α) (i : Nat) (a b : α) : (m.put i a).put i b = m.put i b := by
  induction m with
  | nil => simp [SMap.put]
  | cons x m ih =>
    obtain ⟨k, v⟩ := x
    by_cases h1 : k = i
    · simp [SMap.put, h1]
    · by_cases h2 : i < k
      · simp [SMap.put, h1, h2]
      · simp [SMap.put, h1, h2, ih]

/-- An entry of a map after a write is the one written, or was there before. -/
theorem SMap.mem_put {m : SMap α} {i : Nat} {a : α} {x : Nat × α} (h : x ∈ m.put i a) : x = (i, a) ∨ x ∈ m := by
  induction m with
  | nil => simpa [SMap.put] using h
  | cons y m ih =>
    obtain ⟨k, v⟩ := y
    simp only [SMap.put] at h
    split at h
    · rcases List.mem_cons.1 h with h | h
      · exact .inl h
      · exact .inr (List.mem_cons_of_mem _ h)
    · split at h
      · rcases List.mem_cons.1 h with h | h
        · exact .inl h
        · exact .inr h
      · rcases List.mem_cons.1 h with h | h
        · exact .inr (h ▸ List.mem_cons_self ..)
        · exact (ih h).imp id (List.mem_cons_of_mem _)

/-- The head of a map after a write has the key written, or the head that was there. -/
theorem SMap.head_put (m : SMap α) (i : Nat) (a : α) :
    ∃ v r, m.put i a = (i, v) :: r ∨ ∃ k w r', m = (k, w) :: r' ∧ k < i ∧ m.put i a = (k, v) :: r := by
  cases m with
  | nil => exact ⟨a, [], .inl rfl⟩
  | cons x m =>
    obtain ⟨k, v⟩ := x
    simp only [SMap.put]
    split
    · exact ⟨a, m, .inl rfl⟩
    · split
      · exact ⟨a, (k, v) :: m, .inl rfl⟩
      · exact ⟨v, _, .inr ⟨k, v, m, rfl, by omega, rfl⟩⟩

/-- A write keeps the keys strictly rising. -/
theorem SMap.sorted_put {m : SMap α} (h : m.sorted = true) (i : Nat) (a : α) : (m.put i a).sorted = true := by
  induction m with
  | nil => rfl
  | cons x m ih =>
    obtain ⟨k, v⟩ := x
    simp only [SMap.put]
    split
    · rename_i hk
      subst hk
      cases m with
      | nil => rfl
      | cons y m => simpa [SMap.sorted] using h
    · split
      · rename_i h1 h2
        simp only [SMap.sorted, Bool.and_eq_true, decide_eq_true_eq]
        exact ⟨h2, h⟩
      · rename_i h1 h2
        have hm : SMap.sorted m = true := by
          cases m with
          | nil => rfl
          | cons y m =>
            simp only [SMap.sorted, Bool.and_eq_true] at h
            exact h.2
        have hs := ih hm
        obtain ⟨w, r, he | ⟨k', w', r', hm', hlt, he⟩⟩ := SMap.head_put m i a
        · rw [he] at hs ⊢
          simp only [SMap.sorted, Bool.and_eq_true, decide_eq_true_eq]
          exact ⟨by omega, hs⟩
        · rw [he] at hs ⊢
          subst hm'
          simp only [SMap.sorted, Bool.and_eq_true, decide_eq_true_eq] at h ⊢
          exact ⟨h.1, hs⟩

/-- A map whose keys rise strictly and whose keys from `lo` on are listed finds what it lists. -/
theorem SMap.find_mem {m : SMap α} {i : Nat} {a : α} (h : m.find i = some a) : (i, a) ∈ m := by
  induction m with
  | nil => cases h
  | cons x m ih =>
    obtain ⟨k, v⟩ := x
    simp only [SMap.find] at h
    split at h
    · rename_i hk
      subst hk
      cases h
      exact List.mem_cons_self ..
    · split at h
      · cases h
      · exact List.mem_cons_of_mem _ (ih h)

/-! ### Byte memories -/

@[simp] theorem Mem.rd_nil (a : Nat) : Mem.rd [] a = Mem.blank := rfl

theorem Mem.wfFrom_mono {m : Mem} {lo lo' : Nat} (h : Mem.wfFrom lo m = true) (hl : lo' ≤ lo) : Mem.wfFrom lo' m = true := by
  cases m with
  | nil => rfl
  | cons x m =>
    obtain ⟨k, v⟩ := x
    simp only [Mem.wfFrom, Bool.and_eq_true, decide_eq_true_eq] at h ⊢
    exact ⟨⟨by omega, h.1.2⟩, h.2⟩

/-- Below its first address a memory reads as blank. -/
theorem Mem.rd_below {m : Mem} {lo a : Nat} (h : Mem.wfFrom lo m = true) (ha : a < lo) : m.rd a = Mem.blank := by
  cases m with
  | nil => rfl
  | cons x m =>
    obtain ⟨k, v⟩ := x
    simp only [Mem.wfFrom, Bool.and_eq_true, decide_eq_true_eq] at h
    simp only [Mem.rd]
    rw [if_neg (by omega), if_pos (by omega)]

/-- A write keeps the canonical form, at or above a bound. -/
theorem Mem.wfFrom_wr {m : Mem} {lo : Nat} (h : Mem.wfFrom lo m = true) {a : Nat} (ha : lo ≤ a) (b : BitVec 8) :
    Mem.wfFrom lo (m.wr a b) = true := by
  induction m generalizing lo with
  | nil =>
    simp only [Mem.wr]
    split
    · rfl
    · rename_i hb
      simp [Mem.wfFrom, ha, hb]
  | cons x m ih =>
    obtain ⟨k, v⟩ := x
    have h0 := h
    simp only [Mem.wfFrom, Bool.and_eq_true, decide_eq_true_eq] at h
    simp only [Mem.wr]
    split
    · rename_i hk
      subst hk
      split
      · exact Mem.wfFrom_mono h.2 (by omega)
      · rename_i hb
        simp only [Mem.wfFrom, Bool.and_eq_true, decide_eq_true_eq]
        exact ⟨⟨ha, hb⟩, h.2⟩
    · split
      · rename_i h1 h2
        split
        · exact h0
        · rename_i hb
          simp only [Mem.wfFrom, Bool.and_eq_true, decide_eq_true_eq]
          exact ⟨⟨ha, hb⟩, ⟨⟨by omega, h.1.2⟩, h.2⟩⟩
      · rename_i h1 h2
        simp only [Mem.wfFrom, Bool.and_eq_true, decide_eq_true_eq]
        exact ⟨h.1, ih h.2 (by omega)⟩

/-- A write keeps the canonical form. -/
theorem Memory.wf_wr {m : Mem} (h : Memory.wf m = true) (a : Nat) (b : BitVec 8) : Memory.wf (m.wr a b) = true :=
  Mem.wfFrom_wr h (Nat.zero_le a) b

theorem Memory.wf_wrN {m : Mem} (h : Memory.wf m = true) (a : Nat) (bs : List (BitVec 8)) : Memory.wf (m.wrN a bs) = true := by
  induction bs generalizing m a with
  | nil => exact h
  | cons b bs ih => exact ih (Memory.wf_wr h a b) (a + 1)

theorem Memory.wf_wrMask {m : Mem} (h : Memory.wf m = true) (a : Nat) (bs : List (BitVec 8)) (ks : List Bool) :
    Memory.wf (m.wrMask a bs ks) = true := by
  induction bs generalizing m a ks with
  | nil => cases ks <;> exact h
  | cons b bs ih =>
    cases ks with
    | nil => exact h
    | cons k ks =>
      simp only [Mem.wrMask]
      apply ih
      split
      · exact Memory.wf_wr h a b
      · exact h

theorem Memory.wf_wrNat {m : Mem} (h : Memory.wf m = true) (a n v : Nat) : Memory.wf (m.wrNat a n v) = true :=
  Memory.wf_wrN h a _

/-- A read of the byte just written gives it. -/
theorem Mem.rd_wr_self {m : Mem} {lo : Nat} (h : Mem.wfFrom lo m = true) (a : Nat) (b : BitVec 8) : (m.wr a b).rd a = b := by
  induction m generalizing lo with
  | nil =>
    simp only [Mem.wr]
    split
    · rename_i hb; simp [Mem.rd, hb]
    · simp [Mem.rd]
  | cons x m ih =>
    obtain ⟨k, v⟩ := x
    simp only [Mem.wfFrom, Bool.and_eq_true, decide_eq_true_eq] at h
    simp only [Mem.wr]
    split
    · rename_i hk
      subst hk
      split
      · rename_i hb
        rw [Mem.rd_below h.2 (by omega), hb]
      · simp [Mem.rd]
    · split
      · rename_i h1 h2
        split
        · rename_i hb
          simp only [Mem.rd]
          rw [if_neg h1, if_pos h2, hb]
        · simp [Mem.rd]
      · rename_i h1 h2
        simp only [Mem.rd]
        rw [if_neg h1, if_neg h2]
        exact ih h.2

/-- A write leaves every other byte alone. -/
theorem Mem.rd_wr_ne {m : Mem} {lo : Nat} (h : Mem.wfFrom lo m = true) {a c : Nat} (b : BitVec 8) (hc : c ≠ a) :
    (m.wr a b).rd c = m.rd c := by
  induction m generalizing lo with
  | nil =>
    simp only [Mem.wr]
    split
    · rfl
    · simp only [Mem.rd]
      rw [if_neg (fun e => hc e.symm)]
      split <;> rfl
  | cons x m ih =>
    obtain ⟨k, v⟩ := x
    simp only [Mem.wfFrom, Bool.and_eq_true, decide_eq_true_eq] at h
    simp only [Mem.wr]
    split
    · rename_i hk
      subst hk
      split
      · simp only [Mem.rd]
        rw [if_neg (fun e => hc e.symm)]
        by_cases hl : c < k
        · rw [if_pos hl, Mem.rd_below h.2 (by omega)]
        · rw [if_neg hl]
      · have hkc : ¬ k = c := fun e => hc e.symm
        simp only [Mem.rd, if_neg hkc]
    · split
      · rename_i h1 h2
        split
        · rfl
        · simp only [Mem.rd]
          rw [if_neg (fun e => hc e.symm)]
          by_cases hl : c < a
          · rw [if_pos hl, if_neg (by omega), if_pos (by omega)]
          · rw [if_neg hl]
      · rename_i h1 h2
        simp only [Mem.rd, ih h.2]

/-- A write of a run of bytes leaves every byte outside the run alone. -/
theorem Mem.rd_wrN_out {m : Mem} (h : Memory.wf m = true) {a c : Nat} (bs : List (BitVec 8)) (hc : c < a ∨ a + bs.length ≤ c) :
    (m.wrN a bs).rd c = m.rd c := by
  induction bs generalizing m a with
  | nil => rfl
  | cons b bs ih =>
    simp only [List.length_cons] at hc
    simp only [Mem.wrN]
    rw [ih (Memory.wf_wr h a b) (by omega)]
    exact Mem.rd_wr_ne h b (by omega)

/-- A masked write leaves every byte outside its run alone. -/
theorem Mem.rd_wrMask_out {m : Mem} (h : Memory.wf m = true) {a c : Nat} (bs : List (BitVec 8)) (ks : List Bool)
    (hc : c < a ∨ a + bs.length ≤ c) : (m.wrMask a bs ks).rd c = m.rd c := by
  induction bs generalizing m a ks with
  | nil => cases ks <;> rfl
  | cons b bs ih =>
    cases ks with
    | nil => rfl
    | cons k ks =>
      simp only [List.length_cons] at hc
      cases k with
      | true =>
        simp only [Mem.wrMask, if_true]
        rw [ih (Memory.wf_wr h a b) ks (by omega)]
        exact Mem.rd_wr_ne h b (by omega)
      | false =>
        simp only [Mem.wrMask]
        exact ih h ks (by omega)

end Sys2Proof.Machine
end

