-- ==== Sys2Proof/Laws/State.lean ====
section
/-! SUPPORT. What each update of the state leaves alone, one lemma per field and update, each true by unfolding. -/

namespace Sys2Proof.Machine

@[simp] theorem Channel.w_no (ch : Channel) (f : Fld) (n v : Nat) : (ch.w f n v).no = ch.no := rfl
@[simp] theorem Channel.w_cyc (ch : Channel) (f : Fld) (n v : Nat) : (ch.w f n v).cyc = ch.cyc := rfl
@[simp] theorem Channel.w_clkOn (ch : Channel) (f : Fld) (n v : Nat) : (ch.w f n v).clkOn = ch.clkOn := rfl
@[simp] theorem Channel.w_fresh (ch : Channel) (f : Fld) (n v : Nat) : (ch.w f n v).fresh = ch.fresh := rfl
@[simp] theorem Channel.w_lans (ch : Channel) (f : Fld) (n v : Nat) : (ch.w f n v).lans = ch.lans := rfl
@[simp] theorem Channel.w_err (ch : Channel) (f : Fld) (n v : Nat) : (ch.w f n v).err = ch.err := rfl
@[simp] theorem Channel.w_link (ch : Channel) (f : Fld) (n v : Nat) : (ch.w f n v).link = ch.link := rfl
@[simp] theorem Channel.w_hbm (ch : Channel) (f : Fld) (n v : Nat) : (ch.w f n v).hbm = ch.hbm := rfl
@[simp] theorem Channel.w_ctx (ch : Channel) (f : Fld) (n v : Nat) : (ch.w f n v).ctx = ch.ctx := rfl
@[simp] theorem Channel.w_pwr (ch : Channel) (f : Fld) (n v : Nat) : (ch.w f n v).pwr = ch.pwr := rfl
@[simp] theorem Channel.w_module (ch : Channel) (f : Fld) (n v : Nat) : (ch.w f n v).module = ch.module := rfl
@[simp] theorem Channel.w_p2Off (ch : Channel) (f : Fld) (n v : Nat) : (ch.w f n v).p2Off = ch.p2Off := rfl
@[simp] theorem Channel.w_attDue (ch : Channel) (f : Fld) (n v : Nat) : (ch.w f n v).attDue = ch.attDue := rfl
@[simp] theorem Channel.w_attOut (ch : Channel) (f : Fld) (n v : Nat) : (ch.w f n v).attOut = ch.attOut := rfl
@[simp] theorem Channel.w_hostNext (ch : Channel) (f : Fld) (n v : Nat) : (ch.w f n v).hostNext = ch.hostNext := rfl
@[simp] theorem Channel.w_lv (ch : Channel) (f : Fld) (n v : Nat) : (ch.w f n v).lv = ch.lv := rfl
@[simp] theorem Channel.w_hostStop (ch : Channel) (f : Fld) (n v : Nat) : (ch.w f n v).hostStop = ch.hostStop := rfl
@[simp] theorem Channel.w_answer (ch : Channel) (f : Fld) (n v : Nat) : (ch.w f n v).answer = ch.answer := rfl
@[simp] theorem Channel.w_ovfCtx (ch : Channel) (f : Fld) (n v : Nat) : (ch.w f n v).ovfCtx = ch.ovfCtx := rfl
@[simp] theorem Channel.w_overCtx (ch : Channel) (f : Fld) (n v : Nat) : (ch.w f n v).overCtx = ch.overCtx := rfl
@[simp] theorem Channel.w_up (ch : Channel) (f : Fld) (n v : Nat) : (ch.w f n v).up = ch.up := rfl
@[simp] theorem Channel.inc_no (ch : Channel) (f : Fld) (n v : Nat) : (ch.inc f n v).no = ch.no := rfl
@[simp] theorem Channel.inc_cyc (ch : Channel) (f : Fld) (n v : Nat) : (ch.inc f n v).cyc = ch.cyc := rfl
@[simp] theorem Channel.inc_clkOn (ch : Channel) (f : Fld) (n v : Nat) : (ch.inc f n v).clkOn = ch.clkOn := rfl
@[simp] theorem Channel.inc_fresh (ch : Channel) (f : Fld) (n v : Nat) : (ch.inc f n v).fresh = ch.fresh := rfl
@[simp] theorem Channel.inc_lans (ch : Channel) (f : Fld) (n v : Nat) : (ch.inc f n v).lans = ch.lans := rfl
@[simp] theorem Channel.inc_err (ch : Channel) (f : Fld) (n v : Nat) : (ch.inc f n v).err = ch.err := rfl
@[simp] theorem Channel.inc_link (ch : Channel) (f : Fld) (n v : Nat) : (ch.inc f n v).link = ch.link := rfl
@[simp] theorem Channel.inc_hbm (ch : Channel) (f : Fld) (n v : Nat) : (ch.inc f n v).hbm = ch.hbm := rfl
@[simp] theorem Channel.inc_ctx (ch : Channel) (f : Fld) (n v : Nat) : (ch.inc f n v).ctx = ch.ctx := rfl
@[simp] theorem Channel.inc_pwr (ch : Channel) (f : Fld) (n v : Nat) : (ch.inc f n v).pwr = ch.pwr := rfl
@[simp] theorem Channel.inc_module (ch : Channel) (f : Fld) (n v : Nat) : (ch.inc f n v).module = ch.module := rfl
@[simp] theorem Channel.inc_p2Off (ch : Channel) (f : Fld) (n v : Nat) : (ch.inc f n v).p2Off = ch.p2Off := rfl
@[simp] theorem Channel.inc_attDue (ch : Channel) (f : Fld) (n v : Nat) : (ch.inc f n v).attDue = ch.attDue := rfl
@[simp] theorem Channel.inc_attOut (ch : Channel) (f : Fld) (n v : Nat) : (ch.inc f n v).attOut = ch.attOut := rfl
@[simp] theorem Channel.inc_hostNext (ch : Channel) (f : Fld) (n v : Nat) : (ch.inc f n v).hostNext = ch.hostNext := rfl
@[simp] theorem Channel.inc_lv (ch : Channel) (f : Fld) (n v : Nat) : (ch.inc f n v).lv = ch.lv := rfl
@[simp] theorem Channel.inc_hostStop (ch : Channel) (f : Fld) (n v : Nat) : (ch.inc f n v).hostStop = ch.hostStop := rfl
@[simp] theorem Channel.inc_answer (ch : Channel) (f : Fld) (n v : Nat) : (ch.inc f n v).answer = ch.answer := rfl
@[simp] theorem Channel.inc_ovfCtx (ch : Channel) (f : Fld) (n v : Nat) : (ch.inc f n v).ovfCtx = ch.ovfCtx := rfl
@[simp] theorem Channel.inc_overCtx (ch : Channel) (f : Fld) (n v : Nat) : (ch.inc f n v).overCtx = ch.overCtx := rfl
@[simp] theorem Channel.inc_up (ch : Channel) (f : Fld) (n v : Nat) : (ch.inc f n v).up = ch.up := rfl
@[simp] theorem Channel.setLan_no (ch : Channel) (g : Nat) (l : Lantern) : (ch.setLan g l).no = ch.no := rfl
@[simp] theorem Channel.setLan_regs (ch : Channel) (g : Nat) (l : Lantern) : (ch.setLan g l).regs = ch.regs := rfl
@[simp] theorem Channel.setLan_cyc (ch : Channel) (g : Nat) (l : Lantern) : (ch.setLan g l).cyc = ch.cyc := rfl
@[simp] theorem Channel.setLan_clkOn (ch : Channel) (g : Nat) (l : Lantern) : (ch.setLan g l).clkOn = ch.clkOn := rfl
@[simp] theorem Channel.setLan_fresh (ch : Channel) (g : Nat) (l : Lantern) : (ch.setLan g l).fresh = ch.fresh := rfl
@[simp] theorem Channel.setLan_err (ch : Channel) (g : Nat) (l : Lantern) : (ch.setLan g l).err = ch.err := rfl
@[simp] theorem Channel.setLan_link (ch : Channel) (g : Nat) (l : Lantern) : (ch.setLan g l).link = ch.link := rfl
@[simp] theorem Channel.setLan_hbm (ch : Channel) (g : Nat) (l : Lantern) : (ch.setLan g l).hbm = ch.hbm := rfl
@[simp] theorem Channel.setLan_ctx (ch : Channel) (g : Nat) (l : Lantern) : (ch.setLan g l).ctx = ch.ctx := rfl
@[simp] theorem Channel.setLan_pwr (ch : Channel) (g : Nat) (l : Lantern) : (ch.setLan g l).pwr = ch.pwr := rfl
@[simp] theorem Channel.setLan_module (ch : Channel) (g : Nat) (l : Lantern) : (ch.setLan g l).module = ch.module := rfl
@[simp] theorem Channel.setLan_p2Off (ch : Channel) (g : Nat) (l : Lantern) : (ch.setLan g l).p2Off = ch.p2Off := rfl
@[simp] theorem Channel.setLan_attDue (ch : Channel) (g : Nat) (l : Lantern) : (ch.setLan g l).attDue = ch.attDue := rfl
@[simp] theorem Channel.setLan_attOut (ch : Channel) (g : Nat) (l : Lantern) : (ch.setLan g l).attOut = ch.attOut := rfl
@[simp] theorem Channel.setLan_hostNext (ch : Channel) (g : Nat) (l : Lantern) : (ch.setLan g l).hostNext = ch.hostNext := rfl
@[simp] theorem Channel.setLan_lv (ch : Channel) (g : Nat) (l : Lantern) : (ch.setLan g l).lv = ch.lv := rfl
@[simp] theorem Channel.setLan_hostStop (ch : Channel) (g : Nat) (l : Lantern) : (ch.setLan g l).hostStop = ch.hostStop := rfl
@[simp] theorem Channel.setLan_answer (ch : Channel) (g : Nat) (l : Lantern) : (ch.setLan g l).answer = ch.answer := rfl
@[simp] theorem Channel.setLan_ovfCtx (ch : Channel) (g : Nat) (l : Lantern) : (ch.setLan g l).ovfCtx = ch.ovfCtx := rfl
@[simp] theorem Channel.setLan_overCtx (ch : Channel) (g : Nat) (l : Lantern) : (ch.setLan g l).overCtx = ch.overCtx := rfl
@[simp] theorem Channel.setLan_up (ch : Channel) (g : Nat) (l : Lantern) : (ch.setLan g l).up = ch.up := rfl
@[simp] theorem Channel.modLan_no (ch : Channel) (g : Nat) (u : Lantern → Lantern) : (ch.modLan g u).no = ch.no := rfl
@[simp] theorem Channel.modLan_regs (ch : Channel) (g : Nat) (u : Lantern → Lantern) : (ch.modLan g u).regs = ch.regs := rfl
@[simp] theorem Channel.modLan_cyc (ch : Channel) (g : Nat) (u : Lantern → Lantern) : (ch.modLan g u).cyc = ch.cyc := rfl
@[simp] theorem Channel.modLan_clkOn (ch : Channel) (g : Nat) (u : Lantern → Lantern) : (ch.modLan g u).clkOn = ch.clkOn := rfl
@[simp] theorem Channel.modLan_fresh (ch : Channel) (g : Nat) (u : Lantern → Lantern) : (ch.modLan g u).fresh = ch.fresh := rfl
@[simp] theorem Channel.modLan_err (ch : Channel) (g : Nat) (u : Lantern → Lantern) : (ch.modLan g u).err = ch.err := rfl
@[simp] theorem Channel.modLan_link (ch : Channel) (g : Nat) (u : Lantern → Lantern) : (ch.modLan g u).link = ch.link := rfl
@[simp] theorem Channel.modLan_hbm (ch : Channel) (g : Nat) (u : Lantern → Lantern) : (ch.modLan g u).hbm = ch.hbm := rfl
@[simp] theorem Channel.modLan_ctx (ch : Channel) (g : Nat) (u : Lantern → Lantern) : (ch.modLan g u).ctx = ch.ctx := rfl
@[simp] theorem Channel.modLan_pwr (ch : Channel) (g : Nat) (u : Lantern → Lantern) : (ch.modLan g u).pwr = ch.pwr := rfl
@[simp] theorem Channel.modLan_module (ch : Channel) (g : Nat) (u : Lantern → Lantern) : (ch.modLan g u).module = ch.module := rfl
@[simp] theorem Channel.modLan_p2Off (ch : Channel) (g : Nat) (u : Lantern → Lantern) : (ch.modLan g u).p2Off = ch.p2Off := rfl
@[simp] theorem Channel.modLan_attDue (ch : Channel) (g : Nat) (u : Lantern → Lantern) : (ch.modLan g u).attDue = ch.attDue := rfl
@[simp] theorem Channel.modLan_attOut (ch : Channel) (g : Nat) (u : Lantern → Lantern) : (ch.modLan g u).attOut = ch.attOut := rfl
@[simp] theorem Channel.modLan_hostNext (ch : Channel) (g : Nat) (u : Lantern → Lantern) : (ch.modLan g u).hostNext = ch.hostNext := rfl
@[simp] theorem Channel.modLan_lv (ch : Channel) (g : Nat) (u : Lantern → Lantern) : (ch.modLan g u).lv = ch.lv := rfl
@[simp] theorem Channel.modLan_hostStop (ch : Channel) (g : Nat) (u : Lantern → Lantern) : (ch.modLan g u).hostStop = ch.hostStop := rfl
@[simp] theorem Channel.modLan_answer (ch : Channel) (g : Nat) (u : Lantern → Lantern) : (ch.modLan g u).answer = ch.answer := rfl
@[simp] theorem Channel.modLan_ovfCtx (ch : Channel) (g : Nat) (u : Lantern → Lantern) : (ch.modLan g u).ovfCtx = ch.ovfCtx := rfl
@[simp] theorem Channel.modLan_overCtx (ch : Channel) (g : Nat) (u : Lantern → Lantern) : (ch.modLan g u).overCtx = ch.overCtx := rfl
@[simp] theorem Channel.modLan_up (ch : Channel) (g : Nat) (u : Lantern → Lantern) : (ch.modLan g u).up = ch.up := rfl
@[simp] theorem Channel.lw_no (ch : Channel) (g : Nat) (f : Fld) (n v : Nat) : (ch.lw g f n v).no = ch.no := rfl
@[simp] theorem Channel.lw_regs (ch : Channel) (g : Nat) (f : Fld) (n v : Nat) : (ch.lw g f n v).regs = ch.regs := rfl
@[simp] theorem Channel.lw_cyc (ch : Channel) (g : Nat) (f : Fld) (n v : Nat) : (ch.lw g f n v).cyc = ch.cyc := rfl
@[simp] theorem Channel.lw_clkOn (ch : Channel) (g : Nat) (f : Fld) (n v : Nat) : (ch.lw g f n v).clkOn = ch.clkOn := rfl
@[simp] theorem Channel.lw_fresh (ch : Channel) (g : Nat) (f : Fld) (n v : Nat) : (ch.lw g f n v).fresh = ch.fresh := rfl
@[simp] theorem Channel.lw_err (ch : Channel) (g : Nat) (f : Fld) (n v : Nat) : (ch.lw g f n v).err = ch.err := rfl
@[simp] theorem Channel.lw_link (ch : Channel) (g : Nat) (f : Fld) (n v : Nat) : (ch.lw g f n v).link = ch.link := rfl
@[simp] theorem Channel.lw_hbm (ch : Channel) (g : Nat) (f : Fld) (n v : Nat) : (ch.lw g f n v).hbm = ch.hbm := rfl
@[simp] theorem Channel.lw_ctx (ch : Channel) (g : Nat) (f : Fld) (n v : Nat) : (ch.lw g f n v).ctx = ch.ctx := rfl
@[simp] theorem Channel.lw_pwr (ch : Channel) (g : Nat) (f : Fld) (n v : Nat) : (ch.lw g f n v).pwr = ch.pwr := rfl
@[simp] theorem Channel.lw_module (ch : Channel) (g : Nat) (f : Fld) (n v : Nat) : (ch.lw g f n v).module = ch.module := rfl
@[simp] theorem Channel.lw_p2Off (ch : Channel) (g : Nat) (f : Fld) (n v : Nat) : (ch.lw g f n v).p2Off = ch.p2Off := rfl
@[simp] theorem Channel.lw_attDue (ch : Channel) (g : Nat) (f : Fld) (n v : Nat) : (ch.lw g f n v).attDue = ch.attDue := rfl
@[simp] theorem Channel.lw_attOut (ch : Channel) (g : Nat) (f : Fld) (n v : Nat) : (ch.lw g f n v).attOut = ch.attOut := rfl
@[simp] theorem Channel.lw_hostNext (ch : Channel) (g : Nat) (f : Fld) (n v : Nat) : (ch.lw g f n v).hostNext = ch.hostNext := rfl
@[simp] theorem Channel.lw_lv (ch : Channel) (g : Nat) (f : Fld) (n v : Nat) : (ch.lw g f n v).lv = ch.lv := rfl
@[simp] theorem Channel.lw_hostStop (ch : Channel) (g : Nat) (f : Fld) (n v : Nat) : (ch.lw g f n v).hostStop = ch.hostStop := rfl
@[simp] theorem Channel.lw_answer (ch : Channel) (g : Nat) (f : Fld) (n v : Nat) : (ch.lw g f n v).answer = ch.answer := rfl
@[simp] theorem Channel.lw_ovfCtx (ch : Channel) (g : Nat) (f : Fld) (n v : Nat) : (ch.lw g f n v).ovfCtx = ch.ovfCtx := rfl
@[simp] theorem Channel.lw_overCtx (ch : Channel) (g : Nat) (f : Fld) (n v : Nat) : (ch.lw g f n v).overCtx = ch.overCtx := rfl
@[simp] theorem Channel.lw_up (ch : Channel) (g : Nat) (f : Fld) (n v : Nat) : (ch.lw g f n v).up = ch.up := rfl
@[simp] theorem Channel.linc_no (ch : Channel) (g : Nat) (f : Fld) (n v : Nat) : (ch.linc g f n v).no = ch.no := rfl
@[simp] theorem Channel.linc_regs (ch : Channel) (g : Nat) (f : Fld) (n v : Nat) : (ch.linc g f n v).regs = ch.regs := rfl
@[simp] theorem Channel.linc_cyc (ch : Channel) (g : Nat) (f : Fld) (n v : Nat) : (ch.linc g f n v).cyc = ch.cyc := rfl
@[simp] theorem Channel.linc_clkOn (ch : Channel) (g : Nat) (f : Fld) (n v : Nat) : (ch.linc g f n v).clkOn = ch.clkOn := rfl
@[simp] theorem Channel.linc_fresh (ch : Channel) (g : Nat) (f : Fld) (n v : Nat) : (ch.linc g f n v).fresh = ch.fresh := rfl
@[simp] theorem Channel.linc_err (ch : Channel) (g : Nat) (f : Fld) (n v : Nat) : (ch.linc g f n v).err = ch.err := rfl
@[simp] theorem Channel.linc_link (ch : Channel) (g : Nat) (f : Fld) (n v : Nat) : (ch.linc g f n v).link = ch.link := rfl
@[simp] theorem Channel.linc_hbm (ch : Channel) (g : Nat) (f : Fld) (n v : Nat) : (ch.linc g f n v).hbm = ch.hbm := rfl
@[simp] theorem Channel.linc_ctx (ch : Channel) (g : Nat) (f : Fld) (n v : Nat) : (ch.linc g f n v).ctx = ch.ctx := rfl
@[simp] theorem Channel.linc_pwr (ch : Channel) (g : Nat) (f : Fld) (n v : Nat) : (ch.linc g f n v).pwr = ch.pwr := rfl
@[simp] theorem Channel.linc_module (ch : Channel) (g : Nat) (f : Fld) (n v : Nat) : (ch.linc g f n v).module = ch.module := rfl
@[simp] theorem Channel.linc_p2Off (ch : Channel) (g : Nat) (f : Fld) (n v : Nat) : (ch.linc g f n v).p2Off = ch.p2Off := rfl
@[simp] theorem Channel.linc_attDue (ch : Channel) (g : Nat) (f : Fld) (n v : Nat) : (ch.linc g f n v).attDue = ch.attDue := rfl
@[simp] theorem Channel.linc_attOut (ch : Channel) (g : Nat) (f : Fld) (n v : Nat) : (ch.linc g f n v).attOut = ch.attOut := rfl
@[simp] theorem Channel.linc_hostNext (ch : Channel) (g : Nat) (f : Fld) (n v : Nat) : (ch.linc g f n v).hostNext = ch.hostNext := rfl
@[simp] theorem Channel.linc_lv (ch : Channel) (g : Nat) (f : Fld) (n v : Nat) : (ch.linc g f n v).lv = ch.lv := rfl
@[simp] theorem Channel.linc_hostStop (ch : Channel) (g : Nat) (f : Fld) (n v : Nat) : (ch.linc g f n v).hostStop = ch.hostStop := rfl
@[simp] theorem Channel.linc_answer (ch : Channel) (g : Nat) (f : Fld) (n v : Nat) : (ch.linc g f n v).answer = ch.answer := rfl
@[simp] theorem Channel.linc_ovfCtx (ch : Channel) (g : Nat) (f : Fld) (n v : Nat) : (ch.linc g f n v).ovfCtx = ch.ovfCtx := rfl
@[simp] theorem Channel.linc_overCtx (ch : Channel) (g : Nat) (f : Fld) (n v : Nat) : (ch.linc g f n v).overCtx = ch.overCtx := rfl
@[simp] theorem Channel.linc_up (ch : Channel) (g : Nat) (f : Fld) (n v : Nat) : (ch.linc g f n v).up = ch.up := rfl
@[simp] theorem Channel.modCore_no (ch : Channel) (g k : Nat) (u : SparseCore → SparseCore) : (ch.modCore g k u).no = ch.no := rfl
@[simp] theorem Channel.modCore_regs (ch : Channel) (g k : Nat) (u : SparseCore → SparseCore) : (ch.modCore g k u).regs = ch.regs := rfl
@[simp] theorem Channel.modCore_cyc (ch : Channel) (g k : Nat) (u : SparseCore → SparseCore) : (ch.modCore g k u).cyc = ch.cyc := rfl
@[simp] theorem Channel.modCore_clkOn (ch : Channel) (g k : Nat) (u : SparseCore → SparseCore) : (ch.modCore g k u).clkOn = ch.clkOn := rfl
@[simp] theorem Channel.modCore_fresh (ch : Channel) (g k : Nat) (u : SparseCore → SparseCore) : (ch.modCore g k u).fresh = ch.fresh := rfl
@[simp] theorem Channel.modCore_err (ch : Channel) (g k : Nat) (u : SparseCore → SparseCore) : (ch.modCore g k u).err = ch.err := rfl
@[simp] theorem Channel.modCore_link (ch : Channel) (g k : Nat) (u : SparseCore → SparseCore) : (ch.modCore g k u).link = ch.link := rfl
@[simp] theorem Channel.modCore_hbm (ch : Channel) (g k : Nat) (u : SparseCore → SparseCore) : (ch.modCore g k u).hbm = ch.hbm := rfl
@[simp] theorem Channel.modCore_ctx (ch : Channel) (g k : Nat) (u : SparseCore → SparseCore) : (ch.modCore g k u).ctx = ch.ctx := rfl
@[simp] theorem Channel.modCore_pwr (ch : Channel) (g k : Nat) (u : SparseCore → SparseCore) : (ch.modCore g k u).pwr = ch.pwr := rfl
@[simp] theorem Channel.modCore_module (ch : Channel) (g k : Nat) (u : SparseCore → SparseCore) : (ch.modCore g k u).module = ch.module := rfl
@[simp] theorem Channel.modCore_p2Off (ch : Channel) (g k : Nat) (u : SparseCore → SparseCore) : (ch.modCore g k u).p2Off = ch.p2Off := rfl
@[simp] theorem Channel.modCore_attDue (ch : Channel) (g k : Nat) (u : SparseCore → SparseCore) : (ch.modCore g k u).attDue = ch.attDue := rfl
@[simp] theorem Channel.modCore_attOut (ch : Channel) (g k : Nat) (u : SparseCore → SparseCore) : (ch.modCore g k u).attOut = ch.attOut := rfl
@[simp] theorem Channel.modCore_hostNext (ch : Channel) (g k : Nat) (u : SparseCore → SparseCore) : (ch.modCore g k u).hostNext = ch.hostNext := rfl
@[simp] theorem Channel.modCore_lv (ch : Channel) (g k : Nat) (u : SparseCore → SparseCore) : (ch.modCore g k u).lv = ch.lv := rfl
@[simp] theorem Channel.modCore_hostStop (ch : Channel) (g k : Nat) (u : SparseCore → SparseCore) : (ch.modCore g k u).hostStop = ch.hostStop := rfl
@[simp] theorem Channel.modCore_answer (ch : Channel) (g k : Nat) (u : SparseCore → SparseCore) : (ch.modCore g k u).answer = ch.answer := rfl
@[simp] theorem Channel.modCore_ovfCtx (ch : Channel) (g k : Nat) (u : SparseCore → SparseCore) : (ch.modCore g k u).ovfCtx = ch.ovfCtx := rfl
@[simp] theorem Channel.modCore_overCtx (ch : Channel) (g k : Nat) (u : SparseCore → SparseCore) : (ch.modCore g k u).overCtx = ch.overCtx := rfl
@[simp] theorem Channel.modCore_up (ch : Channel) (g k : Nat) (u : SparseCore → SparseCore) : (ch.modCore g k u).up = ch.up := rfl
@[simp] theorem Channel.modTd_no (ch : Channel) (g : Nat) (u : Tender → Tender) : (ch.modTd g u).no = ch.no := rfl
@[simp] theorem Channel.modTd_regs (ch : Channel) (g : Nat) (u : Tender → Tender) : (ch.modTd g u).regs = ch.regs := rfl
@[simp] theorem Channel.modTd_cyc (ch : Channel) (g : Nat) (u : Tender → Tender) : (ch.modTd g u).cyc = ch.cyc := rfl
@[simp] theorem Channel.modTd_clkOn (ch : Channel) (g : Nat) (u : Tender → Tender) : (ch.modTd g u).clkOn = ch.clkOn := rfl
@[simp] theorem Channel.modTd_fresh (ch : Channel) (g : Nat) (u : Tender → Tender) : (ch.modTd g u).fresh = ch.fresh := rfl
@[simp] theorem Channel.modTd_err (ch : Channel) (g : Nat) (u : Tender → Tender) : (ch.modTd g u).err = ch.err := rfl
@[simp] theorem Channel.modTd_link (ch : Channel) (g : Nat) (u : Tender → Tender) : (ch.modTd g u).link = ch.link := rfl
@[simp] theorem Channel.modTd_hbm (ch : Channel) (g : Nat) (u : Tender → Tender) : (ch.modTd g u).hbm = ch.hbm := rfl
@[simp] theorem Channel.modTd_ctx (ch : Channel) (g : Nat) (u : Tender → Tender) : (ch.modTd g u).ctx = ch.ctx := rfl
@[simp] theorem Channel.modTd_pwr (ch : Channel) (g : Nat) (u : Tender → Tender) : (ch.modTd g u).pwr = ch.pwr := rfl
@[simp] theorem Channel.modTd_module (ch : Channel) (g : Nat) (u : Tender → Tender) : (ch.modTd g u).module = ch.module := rfl
@[simp] theorem Channel.modTd_p2Off (ch : Channel) (g : Nat) (u : Tender → Tender) : (ch.modTd g u).p2Off = ch.p2Off := rfl
@[simp] theorem Channel.modTd_attDue (ch : Channel) (g : Nat) (u : Tender → Tender) : (ch.modTd g u).attDue = ch.attDue := rfl
@[simp] theorem Channel.modTd_attOut (ch : Channel) (g : Nat) (u : Tender → Tender) : (ch.modTd g u).attOut = ch.attOut := rfl
@[simp] theorem Channel.modTd_hostNext (ch : Channel) (g : Nat) (u : Tender → Tender) : (ch.modTd g u).hostNext = ch.hostNext := rfl
@[simp] theorem Channel.modTd_lv (ch : Channel) (g : Nat) (u : Tender → Tender) : (ch.modTd g u).lv = ch.lv := rfl
@[simp] theorem Channel.modTd_hostStop (ch : Channel) (g : Nat) (u : Tender → Tender) : (ch.modTd g u).hostStop = ch.hostStop := rfl
@[simp] theorem Channel.modTd_answer (ch : Channel) (g : Nat) (u : Tender → Tender) : (ch.modTd g u).answer = ch.answer := rfl
@[simp] theorem Channel.modTd_ovfCtx (ch : Channel) (g : Nat) (u : Tender → Tender) : (ch.modTd g u).ovfCtx = ch.ovfCtx := rfl
@[simp] theorem Channel.modTd_overCtx (ch : Channel) (g : Nat) (u : Tender → Tender) : (ch.modTd g u).overCtx = ch.overCtx := rfl
@[simp] theorem Channel.modTd_up (ch : Channel) (g : Nat) (u : Tender → Tender) : (ch.modTd g u).up = ch.up := rfl
@[simp] theorem Channel.modTq_no (ch : Channel) (g : Nat) (u : TaskUnit → TaskUnit) : (ch.modTq g u).no = ch.no := rfl
@[simp] theorem Channel.modTq_regs (ch : Channel) (g : Nat) (u : TaskUnit → TaskUnit) : (ch.modTq g u).regs = ch.regs := rfl
@[simp] theorem Channel.modTq_cyc (ch : Channel) (g : Nat) (u : TaskUnit → TaskUnit) : (ch.modTq g u).cyc = ch.cyc := rfl
@[simp] theorem Channel.modTq_clkOn (ch : Channel) (g : Nat) (u : TaskUnit → TaskUnit) : (ch.modTq g u).clkOn = ch.clkOn := rfl
@[simp] theorem Channel.modTq_fresh (ch : Channel) (g : Nat) (u : TaskUnit → TaskUnit) : (ch.modTq g u).fresh = ch.fresh := rfl
@[simp] theorem Channel.modTq_err (ch : Channel) (g : Nat) (u : TaskUnit → TaskUnit) : (ch.modTq g u).err = ch.err := rfl
@[simp] theorem Channel.modTq_link (ch : Channel) (g : Nat) (u : TaskUnit → TaskUnit) : (ch.modTq g u).link = ch.link := rfl
@[simp] theorem Channel.modTq_hbm (ch : Channel) (g : Nat) (u : TaskUnit → TaskUnit) : (ch.modTq g u).hbm = ch.hbm := rfl
@[simp] theorem Channel.modTq_ctx (ch : Channel) (g : Nat) (u : TaskUnit → TaskUnit) : (ch.modTq g u).ctx = ch.ctx := rfl
@[simp] theorem Channel.modTq_pwr (ch : Channel) (g : Nat) (u : TaskUnit → TaskUnit) : (ch.modTq g u).pwr = ch.pwr := rfl
@[simp] theorem Channel.modTq_module (ch : Channel) (g : Nat) (u : TaskUnit → TaskUnit) : (ch.modTq g u).module = ch.module := rfl
@[simp] theorem Channel.modTq_p2Off (ch : Channel) (g : Nat) (u : TaskUnit → TaskUnit) : (ch.modTq g u).p2Off = ch.p2Off := rfl
@[simp] theorem Channel.modTq_attDue (ch : Channel) (g : Nat) (u : TaskUnit → TaskUnit) : (ch.modTq g u).attDue = ch.attDue := rfl
@[simp] theorem Channel.modTq_attOut (ch : Channel) (g : Nat) (u : TaskUnit → TaskUnit) : (ch.modTq g u).attOut = ch.attOut := rfl
@[simp] theorem Channel.modTq_hostNext (ch : Channel) (g : Nat) (u : TaskUnit → TaskUnit) : (ch.modTq g u).hostNext = ch.hostNext := rfl
@[simp] theorem Channel.modTq_lv (ch : Channel) (g : Nat) (u : TaskUnit → TaskUnit) : (ch.modTq g u).lv = ch.lv := rfl
@[simp] theorem Channel.modTq_hostStop (ch : Channel) (g : Nat) (u : TaskUnit → TaskUnit) : (ch.modTq g u).hostStop = ch.hostStop := rfl
@[simp] theorem Channel.modTq_answer (ch : Channel) (g : Nat) (u : TaskUnit → TaskUnit) : (ch.modTq g u).answer = ch.answer := rfl
@[simp] theorem Channel.modTq_ovfCtx (ch : Channel) (g : Nat) (u : TaskUnit → TaskUnit) : (ch.modTq g u).ovfCtx = ch.ovfCtx := rfl
@[simp] theorem Channel.modTq_overCtx (ch : Channel) (g : Nat) (u : TaskUnit → TaskUnit) : (ch.modTq g u).overCtx = ch.overCtx := rfl
@[simp] theorem Channel.modTq_up (ch : Channel) (g : Nat) (u : TaskUnit → TaskUnit) : (ch.modTq g u).up = ch.up := rfl
@[simp] theorem Channel.modVe_no (ch : Channel) (g : Nat) (u : VecEng → VecEng) : (ch.modVe g u).no = ch.no := rfl
@[simp] theorem Channel.modVe_regs (ch : Channel) (g : Nat) (u : VecEng → VecEng) : (ch.modVe g u).regs = ch.regs := rfl
@[simp] theorem Channel.modVe_cyc (ch : Channel) (g : Nat) (u : VecEng → VecEng) : (ch.modVe g u).cyc = ch.cyc := rfl
@[simp] theorem Channel.modVe_clkOn (ch : Channel) (g : Nat) (u : VecEng → VecEng) : (ch.modVe g u).clkOn = ch.clkOn := rfl
@[simp] theorem Channel.modVe_fresh (ch : Channel) (g : Nat) (u : VecEng → VecEng) : (ch.modVe g u).fresh = ch.fresh := rfl
@[simp] theorem Channel.modVe_err (ch : Channel) (g : Nat) (u : VecEng → VecEng) : (ch.modVe g u).err = ch.err := rfl
@[simp] theorem Channel.modVe_link (ch : Channel) (g : Nat) (u : VecEng → VecEng) : (ch.modVe g u).link = ch.link := rfl
@[simp] theorem Channel.modVe_hbm (ch : Channel) (g : Nat) (u : VecEng → VecEng) : (ch.modVe g u).hbm = ch.hbm := rfl
@[simp] theorem Channel.modVe_ctx (ch : Channel) (g : Nat) (u : VecEng → VecEng) : (ch.modVe g u).ctx = ch.ctx := rfl
@[simp] theorem Channel.modVe_pwr (ch : Channel) (g : Nat) (u : VecEng → VecEng) : (ch.modVe g u).pwr = ch.pwr := rfl
@[simp] theorem Channel.modVe_module (ch : Channel) (g : Nat) (u : VecEng → VecEng) : (ch.modVe g u).module = ch.module := rfl
@[simp] theorem Channel.modVe_p2Off (ch : Channel) (g : Nat) (u : VecEng → VecEng) : (ch.modVe g u).p2Off = ch.p2Off := rfl
@[simp] theorem Channel.modVe_attDue (ch : Channel) (g : Nat) (u : VecEng → VecEng) : (ch.modVe g u).attDue = ch.attDue := rfl
@[simp] theorem Channel.modVe_attOut (ch : Channel) (g : Nat) (u : VecEng → VecEng) : (ch.modVe g u).attOut = ch.attOut := rfl
@[simp] theorem Channel.modVe_hostNext (ch : Channel) (g : Nat) (u : VecEng → VecEng) : (ch.modVe g u).hostNext = ch.hostNext := rfl
@[simp] theorem Channel.modVe_lv (ch : Channel) (g : Nat) (u : VecEng → VecEng) : (ch.modVe g u).lv = ch.lv := rfl
@[simp] theorem Channel.modVe_hostStop (ch : Channel) (g : Nat) (u : VecEng → VecEng) : (ch.modVe g u).hostStop = ch.hostStop := rfl
@[simp] theorem Channel.modVe_answer (ch : Channel) (g : Nat) (u : VecEng → VecEng) : (ch.modVe g u).answer = ch.answer := rfl
@[simp] theorem Channel.modVe_ovfCtx (ch : Channel) (g : Nat) (u : VecEng → VecEng) : (ch.modVe g u).ovfCtx = ch.ovfCtx := rfl
@[simp] theorem Channel.modVe_overCtx (ch : Channel) (g : Nat) (u : VecEng → VecEng) : (ch.modVe g u).overCtx = ch.overCtx := rfl
@[simp] theorem Channel.modVe_up (ch : Channel) (g : Nat) (u : VecEng → VecEng) : (ch.modVe g u).up = ch.up := rfl
@[simp] theorem Channel.modStm_no (ch : Channel) (g n : Nat) (u : Stream → Stream) : (ch.modStm g n u).no = ch.no := rfl
@[simp] theorem Channel.modStm_regs (ch : Channel) (g n : Nat) (u : Stream → Stream) : (ch.modStm g n u).regs = ch.regs := rfl
@[simp] theorem Channel.modStm_cyc (ch : Channel) (g n : Nat) (u : Stream → Stream) : (ch.modStm g n u).cyc = ch.cyc := rfl
@[simp] theorem Channel.modStm_clkOn (ch : Channel) (g n : Nat) (u : Stream → Stream) : (ch.modStm g n u).clkOn = ch.clkOn := rfl
@[simp] theorem Channel.modStm_fresh (ch : Channel) (g n : Nat) (u : Stream → Stream) : (ch.modStm g n u).fresh = ch.fresh := rfl
@[simp] theorem Channel.modStm_err (ch : Channel) (g n : Nat) (u : Stream → Stream) : (ch.modStm g n u).err = ch.err := rfl
@[simp] theorem Channel.modStm_link (ch : Channel) (g n : Nat) (u : Stream → Stream) : (ch.modStm g n u).link = ch.link := rfl
@[simp] theorem Channel.modStm_hbm (ch : Channel) (g n : Nat) (u : Stream → Stream) : (ch.modStm g n u).hbm = ch.hbm := rfl
@[simp] theorem Channel.modStm_ctx (ch : Channel) (g n : Nat) (u : Stream → Stream) : (ch.modStm g n u).ctx = ch.ctx := rfl
@[simp] theorem Channel.modStm_pwr (ch : Channel) (g n : Nat) (u : Stream → Stream) : (ch.modStm g n u).pwr = ch.pwr := rfl
@[simp] theorem Channel.modStm_module (ch : Channel) (g n : Nat) (u : Stream → Stream) : (ch.modStm g n u).module = ch.module := rfl
@[simp] theorem Channel.modStm_p2Off (ch : Channel) (g n : Nat) (u : Stream → Stream) : (ch.modStm g n u).p2Off = ch.p2Off := rfl
@[simp] theorem Channel.modStm_attDue (ch : Channel) (g n : Nat) (u : Stream → Stream) : (ch.modStm g n u).attDue = ch.attDue := rfl
@[simp] theorem Channel.modStm_attOut (ch : Channel) (g n : Nat) (u : Stream → Stream) : (ch.modStm g n u).attOut = ch.attOut := rfl
@[simp] theorem Channel.modStm_hostNext (ch : Channel) (g n : Nat) (u : Stream → Stream) : (ch.modStm g n u).hostNext = ch.hostNext := rfl
@[simp] theorem Channel.modStm_lv (ch : Channel) (g n : Nat) (u : Stream → Stream) : (ch.modStm g n u).lv = ch.lv := rfl
@[simp] theorem Channel.modStm_hostStop (ch : Channel) (g n : Nat) (u : Stream → Stream) : (ch.modStm g n u).hostStop = ch.hostStop := rfl
@[simp] theorem Channel.modStm_answer (ch : Channel) (g n : Nat) (u : Stream → Stream) : (ch.modStm g n u).answer = ch.answer := rfl
@[simp] theorem Channel.modStm_ovfCtx (ch : Channel) (g n : Nat) (u : Stream → Stream) : (ch.modStm g n u).ovfCtx = ch.ovfCtx := rfl
@[simp] theorem Channel.modStm_overCtx (ch : Channel) (g n : Nat) (u : Stream → Stream) : (ch.modStm g n u).overCtx = ch.overCtx := rfl
@[simp] theorem Channel.modStm_up (ch : Channel) (g n : Nat) (u : Stream → Stream) : (ch.modStm g n u).up = ch.up := rfl
@[simp] theorem Channel.tell_no (ch : Channel) (e : UpEv) : (ch.tell e).no = ch.no := rfl
@[simp] theorem Channel.tell_regs (ch : Channel) (e : UpEv) : (ch.tell e).regs = ch.regs := rfl
@[simp] theorem Channel.tell_cyc (ch : Channel) (e : UpEv) : (ch.tell e).cyc = ch.cyc := rfl
@[simp] theorem Channel.tell_clkOn (ch : Channel) (e : UpEv) : (ch.tell e).clkOn = ch.clkOn := rfl
@[simp] theorem Channel.tell_fresh (ch : Channel) (e : UpEv) : (ch.tell e).fresh = ch.fresh := rfl
@[simp] theorem Channel.tell_lans (ch : Channel) (e : UpEv) : (ch.tell e).lans = ch.lans := rfl
@[simp] theorem Channel.tell_err (ch : Channel) (e : UpEv) : (ch.tell e).err = ch.err := rfl
@[simp] theorem Channel.tell_link (ch : Channel) (e : UpEv) : (ch.tell e).link = ch.link := rfl
@[simp] theorem Channel.tell_hbm (ch : Channel) (e : UpEv) : (ch.tell e).hbm = ch.hbm := rfl
@[simp] theorem Channel.tell_ctx (ch : Channel) (e : UpEv) : (ch.tell e).ctx = ch.ctx := rfl
@[simp] theorem Channel.tell_pwr (ch : Channel) (e : UpEv) : (ch.tell e).pwr = ch.pwr := rfl
@[simp] theorem Channel.tell_module (ch : Channel) (e : UpEv) : (ch.tell e).module = ch.module := rfl
@[simp] theorem Channel.tell_p2Off (ch : Channel) (e : UpEv) : (ch.tell e).p2Off = ch.p2Off := rfl
@[simp] theorem Channel.tell_attDue (ch : Channel) (e : UpEv) : (ch.tell e).attDue = ch.attDue := rfl
@[simp] theorem Channel.tell_attOut (ch : Channel) (e : UpEv) : (ch.tell e).attOut = ch.attOut := rfl
@[simp] theorem Channel.tell_hostNext (ch : Channel) (e : UpEv) : (ch.tell e).hostNext = ch.hostNext := rfl
@[simp] theorem Channel.tell_lv (ch : Channel) (e : UpEv) : (ch.tell e).lv = ch.lv := rfl
@[simp] theorem Channel.tell_hostStop (ch : Channel) (e : UpEv) : (ch.tell e).hostStop = ch.hostStop := rfl
@[simp] theorem Channel.tell_answer (ch : Channel) (e : UpEv) : (ch.tell e).answer = ch.answer := rfl
@[simp] theorem Channel.tell_ovfCtx (ch : Channel) (e : UpEv) : (ch.tell e).ovfCtx = ch.ovfCtx := rfl
@[simp] theorem Channel.tell_overCtx (ch : Channel) (e : UpEv) : (ch.tell e).overCtx = ch.overCtx := rfl
@[simp] theorem Channel.modErr_no (ch : Channel) (u : ErrSt → ErrSt) : (ch.modErr u).no = ch.no := rfl
@[simp] theorem Channel.modErr_regs (ch : Channel) (u : ErrSt → ErrSt) : (ch.modErr u).regs = ch.regs := rfl
@[simp] theorem Channel.modErr_cyc (ch : Channel) (u : ErrSt → ErrSt) : (ch.modErr u).cyc = ch.cyc := rfl
@[simp] theorem Channel.modErr_clkOn (ch : Channel) (u : ErrSt → ErrSt) : (ch.modErr u).clkOn = ch.clkOn := rfl
@[simp] theorem Channel.modErr_fresh (ch : Channel) (u : ErrSt → ErrSt) : (ch.modErr u).fresh = ch.fresh := rfl
@[simp] theorem Channel.modErr_lans (ch : Channel) (u : ErrSt → ErrSt) : (ch.modErr u).lans = ch.lans := rfl
@[simp] theorem Channel.modErr_link (ch : Channel) (u : ErrSt → ErrSt) : (ch.modErr u).link = ch.link := rfl
@[simp] theorem Channel.modErr_hbm (ch : Channel) (u : ErrSt → ErrSt) : (ch.modErr u).hbm = ch.hbm := rfl
@[simp] theorem Channel.modErr_ctx (ch : Channel) (u : ErrSt → ErrSt) : (ch.modErr u).ctx = ch.ctx := rfl
@[simp] theorem Channel.modErr_pwr (ch : Channel) (u : ErrSt → ErrSt) : (ch.modErr u).pwr = ch.pwr := rfl
@[simp] theorem Channel.modErr_module (ch : Channel) (u : ErrSt → ErrSt) : (ch.modErr u).module = ch.module := rfl
@[simp] theorem Channel.modErr_p2Off (ch : Channel) (u : ErrSt → ErrSt) : (ch.modErr u).p2Off = ch.p2Off := rfl
@[simp] theorem Channel.modErr_attDue (ch : Channel) (u : ErrSt → ErrSt) : (ch.modErr u).attDue = ch.attDue := rfl
@[simp] theorem Channel.modErr_attOut (ch : Channel) (u : ErrSt → ErrSt) : (ch.modErr u).attOut = ch.attOut := rfl
@[simp] theorem Channel.modErr_hostNext (ch : Channel) (u : ErrSt → ErrSt) : (ch.modErr u).hostNext = ch.hostNext := rfl
@[simp] theorem Channel.modErr_lv (ch : Channel) (u : ErrSt → ErrSt) : (ch.modErr u).lv = ch.lv := rfl
@[simp] theorem Channel.modErr_hostStop (ch : Channel) (u : ErrSt → ErrSt) : (ch.modErr u).hostStop = ch.hostStop := rfl
@[simp] theorem Channel.modErr_answer (ch : Channel) (u : ErrSt → ErrSt) : (ch.modErr u).answer = ch.answer := rfl
@[simp] theorem Channel.modErr_ovfCtx (ch : Channel) (u : ErrSt → ErrSt) : (ch.modErr u).ovfCtx = ch.ovfCtx := rfl
@[simp] theorem Channel.modErr_overCtx (ch : Channel) (u : ErrSt → ErrSt) : (ch.modErr u).overCtx = ch.overCtx := rfl
@[simp] theorem Channel.modErr_up (ch : Channel) (u : ErrSt → ErrSt) : (ch.modErr u).up = ch.up := rfl
@[simp] theorem Channel.modHbm_no (ch : Channel) (u : Hbm → Hbm) : (ch.modHbm u).no = ch.no := rfl
@[simp] theorem Channel.modHbm_regs (ch : Channel) (u : Hbm → Hbm) : (ch.modHbm u).regs = ch.regs := rfl
@[simp] theorem Channel.modHbm_cyc (ch : Channel) (u : Hbm → Hbm) : (ch.modHbm u).cyc = ch.cyc := rfl
@[simp] theorem Channel.modHbm_clkOn (ch : Channel) (u : Hbm → Hbm) : (ch.modHbm u).clkOn = ch.clkOn := rfl
@[simp] theorem Channel.modHbm_fresh (ch : Channel) (u : Hbm → Hbm) : (ch.modHbm u).fresh = ch.fresh := rfl
@[simp] theorem Channel.modHbm_lans (ch : Channel) (u : Hbm → Hbm) : (ch.modHbm u).lans = ch.lans := rfl
@[simp] theorem Channel.modHbm_err (ch : Channel) (u : Hbm → Hbm) : (ch.modHbm u).err = ch.err := rfl
@[simp] theorem Channel.modHbm_link (ch : Channel) (u : Hbm → Hbm) : (ch.modHbm u).link = ch.link := rfl
@[simp] theorem Channel.modHbm_ctx (ch : Channel) (u : Hbm → Hbm) : (ch.modHbm u).ctx = ch.ctx := rfl
@[simp] theorem Channel.modHbm_pwr (ch : Channel) (u : Hbm → Hbm) : (ch.modHbm u).pwr = ch.pwr := rfl
@[simp] theorem Channel.modHbm_module (ch : Channel) (u : Hbm → Hbm) : (ch.modHbm u).module = ch.module := rfl
@[simp] theorem Channel.modHbm_p2Off (ch : Channel) (u : Hbm → Hbm) : (ch.modHbm u).p2Off = ch.p2Off := rfl
@[simp] theorem Channel.modHbm_attDue (ch : Channel) (u : Hbm → Hbm) : (ch.modHbm u).attDue = ch.attDue := rfl
@[simp] theorem Channel.modHbm_attOut (ch : Channel) (u : Hbm → Hbm) : (ch.modHbm u).attOut = ch.attOut := rfl
@[simp] theorem Channel.modHbm_hostNext (ch : Channel) (u : Hbm → Hbm) : (ch.modHbm u).hostNext = ch.hostNext := rfl
@[simp] theorem Channel.modHbm_lv (ch : Channel) (u : Hbm → Hbm) : (ch.modHbm u).lv = ch.lv := rfl
@[simp] theorem Channel.modHbm_hostStop (ch : Channel) (u : Hbm → Hbm) : (ch.modHbm u).hostStop = ch.hostStop := rfl
@[simp] theorem Channel.modHbm_answer (ch : Channel) (u : Hbm → Hbm) : (ch.modHbm u).answer = ch.answer := rfl
@[simp] theorem Channel.modHbm_ovfCtx (ch : Channel) (u : Hbm → Hbm) : (ch.modHbm u).ovfCtx = ch.ovfCtx := rfl
@[simp] theorem Channel.modHbm_overCtx (ch : Channel) (u : Hbm → Hbm) : (ch.modHbm u).overCtx = ch.overCtx := rfl
@[simp] theorem Channel.modHbm_up (ch : Channel) (u : Hbm → Hbm) : (ch.modHbm u).up = ch.up := rfl
@[simp] theorem Channel.modCtx_no (ch : Channel) (u : CtxSt → CtxSt) : (ch.modCtx u).no = ch.no := rfl
@[simp] theorem Channel.modCtx_regs (ch : Channel) (u : CtxSt → CtxSt) : (ch.modCtx u).regs = ch.regs := rfl
@[simp] theorem Channel.modCtx_cyc (ch : Channel) (u : CtxSt → CtxSt) : (ch.modCtx u).cyc = ch.cyc := rfl
@[simp] theorem Channel.modCtx_clkOn (ch : Channel) (u : CtxSt → CtxSt) : (ch.modCtx u).clkOn = ch.clkOn := rfl
@[simp] theorem Channel.modCtx_fresh (ch : Channel) (u : CtxSt → CtxSt) : (ch.modCtx u).fresh = ch.fresh := rfl
@[simp] theorem Channel.modCtx_lans (ch : Channel) (u : CtxSt → CtxSt) : (ch.modCtx u).lans = ch.lans := rfl
@[simp] theorem Channel.modCtx_err (ch : Channel) (u : CtxSt → CtxSt) : (ch.modCtx u).err = ch.err := rfl
@[simp] theorem Channel.modCtx_link (ch : Channel) (u : CtxSt → CtxSt) : (ch.modCtx u).link = ch.link := rfl
@[simp] theorem Channel.modCtx_hbm (ch : Channel) (u : CtxSt → CtxSt) : (ch.modCtx u).hbm = ch.hbm := rfl
@[simp] theorem Channel.modCtx_pwr (ch : Channel) (u : CtxSt → CtxSt) : (ch.modCtx u).pwr = ch.pwr := rfl
@[simp] theorem Channel.modCtx_module (ch : Channel) (u : CtxSt → CtxSt) : (ch.modCtx u).module = ch.module := rfl
@[simp] theorem Channel.modCtx_p2Off (ch : Channel) (u : CtxSt → CtxSt) : (ch.modCtx u).p2Off = ch.p2Off := rfl
@[simp] theorem Channel.modCtx_attDue (ch : Channel) (u : CtxSt → CtxSt) : (ch.modCtx u).attDue = ch.attDue := rfl
@[simp] theorem Channel.modCtx_attOut (ch : Channel) (u : CtxSt → CtxSt) : (ch.modCtx u).attOut = ch.attOut := rfl
@[simp] theorem Channel.modCtx_hostNext (ch : Channel) (u : CtxSt → CtxSt) : (ch.modCtx u).hostNext = ch.hostNext := rfl
@[simp] theorem Channel.modCtx_lv (ch : Channel) (u : CtxSt → CtxSt) : (ch.modCtx u).lv = ch.lv := rfl
@[simp] theorem Channel.modCtx_hostStop (ch : Channel) (u : CtxSt → CtxSt) : (ch.modCtx u).hostStop = ch.hostStop := rfl
@[simp] theorem Channel.modCtx_answer (ch : Channel) (u : CtxSt → CtxSt) : (ch.modCtx u).answer = ch.answer := rfl
@[simp] theorem Channel.modCtx_ovfCtx (ch : Channel) (u : CtxSt → CtxSt) : (ch.modCtx u).ovfCtx = ch.ovfCtx := rfl
@[simp] theorem Channel.modCtx_overCtx (ch : Channel) (u : CtxSt → CtxSt) : (ch.modCtx u).overCtx = ch.overCtx := rfl
@[simp] theorem Channel.modCtx_up (ch : Channel) (u : CtxSt → CtxSt) : (ch.modCtx u).up = ch.up := rfl
@[simp] theorem Channel.modPwr_no (ch : Channel) (u : Pwr → Pwr) : (ch.modPwr u).no = ch.no := rfl
@[simp] theorem Channel.modPwr_regs (ch : Channel) (u : Pwr → Pwr) : (ch.modPwr u).regs = ch.regs := rfl
@[simp] theorem Channel.modPwr_cyc (ch : Channel) (u : Pwr → Pwr) : (ch.modPwr u).cyc = ch.cyc := rfl
@[simp] theorem Channel.modPwr_clkOn (ch : Channel) (u : Pwr → Pwr) : (ch.modPwr u).clkOn = ch.clkOn := rfl
@[simp] theorem Channel.modPwr_fresh (ch : Channel) (u : Pwr → Pwr) : (ch.modPwr u).fresh = ch.fresh := rfl
@[simp] theorem Channel.modPwr_lans (ch : Channel) (u : Pwr → Pwr) : (ch.modPwr u).lans = ch.lans := rfl
@[simp] theorem Channel.modPwr_err (ch : Channel) (u : Pwr → Pwr) : (ch.modPwr u).err = ch.err := rfl
@[simp] theorem Channel.modPwr_link (ch : Channel) (u : Pwr → Pwr) : (ch.modPwr u).link = ch.link := rfl
@[simp] theorem Channel.modPwr_hbm (ch : Channel) (u : Pwr → Pwr) : (ch.modPwr u).hbm = ch.hbm := rfl
@[simp] theorem Channel.modPwr_ctx (ch : Channel) (u : Pwr → Pwr) : (ch.modPwr u).ctx = ch.ctx := rfl
@[simp] theorem Channel.modPwr_module (ch : Channel) (u : Pwr → Pwr) : (ch.modPwr u).module = ch.module := rfl
@[simp] theorem Channel.modPwr_p2Off (ch : Channel) (u : Pwr → Pwr) : (ch.modPwr u).p2Off = ch.p2Off := rfl
@[simp] theorem Channel.modPwr_attDue (ch : Channel) (u : Pwr → Pwr) : (ch.modPwr u).attDue = ch.attDue := rfl
@[simp] theorem Channel.modPwr_attOut (ch : Channel) (u : Pwr → Pwr) : (ch.modPwr u).attOut = ch.attOut := rfl
@[simp] theorem Channel.modPwr_hostNext (ch : Channel) (u : Pwr → Pwr) : (ch.modPwr u).hostNext = ch.hostNext := rfl
@[simp] theorem Channel.modPwr_lv (ch : Channel) (u : Pwr → Pwr) : (ch.modPwr u).lv = ch.lv := rfl
@[simp] theorem Channel.modPwr_hostStop (ch : Channel) (u : Pwr → Pwr) : (ch.modPwr u).hostStop = ch.hostStop := rfl
@[simp] theorem Channel.modPwr_answer (ch : Channel) (u : Pwr → Pwr) : (ch.modPwr u).answer = ch.answer := rfl
@[simp] theorem Channel.modPwr_ovfCtx (ch : Channel) (u : Pwr → Pwr) : (ch.modPwr u).ovfCtx = ch.ovfCtx := rfl
@[simp] theorem Channel.modPwr_overCtx (ch : Channel) (u : Pwr → Pwr) : (ch.modPwr u).overCtx = ch.overCtx := rfl
@[simp] theorem Channel.modPwr_up (ch : Channel) (u : Pwr → Pwr) : (ch.modPwr u).up = ch.up := rfl
@[simp] theorem Channel.modPort_no (ch : Channel) (p : Nat) (u : LPort → LPort) : (ch.modPort p u).no = ch.no := rfl
@[simp] theorem Channel.modPort_regs (ch : Channel) (p : Nat) (u : LPort → LPort) : (ch.modPort p u).regs = ch.regs := rfl
@[simp] theorem Channel.modPort_cyc (ch : Channel) (p : Nat) (u : LPort → LPort) : (ch.modPort p u).cyc = ch.cyc := rfl
@[simp] theorem Channel.modPort_clkOn (ch : Channel) (p : Nat) (u : LPort → LPort) : (ch.modPort p u).clkOn = ch.clkOn := rfl
@[simp] theorem Channel.modPort_fresh (ch : Channel) (p : Nat) (u : LPort → LPort) : (ch.modPort p u).fresh = ch.fresh := rfl
@[simp] theorem Channel.modPort_lans (ch : Channel) (p : Nat) (u : LPort → LPort) : (ch.modPort p u).lans = ch.lans := rfl
@[simp] theorem Channel.modPort_err (ch : Channel) (p : Nat) (u : LPort → LPort) : (ch.modPort p u).err = ch.err := rfl
@[simp] theorem Channel.modPort_hbm (ch : Channel) (p : Nat) (u : LPort → LPort) : (ch.modPort p u).hbm = ch.hbm := rfl
@[simp] theorem Channel.modPort_ctx (ch : Channel) (p : Nat) (u : LPort → LPort) : (ch.modPort p u).ctx = ch.ctx := rfl
@[simp] theorem Channel.modPort_pwr (ch : Channel) (p : Nat) (u : LPort → LPort) : (ch.modPort p u).pwr = ch.pwr := rfl
@[simp] theorem Channel.modPort_module (ch : Channel) (p : Nat) (u : LPort → LPort) : (ch.modPort p u).module = ch.module := rfl
@[simp] theorem Channel.modPort_p2Off (ch : Channel) (p : Nat) (u : LPort → LPort) : (ch.modPort p u).p2Off = ch.p2Off := rfl
@[simp] theorem Channel.modPort_attDue (ch : Channel) (p : Nat) (u : LPort → LPort) : (ch.modPort p u).attDue = ch.attDue := rfl
@[simp] theorem Channel.modPort_attOut (ch : Channel) (p : Nat) (u : LPort → LPort) : (ch.modPort p u).attOut = ch.attOut := rfl
@[simp] theorem Channel.modPort_hostNext (ch : Channel) (p : Nat) (u : LPort → LPort) : (ch.modPort p u).hostNext = ch.hostNext := rfl
@[simp] theorem Channel.modPort_lv (ch : Channel) (p : Nat) (u : LPort → LPort) : (ch.modPort p u).lv = ch.lv := rfl
@[simp] theorem Channel.modPort_hostStop (ch : Channel) (p : Nat) (u : LPort → LPort) : (ch.modPort p u).hostStop = ch.hostStop := rfl
@[simp] theorem Channel.modPort_answer (ch : Channel) (p : Nat) (u : LPort → LPort) : (ch.modPort p u).answer = ch.answer := rfl
@[simp] theorem Channel.modPort_ovfCtx (ch : Channel) (p : Nat) (u : LPort → LPort) : (ch.modPort p u).ovfCtx = ch.ovfCtx := rfl
@[simp] theorem Channel.modPort_overCtx (ch : Channel) (p : Nat) (u : LPort → LPort) : (ch.modPort p u).overCtx = ch.overCtx := rfl
@[simp] theorem Channel.modPort_up (ch : Channel) (p : Nat) (u : LPort → LPort) : (ch.modPort p u).up = ch.up := rfl
@[simp] theorem Lantern.w_sp (l : Lantern) (f : Fld) (n v : Nat) : (l.w f n v).sp = l.sp := rfl
@[simp] theorem Lantern.w_spBad (l : Lantern) (f : Fld) (n v : Nat) : (l.w f n v).spBad = l.spBad := rfl
@[simp] theorem Lantern.w_slHold (l : Lantern) (f : Fld) (n v : Nat) : (l.w f n v).slHold = l.slHold := rfl
@[simp] theorem Lantern.w_cores (l : Lantern) (f : Fld) (n v : Nat) : (l.w f n v).cores = l.cores := rfl
@[simp] theorem Lantern.w_pipeQ (l : Lantern) (f : Fld) (n v : Nat) : (l.w f n v).pipeQ = l.pipeQ := rfl
@[simp] theorem Lantern.w_pipeNow (l : Lantern) (f : Fld) (n v : Nat) : (l.w f n v).pipeNow = l.pipeNow := rfl
@[simp] theorem Lantern.w_tdRd (l : Lantern) (f : Fld) (n v : Nat) : (l.w f n v).tdRd = l.tdRd := rfl
@[simp] theorem Lantern.w_tdWr (l : Lantern) (f : Fld) (n v : Nat) : (l.w f n v).tdWr = l.tdWr := rfl
@[simp] theorem Lantern.w_pipeAt (l : Lantern) (f : Fld) (n v : Nat) : (l.w f n v).pipeAt = l.pipeAt := rfl
@[simp] theorem Lantern.w_banks (l : Lantern) (f : Fld) (n v : Nat) : (l.w f n v).banks = l.banks := rfl
@[simp] theorem Lantern.w_tbufs (l : Lantern) (f : Fld) (n v : Nat) : (l.w f n v).tbufs = l.tbufs := rfl
@[simp] theorem Lantern.w_poison (l : Lantern) (f : Fld) (n v : Nat) : (l.w f n v).poison = l.poison := rfl
@[simp] theorem Lantern.w_arbStall (l : Lantern) (f : Fld) (n v : Nat) : (l.w f n v).arbStall = l.arbStall := rfl
@[simp] theorem Lantern.w_resumeReq (l : Lantern) (f : Fld) (n v : Nat) : (l.w f n v).resumeReq = l.resumeReq := rfl
@[simp] theorem Lantern.w_tbufWait (l : Lantern) (f : Fld) (n v : Nat) : (l.w f n v).tbufWait = l.tbufWait := rfl
@[simp] theorem Lantern.w_parkReady (l : Lantern) (f : Fld) (n v : Nat) : (l.w f n v).parkReady = l.parkReady := rfl
@[simp] theorem Lantern.w_ve (l : Lantern) (f : Fld) (n v : Nat) : (l.w f n v).ve = l.ve := rfl
@[simp] theorem Lantern.w_td (l : Lantern) (f : Fld) (n v : Nat) : (l.w f n v).td = l.td := rfl
@[simp] theorem Lantern.w_tq (l : Lantern) (f : Fld) (n v : Nat) : (l.w f n v).tq = l.tq := rfl
@[simp] theorem Lantern.w_bpNew (l : Lantern) (f : Fld) (n v : Nat) : (l.w f n v).bpNew = l.bpNew := rfl
@[simp] theorem Lantern.inc_sp (l : Lantern) (f : Fld) (n v : Nat) : (l.inc f n v).sp = l.sp := rfl
@[simp] theorem Lantern.inc_spBad (l : Lantern) (f : Fld) (n v : Nat) : (l.inc f n v).spBad = l.spBad := rfl
@[simp] theorem Lantern.inc_slHold (l : Lantern) (f : Fld) (n v : Nat) : (l.inc f n v).slHold = l.slHold := rfl
@[simp] theorem Lantern.inc_cores (l : Lantern) (f : Fld) (n v : Nat) : (l.inc f n v).cores = l.cores := rfl
@[simp] theorem Lantern.inc_pipeQ (l : Lantern) (f : Fld) (n v : Nat) : (l.inc f n v).pipeQ = l.pipeQ := rfl
@[simp] theorem Lantern.inc_pipeNow (l : Lantern) (f : Fld) (n v : Nat) : (l.inc f n v).pipeNow = l.pipeNow := rfl
@[simp] theorem Lantern.inc_tdRd (l : Lantern) (f : Fld) (n v : Nat) : (l.inc f n v).tdRd = l.tdRd := rfl
@[simp] theorem Lantern.inc_tdWr (l : Lantern) (f : Fld) (n v : Nat) : (l.inc f n v).tdWr = l.tdWr := rfl
@[simp] theorem Lantern.inc_pipeAt (l : Lantern) (f : Fld) (n v : Nat) : (l.inc f n v).pipeAt = l.pipeAt := rfl
@[simp] theorem Lantern.inc_banks (l : Lantern) (f : Fld) (n v : Nat) : (l.inc f n v).banks = l.banks := rfl
@[simp] theorem Lantern.inc_tbufs (l : Lantern) (f : Fld) (n v : Nat) : (l.inc f n v).tbufs = l.tbufs := rfl
@[simp] theorem Lantern.inc_poison (l : Lantern) (f : Fld) (n v : Nat) : (l.inc f n v).poison = l.poison := rfl
@[simp] theorem Lantern.inc_arbStall (l : Lantern) (f : Fld) (n v : Nat) : (l.inc f n v).arbStall = l.arbStall := rfl
@[simp] theorem Lantern.inc_resumeReq (l : Lantern) (f : Fld) (n v : Nat) : (l.inc f n v).resumeReq = l.resumeReq := rfl
@[simp] theorem Lantern.inc_tbufWait (l : Lantern) (f : Fld) (n v : Nat) : (l.inc f n v).tbufWait = l.tbufWait := rfl
@[simp] theorem Lantern.inc_parkReady (l : Lantern) (f : Fld) (n v : Nat) : (l.inc f n v).parkReady = l.parkReady := rfl
@[simp] theorem Lantern.inc_ve (l : Lantern) (f : Fld) (n v : Nat) : (l.inc f n v).ve = l.ve := rfl
@[simp] theorem Lantern.inc_td (l : Lantern) (f : Fld) (n v : Nat) : (l.inc f n v).td = l.td := rfl
@[simp] theorem Lantern.inc_tq (l : Lantern) (f : Fld) (n v : Nat) : (l.inc f n v).tq = l.tq := rfl
@[simp] theorem Lantern.inc_bpNew (l : Lantern) (f : Fld) (n v : Nat) : (l.inc f n v).bpNew = l.bpNew := rfl
@[simp] theorem Lantern.modCore_regs (l : Lantern) (k : Nat) (u : SparseCore → SparseCore) : (l.modCore k u).regs = l.regs := rfl
@[simp] theorem Lantern.modCore_sp (l : Lantern) (k : Nat) (u : SparseCore → SparseCore) : (l.modCore k u).sp = l.sp := rfl
@[simp] theorem Lantern.modCore_spBad (l : Lantern) (k : Nat) (u : SparseCore → SparseCore) : (l.modCore k u).spBad = l.spBad := rfl
@[simp] theorem Lantern.modCore_slHold (l : Lantern) (k : Nat) (u : SparseCore → SparseCore) : (l.modCore k u).slHold = l.slHold := rfl
@[simp] theorem Lantern.modCore_pipeQ (l : Lantern) (k : Nat) (u : SparseCore → SparseCore) : (l.modCore k u).pipeQ = l.pipeQ := rfl
@[simp] theorem Lantern.modCore_pipeNow (l : Lantern) (k : Nat) (u : SparseCore → SparseCore) : (l.modCore k u).pipeNow = l.pipeNow := rfl
@[simp] theorem Lantern.modCore_tdRd (l : Lantern) (k : Nat) (u : SparseCore → SparseCore) : (l.modCore k u).tdRd = l.tdRd := rfl
@[simp] theorem Lantern.modCore_tdWr (l : Lantern) (k : Nat) (u : SparseCore → SparseCore) : (l.modCore k u).tdWr = l.tdWr := rfl
@[simp] theorem Lantern.modCore_pipeAt (l : Lantern) (k : Nat) (u : SparseCore → SparseCore) : (l.modCore k u).pipeAt = l.pipeAt := rfl
@[simp] theorem Lantern.modCore_banks (l : Lantern) (k : Nat) (u : SparseCore → SparseCore) : (l.modCore k u).banks = l.banks := rfl
@[simp] theorem Lantern.modCore_tbufs (l : Lantern) (k : Nat) (u : SparseCore → SparseCore) : (l.modCore k u).tbufs = l.tbufs := rfl
@[simp] theorem Lantern.modCore_poison (l : Lantern) (k : Nat) (u : SparseCore → SparseCore) : (l.modCore k u).poison = l.poison := rfl
@[simp] theorem Lantern.modCore_arbStall (l : Lantern) (k : Nat) (u : SparseCore → SparseCore) : (l.modCore k u).arbStall = l.arbStall := rfl
@[simp] theorem Lantern.modCore_resumeReq (l : Lantern) (k : Nat) (u : SparseCore → SparseCore) : (l.modCore k u).resumeReq = l.resumeReq := rfl
@[simp] theorem Lantern.modCore_tbufWait (l : Lantern) (k : Nat) (u : SparseCore → SparseCore) : (l.modCore k u).tbufWait = l.tbufWait := rfl
@[simp] theorem Lantern.modCore_parkReady (l : Lantern) (k : Nat) (u : SparseCore → SparseCore) : (l.modCore k u).parkReady = l.parkReady := rfl
@[simp] theorem Lantern.modCore_ve (l : Lantern) (k : Nat) (u : SparseCore → SparseCore) : (l.modCore k u).ve = l.ve := rfl
@[simp] theorem Lantern.modCore_td (l : Lantern) (k : Nat) (u : SparseCore → SparseCore) : (l.modCore k u).td = l.td := rfl
@[simp] theorem Lantern.modCore_tq (l : Lantern) (k : Nat) (u : SparseCore → SparseCore) : (l.modCore k u).tq = l.tq := rfl
@[simp] theorem Lantern.modCore_bpNew (l : Lantern) (k : Nat) (u : SparseCore → SparseCore) : (l.modCore k u).bpNew = l.bpNew := rfl
@[simp] theorem Lantern.modBank_regs (l : Lantern) (k : Nat) (u : Bank → Bank) : (l.modBank k u).regs = l.regs := rfl
@[simp] theorem Lantern.modBank_sp (l : Lantern) (k : Nat) (u : Bank → Bank) : (l.modBank k u).sp = l.sp := rfl
@[simp] theorem Lantern.modBank_spBad (l : Lantern) (k : Nat) (u : Bank → Bank) : (l.modBank k u).spBad = l.spBad := rfl
@[simp] theorem Lantern.modBank_slHold (l : Lantern) (k : Nat) (u : Bank → Bank) : (l.modBank k u).slHold = l.slHold := rfl
@[simp] theorem Lantern.modBank_cores (l : Lantern) (k : Nat) (u : Bank → Bank) : (l.modBank k u).cores = l.cores := rfl
@[simp] theorem Lantern.modBank_pipeQ (l : Lantern) (k : Nat) (u : Bank → Bank) : (l.modBank k u).pipeQ = l.pipeQ := rfl
@[simp] theorem Lantern.modBank_pipeNow (l : Lantern) (k : Nat) (u : Bank → Bank) : (l.modBank k u).pipeNow = l.pipeNow := rfl
@[simp] theorem Lantern.modBank_tdRd (l : Lantern) (k : Nat) (u : Bank → Bank) : (l.modBank k u).tdRd = l.tdRd := rfl
@[simp] theorem Lantern.modBank_tdWr (l : Lantern) (k : Nat) (u : Bank → Bank) : (l.modBank k u).tdWr = l.tdWr := rfl
@[simp] theorem Lantern.modBank_pipeAt (l : Lantern) (k : Nat) (u : Bank → Bank) : (l.modBank k u).pipeAt = l.pipeAt := rfl
@[simp] theorem Lantern.modBank_tbufs (l : Lantern) (k : Nat) (u : Bank → Bank) : (l.modBank k u).tbufs = l.tbufs := rfl
@[simp] theorem Lantern.modBank_poison (l : Lantern) (k : Nat) (u : Bank → Bank) : (l.modBank k u).poison = l.poison := rfl
@[simp] theorem Lantern.modBank_arbStall (l : Lantern) (k : Nat) (u : Bank → Bank) : (l.modBank k u).arbStall = l.arbStall := rfl
@[simp] theorem Lantern.modBank_resumeReq (l : Lantern) (k : Nat) (u : Bank → Bank) : (l.modBank k u).resumeReq = l.resumeReq := rfl
@[simp] theorem Lantern.modBank_tbufWait (l : Lantern) (k : Nat) (u : Bank → Bank) : (l.modBank k u).tbufWait = l.tbufWait := rfl
@[simp] theorem Lantern.modBank_parkReady (l : Lantern) (k : Nat) (u : Bank → Bank) : (l.modBank k u).parkReady = l.parkReady := rfl
@[simp] theorem Lantern.modBank_ve (l : Lantern) (k : Nat) (u : Bank → Bank) : (l.modBank k u).ve = l.ve := rfl
@[simp] theorem Lantern.modBank_td (l : Lantern) (k : Nat) (u : Bank → Bank) : (l.modBank k u).td = l.td := rfl
@[simp] theorem Lantern.modBank_tq (l : Lantern) (k : Nat) (u : Bank → Bank) : (l.modBank k u).tq = l.tq := rfl
@[simp] theorem Lantern.modBank_bpNew (l : Lantern) (k : Nat) (u : Bank → Bank) : (l.modBank k u).bpNew = l.bpNew := rfl
@[simp] theorem Bridge.w_pend (b : Bridge) (f : Fld) (n v : Nat) : (b.w f n v).pend = b.pend := rfl
@[simp] theorem Bridge.w_modSeq (b : Bridge) (f : Fld) (n v : Nat) : (b.w f n v).modSeq = b.modSeq := rfl
@[simp] theorem Bridge.w_fatalDue (b : Bridge) (f : Fld) (n v : Nat) : (b.w f n v).fatalDue = b.fatalDue := rfl
@[simp] theorem Bridge.w_lossDue (b : Bridge) (f : Fld) (n v : Nat) : (b.w f n v).lossDue = b.lossDue := rfl
@[simp] theorem Bridge.w_events (b : Bridge) (f : Fld) (n v : Nat) : (b.w f n v).events = b.events := rfl
@[simp] theorem Bridge.w_fresh (b : Bridge) (f : Fld) (n v : Nat) : (b.w f n v).fresh = b.fresh := rfl
@[simp] theorem Bridge.w_tb (b : Bridge) (f : Fld) (n v : Nat) : (b.w f n v).tb = b.tb := rfl
@[simp] theorem Bridge.w_alert (b : Bridge) (f : Fld) (n v : Nat) : (b.w f n v).alert = b.alert := rfl
@[simp] theorem Bridge.w_boot (b : Bridge) (f : Fld) (n v : Nat) : (b.w f n v).boot = b.boot := rfl
@[simp] theorem Bridge.w_hp (b : Bridge) (f : Fld) (n v : Nat) : (b.w f n v).hp = b.hp := rfl
@[simp] theorem Bridge.w_hostMem (b : Bridge) (f : Fld) (n v : Nat) : (b.w f n v).hostMem = b.hostMem := rfl
@[simp] theorem Bridge.inc_pend (b : Bridge) (f : Fld) (n v : Nat) : (b.inc f n v).pend = b.pend := rfl
@[simp] theorem Bridge.inc_modSeq (b : Bridge) (f : Fld) (n v : Nat) : (b.inc f n v).modSeq = b.modSeq := rfl
@[simp] theorem Bridge.inc_fatalDue (b : Bridge) (f : Fld) (n v : Nat) : (b.inc f n v).fatalDue = b.fatalDue := rfl
@[simp] theorem Bridge.inc_lossDue (b : Bridge) (f : Fld) (n v : Nat) : (b.inc f n v).lossDue = b.lossDue := rfl
@[simp] theorem Bridge.inc_events (b : Bridge) (f : Fld) (n v : Nat) : (b.inc f n v).events = b.events := rfl
@[simp] theorem Bridge.inc_fresh (b : Bridge) (f : Fld) (n v : Nat) : (b.inc f n v).fresh = b.fresh := rfl
@[simp] theorem Bridge.inc_tb (b : Bridge) (f : Fld) (n v : Nat) : (b.inc f n v).tb = b.tb := rfl
@[simp] theorem Bridge.inc_alert (b : Bridge) (f : Fld) (n v : Nat) : (b.inc f n v).alert = b.alert := rfl
@[simp] theorem Bridge.inc_boot (b : Bridge) (f : Fld) (n v : Nat) : (b.inc f n v).boot = b.boot := rfl
@[simp] theorem Bridge.inc_hp (b : Bridge) (f : Fld) (n v : Nat) : (b.inc f n v).hp = b.hp := rfl
@[simp] theorem Bridge.inc_hostMem (b : Bridge) (f : Fld) (n v : Nat) : (b.inc f n v).hostMem = b.hostMem := rfl
@[simp] theorem Bridge.modHp_regs (b : Bridge) (u : HostPort → HostPort) : (b.modHp u).regs = b.regs := rfl
@[simp] theorem Bridge.modHp_pend (b : Bridge) (u : HostPort → HostPort) : (b.modHp u).pend = b.pend := rfl
@[simp] theorem Bridge.modHp_modSeq (b : Bridge) (u : HostPort → HostPort) : (b.modHp u).modSeq = b.modSeq := rfl
@[simp] theorem Bridge.modHp_fatalDue (b : Bridge) (u : HostPort → HostPort) : (b.modHp u).fatalDue = b.fatalDue := rfl
@[simp] theorem Bridge.modHp_lossDue (b : Bridge) (u : HostPort → HostPort) : (b.modHp u).lossDue = b.lossDue := rfl
@[simp] theorem Bridge.modHp_events (b : Bridge) (u : HostPort → HostPort) : (b.modHp u).events = b.events := rfl
@[simp] theorem Bridge.modHp_fresh (b : Bridge) (u : HostPort → HostPort) : (b.modHp u).fresh = b.fresh := rfl
@[simp] theorem Bridge.modHp_tb (b : Bridge) (u : HostPort → HostPort) : (b.modHp u).tb = b.tb := rfl
@[simp] theorem Bridge.modHp_alert (b : Bridge) (u : HostPort → HostPort) : (b.modHp u).alert = b.alert := rfl
@[simp] theorem Bridge.modHp_boot (b : Bridge) (u : HostPort → HostPort) : (b.modHp u).boot = b.boot := rfl
@[simp] theorem Bridge.modHp_hostMem (b : Bridge) (u : HostPort → HostPort) : (b.modHp u).hostMem = b.hostMem := rfl
@[simp] theorem Bridge.modBoot_regs (b : Bridge) (u : Boot → Boot) : (b.modBoot u).regs = b.regs := rfl
@[simp] theorem Bridge.modBoot_pend (b : Bridge) (u : Boot → Boot) : (b.modBoot u).pend = b.pend := rfl
@[simp] theorem Bridge.modBoot_modSeq (b : Bridge) (u : Boot → Boot) : (b.modBoot u).modSeq = b.modSeq := rfl
@[simp] theorem Bridge.modBoot_fatalDue (b : Bridge) (u : Boot → Boot) : (b.modBoot u).fatalDue = b.fatalDue := rfl
@[simp] theorem Bridge.modBoot_lossDue (b : Bridge) (u : Boot → Boot) : (b.modBoot u).lossDue = b.lossDue := rfl
@[simp] theorem Bridge.modBoot_events (b : Bridge) (u : Boot → Boot) : (b.modBoot u).events = b.events := rfl
@[simp] theorem Bridge.modBoot_fresh (b : Bridge) (u : Boot → Boot) : (b.modBoot u).fresh = b.fresh := rfl
@[simp] theorem Bridge.modBoot_tb (b : Bridge) (u : Boot → Boot) : (b.modBoot u).tb = b.tb := rfl
@[simp] theorem Bridge.modBoot_alert (b : Bridge) (u : Boot → Boot) : (b.modBoot u).alert = b.alert := rfl
@[simp] theorem Bridge.modBoot_hp (b : Bridge) (u : Boot → Boot) : (b.modBoot u).hp = b.hp := rfl
@[simp] theorem Bridge.modBoot_hostMem (b : Bridge) (u : Boot → Boot) : (b.modBoot u).hostMem = b.hostMem := rfl
@[simp] theorem Bridge.modTb_regs (b : Bridge) (u : Timebase → Timebase) : (b.modTb u).regs = b.regs := rfl
@[simp] theorem Bridge.modTb_pend (b : Bridge) (u : Timebase → Timebase) : (b.modTb u).pend = b.pend := rfl
@[simp] theorem Bridge.modTb_modSeq (b : Bridge) (u : Timebase → Timebase) : (b.modTb u).modSeq = b.modSeq := rfl
@[simp] theorem Bridge.modTb_fatalDue (b : Bridge) (u : Timebase → Timebase) : (b.modTb u).fatalDue = b.fatalDue := rfl
@[simp] theorem Bridge.modTb_lossDue (b : Bridge) (u : Timebase → Timebase) : (b.modTb u).lossDue = b.lossDue := rfl
@[simp] theorem Bridge.modTb_events (b : Bridge) (u : Timebase → Timebase) : (b.modTb u).events = b.events := rfl
@[simp] theorem Bridge.modTb_fresh (b : Bridge) (u : Timebase → Timebase) : (b.modTb u).fresh = b.fresh := rfl
@[simp] theorem Bridge.modTb_alert (b : Bridge) (u : Timebase → Timebase) : (b.modTb u).alert = b.alert := rfl
@[simp] theorem Bridge.modTb_boot (b : Bridge) (u : Timebase → Timebase) : (b.modTb u).boot = b.boot := rfl
@[simp] theorem Bridge.modTb_hp (b : Bridge) (u : Timebase → Timebase) : (b.modTb u).hp = b.hp := rfl
@[simp] theorem Bridge.modTb_hostMem (b : Bridge) (u : Timebase → Timebase) : (b.modTb u).hostMem = b.hostMem := rfl
@[simp] theorem State.setChan_pending (s : State) (c : Nat) (ch : Channel) : (s.setChan c ch).pending = s.pending := rfl
@[simp] theorem Channel.w_regs (ch : Channel) (f : Fld) (n v : Nat) : (ch.w f n v).regs = ch.regs.put f n v := rfl
@[simp] theorem Channel.inc_regs (ch : Channel) (f : Fld) (n v : Nat) : (ch.inc f n v).regs = ch.regs.inc f n v := rfl
@[simp] theorem Lantern.w_regs (l : Lantern) (f : Fld) (n v : Nat) : (l.w f n v).regs = l.regs.put f n v := rfl
@[simp] theorem Lantern.inc_regs (l : Lantern) (f : Fld) (n v : Nat) : (l.inc f n v).regs = l.regs.inc f n v := rfl
@[simp] theorem Bridge.w_regs (b : Bridge) (f : Fld) (n v : Nat) : (b.w f n v).regs = b.regs.put f n v := rfl
@[simp] theorem Bridge.inc_regs (b : Bridge) (f : Fld) (n v : Nat) : (b.inc f n v).regs = b.regs.inc f n v := rfl
@[simp] theorem Bridge.modHp_hp (b : Bridge) (u : HostPort → HostPort) : (b.modHp u).hp = u b.hp := rfl
@[simp] theorem Bridge.modBoot_boot (b : Bridge) (u : Boot → Boot) : (b.modBoot u).boot = u b.boot := rfl
@[simp] theorem Bridge.modTb_tb (b : Bridge) (u : Timebase → Timebase) : (b.modTb u).tb = u b.tb := rfl
@[simp] theorem Channel.modErr_err (ch : Channel) (u : ErrSt → ErrSt) : (ch.modErr u).err = u ch.err := rfl
@[simp] theorem Channel.modHbm_hbm (ch : Channel) (u : Hbm → Hbm) : (ch.modHbm u).hbm = u ch.hbm := rfl
@[simp] theorem Channel.modCtx_ctx (ch : Channel) (u : CtxSt → CtxSt) : (ch.modCtx u).ctx = u ch.ctx := rfl
@[simp] theorem Channel.modPwr_pwr (ch : Channel) (u : Pwr → Pwr) : (ch.modPwr u).pwr = u ch.pwr := rfl
@[simp] theorem Channel.tell_up (ch : Channel) (e : UpEv) : (ch.tell e).up = ch.up ++ [e] := rfl

end Sys2Proof.Machine
end

