-- ==== Sys2Proof/Laws/Ops.lean ====
section
/-! SUPPORT. What the shared operations do: register fields, the lenses from the module to a core, the wrappers in which the meanings
stand, and the raising of records. -/

namespace Sys2Proof.Machine

/-! ### Register fields -/

/-- What each update of a block does to the values that its fields hold. -/
@[simp] theorem Regs.mark_cur (r : Regs) (f : Fld) (n bits : Nat) : (r.mark f n bits).cur = r.cur := rfl

@[simp] theorem Regs.put_cur (r : Regs) (f : Fld) (n v : Nat) : (r.put f n v).cur = r.cur.put (f.key n) (v % 2 ^ f.wid) := by
  simp only [Regs.put]
  split <;> rfl

@[simp] theorem Regs.put_shadow (r : Regs) (f : Fld) (n v : Nat) : (r.put f n v).shadow = r.shadow := by
  simp only [Regs.put]
  split <;> rfl

@[simp] theorem Regs.put_clrs (r : Regs) (f : Fld) (n v : Nat) : (r.put f n v).clrs = r.clrs := by
  simp only [Regs.put]
  split <;> rfl

/-- A field that hardware writes is in effect at once (R12). -/
@[simp] theorem Regs.put_live (r : Regs) (f : Fld) (n v : Nat) : (r.put f n v).live = r.live.del (f.key n) := by
  simp only [Regs.put]
  split <;> rfl

/-- Nothing is added: nothing changes. -/
@[simp] theorem Regs.inc_zero (r : Regs) (f : Fld) (n : Nat) : r.inc f n 0 = r := rfl

@[simp] theorem Regs.plus_zero (r : Regs) (f : Fld) (n : Nat) : r.plus f n 0 = r.get f n := rfl

/-- A counter that has not been cleared in this cycle adds, and stops at its largest value (R113). -/
theorem Regs.plus_uncleared {r : Regs} {f : Fld} {n : Nat} (h : r.clrs.contains (f.key n) = false) (k : Nat) :
    r.plus f n k = if k = 0 then r.get f n else satAdd f.wid (r.get f n) k := by
  simp only [Regs.plus, h]
  split <;> rfl

/-- What an increment leaves in the block's values. -/
theorem Regs.inc_cur {r : Regs} {f : Fld} {n k : Nat} (h : k ≠ 0) :
    (r.inc f n k).cur = r.cur.put (f.key n) (r.plus f n k % 2 ^ f.wid) := by
  simp [Regs.inc, h, Regs.store]

@[simp] theorem Regs.inc_shadow (r : Regs) (f : Fld) (n k : Nat) : (r.inc f n k).shadow = r.shadow := by
  simp only [Regs.inc]
  split <;> rfl

@[simp] theorem Regs.inc_clrs (r : Regs) (f : Fld) (n k : Nat) : (r.inc f n k).clrs = r.clrs := by
  simp only [Regs.inc]
  split <;> rfl

@[simp] theorem Regs.get_put_self (r : Regs) (f : Fld) (n v : Nat) : (r.put f n v).get f n = v % 2 ^ f.wid := by
  simp [Regs.get]

/-- A write of one field leaves every other field's value alone. -/
theorem Regs.get_put_ne (r : Regs) {f g : Fld} {n m : Nat} (v : Nat) (h : g.key m ≠ f.key n) :
    (r.put f n v).get g m = r.get g m := by
  simp [Regs.get, SMap.getD_put_ne _ _ _ h]

theorem Regs.get_put (r : Regs) (f g : Fld) (n m v : Nat) :
    (r.put f n v).get g m = if g.key m = f.key n then v % 2 ^ f.wid % 2 ^ g.wid else r.get g m := by
  by_cases h : g.key m = f.key n
  · simp [Regs.get, h]
  · simp [h, Regs.get_put_ne r v h]

theorem Regs.get_inc_ne (r : Regs) {f g : Fld} {n m : Nat} (k : Nat) (h : g.key m ≠ f.key n) :
    (r.inc f n k).get g m = r.get g m := by
  by_cases hk : k = 0
  · simp [hk]
  · simp [Regs.get, Regs.inc_cur hk, SMap.getD_put_ne _ _ _ h]

/-- A counter after an increment. -/
theorem Regs.get_inc_self (r : Regs) (f : Fld) (n k : Nat) : (r.inc f n k).get f n = r.plus f n k % 2 ^ f.wid := by
  by_cases hk : k = 0
  · subst hk
    simp [Regs.get]
  · simp [Regs.get, Regs.inc_cur hk]


/-- Keys of different registers differ: what a byte range of a block and a bit of a register give. -/
theorem Fld.key_def (f : Fld) (n : Nat) : f.key n = (f.base + f.stride * n) * 64 + f.lo := rfl

/-- The words that `putWords` writes leave every field outside their keys alone. -/
theorem Regs.putWords_get_ne (f g : Fld) (m : Nat) (ws : List Nat) : ∀ (r : Regs) (n : Nat),
    (∀ i, n ≤ i → i < n + ws.length → g.key m ≠ f.key i) → (Regs.putWords r f n ws).get g m = r.get g m := by
  induction ws with
  | nil => intro r n _; rfl
  | cons w ws ih =>
    intro r n h
    simp only [Regs.putWords]
    rw [ih (r.put f n w) (n + 1) (fun i h1 h2 => h i (by omega) (by simp only [List.length_cons]; omega))]
    exact Regs.get_put_ne r w (h n (Nat.le_refl n) (by simp))

/-! ### Lenses -/

@[simp] theorem State.chan_setChan_self (s : State) (c : Nat) (ch : Channel) :
    (s.setChan c ch).chan c = { ch with up := [] } := by
  simp [State.setChan, State.chan]

theorem State.chan_setChan_ne (s : State) {c d : Nat} (ch : Channel) (h : d ≠ c) : (s.setChan c ch).chan d = s.chan d := by
  simp [State.setChan, State.chan, SMap.getD_put_ne _ _ _ h]

@[simp] theorem State.setChan_mod (s : State) (c : Nat) (ch : Channel) :
    (s.setChan c ch).mod = ch.up.foldl (fun b e => b.takeUp c e) s.mod := rfl

@[simp] theorem Channel.lan_setLan_self (ch : Channel) (g : Nat) (l : Lantern) : (ch.setLan g l).lan g = l := by
  simp [Channel.setLan, Channel.lan]

theorem Channel.lan_setLan_ne (ch : Channel) {g h : Nat} (l : Lantern) (hg : h ≠ g) : (ch.setLan g l).lan h = ch.lan h := by
  simp [Channel.setLan, Channel.lan, SMap.getD_put_ne _ _ _ hg]

@[simp] theorem Channel.lan_modLan_self (ch : Channel) (g : Nat) (u : Lantern → Lantern) : (ch.modLan g u).lan g = u (ch.lan g) := by
  simp [Channel.modLan]

theorem Channel.lan_modLan_ne (ch : Channel) {g h : Nat} (u : Lantern → Lantern) (hg : h ≠ g) :
    (ch.modLan g u).lan h = ch.lan h := Channel.lan_setLan_ne ch _ hg

@[simp] theorem Channel.lan_lw_self (ch : Channel) (g : Nat) (f : Fld) (n v : Nat) : (ch.lw g f n v).lan g = (ch.lan g).w f n v := by
  simp [Channel.lw]

@[simp] theorem Channel.lan_linc_self (ch : Channel) (g : Nat) (f : Fld) (n k : Nat) :
    (ch.linc g f n k).lan g = (ch.lan g).inc f n k := by
  simp [Channel.linc]

theorem Channel.lan_lw_ne (ch : Channel) {g h : Nat} (f : Fld) (n v : Nat) (hg : h ≠ g) : (ch.lw g f n v).lan h = ch.lan h :=
  Channel.lan_modLan_ne ch _ hg

@[simp] theorem Lantern.core_modCore_self (l : Lantern) (k : Nat) (u : SparseCore → SparseCore) :
    (l.modCore k u).core k = u (l.core k) := by
  simp [Lantern.modCore, Lantern.core]

@[simp] theorem Lantern.bank_modBank_self (l : Lantern) (k : Nat) (u : Bank → Bank) : (l.modBank k u).bank k = u (l.bank k) := by
  simp [Lantern.modBank, Lantern.bank]

@[simp] theorem Lantern.r_w_self (l : Lantern) (f : Fld) (n v : Nat) : (l.w f n v).r f n = v % 2 ^ f.wid := Regs.get_put_self ..
theorem Lantern.r_w_ne (l : Lantern) {f g : Fld} {n m : Nat} (v : Nat) (h : g.key m ≠ f.key n) : (l.w f n v).r g m = l.r g m :=
  Regs.get_put_ne _ _ h
@[simp] theorem Channel.r_w_self (ch : Channel) (f : Fld) (n v : Nat) : (ch.w f n v).r f n = v % 2 ^ f.wid := Regs.get_put_self ..
theorem Channel.r_w_ne (ch : Channel) {f g : Fld} {n m : Nat} (v : Nat) (h : g.key m ≠ f.key n) : (ch.w f n v).r g m = ch.r g m :=
  Regs.get_put_ne _ _ h
@[simp] theorem Bridge.r_w_self (b : Bridge) (f : Fld) (n v : Nat) : (b.w f n v).r f n = v % 2 ^ f.wid := Regs.get_put_self ..
theorem Bridge.r_w_ne (b : Bridge) {f g : Fld} {n m : Nat} (v : Nat) (h : g.key m ≠ f.key n) : (b.w f n v).r g m = b.r g m :=
  Regs.get_put_ne _ _ h

@[simp] theorem Channel.r_setLan (ch : Channel) (g : Nat) (l : Lantern) (f : Fld) (n : Nat) : (ch.setLan g l).r f n = ch.r f n := rfl
@[simp] theorem Channel.r_modLan (ch : Channel) (g : Nat) (u : Lantern → Lantern) (f : Fld) (n : Nat) :
    (ch.modLan g u).r f n = ch.r f n := rfl
@[simp] theorem Channel.lan_w (ch : Channel) (f : Fld) (n v g : Nat) : (ch.w f n v).lan g = ch.lan g := rfl
@[simp] theorem Channel.lan_inc (ch : Channel) (f : Fld) (n k g : Nat) : (ch.inc f n k).lan g = ch.lan g := rfl
@[simp] theorem Channel.lan_tell (ch : Channel) (e : UpEv) (g : Nat) : (ch.tell e).lan g = ch.lan g := rfl
@[simp] theorem Channel.r_tell (ch : Channel) (e : UpEv) (f : Fld) (n : Nat) : (ch.tell e).r f n = ch.r f n := rfl

/-! ### The wrappers of the meanings -/

/-- A channel that is neither in reset nor powered down takes its command. -/
theorem State.onChan_run {s : State} {c : Nat} (hc : c < 12) (hh : s.mod.holds c = false) (u : Channel → Channel) :
    s.onChan c u = .next (s.setChan c (u (s.chan c))) := by
  simp [State.onChan, hc, hh]

/-- A channel held in reset or powered down does nothing. -/
theorem State.onChan_held {s : State} {c : Nat} (hc : c < 12) (hh : s.mod.holds c = true) (u : Channel → Channel) :
    s.onChan c u = .next s := by
  simp [State.onChan, hc, hh]

/-- Everything that a command inside one channel can do. -/
theorem State.onChan_cases {s t : State} {c : Nat} {u : Channel → Channel} (h : s.onChan c u = .next t) :
    t = s ∨ (c < 12 ∧ s.mod.holds c = false ∧ t = s.setChan c (u (s.chan c))) := by
  simp only [State.onChan] at h
  split at h
  · rename_i hc
    split at h
    · cases h; exact .inl rfl
    · rename_i hh
      cases h
      exact .inr ⟨hc, by simpa using hh, rfl⟩
  · cases h

theorem State.onLan_run {s : State} {c g : Nat} (hc : c < 12) (hg : g < 1536) (hh : s.mod.holds c = false)
    (hk : (s.chan c).clkOn = true) (u : Channel → Channel) : s.onLan c g u = .next (s.setChan c (u (s.chan c))) := by
  simp [State.onLan, hg, State.onArray, State.onChan_run hc hh, hk]

theorem State.onCore_run {s : State} {c g k : Nat} (hc : c < 12) (hg : g < 1536) (hk : k < 64) (hh : s.mod.holds c = false)
    (hr : (s.chan c).clkOn = true) (u : Channel → Channel) : s.onCore c g k u = .next (s.setChan c (u (s.chan c))) := by
  simp [State.onCore, hk, State.onLan_run hc hg hh hr]

theorem State.onMod_run {s : State} (h : s.mod.boot.inReset = false) (u : Bridge → Bridge) :
    s.onMod u = .next { s with mod := u s.mod } := by
  simp [State.onMod, h]

theorem State.onAll_run {s : State} (h : s.mod.boot.inReset = false) (u : State → State) : s.onAll u = .next (u s) := by
  simp [State.onAll, h]

theorem State.onUnit_run {s : State} {c : Nat} (hc : c < 12) (hh : s.mod.holds c = false) (u : State → State) :
    s.onUnit c u = .next (u s) := by
  simp [State.onUnit, hc, hh]

@[simp] theorem State.guard_true (s : State) (o : Out) : s.guard true o = o := rfl
@[simp] theorem State.guard_false (s : State) (o : Out) : s.guard false o = .fault .noSuchUnit := rfl

/-! ### Messages to the bridge -/

/-- Signalling a vector keeps the canonical form of the host's memory. -/
theorem Bridge.signal_hostMem_wf {b : Bridge} (h : Memory.wf b.hostMem = true) (v : Nat) :
    Memory.wf (b.signal v).hostMem = true := by
  simp only [Bridge.signal]
  (repeat' split) <;> first
    | exact h
    | exact Memory.wf_wrN h _ _

/-- What a message of a channel leaves alone in the bridge, one lemma a field. -/
theorem Bridge.takeUp_tb (b : Bridge) (c : Nat) (e : UpEv) : (b.takeUp c e).tb = b.tb := by
  cases e <;> (unfold Bridge.takeUp) <;> try rfl
  case modRecord cause unit detail => simp only [Bridge.raise]; (repeat' split) <;> rfl
  case forward ws => simp only [Bridge.event, Bridge.eventPut, Bridge.dropEvent]; (repeat' split) <;> rfl
  case event k p => simp only [Bridge.event, Bridge.eventPut, Bridge.dropEvent]; (repeat' split) <;> rfl
  case moved r id idx d bad => simp only [Bridge.moveLine, Bridge.complete, Bridge.modCmd]; (repeat' split) <;> rfl
  case msix v => simp only [Bridge.signal]; (repeat' split) <;> rfl

/-- The memory of the host keeps its canonical form, whatever a channel sends. -/
theorem Bridge.takeUp_hostMem_wf {b : Bridge} (h : Memory.wf b.hostMem = true) (c : Nat) (e : UpEv) :
    Memory.wf (b.takeUp c e).hostMem = true := by
  cases e <;> (unfold Bridge.takeUp) <;> try exact h
  case modRecord cause unit detail => simp only [Bridge.raise]; (repeat' split) <;> exact h
  case forward ws => simp only [Bridge.event, Bridge.eventPut, Bridge.dropEvent]; (repeat' split) <;> exact h
  case event k p => simp only [Bridge.event, Bridge.eventPut, Bridge.dropEvent]; (repeat' split) <;> exact h
  case moved r id idx d bad =>
    simp only [Bridge.moveLine, Bridge.complete, Bridge.modCmd]
    (repeat' split) <;> first
      | exact h
      | exact Memory.wf_wrN h _ _
  case hostWr k a d m who => exact Memory.wf_wrMask h a d m
  case msix v => exact Bridge.signal_hostMem_wf h v

theorem State.setChan_hostMem_wf {s : State} (h : Memory.wf s.mod.hostMem = true) (c : Nat) (ch : Channel) :
    Memory.wf (s.setChan c ch).mod.hostMem = true := by
  rw [State.setChan_mod]
  generalize ch.up = es
  generalize s.mod = b at h
  induction es generalizing b with
  | nil => exact h
  | cons e es ih => exact ih _ (Bridge.takeUp_hostMem_wf h c e)

end Sys2Proof.Machine
end

