-- ==== Sys2Proof/Laws/Access.lean ====
section
/-! SUPPORT. Where a register command leads: the device address of a register, and the one write of it that the access makes (R4, R6,
R172, R470, R473). -/

namespace Sys2Proof.Machine

/-! ### Device addresses -/

/-- A channel's window holds every address from its base (R470). -/
theorem chanWindow_win {c o : Nat} (hc : c < 12) (ho : o < 0x10000000) : chanWindow (winBase c + o) = some (c, o) := by
  unfold chanWindow
  rw [if_pos (by unfold winBase; omega)]
  have h1 : (winBase c + o - winBase 0) / 0x10000000 = c := by unfold winBase; omega
  have h2 : (winBase c + o - winBase 0) % 0x10000000 = o := by unfold winBase; omega
  rw [h1, h2]

/-- The bridge block lies in no channel's window (R470). -/
theorem chanWindow_bridge (o : Nat) : chanWindow (bridgeBase + o) = none := by
  unfold chanWindow
  rw [if_neg (by unfold winBase bridgeBase; omega)]

/-- A lantern's block stands in its channel's window (R172). -/
theorem lanOffset_lan {g o : Nat} (hg : g < 1536) (ho : o < 0x10000) : lanOffset (lanBase g + o) = some (g, o) := by
  unfold lanOffset
  rw [if_pos (by unfold lanBase; omega)]
  have h1 : (lanBase g + o - 0x08000000) / 0x10000 = g := by unfold lanBase; omega
  have h2 : (lanBase g + o) % 0x10000 = o := by unfold lanBase; omega
  rw [h1, h2]

theorem lanOffset_chan {o : Nat} (ho : o < 0x08000000) : lanOffset o = none := by
  unfold lanOffset
  rw [if_neg (by omega)]

/-! ### One access, one register -/

/-- The register at an offset is no wider than 32 bits. -/
def narrowAt (fs : List Fld) (o : Nat) : Bool :=
  match regAt fs o with
  | x :: _ => !x.1.wide
  | [] => false

theorem Regs.writes_narrow {fs : List Fld} {o : Nat} (h : narrowAt fs o = true) (h4 : o % 4 = 0) (r : Regs) (q v : Nat) :
    r.writes fs q o 4 v = (r, [{ off := o, v := v % 2 ^ 32 }], []) := by
  simp only [narrowAt] at h
  cases hx : regAt fs o with
  | nil => simp [hx] at h
  | cons x xs =>
    simp only [hx, Bool.not_eq_true'] at h
    simp [Regs.writes, h4, Regs.write32, regHolding, hx, wideAt, h]

theorem Regs.writes_wide {fs : List Fld} {o : Nat} {xs : List (Fld × Nat)} (h : wideAt fs o = some xs) (h8 : o % 8 = 0) (r : Regs)
    (q v : Nat) : r.writes fs q o 8 v = (r, [{ off := o, v := v % 2 ^ 64 }], []) := by
  simp [Regs.writes, h8, h]

/-- A write to an unheld, reachable channel's lantern register: one register of the lantern is written. -/
theorem State.devWrite_lan {s : State} {c g o size v : Nat} {req : Requester} {ws : List RegWr} {r : Regs} (hc : c < 12) (hg : g < 1536)
    (ho : o < 0xF000) (hh : s.mod.holds c = false) (hcut : (overAttachment req && s.cutOff c) = false) (hk : (s.chan c).clkOn = true)
    (hw : ((s.chan c).lan g).regs.writes lanternFields req.num o size v = (r, ws, [])) :
    s.devWrite req (winBase c + lanBase g + o) size v =
      s.setChan c (ws.foldl (fun ch x => ch.lanWrite1 (s.mod.r F.MOD_LEVEL_LEVEL) req g x)
        ((s.chan c).modLan g fun l => { l with regs := r })) := by
  have h1 : lanBase g + o < 0x10000000 := by simp only [lanBase]; omega
  rw [Nat.add_assoc]
  simp only [State.devWrite, chanWindow_win hc h1, hh, hcut, Channel.regWrite, lanOffset_lan hg (by omega : o < 0x10000), hk, hw,
    Channel.missed, List.foldl_nil]
  have : ¬ 0xF000 ≤ o := by omega
  simp [this]

/-- A write to a register of a channel block. -/
theorem State.devWrite_chan {s : State} {c o size v : Nat} {req : Requester} {ws : List RegWr} {r : Regs} (hc : c < 12)
    (ho : o < 0x08000000) (hh : s.mod.holds c = false) (hcut : (overAttachment req && s.cutOff c) = false)
    (hw : (s.chan c).regs.writes channelFields req.num o size v = (r, ws, [])) :
    s.devWrite req (winBase c + o) size v =
      s.setChan c (ws.foldl (fun (ch : Channel) x => ch.chanWrite1 (s.mod.r F.MOD_LEVEL_LEVEL) req x) { s.chan c with regs := r }) := by
  simp only [State.devWrite, chanWindow_win hc (by omega : o < 0x10000000), hh, hcut, Channel.regWrite, lanOffset_chan ho, hw,
    Channel.missed, List.foldl_nil]
  simp

/-- A write to a register of the bridge block outside the CXL registers. -/
theorem State.devWrite_bridge {s : State} {o size v : Nat} {req : Requester} {ws : List RegWr} {r : Regs} (ho : o < bridgeSize)
    (hx : cxlRegs o = false) (hw : s.mod.regs.writes bridgeFields req.num o size v = (r, ws, [])) :
    s.devWrite req (bridgeBase + o) size v =
      ws.foldl (fun s x => s.bridgeWrite1 req x) { s with mod := { s.mod with regs := r } } := by
  have h1 : bridgeBase ≤ bridgeBase + o ∧ bridgeBase + o < bridgeBase + bridgeSize := by omega
  have h2 : bridgeBase + o - bridgeBase = o := by omega
  simp only [State.devWrite, chanWindow_bridge, h1, h2, and_self, if_true, State.bridgeWrite, hx, hw, Bridge.missed, List.foldl_nil]
  rfl

end Sys2Proof.Machine
end

