-- ==== Sys2Proof/Laws/Core.lean ====
section
/-! SUPPORT. What one issue slot of a sparse core does (R92, R100), and what the core's bookkeeping leaves alone. -/

namespace Sys2Proof.Machine

/-- Settling a core changes its task list, the lantern's promoted tasks and CO_STATUS.BUSY, and nothing else in the lantern. -/
theorem Channel.coSettle_lan (ch : Channel) (g k : Nat) :
    ∃ q : List LTask, (ch.coSettle g k).lan g =
      ({ ch.lan g with
          cores := (ch.lan g).cores.put k { (ch.lan g).core k with
            tasks := ((ch.lan g).core k).tasks.filter fun t => !((t.ended || t.stopped) && !((ch.lan g).core k).busyWith t.id) },
          tq := { (ch.lan g).tq with tasks := q } } : Lantern).w F.CO_STATUS_BUSY k
        (b2n (!(((ch.lan g).core k).loadQ.isEmpty && ((ch.lan g).core k).mulQ.isEmpty && ((ch.lan g).core k).drainQ.isEmpty))) := by
  simp only [Channel.coSettle, Channel.lan_modLan_self]
  exact ⟨_, rfl⟩

theorem Channel.coSettle_lan_ne (ch : Channel) (g k : Nat) {h : Nat} (hg : h ≠ g) : (ch.coSettle g k).lan h = ch.lan h :=
  Channel.lan_modLan_ne ch _ hg

/-- The core after it has settled. -/
theorem Channel.coSettle_core (ch : Channel) (g k : Nat) :
    (ch.coSettle g k).core g k = { ch.core g k with
      tasks := (ch.core g k).tasks.filter fun t => !((t.ended || t.stopped) && !(ch.core g k).busyWith t.id) } := by
  obtain ⟨q, h⟩ := ch.coSettle_lan g k
  simp [Channel.core, h, Lantern.core, Lantern.w]

theorem Channel.modCore_lan_ne (ch : Channel) (g k : Nat) (f : SparseCore → SparseCore) {h : Nat} (hg : h ≠ g) :
    (ch.modCore g k f).lan h = ch.lan h := Channel.lan_modLan_ne ch _ hg

@[simp] theorem Channel.core_modCore_self (ch : Channel) (g k : Nat) (f : SparseCore → SparseCore) :
    (ch.modCore g k f).core g k = f (ch.core g k) := by
  simp [Channel.modCore, Channel.core]

theorem Lantern.core_modCore_ne (l : Lantern) {k j : Nat} (f : SparseCore → SparseCore) (h : j ≠ k) :
    (l.modCore k f).core j = l.core j := by
  simp [Lantern.modCore, Lantern.core, SMap.getD_put_ne _ _ _ h]

/-- A word that can issue acts by `body`, and the sequencer passes it. -/
theorem Channel.issue_ready {ch ch' : Channel} {g k op : Nat} {t : CTask} {w : Nat} (h : ch.CoReady g k op t w) (hop : op ≠ 6)
    {body : Channel → CTask → Nat → Option Channel} (hb : body ch t w = some ch')
    (hs : ∀ u ∈ (ch'.core g k).tasks, u.id = t.id → u.stopped = false) :
    ch.issue g k op body = (ch'.modCore g k (·.advance ch.cyc)).coSettle g k := by
  obtain ⟨h1, h2, h0, h3, h4, h5⟩ := h
  have hn : ((ch'.core g k).tasks.any fun u => u.id == t.id && u.stopped) = false := by
    simp only [List.any_eq_false, Bool.and_eq_true, beq_iff_eq, not_and, Bool.not_eq_true]
    exact hs
  by_cases h7 : (ch.core g k).ipos = 3
  · have h8 := h5 h7
    simp only [endOverdue, Bool.or_eq_false_iff, beq_eq_false_iff_ne, ne_eq] at h8
    simp [Channel.issue, h1, h2, h0, h3, hb, hn, h7, h8, hop, Channel.afterIssue]
  · simp [Channel.issue, h1, h2, h0, h3, hb, hn, h7, hop, Channel.afterIssue]

/-- END leaves the advance to its own effect. -/
theorem Channel.issue_end {ch ch' : Channel} {g k : Nat} {t : CTask} {w : Nat} (h : ch.CoReady g k 6 t w)
    {body : Channel → CTask → Nat → Option Channel} (hb : body ch t w = some ch') : ch.issue g k 6 body = ch' := by
  obtain ⟨h1, h2, h0, h3, -, -⟩ := h
  simp [Channel.issue, h1, h2, h0, h3, hb]

/-- In an empty task the instructions at hand are passed over, four in a cycle (R108). -/
theorem Channel.issue_empty {ch : Channel} {g k op : Nat} {t : CTask} {w : Nat} (h1 : (ch.core g k).nextWord ch.cyc = some (t, w))
    (h2 : tOp w = op) (h3 : tileInvalid w (!t.opened) = false) (h4 : t.empty = true)
    (body : Channel → CTask → Nat → Option Channel) : ch.issue g k op body = ch.passOver g k 4 := by
  simp [Channel.issue, h1, h2, h3, h4]

/-- An invalid word stops its task whatever the command names. -/
theorem Channel.issue_invalid {ch : Channel} {g k op : Nat} {t : CTask} {w : Nat}
    (h1 : (ch.core g k).nextWord ch.cyc = some (t, w)) (h2 : tileInvalid w (!t.opened) = true)
    (body : Channel → CTask → Nat → Option Channel) : ch.issue g k op body = ch.coreInvalid g k t := by
  simp [Channel.issue, h1, h2]

end Sys2Proof.Machine
end

