-- ==== Sys2Proof/Laws/Errors.lean ====
section
/-! SUPPORT. What raising a record changes: the registers of the ERR_ block, the health counts, the pending records, the limits of a
tick, the tainted contexts and the messages to the bridge; and nothing else. -/

namespace Sys2Proof.Machine

/-- The key of a field of the ERR_ block (R439). -/
abbrev errKey (k : Nat) : Prop := 0x10000 * 64 ≤ k ∧ k < 0x11000 * 64

/-- What hardware writes into a field leaves a requester's halves alone (R5, R6). -/
theorem Regs.put_hold (r : Regs) (f : Fld) (n v : Nat) : (r.put f n v).hold = r.hold := by
  simp only [Regs.put]
  split <;> rfl

theorem Regs.put_capt (r : Regs) (f : Fld) (n v : Nat) : (r.put f n v).capt = r.capt := by
  simp only [Regs.put]
  split <;> rfl

/-- An increment is the write of what the counter comes to. -/
theorem Regs.inc_like_put (r : Regs) (f : Fld) (n k : Nat) :
    (r.inc f n k).clrs = r.clrs ∧ (r.inc f n k).shadow = r.shadow ∧ (r.inc f n k).hold = r.hold ∧ (r.inc f n k).capt = r.capt ∧
      ∀ (g : Fld) (m : Nat), g.key m ≠ f.key n → (r.inc f n k).get g m = r.get g m := by
  by_cases hk : k = 0
  · simp [hk]
  · refine ⟨by simp, by simp, ?_, ?_, fun g m h => Regs.get_inc_ne r k h⟩
    · simp [Regs.inc, hk, Regs.mark, Regs.store]
    · simp [Regs.inc, hk, Regs.mark, Regs.store]

/-- `a` is `b` but for what raising a record changes. -/
def Channel.ErrOnly (a b : Channel) : Prop :=
  ∃ (r : Regs) (h : SMap Nat) (p : List PendRec) (o t : List Nat) (u : List UpEv),
    a = { b with regs := r, err := { b.err with health := h, pend := p, once := o }, ctx := { b.ctx with taint := t }, up := u } ∧
    r.clrs = b.regs.clrs ∧ r.shadow = b.regs.shadow ∧ r.hold = b.regs.hold ∧ r.capt = b.regs.capt ∧
    ∀ (f : Fld) (n : Nat), ¬ errKey (f.key n) → r.get f n = b.regs.get f n

theorem Channel.ErrOnly.refl (a : Channel) : a.ErrOnly a :=
  ⟨a.regs, a.err.health, a.err.pend, a.err.once, a.ctx.taint, a.up, rfl, rfl, rfl, rfl, rfl, fun _ _ _ => rfl⟩

theorem Channel.ErrOnly.trans {a b c : Channel} (h : a.ErrOnly b) (k : b.ErrOnly c) : a.ErrOnly c := by
  obtain ⟨r, h1, p, o, t, u, e, e1, e2, e3, e4, e5⟩ := h
  obtain ⟨r', h1', p', o', t', u', e', e1', e2', e3', e4', e5'⟩ := k
  subst e'
  exact ⟨r, h1, p, o, t, u, e, e1.trans e1', e2.trans e2', e3.trans e3', e4.trans e4', fun f n hk => (e5 f n hk).trans (e5' f n hk)⟩

theorem Channel.ErrOnly.w (a : Channel) (f : Fld) (n v : Nat) (h : errKey (f.key n)) : (a.w f n v).ErrOnly a :=
  ⟨a.regs.put f n v, a.err.health, a.err.pend, a.err.once, a.ctx.taint, a.up, rfl, by simp, by simp, Regs.put_hold .., Regs.put_capt ..,
    fun _ _ hk => Regs.get_put_ne _ _ fun e => hk (e ▸ h)⟩

theorem Channel.ErrOnly.inc (a : Channel) (f : Fld) (n v : Nat) (h : errKey (f.key n)) : (a.inc f n v).ErrOnly a :=
  have ⟨h1, h2, h3, h4, h5⟩ := a.regs.inc_like_put f n v
  ⟨a.regs.inc f n v, a.err.health, a.err.pend, a.err.once, a.ctx.taint, a.up, rfl, h1, h2, h3, h4, fun g m hk =>
    h5 g m fun e => hk (e ▸ h)⟩

theorem Channel.ErrOnly.tell (a : Channel) (e : UpEv) : (a.tell e).ErrOnly a :=
  ⟨a.regs, a.err.health, a.err.pend, a.err.once, a.ctx.taint, _, rfl, rfl, rfl, rfl, rfl, fun _ _ _ => rfl⟩

theorem Channel.ErrOnly.pend (a : Channel) (p : List PendRec) : ({ a with err := { a.err with pend := p } } : Channel).ErrOnly a :=
  ⟨a.regs, a.err.health, p, a.err.once, a.ctx.taint, a.up, rfl, rfl, rfl, rfl, rfl, fun _ _ _ => rfl⟩

theorem Channel.ErrOnly.once (a : Channel) (o : List Nat) : ({ a with err := { a.err with once := o } } : Channel).ErrOnly a :=
  ⟨a.regs, a.err.health, a.err.pend, o, a.ctx.taint, a.up, rfl, rfl, rfl, rfl, rfl, fun _ _ _ => rfl⟩

theorem Channel.ErrOnly.putWords (a : Channel) (f : Fld) (n : Nat) (ws : List Nat)
    (h : ∀ i, n ≤ i → i < n + ws.length → errKey (f.key i)) : ({ a with regs := a.regs.putWords f n ws } : Channel).ErrOnly a := by
  induction ws generalizing a n with
  | nil => exact .refl a
  | cons w ws ih =>
    exact .trans (ih (a.w f n w) (n + 1) fun i h1 h2 => h i (by omega) (by simp only [List.length_cons]; omega))
      (.w a f n w (h n (Nat.le_refl n) (by simp)))

theorem Channel.ErrOnly.taintCtx (a : Channel) (c : Option Nat) : (a.taintCtx c).ErrOnly a := by
  cases c with
  | none => exact .refl a
  | some n =>
    simp only [Channel.taintCtx]
    split
    · exact .refl a
    · exact ⟨a.regs, a.err.health, a.err.pend, a.err.once, _, a.up, rfl, rfl, rfl, rfl, rfl, fun _ _ _ => rfl⟩

theorem Channel.ErrOnly.healthEvent (a : Channel) (cause unit : Nat) : (a.healthEvent cause unit).1.ErrOnly a := by
  simp only [Channel.healthEvent]
  split
  · exact .refl a
  · exact ⟨a.regs, _, a.err.pend, a.err.once, a.ctx.taint, a.up, rfl, rfl, rfl, rfl, rfl, fun _ _ _ => rfl⟩

theorem recordWords_length (seq cls raised cause : Nat) (esc : Bool) (ctx : Option Nat) (tick phase unit health detail : Nat) :
    (recordWords seq cls raised cause esc ctx tick phase unit health detail).length = 4 := rfl

theorem Channel.ErrOnly.ringPut (a : Channel) (ws : List Nat) (h : ws.length = 4) : (a.ringPut ws).ErrOnly a := by
  simp only [Channel.ringPut]
  refine .trans (.w _ _ _ _ (by decide)) (.trans (.w _ _ _ _ (by decide)) (.trans (.w _ _ _ _ (by decide)) (.putWords _ _ _ _ ?_)))
  intro i h1 h2
  simp only [errKey, Fld.key, F.ERR_RING_REC]
  omega

theorem Channel.ErrOnly.fatalRecord (a : Channel) (ws : List Nat) (cause : Nat) (p : PendRec) (h : ws.length = 4) :
    (a.fatalRecord ws cause p).ErrOnly a := by
  simp only [Channel.fatalRecord]
  split
  · exact .inc _ _ _ _ (by decide)
  · refine .trans (.tell _ _) (.trans (.w _ _ _ _ (by decide)) ?_)
    refine Channel.ErrOnly.trans (b := { a with regs := a.regs.putWords F.ERR_FATAL_REC_REC 0 ws, err := { a.err with pend := a.err.pend ++ [p] } }) ?_ ?_
    · split
      · exact .ringPut _ _ h
      · exact .inc _ _ _ _ (by decide)
    · refine Channel.ErrOnly.trans (.pend { a with regs := a.regs.putWords F.ERR_FATAL_REC_REC 0 ws } (a.err.pend ++ [p])) (.putWords a _ _ _ ?_)
      intro i h1 h2
      simp only [errKey, Fld.key, F.ERR_FATAL_REC_REC]
      omega

/-- Raising a record changes the error state and nothing else. -/
theorem Channel.ErrOnly.raise (a : Channel) (cause unit : Nat) (ctx : Option Nat) (detail : Nat) :
    (a.raise cause unit ctx detail).ErrOnly a := by
  have h0 := Channel.ErrOnly.healthEvent a cause unit
  simp only [Channel.raise]
  generalize a.healthEvent cause unit = x at h0 ⊢
  obtain ⟨b, l, reached, lasting⟩ := x
  simp only at h0 ⊢
  generalize (b.err.pend.any (fun p => p.unit == unit) && !(cause == 0xA7 && b.err.pend.any
    (fun p => p.unit == unit && p.cause == 0xA7 && p.detail == detail))) = esc
  refine Channel.ErrOnly.trans ?_ h0
  have h1 : (if esc = true then b.inc F.ERR_ESC_CNT_COUNT 0 1 else b).ErrOnly b := by
    split
    · exact .inc _ _ _ _ (by decide)
    · exact .refl b
  generalize (if esc = true then b.inc F.ERR_ESC_CNT_COUNT 0 1 else b) = d at h1 ⊢
  refine Channel.ErrOnly.trans ?_ h1
  generalize (if esc = true then min (min (causeClass cause) 2 + 1) 2 else min (causeClass cause) 2) = cls
  split
  · exact .inc _ _ _ _ (by decide)
  · split
    · exact .fatalRecord _ _ _ _ (recordWords_length ..)
    · split
      · exact .trans (.fatalRecord _ _ _ _ (recordWords_length ..)) (.trans (.w _ _ _ _ (by decide)) (.inc _ _ _ _ (by decide)))
      · refine .trans (.inc _ _ _ _ ?_) ?_
        · split <;> decide
        · split
          · exact .trans (.taintCtx _ _) (.trans (.pend _ _) (.ringPut _ _ (recordWords_length ..)))
          · exact .trans (.pend _ _) (.ringPut _ _ (recordWords_length ..))

theorem Channel.ErrOnly.raiseOnce (a : Channel) (key cause unit : Nat) (ctx : Option Nat) (detail : Nat) :
    (a.raiseOnce key cause unit ctx detail).ErrOnly a := by
  simp only [Channel.raiseOnce]
  split
  · exact .healthEvent a cause unit
  · exact .trans (.raise _ _ _ _ _) (.once _ _)

/-- What such a change leaves alone. -/
theorem Channel.ErrOnly.lans {a b : Channel} (h : a.ErrOnly b) : a.lans = b.lans := by
  obtain ⟨r, h1, p, o, t, u, rfl, _⟩ := h; rfl
theorem Channel.ErrOnly.lan {a b : Channel} (h : a.ErrOnly b) (g : Nat) : a.lan g = b.lan g := by
  simp only [Channel.lan, h.lans]
theorem Channel.ErrOnly.cyc {a b : Channel} (h : a.ErrOnly b) : a.cyc = b.cyc := by
  obtain ⟨r, h1, p, o, t, u, rfl, _⟩ := h; rfl
theorem Channel.ErrOnly.no {a b : Channel} (h : a.ErrOnly b) : a.no = b.no := by
  obtain ⟨r, h1, p, o, t, u, rfl, _⟩ := h; rfl
theorem Channel.ErrOnly.clkOn {a b : Channel} (h : a.ErrOnly b) : a.clkOn = b.clkOn := by
  obtain ⟨r, h1, p, o, t, u, rfl, _⟩ := h; rfl
theorem Channel.ErrOnly.hbm {a b : Channel} (h : a.ErrOnly b) : a.hbm = b.hbm := by
  obtain ⟨r, h1, p, o, t, u, rfl, _⟩ := h; rfl
theorem Channel.ErrOnly.link {a b : Channel} (h : a.ErrOnly b) : a.link = b.link := by
  obtain ⟨r, h1, p, o, t, u, rfl, _⟩ := h; rfl
theorem Channel.ErrOnly.pwr {a b : Channel} (h : a.ErrOnly b) : a.pwr = b.pwr := by
  obtain ⟨r, h1, p, o, t, u, rfl, _⟩ := h; rfl
theorem Channel.ErrOnly.reg {a b : Channel} (h : a.ErrOnly b) (f : Fld) (n : Nat) (hk : ¬ errKey (f.key n)) : a.r f n = b.r f n := by
  obtain ⟨r, h1, p, o, t, u, rfl, _, _, _, _, h5⟩ := h
  exact h5 f n hk

@[simp] theorem Channel.raise_lan (ch : Channel) (cause unit : Nat) (ctx : Option Nat) (d g : Nat) :
    (ch.raise cause unit ctx d).lan g = ch.lan g := (Channel.ErrOnly.raise ch cause unit ctx d).lan g
@[simp] theorem Channel.raiseOnce_lan (ch : Channel) (k cause unit : Nat) (ctx : Option Nat) (d g : Nat) :
    (ch.raiseOnce k cause unit ctx d).lan g = ch.lan g := (Channel.ErrOnly.raiseOnce ch k cause unit ctx d).lan g
@[simp] theorem Channel.raise_cyc (ch : Channel) (cause unit : Nat) (ctx : Option Nat) (d : Nat) :
    (ch.raise cause unit ctx d).cyc = ch.cyc := (Channel.ErrOnly.raise ch cause unit ctx d).cyc
@[simp] theorem Channel.raiseOnce_cyc (ch : Channel) (k cause unit : Nat) (ctx : Option Nat) (d : Nat) :
    (ch.raiseOnce k cause unit ctx d).cyc = ch.cyc := (Channel.ErrOnly.raiseOnce ch k cause unit ctx d).cyc
@[simp] theorem Channel.raise_hbm (ch : Channel) (cause unit : Nat) (ctx : Option Nat) (d : Nat) :
    (ch.raise cause unit ctx d).hbm = ch.hbm := (Channel.ErrOnly.raise ch cause unit ctx d).hbm
@[simp] theorem Channel.raise_link (ch : Channel) (cause unit : Nat) (ctx : Option Nat) (d : Nat) :
    (ch.raise cause unit ctx d).link = ch.link := (Channel.ErrOnly.raise ch cause unit ctx d).link
@[simp] theorem Channel.raise_no (ch : Channel) (cause unit : Nat) (ctx : Option Nat) (d : Nat) :
    (ch.raise cause unit ctx d).no = ch.no := (Channel.ErrOnly.raise ch cause unit ctx d).no
@[simp] theorem Channel.raise_pwr (ch : Channel) (cause unit : Nat) (ctx : Option Nat) (d : Nat) :
    (ch.raise cause unit ctx d).pwr = ch.pwr := (Channel.ErrOnly.raise ch cause unit ctx d).pwr

end Sys2Proof.Machine
end

