-- ==== Sys2Proof/Laws/Exec.lean ====
section
/-! SUPPORT. The wrapper in which the meaning of each command stands: the commands of one channel, of one lantern's array and lantern
domain, and of the bridge. -/

namespace Sys2Proof.Machine

/-- An outcome that only what happens inside channel `c` can shape. -/
def State.Inside (s : State) (c : Nat) (o : Out) : Prop := o = .fault .noSuchUnit ∨ ∃ f : Channel → Channel, o = s.onChan c f

/-- As `Inside`, for a command that leaves the channel as it is while the array clock is stopped. -/
def State.InArray (s : State) (c : Nat) (o : Out) : Prop := o = .fault .noSuchUnit ∨ ∃ f : Channel → Channel, o = s.onArray c f

/-- An outcome that only what happens in the bridge can shape. -/
def State.InBridge (s : State) (o : Out) : Prop := o = .fault .noSuchUnit ∨ ∃ f : Bridge → Bridge, o = s.onMod f

theorem State.InArray.lan (s : State) (c g : Nat) (f : Channel → Channel) : s.InArray c (s.onLan c g f) := by
  simp only [State.onLan]
  split
  · exact .inr ⟨_, rfl⟩
  · exact .inl rfl

theorem State.InArray.core (s : State) (c g k : Nat) (f : Channel → Channel) : s.InArray c (s.onCore c g k f) := by
  simp only [State.onCore]
  split
  · exact .lan ..
  · exact .inl rfl

theorem State.InArray.guard {s : State} {c : Nat} {o : Out} (b : Bool) (h : s.InArray c o) : s.InArray c (s.guard b o) := by
  cases b
  · exact .inl rfl
  · exact h

theorem State.InArray.inside {s : State} {c : Nat} {o : Out} (h : s.InArray c o) : s.Inside c o := by
  obtain h | ⟨f, h⟩ := h
  · exact .inl h
  · exact .inr ⟨_, h⟩

theorem State.Inside.chan (s : State) (c : Nat) (f : Channel → Channel) : s.Inside c (s.onChan c f) := .inr ⟨f, rfl⟩

theorem State.Inside.guard {s : State} {c : Nat} {o : Out} (b : Bool) (h : s.Inside c o) : s.Inside c (s.guard b o) := by
  cases b
  · exact .inl rfl
  · exact h

theorem State.InBridge.mod (s : State) (f : Bridge → Bridge) : s.InBridge (s.onMod f) := .inr ⟨f, rfl⟩

theorem State.InBridge.guard {s : State} {o : Out} (b : Bool) (h : s.InBridge o) : s.InBridge (s.guard b o) := by
  cases b
  · exact .inl rfl
  · exact h

/-- Every command of the array and lantern domain stands in its wrapper. -/
theorem exec_lanternOf {i : Instr} {c g : Nat} (h : i.lanternOf = some (c, g)) (s : State) : s.InArray c (exec i s) := by
  cases i
  all_goals first
    | (cases h; done)
    | (cases h; dsimp only [exec]; first
        | exact .core _ _ _ _ _
        | exact .lan _ _ _ _
        | exact .guard _ (.lan _ _ _ _))

/-- Every command of one channel stands in its wrapper. -/
theorem exec_channelOf {i : Instr} {c : Nat} (h : i.channelOf = some c) (s : State) : s.Inside c (exec i s) := by
  cases i
  all_goals first
    | (cases h; done)
    | (cases h; dsimp only [exec]; first
        | exact (State.InArray.core _ _ _ _ _).inside
        | exact (State.InArray.lan _ _ _ _).inside
        | exact .chan _ _ _
        | exact (State.InArray.guard _ (.lan _ _ _ _)).inside
        | exact .guard _ (.chan _ _ _))

/-- Every command of the bridge stands in its wrapper. -/
theorem exec_inBridge {i : Instr} (h : i.inBridge = true) (s : State) : s.InBridge (exec i s) := by
  cases i
  all_goals first
    | (cases h; done)
    | (dsimp only [exec]; first
        | exact .mod _ _
        | exact .guard _ (.mod _ _))

end Sys2Proof.Machine
end

