-- ==== Sys2Proof/Laws/Kept.lean ====
section
/-! SUPPORT. Which operations of the bridge write the memory of the host, and that those which do keep its canonical form. -/

namespace Sys2Proof.Machine

/-- The memory of the host is in its canonical form. -/
def Bridge.HostOk (b : Bridge) : Prop := Memory.wf b.hostMem = true

theorem Bridge.HostOk.of_eq {a b : Bridge} (h : b.HostOk) (e : a.hostMem = b.hostMem) : a.HostOk := by
  unfold Bridge.HostOk at *
  rw [e]
  exact h

/-- A fold over operations that leave the memory of the host alone. -/
theorem Bridge.foldl_hostMem {α : Type} (f : Bridge → α → Bridge) (h : ∀ b x, (f b x).hostMem = b.hostMem) (xs : List α) :
    ∀ b : Bridge, (xs.foldl f b).hostMem = b.hostMem := by
  induction xs with
  | nil => intro b; rfl
  | cons x xs ih => intro b; exact (ih (f b x)).trans (h b x)

/-- A fold over operations that keep the form of the memory of the host. -/
theorem Bridge.HostOk.foldl {α : Type} (f : Bridge → α → Bridge) (h : ∀ b x, b.HostOk → (f b x).HostOk) (xs : List α) :
    ∀ b : Bridge, b.HostOk → (xs.foldl f b).HostOk := by
  induction xs with
  | nil => intro b hb; exact hb
  | cons x xs ih => intro b hb; exact ih (f b x) (h b x hb)

/-! ### Operations that leave the memory of the host alone -/

@[simp] theorem Bridge.miss_hostMem (b : Bridge) (chan addr req : Nat) (wr narrow misal : Bool) : (b.miss chan addr req wr narrow misal).hostMem = b.hostMem := by
  unfold Bridge.miss; (try dsimp only); (repeat' split) <;> first | rfl | (simp; done)

@[simp] theorem Bridge.ringPut_hostMem (b : Bridge) (ws : List Nat) : (b.ringPut ws).hostMem = b.hostMem := by
  unfold Bridge.ringPut; (try dsimp only); (repeat' split) <;> first | rfl | (simp; done)

@[simp] theorem Bridge.raise_hostMem (b : Bridge) (cause unit detail : Nat) : (b.raise cause unit detail).hostMem = b.hostMem := by
  unfold Bridge.raise; (try dsimp only); (repeat' split) <;> first | rfl | (simp; done)

@[simp] theorem Bridge.modRing_hostMem (b : Bridge) (r : Nat) (f : Ring → Ring) : (b.modRing r f).hostMem = b.hostMem := by
  unfold Bridge.modRing; (try dsimp only); (repeat' split) <;> first | rfl | (simp; done)

@[simp] theorem Bridge.dropEvent_hostMem (b : Bridge) (kind : Nat) (payload : List (BitVec 8)) : (b.dropEvent kind payload).hostMem = b.hostMem := by
  unfold Bridge.dropEvent; (try dsimp only); (repeat' split) <;> first | rfl | (simp; done)

@[simp] theorem Bridge.eventPut_hostMem (b : Bridge) (kind : Nat) (p : List (BitVec 8)) : (b.eventPut kind p).hostMem = b.hostMem := by
  unfold Bridge.eventPut; (try dsimp only); (repeat' split) <;> first | rfl | (simp; done)

@[simp] theorem Bridge.event_hostMem (b : Bridge) (kind : Nat) (ws : List Nat) : (b.event kind ws).hostMem = b.hostMem := by
  unfold Bridge.event; (try dsimp only); (repeat' split) <;> first | rfl | (simp; done)

@[simp] theorem Bridge.modCmd_hostMem (b : Bridge) (r id : Nat) (f : HCmd → HCmd) : (b.modCmd r id f).hostMem = b.hostMem := by
  unfold Bridge.modCmd; (try dsimp only); (repeat' split) <;> first | rfl | (simp; done)

@[simp] theorem Bridge.complete_hostMem (b : Bridge) (r : Nat) (x : HCmd) (status : Nat) (payload : List (BitVec 8)) : (b.complete r x status payload).hostMem = b.hostMem := by
  unfold Bridge.complete; (try dsimp only); (repeat' split) <;> first | rfl | (simp; done)

@[simp] theorem Bridge.pwrLog_hostMem (b : Bridge) (c reason op : Nat) : (b.pwrLog c reason op).hostMem = b.hostMem := by
  unfold Bridge.pwrLog; (try dsimp only); (repeat' split) <;> first | rfl | (simp; done)

@[simp] theorem Bridge.showPhase_hostMem (b : Bridge) : (b.showPhase).hostMem = b.hostMem := by
  unfold Bridge.showPhase; (try dsimp only); (repeat' split) <;> first | rfl | (simp; done)

@[simp] theorem Bridge.cycle_hostMem (b : Bridge) : (b.cycle).hostMem = b.hostMem := by
  unfold Bridge.cycle; (try dsimp only); (repeat' split) <;> first | rfl | (simp; done)

@[simp] theorem Bridge.tickBegin_hostMem (b : Bridge) (count ts : Nat) (hold : Bool) : (b.tickBegin count ts hold).hostMem = b.hostMem := by
  unfold Bridge.tickBegin; (try dsimp only); (repeat' split) <;> first | rfl | (simp; done)

@[simp] theorem Bridge.interval_hostMem (b : Bridge) (d : Nat) : (b.interval d).hostMem = b.hostMem := by
  unfold Bridge.interval; (try dsimp only); (repeat' split) <;> first | rfl | (simp; done)

@[simp] theorem Bridge.follow_hostMem (b : Bridge) (at_ : Nat) : (b.follow at_).hostMem = b.hostMem := by
  unfold Bridge.follow; (try dsimp only); (repeat' split) <;> first | rfl | (simp; done)

@[simp] theorem Bridge.edge_hostMem (b : Bridge) (now at_ : Nat) (count : Option Nat) : (b.edge now at_ count).1.hostMem = b.hostMem := by
  unfold Bridge.edge
  dsimp only
  (repeat' split) <;> simp

@[simp] theorem Bridge.soundAlarm_hostMem (b : Bridge) : b.soundAlarm.hostMem = b.hostMem := by
  unfold Bridge.soundAlarm
  dsimp only
  split <;> simp

@[simp] theorem Bridge.fsync_hostMem (b : Bridge) (at_ : Nat) : (b.fsync at_).hostMem = b.hostMem := by
  unfold Bridge.fsync
  split <;> simp

@[simp] theorem Bridge.marker_hostMem (b : Bridge) (at_ lat arg0 epoch : Nat) : (b.marker at_ lat arg0 epoch).hostMem = b.hostMem := by
  unfold Bridge.marker
  dsimp only
  (repeat' split) <;> simp

@[simp] theorem Bridge.lock_hostMem (b : Bridge) : (b.lock).hostMem = b.hostMem := by
  unfold Bridge.lock; (try dsimp only); (repeat' split) <;> first | rfl | (simp; done)

@[simp] theorem Bridge.freerun_hostMem (b : Bridge) (at_ : Nat) : (b.freerun at_).hostMem = b.hostMem := by
  unfold Bridge.freerun; (try dsimp only); (repeat' split) <;> first | rfl | (simp; done)

@[simp] theorem Bridge.holdoverTick_hostMem (b : Bridge) : (b.holdoverTick).hostMem = b.hostMem := by
  unfold Bridge.holdoverTick; (try dsimp only); (repeat' split) <;> first | rfl | (simp; done)

@[simp] theorem Bridge.clockAlarm_hostMem (b : Bridge) : (b.clockAlarm).hostMem = b.hostMem := by
  unfold Bridge.clockAlarm; (try dsimp only); (repeat' split) <;> first | rfl | (simp; done)

@[simp] theorem Bridge.holdoverEnd_hostMem (b : Bridge) : (b.holdoverEnd).hostMem = b.hostMem := by
  unfold Bridge.holdoverEnd; (try dsimp only); (repeat' split) <;> first | rfl | (simp; done)

@[simp] theorem Bridge.supplyFault_hostMem (b : Bridge) : (b.supplyFault).hostMem = b.hostMem := by
  unfold Bridge.supplyFault; (try dsimp only); (repeat' split) <;> first | rfl | (simp; done)

@[simp] theorem Bridge.average_hostMem (b : Bridge) (mv ma w : Nat) : (b.average mv ma w).hostMem = b.hostMem := by
  unfold Bridge.average; (try dsimp only); (repeat' split) <;> first | rfl | (simp; done)

@[simp] theorem Bridge.takeRecord_hostMem (b : Bridge) : (b.takeRecord).hostMem = b.hostMem := by
  unfold Bridge.takeRecord; (try dsimp only); (repeat' split) <;> first | rfl | (simp; done)

@[simp] theorem Bridge.linkDrop_hostMem (b : Bridge) : (b.linkDrop).hostMem = b.hostMem := by
  unfold Bridge.linkDrop; (try dsimp only); (repeat' split) <;> first | rfl | (simp; done)

@[simp] theorem Bridge.linkDown_hostMem (b : Bridge) : (b.linkDown).hostMem = b.hostMem := by
  unfold Bridge.linkDown; (try dsimp only); (repeat' split) <;> first | rfl | (simp; done)

@[simp] theorem Bridge.tbClrCnt_hostMem (b : Bridge) : (b.tbClrCnt).hostMem = b.hostMem := rfl

@[simp] theorem Bridge.errClrCnt_hostMem (b : Bridge) : (b.errClrCnt).hostMem = b.hostMem := rfl

@[simp] theorem Bridge.mapClrCnt_hostMem (b : Bridge) : (b.mapClrCnt).hostMem = b.hostMem := rfl

@[simp] theorem Bridge.hpClrCnt_hostMem (b : Bridge) : (b.hpClrCnt).hostMem = b.hostMem := rfl

@[simp] theorem Bridge.hostReset_hostMem (b : Bridge) : (b.hostReset).hostMem = b.hostMem := by
  unfold Bridge.hostReset
  dsimp only
  exact Bridge.foldl_hostMem (fun (b : Bridge) (e : HEntry) => b.dropEvent e.type e.payload) (fun b x => Bridge.dropEvent_hostMem ..) _ b

@[simp] theorem Bridge.perstAssert_hostMem (b : Bridge) : (b.perstAssert).hostMem = b.hostMem := by
  unfold Bridge.perstAssert; (try dsimp only); (repeat' split) <;> first | rfl | (simp; done)

@[simp] theorem Bridge.perstDeassert_hostMem (b : Bridge) : (b.perstDeassert).hostMem = b.hostMem := by
  unfold Bridge.perstDeassert; (try dsimp only); (repeat' split) <;> first | rfl | (simp; done)

@[simp] theorem Bridge.linkUp_hostMem (b : Bridge) (rates widths : Nat) (flit68 : Bool) : (b.linkUp rates widths flit68).hostMem = b.hostMem := by
  unfold Bridge.linkUp; (try dsimp only); (repeat' split) <;> first | rfl | (simp; done)

@[simp] theorem Bridge.hpCfgErr_hostMem (b : Bridge) : (b.hpCfgErr).hostMem = b.hostMem := by
  unfold Bridge.hpCfgErr; (try dsimp only); (repeat' split) <;> first | rfl | (simp; done)

@[simp] theorem Bridge.cfgRead_hostMem (b : Bridge) (o : Nat) : (b.cfgRead o).2.hostMem = b.hostMem := by
  unfold Bridge.cfgRead Bridge.freeVal
  dsimp only
  (repeat' split) <;> rfl

@[simp] theorem Bridge.configRequest_hostMem (b : Bridge) (o : Nat) (wr : Bool) (v : Nat) :
    (b.configRequest o wr v).hostMem = b.hostMem := by
  unfold Bridge.configRequest
  dsimp only
  (repeat' split) <;> simp

@[simp] theorem Bridge.ringError_hostMem (b : Bridge) (r : Nat) : (b.ringError r).hostMem = b.hostMem := by
  unfold Bridge.ringError Bridge.freeVal
  simp

@[simp] theorem Bridge.doorbell_hostMem (b : Bridge) (r off size v : Nat) : (b.doorbell r off size v).hostMem = b.hostMem := by
  unfold Bridge.doorbell; (try dsimp only); (repeat' split) <;> first | rfl | (simp; done)

@[simp] theorem Bridge.ringStart_hostMem (b : Bridge) (r : Nat) : (b.ringStart r).hostMem = b.hostMem := by
  unfold Bridge.ringStart; (try dsimp only); (repeat' split) <;> first | rfl | (simp; done)

@[simp] theorem Bridge.commandFetch_hostMem (b : Bridge) (r : Nat) (entry : List (BitVec 8)) : (b.commandFetch r entry).hostMem = b.hostMem := by
  unfold Bridge.commandFetch; (try dsimp only); (repeat' split) <;> first | rfl | (simp; done)

@[simp] theorem Bridge.snoopOut_hostMem (b : Bridge) (addr : Nat) : (b.snoopOut addr).hostMem = b.hostMem := by
  unfold Bridge.snoopOut; (try dsimp only); (repeat' split) <;> first | rfl | (simp; done)

@[simp] theorem Bridge.mailbox_hostMem (b : Bridge) (k : Nat) : (b.mailbox k).hostMem = b.hostMem := by
  unfold Bridge.mailbox; (try dsimp only); (repeat' split) <;> first | rfl | (simp; done)

@[simp] theorem Bridge.modHalf_hostMem (b : Bridge) (h : Nat) (f : Half → Half) : (b.modHalf h f).hostMem = b.hostMem := by
  unfold Bridge.modHalf; (try dsimp only); (repeat' split) <;> first | rfl | (simp; done)

@[simp] theorem Bridge.frameSend_hostMem (b : Bridge) (silent : List Nat) : (b.frameSend silent).hostMem = b.hostMem := by
  unfold Bridge.frameSend
  dsimp only
  refine (Bridge.foldl_hostMem _ (fun b h => ?_) _ _).trans (by simp)
  split <;> simp

@[simp] theorem Bridge.yield_hostMem (b : Bridge) (h : Nat) : (b.yield h).hostMem = b.hostMem := by
  unfold Bridge.yield; (try dsimp only); (repeat' split) <;> first | rfl | (simp; done)

@[simp] theorem Bridge.flashLost_hostMem (b : Bridge) : (b.flashLost).hostMem = b.hostMem := by
  unfold Bridge.flashLost; (try dsimp only); (repeat' split) <;> first | rfl | (simp; done)

@[simp] theorem Bridge.noImage_hostMem (b : Bridge) : b.noImage.hostMem = b.hostMem := by
  unfold Bridge.noImage
  simp

@[simp] theorem Bridge.verifyAgain_hostMem (b : Bridge) : (b.verifyAgain).hostMem = b.hostMem := by
  unfold Bridge.verifyAgain; (try dsimp only); (repeat' split) <;> first | rfl | (simp; done)

@[simp] theorem Bridge.passItems_hostMem (b : Bridge) : (b.passItems).hostMem = b.hostMem := by
  unfold Bridge.passItems; (try dsimp only); (repeat' split) <;> first | rfl | (simp; done)

@[simp] theorem Bridge.selfTest_hostMem (b : Bridge) (h : Nat) (pass idOk : Bool) (id : Nat) : (b.selfTest h pass idOk id).hostMem = b.hostMem := by
  unfold Bridge.selfTest; (try dsimp only); (repeat' split) <;> first | rfl | (simp; done)

@[simp] theorem Bridge.electionTimeout_hostMem (b : Bridge) (h : Nat) : (b.electionTimeout h).hostMem = b.hostMem := by
  unfold Bridge.electionTimeout; (try dsimp only); (repeat' split) <;> first | rfl | (simp; done)

@[simp] theorem Bridge.flashWr_hostMem (b : Bridge) (dev a : Nat) (d : List (BitVec 8)) : (b.flashWr dev a d).hostMem = b.hostMem := by
  unfold Bridge.flashWr; (try dsimp only); (repeat' split) <;> first | rfl | (simp; done)

@[simp] theorem Bridge.applyRec_hostMem (b : Bridge) (x : Rec) : (b.applyRec x).hostMem = b.hostMem := by
  unfold Bridge.applyRec
  dsimp only
  (repeat' split) <;> first
    | (simp; done)
    | (refine Bridge.foldl_hostMem _ ?_ _ _; intro b y; rfl)

@[simp] theorem Bridge.verifyFails_hostMem (b : Bridge) (cause : Nat) : (b.verifyFails cause).hostMem = b.hostMem := by
  unfold Bridge.verifyFails; (try dsimp only); (repeat' split) <;> first | rfl | (simp; done)

@[simp] theorem Bridge.imageVerify_hostMem (b : Bridge) (responds : Bool) : (b.imageVerify responds).hostMem = b.hostMem := by
  unfold Bridge.imageVerify
  dsimp only
  (repeat' split) <;> first
    | rfl
    | (simp; done)
    | exact (Bridge.foldl_hostMem _ Bridge.applyRec_hostMem _ _).trans (by simp)

@[simp] theorem Bridge.flashCmd_hostMem (b : Bridge) (op dev addr : Nat) : (b.flashCmd op dev addr).hostMem = b.hostMem := by
  unfold Bridge.flashCmd; (try dsimp only); (repeat' split) <;> first | rfl | (simp; done)

@[simp] theorem Bridge.flashDone_hostMem (b : Bridge) (err : Bool) : (b.flashDone err).hostMem = b.hostMem := by
  unfold Bridge.flashDone
  split
  · rfl
  · dsimp only
    split
    · simp
    · split
      · exact (Bridge.foldl_hostMem _ (fun b y => Bridge.w_hostMem ..) _ _).trans (by simp)
      · split
        · exact (Bridge.flashWr_hostMem ..).trans (by simp)
        · exact (Bridge.flashWr_hostMem ..).trans (by rw [Bridge.modBoot_hostMem, Bridge.w_hostMem])

@[simp] theorem Bridge.spdm_hostMem (b : Bridge) (q : SpdmReq) : (b.spdm q).hostMem = b.hostMem := by
  unfold Bridge.spdm; (try dsimp only); (repeat' split) <;> first | rfl | (simp; done)

@[simp] theorem Bridge.cfgErr_hostMem (b : Bridge) (o : Nat) : (b.cfgErr o).hostMem = b.hostMem := by
  unfold Bridge.cfgErr; (try dsimp only); (repeat' split) <;> first | rfl | (simp; done)

@[simp] theorem Bridge.answerTo_hostMem (b : Bridge) (req : Requester) (v : Nat) : (b.answerTo req v).hostMem = b.hostMem := by
  unfold Bridge.answerTo; (try dsimp only); (repeat' split) <;> first | rfl | (simp; done)

@[simp] theorem Bridge.fogLow_hostMem (b : Bridge) : (b.fogLow).hostMem = b.hostMem := by
  unfold Bridge.fogLow; (try dsimp only); (repeat' split) <;> first | rfl | (simp; done)

@[simp] theorem Bridge.missed_hostMem (b : Bridge) (req : Requester) (wr : Bool) (ms : List Miss) :
    (b.missed req wr ms).hostMem = b.hostMem := by
  unfold Bridge.missed
  exact Bridge.foldl_hostMem _ (fun b y => Bridge.miss_hostMem ..) _ _

@[simp] theorem Bridge.cxlRead_hostMem (b : Bridge) (o : Nat) : (b.cxlRead o).2.hostMem = b.hostMem := by
  unfold Bridge.cxlRead Bridge.freeVal
  split <;> rfl

@[simp] theorem Bridge.blockRead_hostMem (b : Bridge) (req : Requester) (o size : Nat) :
    (b.blockRead req o size).2.hostMem = b.hostMem := by
  unfold Bridge.blockRead
  dsimp only
  (repeat' split) <;> simp

@[simp] theorem Bridge.numbered_hostMem (b : Bridge) : b.numbered.hostMem = b.hostMem := by
  unfold Bridge.numbered
  split <;> simp

@[simp] theorem Bridge.fwDone_hostMem (b : Bridge) (c : Nat) : (b.fwDone c).hostMem = b.hostMem := by
  unfold Bridge.fwDone
  dsimp only
  split <;> simp

/-! ### Operations that write it -/

theorem Bridge.HostOk.signal {b : Bridge} (h : b.HostOk) (v : Nat) : (b.signal v).HostOk := Bridge.signal_hostMem_wf h v

theorem Bridge.HostOk.sendPending {b : Bridge} (h : b.HostOk) : (b.sendPending).HostOk :=
  Bridge.HostOk.foldl _ (fun _ x hb => hb.signal x) _ _ h

theorem Bridge.HostOk.msixWrite {b : Bridge} (h : b.HostOk) (vec w v : Nat) : (b.msixWrite vec w v).HostOk := by
  unfold Bridge.msixWrite
  split
  · exact Bridge.HostOk.sendPending h
  · exact h

theorem Bridge.HostOk.msixMask {b : Bridge} (h : b.HostOk) (vec : Option Nat) (mask : Bool) : (b.msixMask vec mask).HostOk := by
  unfold Bridge.msixMask
  split
  · exact h.msixWrite ..
  · exact Bridge.HostOk.sendPending h

theorem Bridge.HostOk.msixEntry {b : Bridge} (h : b.HostOk) (vec : Option Nat) (addr data : Nat) (mask : Bool) :
    (b.msixEntry vec addr data mask).HostOk := by
  unfold Bridge.msixEntry
  split
  · exact (((h.msixWrite ..).msixWrite ..).msixWrite ..).msixMask ..
  · exact h.msixMask ..

/-- A write into the memory of the host. -/
theorem Bridge.HostOk.wrN {b : Bridge} (h : b.HostOk) (a : Nat) (d : List (BitVec 8)) :
    ({ b with hostMem := b.hostMem.wrN a d } : Bridge).HostOk := by
  unfold Bridge.HostOk at *
  dsimp only
  exact Memory.wf_wrN h a d

theorem Bridge.HostOk.writeEntry {b : Bridge} (h : b.HostOk) (r : Nat) (e : HEntry) : (b.writeEntry r e).HostOk := by
  unfold Bridge.writeEntry
  extract_lets t d b1 b2 t2 b3 b4
  have h1 : b1.HostOk := h.wrN _ _
  have h3 : b3.HostOk := h1.of_eq ((Bridge.w_hostMem ..).trans (Bridge.modRing_hostMem ..))
  have h4 : b4.HostOk := h3.of_eq (by simp only [b4]; split <;> simp)
  split
  · exact Bridge.HostOk.signal (h4.of_eq (by simp)) _
  · exact h4

theorem Bridge.HostOk.completionWrite {b : Bridge} (h : b.HostOk) (r : Nat) : (b.completionWrite r).HostOk := by
  unfold Bridge.completionWrite
  split
  · exact h
  · split
    · split
      · exact Bridge.HostOk.writeEntry (h.of_eq (by simp)) _ _
      · exact h.of_eq (by simp)
    · split
      · exact h
      · split
        · exact h
        · extract_lets b2
          have h2 : b2.HostOk := h
          clear_value b2
          split
          · exact h2.writeEntry _ _
          · exact h2.of_eq (by simp)

theorem Bridge.HostOk.coalesceFlush {b : Bridge} (h : b.HostOk) (r : Nat) : (b.coalesceFlush r).HostOk := by
  unfold Bridge.coalesceFlush
  split
  · exact Bridge.HostOk.signal (h.of_eq (by simp)) _
  · exact h

/-- The copied entries of a ring pair are written again. -/
theorem Bridge.HostOk.rewrite (r : Nat) (es : List (Nat × List (BitVec 8))) : ∀ {b : Bridge}, b.HostOk →
    (es.foldl (fun (b : Bridge) e => { b with hostMem := b.hostMem.wrN (b.cpAddr r e.1) e.2 }) b).HostOk := by
  induction es with
  | nil => intro b h; exact h
  | cons e es ih => intro b h; exact ih (h.wrN _ _)

theorem Bridge.HostOk.replay {b : Bridge} (h : b.HostOk) (half : Nat) : (b.replay half).HostOk := by
  unfold Bridge.replay
  extract_lets b1
  have h1 : b1.HostOk := by
    refine Bridge.HostOk.foldl _ (fun b rq hb => ?_) _ _ h
    exact (Bridge.HostOk.rewrite rq.1 rq.2.mirror hb).of_eq (Bridge.modRing_hostMem ..)
  exact h1.of_eq (by simp)

theorem Bridge.HostOk.lightMoved {b : Bridge} (h : b.HostOk) (k : Nat) : (b.lightMoved k).HostOk := by
  unfold Bridge.lightMoved
  extract_lets b1 b2 b3 b4 b5 b6
  have h5 : b5.HostOk := h.of_eq (by simp [b5, b4, b3, b2, b1])
  have h6 : b6.HostOk := h5.replay k
  split
  · exact h6.of_eq (by simp)
  · exact h6

theorem Bridge.HostOk.grantTo {b : Bridge} (h : b.HostOk) (k : Nat) : (b.grantTo k).HostOk := by
  unfold Bridge.grantTo
  extract_lets old first b1 b2 b3
  have h2 : b2.HostOk := h.of_eq (by simp [b2, b1])
  split
  · exact h2.of_eq (by simp [b3])
  · split
    · exact h2.of_eq (by simp)
    · exact h2.lightMoved k

theorem Bridge.HostOk.select {b : Bridge} (h : b.HostOk) : (b.select).HostOk := by
  unfold Bridge.select
  extract_lets c
  clear_value c
  split
  · exact h
  · cases c with
    | some k => exact h.grantTo k
    | none => exact h.of_eq (by simp)

theorem Bridge.HostOk.frameIn {b : Bridge} (h : b.HostOk) (k w : Nat) : (b.frameIn k w).HostOk := by
  unfold Bridge.frameIn
  dsimp only
  refine (Bridge.HostOk.select (b := _) (h.of_eq ?_)).of_eq (Bridge.yield_hostMem ..)
  split <;> simp

theorem Bridge.HostOk.takeover {b : Bridge} (h : b.HostOk) (k : Nat) : (b.takeover k).HostOk := by
  unfold Bridge.takeover
  dsimp only
  (repeat' split) <;> first
    | exact h
    | exact h.of_eq (by simp)
    | exact Bridge.HostOk.select (h.of_eq (by simp))

theorem Bridge.HostOk.watchdog {b : Bridge} (h : b.HostOk) (k : Nat) : (b.watchdog k).HostOk := by
  unfold Bridge.watchdog
  (repeat' split) <;> first
    | exact h
    | exact h.of_eq (by simp)
    | exact Bridge.HostOk.select (h.of_eq (by simp))

theorem Bridge.HostOk.moveLine {b : Bridge} (h : b.HostOk) (r id idx : Nat) (d : Option (List (BitVec 8))) (bad : Bool) :
    (b.moveLine r id idx d bad).HostOk := Bridge.takeUp_hostMem_wf h 0 (.moved r id idx d bad)

theorem Bridge.HostOk.takeUp {b : Bridge} (h : b.HostOk) (c : Nat) (e : UpEv) : (b.takeUp c e).HostOk := Bridge.takeUp_hostMem_wf h c e

end Sys2Proof.Machine
end

