-- ==== Sys2Proof/Laws/Form.lean ====
section
/-! SUPPORT. The operations on the whole module leave the waiting commands alone and keep the form of the state. -/

namespace Sys2Proof.Machine

/-- `t` has the waiting commands of `s`, and the form of a state if `s` has it. -/
structure State.Kept (s t : State) : Prop where
  queue : t.pending = s.pending
  form : s.Inv → t.Inv

theorem State.Kept.refl (s : State) : s.Kept s := ⟨rfl, id⟩

theorem State.Kept.trans {s t u : State} (h : s.Kept t) (k : t.Kept u) : s.Kept u :=
  ⟨k.queue.trans h.queue, fun i => k.form (h.form i)⟩

theorem State.Kept.ite {s t u : State} {p : Prop} [Decidable p] (h : s.Kept t) (k : s.Kept u) : s.Kept (if p then t else u) := by
  split
  · exact h
  · exact k

/-- A change of the bridge that keeps the form of the host's memory. -/
theorem State.Kept.mod {s : State} {b : Bridge} (h : s.mod.HostOk → b.HostOk) : s.Kept { s with mod := b } :=
  ⟨rfl, fun i => ⟨i.1, i.2.1, h i.2.2⟩⟩

/-- A change of the bridge that leaves the host's memory alone. -/
theorem State.Kept.modEq {s : State} {b : Bridge} (h : b.hostMem = s.mod.hostMem) : s.Kept { s with mod := b } :=
  .mod fun k => k.of_eq h

theorem State.Kept.setChan (s : State) (c : Nat) (ch : Channel) : s.Kept (s.setChan c ch) := by
  refine ⟨rfl, fun i => ⟨?_, ?_, State.setChan_hostMem_wf i.2.2 c ch⟩⟩
  · exact SMap.sorted_put i.1 _ _
  · intro x hx
    obtain rfl | hx := SMap.mem_put hx
    · rfl
    · exact i.2.1 x hx

/-- No channel is stored. -/
theorem State.Kept.fresh (s : State) : s.Kept { s with chans := [] } :=
  ⟨rfl, fun i => ⟨rfl, ⟨fun _ hx => (nomatch hx), i.2.2⟩⟩⟩

theorem State.Kept.foldl {α : Type} (f : State → α → State) (h : ∀ (s : State) x, s.Kept (f s x)) (xs : List α) :
    ∀ s : State, s.Kept (xs.foldl f s) := by
  induction xs with
  | nil => intro s; exact .refl s
  | cons x xs ih => intro s; exact (h s x).trans (ih _)

theorem State.Kept.eachChan (s : State) (f : Nat → Channel → Channel) : s.Kept (s.eachChan f) := by
  refine State.Kept.foldl _ (fun s c => ?_) _ s
  exact .ite (.refl s) (.setChan ..)

/-! ### Accesses -/

theorem State.Kept.enterRun (s : State) : s.Kept s.enterRun := by
  unfold State.enterRun
  extract_lets t
  have h : s.Kept t := .modEq (Bridge.w_hostMem ..)
  exact h.trans (.eachChan t _)

theorem State.Kept.goSettle (s : State) : s.Kept s.goSettle := by
  unfold State.goSettle
  exact .ite (State.Kept.trans (State.Kept.modEq (Bridge.modBoot_hostMem ..)) (.enterRun _)) (.refl s)

theorem State.Kept.go (s : State) : s.Kept s.go := by
  unfold State.go
  refine .ite (.modEq (by simp)) (.ite (.refl s) ?_)
  extract_lets t
  have h : s.Kept t := .eachChan ..
  exact h.trans (State.Kept.trans (State.Kept.modEq (Bridge.modBoot_hostMem ..)) (.goSettle _))

theorem State.Kept.powerDown (s : State) (mask : Nat) : s.Kept (s.powerDown mask) := by
  refine State.Kept.foldl _ (fun s c => ?_) _ s
  dsimp only
  (repeat' split) <;> first
    | exact .refl s
    | exact .modEq (by simp)

theorem State.Kept.onB (s : State) (w : WrOut) (f : Fld) (g : Bridge → Bridge) (h : ∀ b, (g b).hostMem = b.hostMem) :
    s.Kept (if w.val f = 0 then s else { s with mod := g s.mod }) := .ite (.refl s) (.modEq (h _))

theorem State.Kept.bridgeAct (s : State) (o : Nat) (en0 : Nat → Nat) (w : WrOut) : s.Kept (s.bridgeAct o en0 w) := by
  unfold State.bridgeAct
  extract_lets onB s1 s2 s3 s4 s5 s6 s7
  have h1 : s.Kept s1 := .onB _ _ _ _ Bridge.tbClrCnt_hostMem
  have h2 : s1.Kept s2 := .onB _ _ _ _ Bridge.hpClrCnt_hostMem
  have h3 : s2.Kept s3 := .onB _ _ _ _ Bridge.errClrCnt_hostMem
  have h4 : s3.Kept s4 := .onB _ _ _ _ Bridge.mapClrCnt_hostMem
  have h5 : s4.Kept s5 := .ite (.refl _) (.go _)
  have h6 : s5.Kept s6 := .ite (.refl _) (.powerDown ..)
  have h7 : s6.Kept s7 := .ite (.modEq (Bridge.flashCmd_hostMem ..)) (.refl _)
  have h := (((((h1.trans h2).trans h3).trans h4).trans h5).trans h6).trans h7
  split
  · exact .ite (h.trans (.modEq (Bridge.ringStart_hostMem ..))) h
  · exact h

theorem State.Kept.bridgeWrite1 (s : State) (req : Requester) (x : RegWr) : s.Kept (s.bridgeWrite1 req x) := by
  unfold State.bridgeWrite1
  extract_lets b w b1 b2
  refine State.Kept.trans (t := { s with mod := b2 }) (.modEq ?_) (.bridgeAct ..)
  simp only [b2]
  split
  · exact Bridge.cfgErr_hostMem ..
  · rfl

theorem State.Kept.bridgeWrite (s : State) (req : Requester) (o size v : Nat) : s.Kept (s.bridgeWrite req o size v) := by
  unfold State.bridgeWrite
  split
  · refine .ite (.modEq (Bridge.missed_hostMem ..)) (.modEq ?_)
    split <;> simp
  · generalize s.mod.regs.writes bridgeFields req.num o size v = y
    obtain ⟨r, ws, ms⟩ := y
    dsimp only
    have h1 : s.Kept { s with mod := { s.mod with regs := r } } := .modEq rfl
    generalize ({ s with mod := { s.mod with regs := r } } : State) = s1 at h1
    have h2 : s1.Kept (ws.foldl (fun s x => s.bridgeWrite1 req x) s1) := .foldl _ (fun s x => .bridgeWrite1 s req x) _ _
    exact (h1.trans h2).trans (.modEq (Bridge.missed_hostMem ..))

theorem State.Kept.devWrite (s : State) (req : Requester) (a size v : Nat) : s.Kept (s.devWrite req a size v) := by
  unfold State.devWrite
  split
  · refine .ite (.ite (.modEq (by simp)) (.refl s)) (.ite (.refl s) (.setChan ..))
  · exact .ite (.bridgeWrite ..) (.modEq (by simp))

theorem State.Kept.blockReadTo (s : State) (req : Requester) (o size : Nat) : s.Kept (s.blockReadTo req o size) := by
  unfold State.blockReadTo
  exact .modEq ((Bridge.answerTo_hostMem ..).trans (Bridge.blockRead_hostMem ..))

theorem State.Kept.devRead (s : State) (req : Requester) (a size : Nat) : s.Kept (s.devRead req a size) := by
  unfold State.devRead
  split
  · refine .ite (.modEq ?_) (.ite (.refl s) (.setChan ..))
    split <;> simp
  · exact .ite (.blockReadTo ..) (.modEq ((Bridge.answerTo_hostMem ..).trans (Bridge.miss_hostMem ..)))

theorem State.Kept.i3c (s : State) (o : Nat) (wr : Bool) (v : Nat) : s.Kept (s.i3c o wr v) := by
  unfold State.i3c
  extract_lets o a b
  have hb : b.hostMem = s.mod.hostMem := Bridge.miss_hostMem ..
  clear_value b a
  refine .ite (.modEq ?_) (.ite (.devWrite ..) (.devRead ..))
  split
  · exact hb
  · exact (Bridge.answerTo_hostMem ..).trans hb

theorem State.Kept.aperture (s : State) (off z : Nat) (wr : Bool) (v : Nat) : s.Kept (s.aperture off z wr v) := by
  unfold State.aperture
  exact .ite (.devWrite ..) (.devRead ..)

/-! ### Host commands and host accesses -/

theorem State.Kept.finishCmd (s : State) (r : Nat) (x : HCmd) (status : Nat) (p : List (BitVec 8)) :
    s.Kept (s.finishCmd r x status p) := .modEq (Bridge.complete_hostMem ..)

theorem State.Kept.startCmd (s : State) (r op : Nat) (f : HCmd → State → State) (h : ∀ x (s : State), s.Kept (f x s)) :
    s.Kept (s.startCmd r op f) := by
  unfold State.startCmd
  split
  · exact .refl s
  · exact .ite (h _ s) (.ite (.modEq (Bridge.complete_hostMem ..)) (.refl s))

theorem State.Kept.cmdNop (s : State) (r : Nat) : s.Kept (s.cmdNop r) := .startCmd _ _ _ _ fun _ _ => .finishCmd ..

theorem State.Kept.cmdCtx (s : State) (r : Nat) : s.Kept (s.cmdCtx r) := by
  unfold State.cmdCtx
  split
  · exact .finishCmd ..
  · refine .startCmd _ _ _ _ fun x s => ?_
    refine .ite (.finishCmd ..) (.ite (.finishCmd ..) (.ite (.refl s) ?_))
    exact State.Kept.trans (State.Kept.setChan ..) (.modEq (Bridge.modCmd_hostMem ..))

theorem State.Kept.cmdPageReady (s : State) (r : Nat) : s.Kept (s.cmdPageReady r) := by
  refine .startCmd _ _ _ _ fun x s => ?_
  dsimp only
  (repeat' refine .ite ?_ ?_) <;> first
    | exact .finishCmd ..
    | exact .refl s
    | exact State.Kept.trans (State.Kept.setChan ..) (.finishCmd ..)

theorem State.Kept.cmdMove (s : State) (r : Nat) (data : List (BitVec 8)) (errs : List Nat) : s.Kept (s.cmdMove r data errs) := by
  refine .startCmd _ _ _ _ fun x s => ?_
  dsimp only
  (repeat' refine .ite ?_ ?_) <;> first
    | exact .finishCmd ..
    | exact .refl s
    | exact State.Kept.trans (State.Kept.setChan ..) (.modEq (Bridge.modCmd_hostMem ..))

theorem State.Kept.snapBlock (s : State) (o : Nat) : s.Kept (s.snapBlock o).2 := by
  unfold State.snapBlock
  exact .modEq (Bridge.blockRead_hostMem ..)

theorem State.Kept.snapRead (s : State) (a : Nat) : s.Kept (s.snapRead a).2 := by
  unfold State.snapRead
  split
  · split
    · exact .refl s
    · exact .setChan ..
  · exact .snapBlock ..

theorem State.Kept.cmdSnap (s : State) (r : Nat) : s.Kept (s.cmdSnap r) := by
  refine .startCmd _ _ _ _ fun x s => ?_
  dsimp only
  refine .ite (.finishCmd ..) (.ite (.finishCmd ..) (.ite (.refl s) ?_))
  refine State.Kept.trans (State.Kept.foldl _ (fun s i => ?_) _ _) (.finishCmd ..)
  exact State.Kept.trans (State.Kept.snapRead ..) (.mod fun h => h.wrN _ _)

theorem State.Kept.cmdRegWrite (s : State) (r : Nat) : s.Kept (s.cmdRegWrite r) := by
  refine .startCmd _ _ _ _ fun x s => ?_
  dsimp only
  refine .ite (.finishCmd ..) (.ite (.refl s) ?_)
  exact State.Kept.trans (State.Kept.foldl _ (fun s w => .devWrite ..) _ _) (.finishCmd ..)

theorem State.Kept.hostTo (s : State) (c : Nat) (f : State → State) (h : s.Kept (f s)) : s.Kept (s.hostTo c f) := .ite (.refl s) h

theorem State.Kept.hdmRead (s : State) (d tag : Nat) (enter : Bool) : s.Kept (s.hdmRead d tag enter) := by
  unfold State.hdmRead
  exact .ite (.refl s) (.ite (.modEq (by simp)) (.setChan ..))

theorem State.Kept.hdmWrite (s : State) (d tag : Nat) (data : List (BitVec 8)) (mask : List Bool) :
    s.Kept (s.hdmWrite d tag data mask) := by
  unfold State.hdmWrite
  exact .ite (.refl s) (.ite (.modEq (by simp)) (.setChan ..))

/-! ### Start-up and the light -/

theorem State.Kept.follow (s : State) (b : Bridge) (h : s.mod.HostOk → b.HostOk) : s.Kept (s.follow b) := by
  unfold State.follow
  extract_lets fresh t
  have ht : s.Kept t := by
    refine State.Kept.trans (t := { s with chans := if fresh = true then [] else s.chans }) ?_ (.mod h)
    split
    · exact .fresh s
    · exact .refl s
  exact .ite ht (ht.trans (.eachChan ..))

theorem State.Kept.imageVerify (s : State) (responds : Bool) : s.Kept (s.imageVerify responds) :=
  .follow s _ fun h => h.of_eq (Bridge.imageVerify_hostMem ..)

theorem State.Kept.perstAssert (s : State) : s.Kept s.perstAssert := by
  unfold State.perstAssert
  have h : s.Kept { s with mod := s.mod.perstAssert } := .modEq (Bridge.perstAssert_hostMem ..)
  exact h.trans (.eachChan ..)

theorem State.Kept.perstDeassert (s : State) : s.Kept s.perstDeassert := by
  unfold State.perstDeassert
  have h : s.Kept { s with mod := s.mod.perstDeassert } := .modEq (Bridge.perstDeassert_hostMem ..)
  exact h.trans (.eachChan ..)

theorem State.Kept.failImage (s : State) (cause : Nat) : s.Kept (s.failImage cause) :=
  State.Kept.trans (State.Kept.fresh s) (.modEq (Bridge.verifyFails_hostMem ..))

theorem State.Kept.fwLanded (s : State) (c : Nat) : s.Kept (s.fwLanded c) := by
  unfold State.fwLanded
  split
  · exact .refl s
  · refine .ite (.refl s) (.ite (.failImage ..) ?_)
    exact (State.Kept.modEq (Bridge.fwDone_hostMem ..)).trans (.setChan ..)

theorem State.Kept.distTimeout (s : State) (c : Nat) : s.Kept (s.distTimeout c) := .ite (.failImage ..) (.refl s)

theorem State.Kept.placed (s : State) (p : Nat) : s.Kept (s.placed p) := by
  unfold State.placed
  exact (State.Kept.eachChan s _).trans (.ite (.enterRun _) (.modEq (Bridge.w_hostMem ..)))

theorem State.Kept.choosePlace (s : State) : s.Kept s.choosePlace := by
  unfold State.choosePlace
  extract_lets x usable b1 b2 place
  have hb : b2.hostMem = s.mod.hostMem := by simp [b2, b1]
  clear_value place b2
  refine .ite (.refl s) ?_
  cases place with
  | none => exact .modEq ((Bridge.w_hostMem ..).trans hb)
  | some p => exact (State.Kept.modEq ((Bridge.w_hostMem ..).trans hb)).trans (.placed ..)

theorem State.Kept.calDone (s : State) (c : Nat) (r : CalReport) : s.Kept (s.calDone c r) := by
  unfold State.calDone
  refine .ite (.refl s) ?_
  generalize (s.chan c).calibrated r (s.mod.r F.HP_LIGHT_LIT) = y
  obtain ⟨ch, ok⟩ := y
  refine State.Kept.trans (State.Kept.setChan s c ch) (State.Kept.trans (State.Kept.modEq ?_) (.choosePlace _))
  exact Bridge.modBoot_hostMem ..

theorem State.Kept.calTimeout (s : State) (c : Nat) : s.Kept (s.calTimeout c) := by
  unfold State.calTimeout
  exact .ite (.refl s) (State.Kept.trans (State.Kept.modEq (Bridge.modBoot_hostMem ..)) (.choosePlace _))

theorem State.Kept.wipe (s : State) (p : Bool) : s.Kept (s.wipe p) :=
  ⟨rfl, fun i => ⟨rfl, ⟨fun _ hx => (nomatch hx), i.2.2⟩⟩⟩

theorem State.Kept.release (s : State) (pref : Nat) : s.Kept (s.release pref) := by
  unfold State.release
  exact .ite (.modEq (Bridge.modBoot_hostMem ..)) (.refl s)

/-! ### Losses and dumps -/

theorem State.Kept.replaceLanterns (s : State) (c : Nat) : s.Kept (s.replaceLanterns c) := by
  refine State.Kept.foldl _ (fun s x => ?_) _ s
  dsimp only
  split
  · exact .ite (State.Kept.trans (State.Kept.setChan ..) (.eachChan ..)) (.setChan ..)
  · exact .setChan ..

theorem State.Kept.channelLoss (s : State) (c : Nat) : s.Kept (s.channelLoss c) := by
  unfold State.channelLoss
  split
  · exact .refl s
  · extract_lets s1 b0 b1 up b2 b3 all
    have h1 : s.Kept s1 := .setChan ..
    have hb : b3.hostMem = s1.mod.hostMem := (Bridge.raise_hostMem ..).trans (Bridge.w_hostMem ..)
    clear_value b3 all s1
    refine .ite (h1.trans (.modEq hb)) ?_
    split
    · exact h1.trans (.modEq ((Bridge.modBoot_hostMem ..).trans hb))
    · exact h1.trans (.modEq ((Bridge.raise_hostMem ..).trans hb))

theorem State.Kept.placementResume (s : State) (c : Nat) : s.Kept (s.placementResume c) := by
  unfold State.placementResume
  split
  · exact .refl s
  · rename_i p lost got _
    extract_lets ch t got' want b u
    have ht : s.Kept t := .setChan ..
    have hb : b.hostMem = t.mod.hostMem := (Bridge.w_hostMem ..).trans (Bridge.modBoot_hostMem ..)
    have hu : t.Kept u := .modEq ((Bridge.raise_hostMem ..).trans hb)
    refine .ite ht (.ite (ht.trans (hu.trans (.eachChan ..))) (ht.trans (.modEq (Bridge.modBoot_hostMem ..))))

theorem State.Kept.stopAll (s : State) : s.Kept s.stopAll := by
  unfold State.stopAll
  extract_lets t
  have h : s.Kept t := .eachChan ..
  exact h.trans (.modEq (Bridge.w_hostMem ..))

theorem State.Kept.moduleFatal (s : State) : s.Kept s.moduleFatal := by
  unfold State.moduleFatal
  split
  · exact .refl s
  · extract_lets b0 b1 b2 b3 seq b4 s1 s2
    have hb : b4.hostMem = s.mod.hostMem := by simp [b4, b3, b2, b1, b0]
    have h1 : s.Kept s1 := .modEq hb
    have h2 : s1.Kept s2 := .eachChan ..
    exact (h1.trans h2).trans (.stopAll _)

theorem State.Kept.fogIn (s : State) (node seq cause : Nat) (line : Bool) : s.Kept (s.fogIn node seq cause line) := by
  unfold State.fogIn
  extract_lets b b1 b2 b3 b4 b5 b6 t
  have ht : s.Kept t := .modEq (by simp [b6, b5, b4, b3, b2, b1, b])
  exact .ite (ht.trans (.stopAll _)) ht

theorem State.Kept.fogPacket (s : State) (c : Nat) : s.Kept (s.fogPacket c) := by
  unfold State.fogPacket
  dsimp only
  split
  · exact .ite (.setChan ..) (State.Kept.trans (State.Kept.setChan ..) (.fogIn ..))
  · exact .setChan ..

theorem State.Kept.fogTimeout (s : State) : s.Kept s.fogTimeout := .ite (.fogIn ..) (.refl s)

theorem State.Kept.dumpDone (s : State) (c : Nat) : s.Kept (s.dumpDone c) := by
  unfold State.dumpDone
  dsimp only
  split
  · exact .refl s
  · exact .setChan ..

theorem State.Kept.dumpHostCopy (s : State) : s.Kept s.dumpHostCopy := by
  unfold State.dumpHostCopy
  extract_lets b limit host
  refine .ite (.refl s) ?_
  split
  · exact .refl s
  · extract_lets ch
    refine .ite (.refl s) ?_
    extract_lets
    rename_i at_ d k entry m m2 x last
    refine .mod fun h => ?_
    have hm : Memory.wf m = true := by
      simp only [m]
      split
      · exact Memory.wf_wrN h _ _
      · exact h
    have hm2 : Memory.wf m2 = true := Memory.wf_wrN (Memory.wf_wrNat (Memory.wf_wrN hm _ _) _ _ _) _ _
    clear_value m2
    split
    · exact Bridge.HostOk.of_eq (b := { x with hostMem := m2.wrNat (host + 0x0C) 4 1 }) (Memory.wf_wrNat hm2 _ _ _) (Bridge.w_hostMem ..)
    · exact hm2

/-! ### Ticks -/

theorem State.Kept.tickMessage (s : State) (c : Nat) : s.Kept (s.tickMessage c) := by
  unfold State.tickMessage
  refine .ite ?_ (.refl s)
  extract_lets t
  have h : s.Kept t := .modEq rfl
  exact h.trans (.setChan t c _)

theorem State.Kept.reRaise (s : State) (c : Nat) : s.Kept (s.reRaise c) := by
  unfold State.reRaise
  dsimp only
  refine .modEq ((Bridge.foldl_hostMem _ (fun b x => Bridge.eventPut_hostMem ..) _ _).trans (by simp))

theorem State.Kept.relayMarker (s : State) (c : Nat) : s.Kept (s.relayMarker c) := .ite (.setChan ..) (.refl s)

theorem State.Kept.boundary (s : State) (c : Nat) : s.Kept (s.boundary c) :=
  State.Kept.trans (State.Kept.setChan ..) (State.Kept.trans (.replaceLanterns ..) (.setChan ..))

theorem State.Kept.afterTick (s : State) (c : Nat) : s.Kept (s.afterTick c) := by
  unfold State.afterTick
  extract_lets s1 s2 s3
  have h1 : s.Kept s1 := .setChan ..
  have h2 : s1.Kept s2 := .ite (.boundary ..) (.refl _)
  have h3 : s2.Kept s3 := .setChan ..
  exact ((h1.trans h2).trans h3).trans (State.Kept.trans (.relayMarker ..) (.reRaise ..))

theorem State.Kept.channelTick (s : State) (c : Nat) : s.Kept (s.channelTick c) := by
  unfold State.channelTick
  split
  · exact .refl s
  · exact State.Kept.trans (State.Kept.setChan ..) (.afterTick ..)

theorem State.Kept.channelHoldover (s : State) (c : Nat) : s.Kept (s.channelHoldover c) := by
  unfold State.channelHoldover
  exact .ite (State.Kept.trans (State.Kept.setChan ..) (.afterTick ..)) (.refl s)

theorem State.Kept.tickPacket (s : State) (c at_ : Nat) : s.Kept (s.tickPacket c at_) := by
  unfold State.tickPacket
  split
  · exact .refl s
  · extract_lets t
    have h : s.Kept t := .setChan ..
    exact .ite (h.trans (.modEq (Bridge.marker_hostMem ..))) h

theorem State.Kept.hostResponses (s : State) : s.Kept s.hostResponses := by
  unfold State.hostResponses
  extract_lets out
  refine State.Kept.trans (State.Kept.modEq (Bridge.modHp_hostMem ..)) (.foldl _ (fun s x => ?_) _ _)
  exact .ite (.refl s) (.ite (.modEq (Bridge.modHp_hostMem ..)) (.setChan ..))

theorem State.Kept.idle (s : State) : s.Kept s.idle := by
  unfold State.idle
  refine .ite (.refl s) ?_
  extract_lets t b
  have h : s.Kept t := (State.Kept.hostResponses s).trans (.eachChan ..)
  clear_value t
  have hb : b.hostMem = t.mod.hostMem := Bridge.cycle_hostMem ..
  clear_value b
  have hu : t.Kept { t with mod := { b with regs := b.regs.newCycle } } := .modEq hb
  exact h.trans (hu.trans (.goSettle _))

/-! ### Power -/

theorem State.Kept.supplySample (s : State) (vin vaux : Nat) (rails : List (Nat × Nat × Nat × Int)) :
    s.Kept (s.supplySample vin vaux rails) := by
  unfold State.supplySample
  extract_lets bad counts b margin
  refine .modEq ?_
  have hb : b.hostMem = s.mod.hostMem := Bridge.modBoot_hostMem ..
  split
  · exact (Bridge.w_hostMem ..).trans hb
  · exact hb

theorem State.Kept.nbVoltage (s : State) : s.Kept s.nbVoltage := .eachChan ..
theorem State.Kept.nbTemp (s : State) : s.Kept s.nbTemp := .eachChan ..

theorem State.Kept.overTemp (s : State) (c : Nat) : s.Kept (s.overTemp c) := .ite (.modEq (by simp)) (.refl s)

theorem State.Kept.setCap (s : State) (c reason v : Nat) : s.Kept (s.setCap c reason v) := by
  unfold State.setCap
  extract_lets ch t
  have h : s.Kept t := .setChan ..
  exact h.trans (.modEq (by simp))

theorem State.Kept.capRaise (s : State) (mv ma w : Nat) (watts : List Nat) : s.Kept (s.capRaise mv ma w watts) := by
  unfold State.capRaise
  extract_lets t
  have ht : s.Kept t := .modEq (Bridge.average_hostMem ..)
  generalize t.mod.powerLimits = y
  obtain ⟨il, pl⟩ := y
  dsimp only
  clear_value t
  refine .ite ?_ (ht.trans (.modEq (Bridge.modBoot_hostMem ..)))
  split
  · exact ht.trans (State.Kept.trans (State.Kept.modEq (Bridge.modBoot_hostMem ..)) (.setCap ..))
  · exact ht.trans (.modEq (Bridge.modBoot_hostMem ..))

theorem State.Kept.capLower (s : State) : s.Kept s.capLower := by
  unfold State.capLower
  refine .ite (.refl s) ?_
  split
  · exact .setCap ..
  · exact .refl s

end Sys2Proof.Machine
end

