-- ==== Sys2Proof/Laws/Vector.lean ====
section
/-! SUPPORT. What issuing a vector instruction does, and what an elementwise result leaves in its destination. -/

namespace Sys2Proof.Machine

/-! ### Elementwise results (R185) -/

theorem VecEng.e_setE (ve : VecEng) (r i x r' i' : Nat) (hr : r < 32) (hi : i < 64) (hi' : i' < 64) :
    (ve.setE r i x).e r' i' = if r' = r ∧ i' = i then x else ve.e r' i' := by
  simp only [VecEng.setE, VecEng.e, SMap.getD_put, Nat.mod_eq_of_lt hr]
  by_cases h : r' = r ∧ i' = i
  · obtain ⟨rfl, rfl⟩ := h; simp
  · rw [if_neg h, if_neg (by omega)]

/-- One step of an elementwise result. -/
def Lantern.laneStep (l : Lantern) (w : Nat) (f : Nat → Lane) (o : VOut) (i : Nat) : VOut :=
  if l.active w i then { o with ve := o.ve.setE (vVd w) i (f i).v, cnt := o.cnt ++ (f i).c }
  else if i < l.vl ∧ vMz w then { o with ve := o.ve.setE (vVd w) i 0 }
  else o

theorem Lantern.lanes_eq (l : Lantern) (w : Nat) (f : Nat → Lane) :
    l.lanes w f = (upto 64).foldl (l.laneStep w f) { ve := l.ve } := rfl

theorem vVd_lt (w : Nat) : vVd w < 32 := by
  simp only [vVd, bits]
  exact Nat.mod_lt _ (by decide)

theorem Lantern.laneStep_e (l : Lantern) (w : Nat) (f : Nat → Lane) (o : VOut) (i r j : Nat) (hi : i < 64) (hj : j < 64) :
    (l.laneStep w f o i).ve.e r j =
      if r = vVd w ∧ j = i then (if l.active w i then (f i).v else if i < l.vl ∧ vMz w then 0 else o.ve.e r j) else o.ve.e r j := by
  simp only [Lantern.laneStep]
  split
  · rename_i ha
    rw [VecEng.e_setE _ _ _ _ _ _ (vVd_lt w) hi hj]
  · rename_i ha
    split
    · rename_i hz
      rw [VecEng.e_setE _ _ _ _ _ _ (vVd_lt w) hi hj]
    · rename_i hz
      split <;> rfl

theorem Lantern.lanes_fold_e (l : Lantern) (w : Nat) (f : Nat → Lane) (r j : Nat) (hj : j < 64) : ∀ (n a : Nat) (o : VOut), a + n ≤ 64 →
    ((rangeFrom a n).foldl (l.laneStep w f) o).ve.e r j =
      if r = vVd w ∧ a ≤ j ∧ j < a + n then (if l.active w j then (f j).v else if j < l.vl ∧ vMz w then 0 else o.ve.e r j)
      else o.ve.e r j := by
  intro n
  induction n with
  | zero =>
    intro a o _
    rw [if_neg (by omega)]
    rfl
  | succ n ih =>
    intro a o h
    simp only [rangeFrom, List.foldl_cons]
    rw [ih (a + 1) _ (by omega), Lantern.laneStep_e l w f o a r j (by omega) hj]
    by_cases hr : r = vVd w
    · subst hr
      by_cases hja : j = a
      · subst hja
        have h1 : ¬(j + 1 ≤ j ∧ j < j + 1 + n) := by omega
        have h2 : j ≤ j ∧ j < j + (n + 1) := by omega
        simp only [true_and, and_true, if_neg h1, if_pos h2, if_true]
      · by_cases hin : a + 1 ≤ j ∧ j < a + 1 + n
        · have h2 : a ≤ j ∧ j < a + (n + 1) := by omega
          simp only [true_and, if_pos hin, if_pos h2, if_neg hja]
        · have h2 : ¬(a ≤ j ∧ j < a + (n + 1)) := by omega
          simp only [true_and, if_neg hin, if_neg h2, if_neg hja]
    · rw [if_neg (fun h => hr h.1), if_neg (fun h => hr h.1), if_neg (fun h => hr h.1)]

/-- An elementwise result: active elements of the destination take theirs, inactive ones below VL follow MZ, the tail and every other
register stay (R185). -/
theorem Lantern.lanes_e (l : Lantern) (w : Nat) (f : Nat → Lane) (r j : Nat) (hj : j < 64) :
    (l.lanes w f).ve.e r j =
      if r = vVd w then (if l.active w j then (f j).v else if j < l.vl ∧ vMz w then 0 else l.ve.e r j) else l.ve.e r j := by
  rw [Lantern.lanes_eq]
  have := Lantern.lanes_fold_e l w f r j hj 64 0 { ve := l.ve } (by omega)
  rw [show upto 64 = rangeFrom 0 64 from rfl, this]
  by_cases hr : r = vVd w
  · rw [if_pos ⟨hr, Nat.zero_le _, by omega⟩, if_pos hr]
  · rw [if_neg (fun h => hr h.1), if_neg hr]

theorem Lantern.laneStep_bad (l : Lantern) (w : Nat) (f : Nat → Lane) (o : VOut) (i : Nat) : (l.laneStep w f o i).bad = o.bad := by
  simp only [Lantern.laneStep]; (repeat' split) <;> rfl

/-- An elementwise operation has no format word to refuse. -/
@[simp] theorem Lantern.lanes_bad (l : Lantern) (w : Nat) (f : Nat → Lane) : (l.lanes w f).bad = false := by
  rw [Lantern.lanes_eq]
  have : ∀ (xs : List Nat) (o : VOut), (xs.foldl (l.laneStep w f) o).bad = o.bad := by
    intro xs
    induction xs with
    | nil => intro o; rfl
    | cons x xs ih => intro o; simp only [List.foldl_cons]; rw [ih, Lantern.laneStep_bad]
  exact this _ _

/-! ### Counting (R206, R207) -/

/-- Setting sticky bits leaves every other field alone. -/
theorem Regs.get_setBits_ne (r : Regs) {f g : Fld} {n m : Nat} (bits : Nat) (h : g.key m ≠ f.key n) :
    (r.setBits f n bits).get g m = r.get g m := by
  simp [Regs.setBits, Regs.mark, Regs.store, Regs.get, SMap.getD_put_ne _ _ _ h]

/-- Counting one special outcome changes the registers of the lantern and nothing else in it, and of those only the count and
STICKY. -/
theorem Channel.veCountOne_lan (ch : Channel) (g ctx n k : Nat) :
    ∃ r : Regs, (ch.veCountOne g ctx n k).lan g = { ch.lan g with regs := r } ∧ (ch.veCountOne g ctx n k).cyc = ch.cyc ∧
      r.clrs = (ch.lan g).regs.clrs ∧
      ∀ (f : Fld) (m : Nat), f.key m ≠ (veCounter n).key 0 → f.key m ≠ F.VE_STATUS_STICKY.key 0 →
        r.get f m = (ch.lan g).regs.get f m := by
  refine ⟨((ch.lan g).regs.inc (veCounter n) 0 k).setBits F.VE_STATUS_STICKY 0 (2 ^ (n - 1)), ?_, ?_, ?_, fun f m h1 h2 => ?_⟩
  · simp only [Channel.veCountOne]
    split <;> simp [Lantern.inc]
  · simp only [Channel.veCountOne]
    split <;> simp
  · simp [Regs.setBits, Regs.mark, Regs.store]
  · rw [Regs.get_setBits_ne _ _ h2, Regs.get_inc_ne _ _ h1]

/-- Counting special outcomes changes the registers of the lantern and nothing else in it, and of those only the counts and STICKY. -/
theorem Channel.veCount_lan (g ctx : Nat) (cs : List Nat) (ch : Channel) :
    ∃ r : Regs, (ch.veCount g ctx cs).lan g = { ch.lan g with regs := r } ∧ (ch.veCount g ctx cs).cyc = ch.cyc ∧
      r.clrs = (ch.lan g).regs.clrs ∧
      ∀ (f : Fld) (n : Nat), (∀ k, f.key n ≠ (veCounter k).key 0) → f.key n ≠ F.VE_STATUS_STICKY.key 0 →
        r.get f n = (ch.lan g).regs.get f n := by
  simp only [Channel.veCount]
  generalize cs.eraseDups = ns
  induction ns generalizing ch with
  | nil => exact ⟨(ch.lan g).regs, rfl, rfl, rfl, fun _ _ _ _ => rfl⟩
  | cons n ns ih =>
    obtain ⟨r1, a1, a2, a3, a4⟩ := ch.veCountOne_lan g ctx n (cs.countP (· == n))
    obtain ⟨r, b1, b2, b3, b4⟩ := ih (ch.veCountOne g ctx n (cs.countP (· == n)))
    refine ⟨r, ?_, b2.trans a2, ?_, fun f m hf hs => ?_⟩
    · simp only [List.foldl_cons, b1, a1]
    · simp only [b3, a1, a3]
    · rw [b4 f m hf hs, a1]
      exact a4 f m (hf n) hs

theorem veCounter_key_ne_issued (k : Nat) : F.VE_ISSUED_COUNT.key 0 ≠ (veCounter k).key 0 := by
  have : ∀ f ∈ [F.VE_INVALID_CNT_COUNT, F.VE_DIVZ_CNT_COUNT, F.VE_OVF_CNT_COUNT, F.VE_UNF_CNT_COUNT, F.VE_IOVF_CNT_COUNT,
   F.VE_SAT_CNT_COUNT, F.VE_NAN0_CNT_COUNT, F.VE_PERM_CNT_COUNT, F.VE_ADDR_CNT_COUNT, F.VE_SMX_NAN_CNT_COUNT,
   F.VE_SMX_INF_CNT_COUNT, F.VE_EMPTY_CNT_COUNT, F.VE_STALE_CNT_COUNT, F.VE_PMODE_CNT_COUNT, F.VE_STAT_CNT_COUNT,
   F.VE_EMPTY_TASK_CNT_COUNT, F.VE_SHAPE_OVF_CNT_COUNT], F.VE_ISSUED_COUNT.key 0 ≠ f.key 0 := by decide
  apply this
  simp only [veCounter]
  generalize k - 1 = j
  rcases j with _|_|_|_|_|_|_|_|_|_|_|_|_|_|_|_|j <;> simp [List.getD]

/-! ### Issue (R177, R183) -/

/-- Ending tasks leaves the engine's registers, the scratchpad and the counters alone. -/
theorem Channel.veSettle_lan (ch : Channel) (g : Nat) :
    ∃ (ts : List CTask) (q : List LTask), (ch.veSettle g).lan g =
      ({ ch.lan g with ve := { (ch.lan g).ve with tasks := ts }, tq := { (ch.lan g).tq with tasks := q } }).w F.VE_STATUS_BUSY 0
        (b2n (ts.any (fun t => t.opened || t.stopped) || !(ch.lan g).ve.mem.isEmpty)) := by
  simp only [Channel.veSettle, Channel.lan_modLan_self]
  exact ⟨_, _, rfl⟩

/-- A word that can issue is counted, acts by `body`, and the engine passes it. -/
theorem Channel.vissue_ready {ch : Channel} {g op : Nat} {t : CTask} {w : Nat} (h : ch.VeReady g op t w) (hop : op ≠ 2)
    (body : Channel → CTask → Nat → Channel) :
    ch.vissue g op body =
      (((body ch t w).linc g F.VE_ISSUED_COUNT 0 1).modVe g
        (·.advance ((body ch t w).linc g F.VE_ISSUED_COUNT 0 1).cyc)).veSettle g := by
  obtain ⟨h1, h2, h3, h4, h5, h6⟩ := h
  by_cases h7 : (ch.lan g).ve.ipos = 7
  · have h8 := h6 h7
    simp only [endOverdue, Bool.or_eq_false_iff, beq_eq_false_iff_ne, ne_eq] at h8
    simp [Channel.vissue, h1, h2, h3, h4, h5, h7, h8, hop, Channel.veAfter]
  · simp [Channel.vissue, h1, h2, h3, h4, h5, h7, hop, Channel.veAfter]

end Sys2Proof.Machine
end

