-- ==== Sys2Proof/Tests/Slice0.lean ====
section
/-! SUPPORT. Tests: states and operands that meet the hypotheses of the statements, ill-formed commands that the check refuses, and
small tests of single commands. -/

open Sys2Proof Sys2Proof.Machine

namespace Sys2Proof.Tests

-- One theorem after another, so that few of them hold a thread at a time.
set_option Elab.async false
set_option linter.all false

/-- The outcome is a next state. -/
def isNext (o : Host.Outcome State Fault Refusal) : Bool := match o with
  | .next _ => true
  | _ => false

/-- The next state. -/
def stateOf (o : Host.Outcome State Fault Refusal) : State := match o with
  | .next s => s
  | _ => State.reset

theorem next_stateOf {o : Host.Outcome State Fault Refusal} (h : isNext o = true) : o = .next (stateOf o) := by
  cases o <;> simp_all [isNext, stateOf]

/-! ### Small states -/

/-- The bridge after reset, with every function open to the host (R19). -/
def openMod : Bridge := { State.reset.mod with regs := ({} : Regs).put F.MOD_LEVEL_LEVEL 0 0x1FFF }

/-- The module with that bridge and channel 11 as given. -/
def inCh (f : Channel → Channel) : State := { pending := [], chans := [(11, f (Channel.init 11))], mod := openMod }

/-- The same with lantern 1535 of channel 11 as given, in cycle 100. -/
def inLan (l : Lantern) : State := inCh fun ch => { ch with cyc := 100, lans := [(1535, l)] }

/-- The same with core 63 of that lantern as given. -/
def inCore (co : SparseCore) : State := inLan { cores := [(63, co)] }

/-- The same with the bridge as given. -/
def inMod (f : Bridge → Bridge) : State := { pending := [], chans := [], mod := f openMod }

/-- A field of a register bank at a value. -/
def at1 (r : Regs) (f : Fld) (n v : Nat) : Regs := r.put f n v

/-- A task, open. -/
def tk : CTask := { id := 7, ctx := 3, fetch := 9, opened := true }

/-- A core about to issue the word. -/
def issuing (w : Nat) (t : CTask := tk) : SparseCore :=
  { tasks := [t], ibuf := [{ task := 7, line := 8, words := [0, 0, w, 0], ready := some 100 }], ipos := 2, nextIssue := 100, seq := 4 }
/-- Channel 11 is held in reset. -/
def stHeld : State := { State.reset with mod := { State.reset.mod with boot := { resetCh := [11] } } }
/-- The module is in reset. -/
def stDark : State := { State.reset with mod := { State.reset.mod with boot := { inReset := true } } }


def stNop : State := inCore (issuing 0)
def stFence : State := inCore (issuing 0x75)
def stOload : State := inCore (issuing 0x40002)
def stTmul : State := inCore (issuing 0xFFFF07D3)
def stDrain : State := inCore (issuing 4)
def stTask : State := inCore (issuing (1 + 3 * 2 ^ 20) { tk with opened := false, ctx := 0 })
def stEnd : State := inCore (issuing 6)
def stBad : State := inCore (issuing 7)

/-- The core works on engine queues in cycle 100. -/
def stFetch : State := inCore { tasks := [{ tk with fetch := 4095 }], nextFetch := 100,
                                drainQ := [{ seq := 1, task := 7, w := 4, issued := 3, lines := [{ line := 4095, at_ := 100, bytes := [(63, 9)] }] }],
                                lastLine := some 99 }
def ol0 : LoadOp := { seq := 1, task := 7, w := 0x20FC2, total := 2, copy := 1, ew := 4, pad := 5, next := 100, gatherDone := true }
def ol1 : LoadOp := { ol0 with sent := 1 }
def ol2 : LoadOp := { ol0 with w := 0x22 + 2 ^ 31, total := 1, copy := 3, gatherDone := false, toGather := [0, 16, 1] }
def ol3 : LoadOp := { ol0 with w := 0xFC2 + 2 ^ 12, total := 1, sent := 1, landing := [(63, some (List.replicate 64 7), 100)] }
def ol4 : LoadOp := { ol0 with w := 0x22, total := 1, sent := 1, landing := [(0, none, 100)], gathered := [(0, List.replicate 64 7)] }
def stOl (o : LoadOp) : State := inCore { tasks := [tk], loadQ := [o], lastReq := some 99 }
def mul0 : MulOp := { seq := 1, task := 7, w := 0xFFFF0013, issued := 100 }
def stMul (m : MulOp) : State := inCore { tasks := [tk], mulQ := [m], lastStart := some 99 }
/-- Format word 1 is no format. -/
def stMulBad : State :=
  inLan { regs := at1 {} F.LN_FMT_VFMT 1 31, cores := [(63, { tasks := [tk], mulQ := [{ mul0 with w := 0xFFFF0013 + 2 ^ 32 }] })] }
/-- Format word 1 is a bitmap of INT8, 2 an index list and 3 dense INT8. -/
def fmtRegs : Regs :=
  at1 (at1 (at1 (at1 (at1 {} F.LN_FMT_VFMT 1 1) F.LN_FMT_ENC 1 1) F.LN_FMT_VFMT 2 1) F.LN_FMT_ENC 2 3) F.LN_FMT_VFMT 3 1
def run0 : MulOp := { mul0 with start := some 97, rows := 1, kbs := 1, lines := [0] }
def exBitmap : MulOp := { run0 with w := 0x30003 + 2 ^ 32 + 2 ^ 38, mode := .bitmap, cls := 8 }
def exMerge : MulOp := { run0 with w := 0x30003 + 2 * 2 ^ 32 + 2 * 2 ^ 38, mode := .merge, cls := 8 }
def exGather : MulOp := { run0 with w := 0x30003 + 2 * 2 ^ 32 + 3 * 2 ^ 38, mode := .gather, cls := 8 }
def stEx (m : MulOp) : State := inLan { regs := fmtRegs, cores := [(63, { tasks := [tk], mulQ := [m], lastExam := some 99 })] }
def stageBegins : MulOp := { run0 with start := some 96, mode := .bypass, cls := 4, taken := List.replicate 16 0 }
def stStage : State := inCore { tasks := [tk], mulQ := [stageBegins], lastPair := some 99 }
def stageRuns : MulOp := { stageBegins with stage := some 99, examEnd := some 98 }
def stTake : State := inCore { tasks := [tk], mulQ := [stageRuns], cool := [(15, 100)] }
def accA : AccWr := { op := 1, set := 1, due := 100, clear := [31], fp := false,
                      pairs := [{ op := 1, row := 31, a := .int 3, b := .int 5, d := some 0, ready := 98 }] }
def stAcc : State := inCore { tasks := [tk], mulQ := [{ stageRuns with lastPair := some 99 }], accW := [(15, [accA])] }
def dr0 : DrainOp := { seq := 1, task := 7, w := 4, issued := 99 }
def stDr (d : DrainOp) : State := inCore { tasks := [tk], drainQ := [d], lastD0 := some 99 }
def stDrBad : State :=
  inLan { regs := at1 {} F.LN_FMT_VFMT 1 31, cores := [(63, { tasks := [tk], drainQ := [{ dr0 with w := 4 + 2 ^ 16 }] })] }


def stLan0 : State := inLan { regs := at1 (at1 {} F.LN_ARB_STAT_CUT 0 1) F.LN_ARB_STAT_FORCE 0 1 }
/-- Channel 11 with its lantern, 17 in every counter that a clear zeroes. -/
def stCounts : State :=
  inLan { regs := at1 (at1 (at1 (at1 {} F.CO_PAIRS_COUNT 63 17) F.LN_CONFLICT_CNT_COUNT 0 17) F.VE_ISSUED_COUNT 0 17) F.TD_LINES_COUNT 0 17 }
def stCh0 : State := inCh fun ch => { ch with regs := at1 (at1 {} F.CH_TICK_TICK 0 (2 ^ 47 + 5)) F.CH_TICK_PHASE 0 700 }
def stAcc0 : State := inLan { regs := at1 {} F.CO_DBG_DBG_EN 63 1, cores := [(63, { acc := [(0, { v := 77, fp := false, tag := 0 })] })] }
def stAtt : State := inCh fun ch => { ch with attDue := [(0, 0, false)] }
/-- As `stAtt`, 8 ms of the bridge later, with attachment 0 as the lit half's. -/
def stAttLost : State := { stAtt with mod := { stAtt.mod with boot := { stAtt.mod.boot with ms := 8 } } }
def stAttMoved : State := { stAtt with mod := { stAtt.mod with regs := at1 stAtt.mod.regs F.HP_LIGHT_LIT 0 1 } }
/-- A lantern that is not parked. -/
def awake : Regs := at1 {} F.LN_STATUS_PARKED 0 0
def stAwake : State := inLan { regs := awake }


def bk (f : Bank → Bank) : State := inLan { banks := [(15, f {})] }
def pdReq : Regs := at1 {} F.LN_BANK_PD_REQ 0 0x8000
def stPd : State := inLan { regs := pdReq }
def stDrainBank : State := bk fun b => { b with draining := some 99 }
def stTmoBank : State := inLan { regs := at1 {} F.LN_BANK_PD_TMO_CYCLES 0 50, banks := [(15, { draining := some 50, writes := 1 })] }
def stRet : State := bk fun b => { b with retained := true }
def stWaking : State := bk fun b => { b with waking := some 100 }
def accWr : Acc1 := { line := 4095, wr := true, data := List.replicate 64 9, mask := (List.replicate 63 false) ++ [true], req := 0, ord := 0, dst := .none }
def accRd : Acc1 := { line := 4095, wr := false, req := 0, ord := 0, dst := .window .host 4 8 }
def stGrant (a : Acc1) : State :=
  inLan { sp := [(262143, 1)], banks := [(15, { arb := { owner := some 2, from_ := 100 }, fabric := [a] })] }
def stGrantOff : State := inLan { banks := [(15, { retained := true, arb := { owner := some 2, from_ := 100 }, fabric := [accWr] })] }
def stPipe : State := inLan { pipeQ := [{ line := 16, wr := false, req := 1, ord := 1, dst := .none }, { line := 32, wr := false, req := 2, ord := 2, dst := .none }] }
def stPipeLeft : State :=
  inLan { pipeNow := [{ line := 16, wr := false, req := 1, ord := 1, dst := .none }, { line := 32, wr := false, req := 2, ord := 2, dst := .none }] }
def parked : Regs := at1 {} F.LN_STATUS_PARKED 0 1
def parkPend : Regs := at1 {} F.LN_STATUS_PARK_PEND 0 1
def stParkPend : State := inLan { regs := parkPend, parkReady := true }
def stParked : State := inLan { regs := at1 parked F.LN_POISON_RGN_BASE 0 0 }
def stUnpark : State := inCh fun ch => { ch with cyc := 100, regs := at1 {} F.CH_TICK_TICK 0 7, lans := [(1535, { regs := parked, resumeReq := some 6 })] }


/-- The vector engine about to issue the word, with a few register values. -/
def vIssuing (w : Nat) (t : CTask := tk) : VecEng :=
  { v := [(64, 5), (65, 0xFFFFFFFF), (127, 7), (128, 3), (129, 9)], m := [(1, 0x8000000000000002)], tasks := [t],
    ibuf := [{ task := 7, line := 8, words := [0, 0, w, 0, 0, 0, 0, 0], ready := some 100 }], ipos := 2, nextIssue := 100, seq := 4 }
def stV (w : Nat) (t : CTask := tk) (r : Regs := {}) : State := inLan { regs := r, ve := vIssuing w t }
/-- A word of the vector engine from its opcode, VD 31, VA 1, VB 2, VC 3 and mask register 1, with ME and MZ. -/
def vw (op : Nat) : Nat := op + 31 * 2 ^ 8 + 2 ^ 13 + 2 * 2 ^ 18 + 3 * 2 ^ 23 + 2 ^ 28 + 2 ^ 31 + 2 ^ 33
/-- The same with TY. -/
def vwi (op : Nat) : Nat := vw op + 2 ^ 34
/-- Element operations, lane checks and the operations whose witness the word `vw` is. -/
def stVbad : State := stV (vw 0x49 + 2 ^ 38) tk (at1 {} F.LN_FMT_VFMT 1 31)
def stVmemBad : State := stV (vw 8 + 2 ^ 38) tk (at1 {} F.LN_FMT_VFMT 1 31)
def unopened : CTask := { tk with opened := false, ctx := 0 }
def stVsetReg : State := stV (vw 3 + 2 ^ 35 + 15 * 2 ^ 44) tk (at1 {} F.LN_SHAPE_VALUE 15 70)
def stVask : State :=
  inLan { ve := { tasks := [{ tk with fetch := 4095 }], lastAcc := some 99,
                  mem := [{ seq := 1, task := 7, w := vw 9, issued := 99, vl := 64, todo := [(4095, List.replicate 64 1, List.replicate 64 true)] }] } }


/-- Registers of stream 15 in a state. -/
def stmR (k : Nat) (r : Regs := {}) : Regs := at1 r F.TD_S_STAT_STATE 15 k
/-- A lantern whose tender is given, in cycle 100 and tick 7. -/
def inTd (r : Regs) (t : Tender) : State :=
  inCh fun ch => { ch with cyc := 100, regs := at1 {} F.CH_TICK_TICK 0 7, lans := [(1535, { regs := r, td := t })] }
def moored : Regs := at1 {} F.TD_S_DESC0_MOORED 15 1
def xf0 : Xfer := { xid := 0, st := 15, len := 64, src := [.dev 0], dst := [.dev 64] }
def tdIdle : Tender := { streams := [(15, {})] }
def stStart : State := inTd {} tdIdle
def stStartBad : State := inTd (at1 {} F.TD_S_DESC1_SRC 15 (7 * 2 ^ 61)) tdIdle
def stRunS : State := inTd (stmR 1) { tdIdle with fq := [xf0] }
def stRunS0 : State := inTd (stmR 1) tdIdle
def stStoppedS : State := inTd (stmR 4) tdIdle
def stMoored : State := inTd moored tdIdle
def stMooredRun : State := inTd (stmR 1 (at1 moored F.TD_S_STAT_REARM_PEND 15 1)) { streams := [(15, { shadow := some (1, 2) })] }
def stRestart : State := inTd moored { streams := [(15, { restart := some 100 })] }
/-- Stream 15 has the step of the cycle and stands at the word. -/
def atStep (w : Nat) (r : Regs := {}) (s : Stream := {}) : State :=
  inTd (stmR 1 r) { streams := [(15, { s with prog := [w] })], granted := some (15, 100) }
def wLoop : Nat := 1 + 5 * 16 + 2 * 2 ^ 8 + 2 ^ 24
def wLoop0 : Nat := 1 + 5 * 16 + 2 ^ 7 + 15 * 2 ^ 8 + 31 * 2 ^ 24
def wSet : Nat := 3 + 2 ^ 4 + (2 ^ 27 - 1) * 2 ^ 5
def wAdd : Nat := 2 + 2 ^ 5 + 3 * 2 ^ 6 + 2 ^ 8
def wSkip : Nat := 6 + 5 * 16 + 15 * 2 ^ 7 + 2 * 2 ^ 11 + 7 * 2 ^ 13 + 15 * 2 ^ 16
def wXfer : Nat := 4 + 16384 * 16 + 2 ^ 19 + 2 ^ 20 + 2 ^ 21 + 2 ^ 22
def wFill : Nat := 5 + 64 * 16 + 2 ^ 19
def shape15 (v : Nat) : Regs := at1 {} F.LN_SHAPE_VALUE 15 v
def stLoop : State := atStep wLoop
def stLoop0 : State := atStep wLoop0 (shape15 0) { loops := [(0, 31, 0, 1)] }
def stSet : State := atStep wSet
def stAdd : State := atStep wAdd (at1 {} F.TD_S_DESC5_STRIDE3 15 5)
def stSkip : State := atStep wSkip (shape15 0)
def stEndS : State := atStep 0
def stStep : State := inTd (stmR 1) { streams := [(15, { prog := [0] })], nextStep := 100 }
def stStepWait : State :=
  inTd (stmR 1 (at1 {} F.TD_S_DESC0_DST_BP_EN 15 1)) { streams := [(15, { prog := [wFill] })], nextStep := 100 }
def pairRegs : Regs :=
  at1 (at1 (at1 (at1 (at1 (at1 (at1 (at1 {} F.TD_S_DESC0_SRC_BP_EN 15 1) F.TD_S_DESC0_SRC_BP 15 31) F.TD_S_DESC0_DST_BP_EN 15 1)
    F.TD_S_DESC0_DST_BP 15 30) F.LN_BP_CNT_READY 31 1) F.LN_BP_CNT_FREE 30 65535) F.TD_S_DESC0_REG_EN 15 1) F.TD_S_TOKENS_TOKENS 15 1
def stXfer : State := atStep wXfer pairRegs
def stFill : State := atStep wFill pairRegs
def listRegs : Regs := at1 (at1 pairRegs F.TD_S_DESC0_MODE 15 1) F.TD_S_DESC6_LIST_LEN 15 1
def inList (b : List (BitVec 8)) : State :=
  inTd (stmR 1 listRegs) { streams := [(15, { listBuf := [(0, b)] })], granted := some (15, 100) }
def entry64 : List (BitVec 8) := [0, 0, 0, 0, 0, 0, 64, 0] ++ List.replicate 56 0
def entry0 : List (BitVec 8) := List.replicate 64 0
def entryBad : List (BitVec 8) := 1 :: List.replicate 63 0
def stHold : State := inTd (stmR 1) { streams := [(15, {})], fq := [xf0], hold := [(15, { xids := [0], bytes := 64, until_ := 100 })] }
def xfDone : Xfer := { xf0 with done := [0], dstEnd := true, srcEnd := true }
def stRetire : State := inTd (stmR 1 pairRegs) { streams := [(15, {})], fq := [xfDone] }
def stStmEnd : State :=
  inTd (stmR 1 pairRegs) { streams := [(15, { ending := true, dstOpen := true, shadow := some (5, 2 ^ 64 + 6) })] }
def stRefill : State := inTd (stmR 1 (at1 (at1 pairRegs F.TD_S_DESC7_RATE 15 300) F.TD_S_DESC7_DEPTH 15 2)) { streams := [(15, { frac := 255 })] }
def spill0 : SpillSlot := { st := 15, bp := 30, parts := [{ xid := 0, dst := [.dev 64], len := 64, lines := [0, 1] }], closed := true }
def stSpill : State := inTd (stmR 1 (at1 pairRegs F.TD_SPILL_LINES_LINES 0 4)) { streams := [(15, {})], spills := [spill0], spillUsed := [0, 1] }
def stallR (k : Nat) : Regs := at1 (at1 (stmR 2) F.TD_S_STAT_STALL 15 k) F.TD_S_STAT_WAIT_CAUSE 15 4
def stStall : State := inTd (stallR 2) { streams := [(15, { wait4 := some 1 })] }
/-- Stream 15 is stalled on the pair that it consumes itself. -/
def stCycle : State := inTd (at1 (stallR 2) F.LN_BP_CFG_CONS_STREAM 0 15) { streams := [(15, { wait4 := some 1, notified := true })] }
def stStallErr : State := inTd (stallR 4096) { streams := [(15, { wait4 := some 1, notified := true })] }
def stPair : State := inLan { regs := at1 (at1 {} F.LN_BP_CNT_READY 31 65535) F.LN_BP_CFG_CAP 31 9 }
def stPairRun : State := inLan { regs := at1 awake F.LN_BP_CNT_READY 31 65535 }

/-- Lantern 1535 with these registers and this task unit, in cycle 100. -/
def inTq (r : Regs) (q : TaskUnit) : State := inLan { regs := r, tq := q }
/-- A task entry for any core, of context 3, its first line 5. -/
def e1 : Nat := 63 * 2 ^ 26 + 3 * 2 ^ 16 + 5 * 16
/-- The same, waiting on pair 31 and filling pair 30, with 4 variants of one line. -/
def e2 : Nat := e1 + 31 * 2 ^ 32 + 2 ^ 37 + 30 * 2 ^ 38 + 2 ^ 43 + 3 * 2 ^ 48 + 2 ^ 54
/-- The same as a pool entry of counter 15, waiting on no pair. -/
def e3 : Nat := e1 + 2 + 15 * 2 ^ 44 + 3 * 2 ^ 48 + 2 ^ 54
/-- A vector task, speculative. -/
def e4 : Nat := e1 + 1 + 4
def lowIs (w : Nat) : Regs := at1 awake F.LN_TQ_PUSH_LO_ENTRY 0 (w % 2 ^ 64)
def stPush : State := inTq (lowIs e2) {}
def stPushBad : State := inTq (lowIs 8) {}
def stPushFull : State := inTq (lowIs e1) { entries := List.replicate 64 { num := 0, w := e1 }, pushes := 64 }
def stSquash : State := inTq awake { entries := [{ num := 0, w := e4 }, { num := 1, w := e1 }], pushes := 2 }
def pairs2 : Regs :=
  at1 (at1 (at1 awake F.LN_BP_CNT_READY 31 1) F.LN_BP_CNT_FREE 30 65535) F.LN_XACQ_CONS 31 (2 ^ 32 - 1)
def stProm : State := inTq pairs2 { entries := [{ num := 0, w := e2 }], pushes := 1, nextPromote := 100 }
def stProm1 : State :=
  inTq awake { entries := [{ num := 0, w := e2 }, { num := 1, w := e1 }], pushes := 2 }
def stPromPool : State := inTq awake { entries := [{ num := 0, w := e3, claims := [(4095, 7), (1, 7)], open_ := 2 }], pushes := 1 }
def lt (w : Nat) (on : Option Nat) (done : Bool) : LTask := { id := 0, entry := 0, w := w, line := 5, on := on, done := done }
def bound63 : Regs := at1 (at1 awake F.LN_CORE_BIND_VALID 59 1) F.LN_CORE_BIND_PHYS 59 63
def stBind : State := inTq bound63 { entries := [{ num := 0, w := e1, promoted := true }], tasks := [lt e1 none false], nextId := 1 }
def stBindV : State := inTq bound63 { entries := [{ num := 0, w := e4, promoted := true }], tasks := [lt e4 none false], nextId := 1 }
def stDone : State := inTq pairs2
  { entries := [{ num := 0, w := e2, promoted := true }], tasks := [lt e2 (some 64) true], nextId := 1,
    acqs := [(30, [{ task := 0, cons := false, ctx := 3 }]), (31, [{ task := 0, cons := true, ctx := 3 }])] }
/-- Context 511 waits for a sequence; its table pushes one entry into lantern 1535. -/
def admitTab : List (BitVec 8) := toBytes 4 (lanBase 1535 + F.LN_TQ_PUSH_HI_ENTRY.base) ++ toBytes 4 0 ++ toBytes 8 0
def stAdmit : State := inCh fun ch =>
  { ch with cyc := 100, regs := at1 (at1 {} F.CTX_STATE_STATE 511 3) F.CTX_CHAR_PLAN 511 255,
            ctx := { ch.ctx with known := [511], tables := [(255, admitTab)] }, lans := [(1535, { regs := lowIs e1 })] }
/-! Work counters: counter 15. -/
def wcR (head tail : Nat) : Regs :=
  at1 (at1 (at1 (at1 (at1 (at1 awake F.LN_WC_RANGE_HEAD 15 head) F.LN_WC_RANGE_TAIL 15 tail) F.LN_WC_BASE_BASE 15 8) F.LN_WC_BASE_COUNT 15 4)
    F.LN_WC_STAT_FIN 15 0) F.LN_WC_STAT_DONE 15 3
def pool0 : TqEntry := { num := 0, w := e3 }
def feedR (r : Regs) : Regs :=
  at1 (at1 (at1 (at1 (at1 (at1 r F.LN_WC_CFG_FEED_EN 15 1) F.LN_WC_CFG_OUT_EN 15 1) F.LN_WC_CFG_OUT_S 15 15) F.LN_WC_FEED_STEP 15 65535)
    F.LN_WC_FEED_BASE 15 (2 ^ 48 - 64)) F.LN_WC_OUTB_STEP 15 1
def stArm : State := inTq awake {}
def stArmBusy : State := inTq (at1 awake F.LN_WC_STAT_FIN 15 0) {}
def stClaim : State := inTq (feedR (wcR 8 12)) { entries := [pool0], pushes := 1 }
def stClaimRep : State := inTq (feedR (wcR 12 12)) { entries := [pool0], pushes := 1, wcs := [(15, { replays := [9, 10] })] }
def thiefR : Regs :=
  at1 (at1 (at1 (at1 (at1 (at1 (feedR (wcR 12 12)) F.LN_STEAL_CFG_EN 0 1) F.LN_STEAL_VALID 7 1) F.LN_STEAL_ROW 7 31) F.LN_STEAL_COL 7 46)
    F.LN_STEAL_MASK 7 (2 ^ 15)) F.LN_STEAL_CFG_BACKOFF 0 20
def thiefQ : TaskUnit := { entries := [pool0], pushes := 1, wcs := [(15, { thief := { since := some 84, victim := 1 } })] }
/-- Lantern 1535 and its victim 1534. -/
def two (a b : Lantern) : State := inCh fun ch => { ch with cyc := 100, lans := [(1534, b), (1535, a)] }
def stSteal : State := two { regs := thiefR, tq := thiefQ } {}
def stSteal8 : State := two { regs := thiefR, tq := thiefQ } { tq := { steals := List.replicate 8 { thief := 0, w := 0, at_ := 1 } } }
def stl : Steal := { thief := 1534, w := 15, at_ := 99 }
def stServe : State := two { regs := wcR 8 12, tq := { steals := [stl] } } {}
def stServe0 : State := two { regs := wcR 12 12, tq := { steals := [stl] } } {}
def stAnswer (a : Option Nat) : State := inTq thiefR
  { thiefQ with wcs := [(15, { thief := { since := some 84, waiting := true, answer := some (a, 1534) } })] }
def stAnswer1 : State := stAnswer (some 9)
def stAnswer0 : State := stAnswer none
def stBackoff : State := inTq thiefR { thiefQ with wcs := [(15, { thief := { backoff := some 100 } })] }
def stIdx (bm : Nat) (iss : Nat) : State := inTq (at1 (wcR 8 12) F.LN_WC_STAT_OUTST 15 1)
  { sent := [(iss, 15, 11)], wcs := [(15, { bitmap := bm })] }
def stIdxOwn : State := stIdx 7 1535
def stIdxDup : State := stIdx 15 1535
def stIdxOther : State := two { regs := wcR 8 12, tq := { sent := [(1534, 15, 11)] } } { regs := wcR 8 12, tq := { wcs := [(15, { bitmap := 7 })] } }
def stReplay : State := inTq (wcR 12 12) {}
def stReplay4 : State := inTq (wcR 12 12) { wcs := [(15, { replays := [8, 8, 8, 8] })] }

/-- The bridge with its timebase enabled and as given. -/
def inTb (r : Regs → Regs) (t : Timebase) : State :=
  inMod fun b => { b with regs := r (at1 b.regs F.TB_STAT_EN 0 1), tb := t }
def tbOff : State := inMod id
/-- A tick began at cycle 100,000; P is its reset value. -/
def ticking : Timebase := { now := 100000, sub := 5, tickAt := some 1600000, last := some 100000 }
def holdRegs (r : Regs) : Regs :=
  at1 (at1 (at1 r F.TB_STAT_HOLDOVER 0 1) F.TB_STAT_MISS_RUN 0 255) F.TB_TICK_TICK 0 (2 ^ 48 - 1)
def tbTick : State := inTb id ticking
def tbHold : State := inTb holdRegs ticking
def tbGood : State := inTb holdRegs { ticking with good := 8 }
def tbLocking : State := inTb id { last := some 131250, now := 131250, good := 8, count := 5 }
def tbFree : State := inTb (at1 · F.TB_CFG_FREERUN 0 1) {}
/-- Context 1023 of channel 11. -/
def ctx0 (r : Regs) (known : List Nat) (msg : Option (Nat × Nat)) : State := inCh fun ch =>
  { ch with regs := r, ctx := { ch.ctx with known := known, msg := msg, ticking := true, run := true, templates := [(254, (79 + 79 * 2 ^ 24 + 4 * 2 ^ 36, 11 * 2 ^ 36 + 2 ^ 36 - 64))] } }
def fwd : Regs := at1 (at1 (at1 {} F.CH_INFO_FWD_ONLY 0 1) F.CH_TICK_TICK 0 (2 ^ 48 - 2)) F.CH_INFO_A0_UP 0 1
def ctxR (st : Nat) (r : Regs := fwd) : Regs := at1 r F.CTX_STATE_STATE 1023 st
def stMsg : State := ctx0 fwd [] none
/-- Tick 159 is a boundary of the context of period 80 and phase 79, and none of the channel. -/
def stTick : State := ctx0 (at1 (at1 (ctxR 1) F.CTX_CHAR_PHASE 1023 79) F.CTX_STATE_DEBT 1023 65535) [1023] (some (159, 0))
def stDebt : State := ctx0 (at1 (ctxR 3) F.CTX_STATE_DEBT 1023 65535) [1023] none
def locked (st : Nat) (broken : Nat := 0) : State :=
  ctx0 (at1 (at1 (at1 (at1 (ctxR st) F.CTX_LOCK_OWNER 1023 7) F.CTX_STATE_BROKEN 1023 broken) F.CTX_LOCK_LEASE_END 1023 (2 ^ 48 - 2)) F.CTX_STATE_DEBT 1023 9)
    [1023] none
def ctxAt0 : State := locked 0 1
def ctxAt1 : State := locked 1
def ctxAt2 : State := locked 2
def ctxAt3 : State := locked 3
def ctxAt4 : State := locked 4
def ctxAt5 : State := locked 5
def ctxOpen : State := ctx0 fwd [] none

/-- Channel 11 with this memory controller, in cycle 100. -/
def inHbm (r : Regs) (h : Hbm) : State := inCh fun ch => { ch with cyc := 100, regs := r, hbm := h }
/-- A request of line 252, of pseudo-channel 63. -/
def rd252 : HReq := { cls := 0, line := 252, src := 7, dst := .host 9 }
def wr252 : HReq :=
  { cls := 1, line := 252, wr := true, src := 7, dst := .host 9, data := List.replicate 64 7, mask := true :: List.replicate 62 false ++ [true] }
/-- A transfer's write of the last line, which is protected (R321). -/
def wrProt : HReq := { wr252 with line := 2 ^ 30 - 1, dst := .xfer 1535 15 0 0 }
def m252 : Mem := [(64 * 252, 3), (64 * 252 + 63, 4)]
def hmR : Regs := at1 {} F.HM_WINDOW_LINES_LINES 0 65535
def gated (g : List HReq) : State := inHbm hmR { gate := g, bud := [1, 1, 1], mem := m252 }
def stWin : State := inHbm hmR { cnt := [1, 2, 3], bud := [1, 1, 1], lend := true, lending := true, mem := m252 }
def stGateRd : State := gated [wr252, rd252]
def stGateWr : State := gated [wrProt]
def stGateLend : State := inHbm hmR { gate := [rd252], lending := true }
def stHRead : State := inHbm {} { mem := m252, ports := [(63, { cmd := [rd252], owed := 8 })] }
def stHWrite : State := inHbm {} { mem := m252, ports := [(63, { cmd := [wr252] })] }
def stQuiet : State := inHbm {} { mem := m252 }
def pinEarly : HPin := { early := 8, steps := -1 }
def pinLate : HPin := { late := 8, steps := -1 }
def pinAt (x : HPin) : State := inHbm {} { ports := [(63, { used := 4096 })], pins := [(36 * 63 + 35, x)] }
def stEarly : State := pinAt pinEarly
def stLate : State := pinAt pinLate
def ceErr : List (Nat × Nat) := [(71, 5)]
def ueErr : List (Nat × Nat) := [(0, 1), (1, 1), (2, 1), (3, 1), (63, 1)]
/-! Translation. -/
def walked (e : Nat) : State := inHbm {} { walks := [(98303, { entry := some e })], xlt := [(127, [(255, 1)])] }
def stWalkV : State := walked 0x1001
def stWalk0 : State := walked 0x1000
def stXlt : State := inHbm {} { xlt := [(127, [(98303, 1), (255, 1)])] }
def stInv1 : State := inHbm (at1 {} F.HM_STATUS_XLT_BUSY 0 1) { xlt := [(127, [(255, 1)])], invs := [some 98303] }
def stInv2 : State := inHbm (at1 {} F.HM_STATUS_XLT_BUSY 0 1) { invs := [some 98303, none] }
def flt : PageFault := { page := 98303, addr := 0, tick := 5 }
def stTmo : State := inHbm (at1 {} F.CH_TICK_TICK 0 805) { faults := [flt] }
def stTmoHalted : State := inCh fun ch =>
  { ch with cyc := 100, regs := at1 {} F.CH_TICK_TICK 0 805, hbm := { faults := [flt] },
            lans := [(1535, { regs := at1 (stmR 3) F.TD_S_FAULT_ADDR_ADDR 15 (0xC000000000 + 98303 * 2 ^ 21), td := tdIdle })] }

/-- Channel 11 with port 1 as given; `st` is its STATE. -/
def inPort (st : Nat) (q : LPort) (r : Regs := {}) : State := inCh fun ch =>
  { ch with cyc := 100, regs := at1 r F.LK_STAT_STATE 1 st, link := { ch.link with ports := [(1, q)] } }
def hdrBytes (lane st : Nat) : List (BitVec 8) := toBytes 8 0x6E13C05BA7942DF8 ++ toBytes 1 lane ++ toBytes 1 st ++ [6, 0, 7]
def hdr4 : List (BitVec 8) := hdrBytes 4 1
def hdrInv : List (BitVec 8) := hdr4.map (~~~ ·)
def five : List Nat := [0, 1, 2, 3, 4]
def stT1 : State := inPort 1 { rxLock := [4], peerLock := [3] }
def stT1b : State := inPort 1 { rxLock := [4, 3], peerLock := [0, 1, 2] }
def stT2 : State := inPort 2 { rxLock := five, rxEq := five, peerLock := five, peerEq := five }
def stT3 : State := inPort 3 { rxDesk := true, peerDesk := true, tries := 1 }
def stT3again : State := inPort 3 { rxDesk := true, peerDesk := true, again := true, held := [({ seq := 9 }, 1)], tries := 2 }
def stT4 : State := inPort 4 { initIn := true, pongs := 64, latSum := 83, again := true }
def stWaits : State := inPort 0 { wait := true, tries := 1 }
def p1 (q : LPort) (r : Regs := {}) : State := inPort 5 q r
def stDue : State := p1 { due := true, held := [({ seq := 9 }, 1)], credit := [(2, 5)] }
def stLost : State := p1 { missed := [(4, 3)] }
def stRetr : State := p1 { linkIn := [toBytes 8 8] }
def mapR (r : Regs := {}) : Regs := at1 (at1 (at1 r F.LK_LANEMAP_RX_MAP 1 1672) F.LK_LANEMAP_TX_MAP 1 1672) F.LK_STAT_SPARE 1 1
def stMark : State := p1 { slot := 4095, mcount := 2 ^ 32 - 1 } (mapR)
def marks : List (List (BitVec 8)) := five.map fun n => markerBlock (if n < 4 then 3 - n else 15) n 12 0
def lgs (n : Nat) : Nat := if n < 4 then 3 - n else 15
def stMarkRx : State := p1 { slot := 4095, rotGap := 1 } (mapR)
def stRetLane : State := p1 { leaky := [(3, 64)], recal := [3] } (mapR)
def stRecal : State := p1 { leaky := [(3, 64)] } (at1 (mapR) F.LK_CFG_RETIRE_TH 1 255)
def rs (lane ph at_ : Nat) (acked : Bool) : RotStep := { lane := lane, phase := ph, at_ := at_, acked := acked }
def stRot4 : State := p1 { rxPlan := [rs 3 4 7 true], rxMark := 7 } (at1 (mapR) F.LK_STAT_ROT_PHASE 1 3)
def stRot1 : State := p1 { rxPlan := [rs 3 1 7 true, rs 3 2 8 true], rxMark := 7 } (mapR)
def stRotNo : State := p1 { rxPlan := [rs 3 1 7 false, rs 3 2 8 true], rxMark := 7 } (mapR)
/-! Slots. -/
def flit9 : Flit := { ftype := 1, seq := 9, body := [1, 2, 3] }
def stResend : State := p1 { replay := [9], held := [(flit9, 1)], seq := 10 } (mapR)
def stNull : State := p1 { held := [(flit9, 1)], seq := 10 } (mapR)
def lvg : Leaving := { o := { p := { ptype := 0x11, dst := 0, src := 0 } }, rest := List.replicate 225 5 }
def stData : State := p1 { seq := 4095, arb := { owner := some 3 }, credit := [(6, 16)], leaving := [(6, lvg)] } (mapR)
def stLinkQ : State := p1 { linkQ := [(toBytes 8 2, 0, 0), (toBytes 8 8, 0, 0)], seq := 4095 } (mapR)
def linkFlit : List (BitVec 8) := Flit.bytes { ftype := 2, vlen := 224, seq := 4095, body := toBytes 8 8 }
def badFlit : List (BitVec 8) := 1 :: linkFlit.drop 1
def laid (b : List (BitVec 8)) : List (List (BitVec 8)) := (upto 4).map fun k => laneShare 4 k (lightEncode b)
def laidGood : List (List (BitVec 8)) := laid linkFlit
def laidBad : List (List (BitVec 8)) := laid badFlit
def stRx : State := p1 { exp := 4095 } (mapR)
def stNakTmo : State := p1 { nak := true, nakFor := 1024 }
def stCredit : State := p1 { owed := [(0, 15), (7, 1)] }
/-! LINK flits. -/
def initOk : List (BitVec 8) :=
  [1, 1, 0, 0, 0, 4, 0, 2] ++ ((upto 8).map fun k => toBytes 2 (65535 - k)).flatten ++ List.replicate 18 0
def initBad : List (BitVec 8) := 1 :: 2 :: initOk.drop 2
def t4With (b : List (BitVec 8)) : State := inPort 4 { linkIn := [b] }
def stInitOk : State := t4With initOk
def stInitBad : State := t4With initBad
def linkWith (b : List (BitVec 8)) (q : LPort := {}) : State := p1 { q with linkIn := [b] } (mapR)
def pingB : List (BitVec 8) := toBytes 8 2 ++ toBytes 8 (2 ^ 63 + 5)
def pongB : List (BitVec 8) := toBytes 8 3 ++ toBytes 8 40 ++ toBytes 4 7
def creditB : List (BitVec 8) := toBytes 8 4 ++ ((upto 8).map fun k => toBytes 2 (9 + k)).flatten
def rotB : List (BitVec 8) := [5, 3, 1, 0] ++ toBytes 4 7
def ackB : List (BitVec 8) := [6, 3, 1, 0] ++ toBytes 4 7 ++ [0]
def nackB : List (BitVec 8) := [6, 3, 1, 0] ++ toBytes 4 7 ++ [1]
def txeqB : List (BitVec 8) := [7, 4, 25, 0]
def retrB : List (BitVec 8) := toBytes 8 8
def plan2 : LPort := { rxPlan := [rs 3 1 7 false, rs 3 2 8 false] }
def stPing : State := linkWith pingB
def stPong : State := linkWith pongB
def stCreditB : State := linkWith creditB { credit := [(7, 3)] }
def stRotB : State := linkWith rotB { mcount := 7 }
def stAckB : State := linkWith ackB plan2
def stNackB : State := linkWith nackB plan2
def stTxeqB : State := linkWith txeqB { taps := [(4, (1, 5, -2))] }

/-- Channel 11 with these packets in its inbox, and more as given. -/
def inBox (ps : List Packet) (f : Channel → Channel := id) : State := inCh fun ch =>
  f { ch with cyc := 100, link := { ch.link with inbox := ps } }
/-- A packet of node 3, and one of another VC behind it. -/
def pk (t : Nat) : Packet := { ptype := t, dst := 11, src := 3, tag := 9 }
def wait5 : Packet := { ptype := 0x12, dst := 11, src := 3 }
def ps1 (p : Packet) : List Packet := [p, wait5]
def rdP : Packet := { pk 1 with len := 65, arg0 := 11 * 2 ^ 36 + 2 ^ 36 - 128 }
def rdFar : Packet := { pk 1 with len := 129, arg0 := 11 * 2 ^ 36 + 2 ^ 36 - 128 }
def wrP : Packet := { pk 2 with len := 65, arg0 := 11 * 2 ^ 36 + 2 ^ 36 - 128, data := List.replicate 65 7 }
def wrFar : Packet := { wrP with arg0 := 10 * 2 ^ 36 }
def stRdReq : State := inBox (ps1 rdP)
def stRdFar : State := inBox (ps1 rdFar)
def stWrReq : State := inBox (ps1 wrP)
def stWrFar : State := inBox (ps1 wrFar)
/-- The channel after it has taken the packet. -/
def taken (s : State) : Channel := { s.chan 11 with link := { (s.chan 11).link with inbox := [wait5] } }
def rspP : Packet := { pk 3 with len := 64, data := List.replicate 64 7 }
def ackP : Packet := pk 4
def nackP : Packet := { pk 4 with status := 2 }
def trRd : Tracked := { g := 1535, parts := [(0, 0)], wr := false, ctx := 3 }
def trWr : Tracked := { trRd with wr := true }
def xfTr : Xfer := { xid := 0, st := 15, len := 64, src := [.dev 64], dst := [.dev (11 * 2 ^ 36 + 64)], srcEnd := true, dstEnd := true }
def track (t : Tracked) (ch : Channel) : Channel :=
  { ch with link := { ch.link with tracked := [(9, t)] }, lans := [(1535, { regs := stmR 1, td := { streams := [(15, {})], fq := [xfTr] } })] }
def stRspLate : State := inBox (ps1 rspP)
def stRsp : State := inBox (ps1 rspP) (track trRd)
def stAckLate : State := inBox (ps1 ackP) (track trRd)
def stAck : State := inBox (ps1 ackP) (track trWr)
def stNack : State := inBox (ps1 nackP) (track trWr)
/-- Lantern 1535 is row 31, column 47. -/
def gridArg : Nat := 31 * 32 + 47 * 2 ^ 10
def bpP : Packet := { pk 5 with arg0 := gridArg + 30 + 65535 * 2 ^ 16 }
def bpOff : Packet := { pk 5 with arg0 := 30 + 48 * 2 ^ 10 }
def withLan (l : Lantern) (ch : Channel) : Channel := { ch with lans := [(1535, l)] }
def stBp : State := inBox (ps1 bpP) (withLan { regs := at1 awake F.LN_BP_CNT_FREE 30 9 })
def stBpOff : State := inBox (ps1 bpOff)
def fifoP : Packet := { pk 0x10 with len := 3, data := [1, 2, 3], arg0 := 31 }
def fifoRes : Packet := { fifoP with resv := some (31, 5) }
def withFifo (f : Fifo) (ch : Channel) : Channel := { ch with link := { ch.link with fifos := [(31, f)], nextPid := 5 } }
def stFifoRes : State := inBox (ps1 fifoRes) (withFifo { pkts := [{ pid := 4, len := 3, bytes := [9], whole := true }, { pid := 5, len := 3 }] })
def stFifo : State := inBox (ps1 fifoP)
def stFifoFull : State := inBox (ps1 fifoP) (withFifo { pkts := [{ pid := 4, len := 65534 }] })
def dataP (last : Bool) : Packet := { pk 0x11 with len := 65, flags := if last then 1 else 0, arg0 := gridArg + 31 + 2 * 2 ^ 16, data := List.replicate 65 7 }
def dataMid : Packet := dataP false
def dataEnd : Packet := dataP true
def landR (free : Nat) : Regs :=
  at1 (at1 (at1 (at1 (at1 (at1 awake F.LN_BP_CFG_LINK 31 1) F.LN_BP_CNT_FREE 31 free) F.LN_BP_CFG_SLOT_LINES 31 4) F.LN_BP_CFG_RING_BASE 31 4088)
    F.LN_BP_CFG_CAP 31 2) F.LN_BP_STAT_WIDX 31 1
def stLand0 : State := inBox (ps1 dataMid) (withLan { regs := awake })
def stLandMid : State := inBox (ps1 dataMid) (withLan { regs := landR 1 })
def stLandEnd : State := inBox (ps1 dataEnd) (withLan { regs := landR 65535 })
def stLandFull : State := inBox (ps1 dataEnd) (withLan { regs := landR 0 })
def markP : Packet := { pk 0x12 with arg0 := 1023 + 200 * 2 ^ 10 }
def stMarkWait : State := inBox (ps1 markP) fun ch => { ch with link := { ch.link with landOut := [(3, 1)] } }
def stMarkIn : State := inBox (ps1 markP) fun ch => { ch with regs := at1 (at1 {} F.CTX_STATE_STATE 1023 1) F.CTX_STATE_IN_CNT 1023 100 }
def tickP : Packet := { pk 0x20 with arg0 := 2 ^ 48 - 1 + 14 * 2 ^ 60, arg1 := 2 ^ 63, via := some (2, 6, 1) }
def tickP1 : Packet := { tickP with via := some (1, 6, 1) }
def withTb (r : Regs → Regs) (t : Timebase) (s : State) : State :=
  { s with mod := { s.mod with regs := r (at1 (at1 s.mod.regs F.TB_CFG_SRC 0 1) F.TB_CFG_SRC_CH 0 11), tb := t } }
def stTickNot : State := withTb id {} (inBox (ps1 tickP1))
def stTickOff : State := withTb id {} (inBox (ps1 tickP))
def stTickOn : State := withTb (at1 · F.TB_STAT_EN 0 1) ticking (inBox (ps1 tickP))
def fogP : Packet := { pk 0x21 with arg0 := 255 + 0xE0 * 256, hops := 1, via := some (1, 6, 1) }
def up3 (ch : Channel) : Channel := { ch with regs := at1 (at1 {} F.LK_STAT_STATE 1 5) F.LK_STAT_STATE 2 5 }
def stFog : State := inBox (ps1 fogP) up3
def stFogOld : State := inBox (ps1 fogP) fun ch => { up3 ch with link := { ch.link with fogs := [(3, 255)] } }
def stFog0 : State := inBox (ps1 { fogP with hops := 0 }) up3
def settleO : OutPkt := { p := { pk 1 with dst := 3 } }
def stSettle : State := inCh fun ch =>
  { ch with regs := at1 (at1 (at1 {} F.LK_RT_CH_PRI 3 1) F.LK_STAT_STATE 0 5) F.LK_RT_STAT_MASK 0 (2 ^ 24 - 1),
            link := { ch.link with held := [settleO], settling := [3] } }
def fp (n : Nat) (w : Bool) : FifoPkt := { pid := n, len := 3, bytes := if w then [1, 2, 3] else [], whole := w }
def fifoOf (f : Fifo) (r : Regs := {}) : State := inCh fun ch => withFifo f { ch with regs := r, lans := [(1535, { regs := awake })] }
def stCutW : State := fifoOf { pkts := [fp 1 true, fp 2 true] }
def stCutA : State := fifoOf { pkts := [fp 3 false] }
def lvR (bp : Nat) : Regs :=
  at1 (at1 (at1 (at1 (at1 {} F.LK_FIFO_CFG_LEVEL 31 1) F.LK_FIFO_CFG_TGT_BP 31 bp) F.LK_FIFO_CFG_BP 31 30) F.LK_FIFO_CFG_ROW 31 31) F.LK_FIFO_CFG_COL 31 47
def big : FifoPkt := { pid := 1, len := 64, bytes := List.replicate 64 1, whole := true }
def stLvLow : State := fifoOf { pkts := [fp 1 true], prev := 70 } (lvR 1)
def stLvBp : State := fifoOf { pkts := [big], prev := 63 } (lvR 1)
def stLvNo : State := fifoOf { pkts := [big], prev := 63 } (lvR 0)

/-- The bridge with these registers beside LEVEL, this host port and every channel usable. -/
def hostMod (r : Regs → Regs) (h : HostPort) (b : Bridge) : Bridge :=
  { b with regs := r (at1 b.regs F.MOD_BOOT_CH_USABLE 0 (2 ^ 12 - 1)), hp := h }
def inHost (r : Regs → Regs) (h : HostPort) : State := inMod (hostMod r h)
def evt : HEntry := { cid := 0, type := 1, status := 0, payload := toBytes 4 11 }
def granted (s : State) : State := { s with mod := { s.mod with boot := { s.mod.boot with grant := some 0, cfgOk := true } } }
def stHost : State :=
  granted (inHost (fun r => at1 (at1 r F.HP_STATUS_LINK_UP 0 1) F.HP_RING_CFG_EN 15 1) { cfg := [(16, 7)], rings := [(15, {})] })
def stHostEvt : State := { stHost with mod := { stHost.mod with events := [evt] } }
def stHostDown : State := granted (inHost id { training := true })
def stHostPerst : State := granted (inHost id { perst := true })
/-- CHAN and BLOCK of the aperture. -/
def stAper : State := inHost (fun r => at1 (at1 r F.HP_APER_CHAN 0 11) F.HP_APER_BLOCK 0 63) {}
def stAperHeld : State := { stAper with mod := { stAper.mod with boot := { stAper.mod.boot with resetCh := [11] } } }
def stHdmHeld : State := inMod id
def stBi : State := { inHost id {} with chans := [(11, { Channel.init 11 with hbm := { dir := [(252, true), (253, false)], mem := m252 } })] }
def stMsix : State := inHost id { pba := [2047], msix := [(4 * 2047 + 3, 1)] }
def stMsixOn : State := inHost id { pba := [2047], fmask := true, msix := [(4 * 2047, 64), (4 * 2047 + 2, 9), (4 * 2047 + 3, 0)] }
def stCache : State := inHost id { cache := [(64, entry0), (128, entry0)] }
/-! Rings: pair 15. -/
def ringR (r : Regs) : Regs := at1 (at1 r F.HP_RING_CFG_EN 15 1) F.HP_EVT_EN 0 1
def inRing (q : Ring) (r : Regs → Regs := id) (h : HostPort := {}) : State := inHost (fun x => r (ringR x)) { h with rings := [(15, q)] }
def stRingOff : State := inHost id {}
def stRingIdle : State := inRing { tail := 63, cpHead := 5 } (fun r => at1 (at1 r F.HP_RING_STAT_CR_HEAD 15 60) F.HP_RING_STAT_CP_FULL 15 1)
def stFetchR : State := inRing { tail := 0 } (at1 · F.HP_RING_STAT_CR_HEAD 15 63)
def cmdOf (bytes : List (BitVec 8)) : HCmd := { id := 3, entry := fitTo 64 0 bytes }
def hdrC (op chan : Nat) (fl : Nat := 0) : List (BitVec 8) := toBytes 1 op ++ toBytes 1 fl ++ toBytes 2 77 ++ toBytes 1 chan ++ [0, 0, 0]
def xNop : HCmd := cmdOf (hdrC 0 255)
def xQuiet : HCmd := cmdOf (hdrC 0 255 2)
def xBad0 : HCmd := cmdOf (hdrC 0 0)
def xBad3 : HCmd := cmdOf (hdrC 3 0)
def xBad5 : HCmd := cmdOf (hdrC 5 255 4)
def xSix : HCmd := cmdOf (hdrC 6 255)
/-- MARK of context 1023 by 3. -/
def xCtx : HCmd := cmdOf (hdrC 1 11 ++ toBytes 8 (1023 + 4 * 2 ^ 10 + 3 * 2 ^ 46))
def xReady (page : Nat) : HCmd := cmdOf (hdrC 2 11 ++ toBytes 4 page)
def xMove (host dev len dir : Nat) : HCmd := cmdOf (hdrC 3 255 ++ toBytes 8 host ++ toBytes 8 dev ++ toBytes 4 len ++ toBytes 1 dir)
def xIn : HCmd := xMove 64 (11 * 2 ^ 36 + 64) 128 0
def xOut : HCmd := xMove 64 (11 * 2 ^ 36 + 64) 128 1
def xMoveOdd : HCmd := xMove 64 32 128 0
def xMoveFar : HCmd := xMove 64 (12 * 2 ^ 36) 128 0
def xSnap (a host len : Nat) : HCmd := cmdOf (hdrC 4 255 ++ toBytes 8 a ++ toBytes 8 host ++ toBytes 4 len)
def xSnapOk : HCmd := xSnap (winBase 11 + 0x108 - 0x108 % 8) 64 8
def xSnapOdd : HCmd := xSnap (winBase 11) 64 12
def xSnapSp : HCmd := xSnap (winBase 11 + lanBase 3 + 0xF000) 64 8
def wAddr : Nat := winBase 11 + lanBase 1535 + F.LN_ARB_CFG_BURST.off 0
def xReg : HCmd := cmdOf (hdrC 5 255 ++ toBytes 8 (2 ^ 63 + wAddr) ++ toBytes 8 9)
def withCmd (x : HCmd) : State := inRing { cmds := [x] }
def stNopC : State := withCmd xNop
def stQuietC : State := withCmd xQuiet
def stBad0 : State := withCmd xBad0
def stBad3 : State := withCmd xBad3
def stBad5 : State := withCmd xBad5
def stSix : State := withCmd xSix
def stCtxC : State := { withCmd xCtx with chans := [(11, { Channel.init 11 with regs := at1 {} F.CTX_STATE_STATE 1023 1 })] }
def xCtx2 : HCmd := { xCtx with started := true, tick := 0, status := 1 }
def stCtxD : State := { withCmd xCtx2 with chans := [(11, { Channel.init 11 with regs := at1 {} F.CH_TICK_TICK 0 1 })] }
def xRdy : HCmd := xReady 98303
def xRdyFar : HCmd := xReady 98304
def stRdyFar : State := withCmd xRdyFar
def stRdyNone : State := { withCmd xRdy with chans := [(11, { Channel.init 11 with hbm := { faults := [flt] } })] }
def stRdy : State := { withCmd xRdy with chans := (stTmoHalted).chans }
def stIn : State := withCmd xIn
def stOut : State := withCmd xOut
def stMoveOdd : State := withCmd xMoveOdd
def stMoveFar : State := withCmd xMoveFar
def stInHeld : State := { stIn with mod := { stIn.mod with boot := { stIn.mod.boot with resetCh := [11] } } }
def stSnap : State := withCmd xSnapOk
def stSnapOdd : State := withCmd xSnapOdd
def stSnapSp : State := withCmd xSnapSp
def stRegW : State := withCmd xReg
/-! Completions. -/
def cpl : HEntry := { cid := 77, type := 0, status := 0, payload := [1] }
def cpR (coal : Nat) (r : Regs) : Regs :=
  at1 (at1 (at1 (at1 r F.HP_RING_STAT_CP_TAIL 15 63) F.HP_RING_CFG_COAL 15 coal) F.HP_RING_CFG_VEC 15 2047) F.HP_EVT_RING 0 15
def stCpl : State := inRing { done := [cpl, cpl], cpHead := 5 } (cpR 0)
def stCplOn : State := inRing { done := [cpl], cpHead := 5, unsig := 1 } (cpR 1) { msix := [(4 * 2047, 64), (4 * 2047 + 3, 0)] }
def stCplCoal : State := inRing { done := [cpl], cpHead := 5 } (cpR 255)
def stCplFull : State := inRing { done := [cpl], cpHead := 0 } (cpR 255)
def withEvt (s : State) : State := { s with mod := { s.mod with events := [evt] } }
def stEvtW : State := withEvt (inRing { cpHead := 5 } (cpR 255))
def stEvtFull : State := withEvt (inRing { cpHead := 0 } (cpR 255))
def stFlush : State := inRing { unsig := 3 } (cpR 255)
def dLine : Nat := 11 * 2 ^ 36 + 64 * 252
def msg : Nat := 2 ^ 32 - 1

/-- The bridge with its boot state as given. -/
def inBoot (x : Boot) (r : Regs → Regs := id) (h : HostPort := {}) : State :=
  inMod fun b => { b with regs := r b.regs, boot := x, hp := h }
def halfOk : Half := { test := some true, sentAt := 100 }
def bt : Boot := { ms := 100, half0 := halfOk, half1 := halfOk }
def stInReset : State := inBoot { bt with inReset := true }
def stBoot : State := inBoot bt
/-- Half 1 is fresh from its watchdog. -/
def stFresh : State := inBoot { bt with half1 := { fresh := true, start := 80, sentAt := 84 } }
def stElect : State := inBoot { bt with half1 := { halfOk with start := 80 } }
def stElectNot : State := inBoot { bt with half1 := { halfOk with start := 81 } }
/-- A LIT frame that holds image 9. -/
def frameOf (w : Nat) : Nat := w + crc8 w <<< 56
def litW : Nat := frameOf (0xA5 + 256 + 9 <<< 12)
def third : Half := { halfOk with run := 2, last := some (99, 1) }
def stClaimed : State := inBoot { bt with half0 := third, half1 := third }
def stMove (held : Nat) : State :=
  let s := inBoot { bt with grant := some 0, granted := true, half0 := { halfOk with last := some (91, 1) }, half1 := { third with held := held } }
    (at1 · F.HP_STATUS_LINK_UP 0 1)
  { s with chans := [(11, { Channel.init 11 with hostStop := true })] }
def stMove0 : State := stMove 0
def stMove9 : State := stMove 9
def stMoveB : State := inBoot { bt with grant := some 1, granted := true, half1 := { halfOk with last := some (91, 1) }, half0 := third } (at1 · F.HP_LIGHT_LIT 0 1)
def stHeard : State := inBoot { bt with half0 := { halfOk with heard := some 92 }, half1 := { halfOk with heard := some 93 } }
/-! Start-up. -/
def stVerify (src : Nat) : State := inBoot { bt with grant := some 0 } fun r => at1 (at1 r F.MOD_BOOT_STAGE 0 1) F.MOD_BOOT_SOURCE 0 src
def stVerifyP : State := stVerify 0
def stVerifyR : State := stVerify 1
def img0 : Image := { seq := 9, svn := 2, floor := 1, digest := [], bridgeFw := [], keeperFw := [], config := [], owner := [], sects := [] }
/-- A section that holds one record of an unknown kind. -/
def badSect : Sect := { ty := 0x11, mask := 2 ^ 12 - 1, param := 0, data := 4 :: List.replicate 15 0 }
def imgBad : Image := { img0 with sects := [badSect] }
/-- Placement 3 omits channel 11. -/
def img11 : Image := { img0 with sects := [{ ty := 0x11, mask := 2 ^ 11 - 1, param := 3, data := [] }] }
def stDist (img : Image) (landed : List Nat) : State :=
  inBoot { bt with image := some img, landed := landed, resetCh := upto 12, p2 := 2 ^ 11 } (at1 · F.MOD_BOOT_STAGE 0 2)
def stDist0 : State := stDist img0 []
def stDist11 : State := stDist img0 (upto 11)
def stDistBad : State := stDist imgBad []
def rep0 : CalReport := { rate := some 0, a0 := true, a1 := true, lans := [1535], cores := [], slices := [] }
def repNo : CalReport := { rep0 with rate := none }
def stCal (rep fail : List Nat) (auto : Bool := false) : State :=
  inBoot { bt with reported := rep, failedCh := fail, autoGo := auto, image := some img11 } (at1 · F.MOD_BOOT_STAGE 0 3)
def stCal0 : State := stCal [] []
def stCal11 : State := stCal (upto 11) []
def stCal11a : State := stCal (upto 11) [] true
def stCal11f : State := stCal (upto 10) [10]
def stWaitGo : State := inBoot bt (at1 · F.MOD_BOOT_STAGE 0 4)
/-! Flash and identity. -/
def stBusy : State := inBoot { bt with fcmd := some (2, 1, 65536) } (at1 · F.SEC_FLASH_STAT_BUSY 0 1)
def stBusy0 : State := inBoot { bt with fcmd := some (0, 1, 65536), flash := [(1, [(65536, 0xF8)])] } (at1 · F.SEC_FLASH_STAT_BUSY 0 1)
def stBusy1 : State := inBoot { bt with fcmd := some (1, 1, 65536), flash := [(1, [(65536, 0xF8)])] } fun r => at1 (at1 r F.SEC_FLASH_STAT_BUSY 0 1) F.SEC_FLASH_BUF_DATA 31 7
def stIdOk : State := inBoot bt (at1 · F.MOD_BOOT_ID_OK 0 1)
def stDistR : State := inBoot { bt with image := some imgBad, resetCh := upto 12, p2 := 2 ^ 11 } fun r => at1 (at1 r F.MOD_BOOT_STAGE 0 2) F.MOD_BOOT_SOURCE 0 1
def nilB : List (BitVec 8) := []

/-- Channel 11 as given, in a module with every channel usable and events enabled. -/
def inErr (f : Channel → Channel) (b : Bridge → Bridge := id) (r : Regs → Regs := id) : State :=
  { pending := [], chans := [(11, f { Channel.init 11 with cyc := 100 })],
    mod := b { openMod with regs := r (at1 (at1 openMod.regs F.MOD_BOOT_CH_USABLE 0 (2 ^ 12 - 1)) F.HP_EVT_EN 0 1) } }
def rec0 (cause unit : Nat) (lasting : Bool) (cls : Nat := 0) : PendRec :=
  { seq := 5, unit := unit, cause := cause, cls := cls, ctx := none, lasting := lasting }
/-- The head of the ring is record 5 of the class, at place 63. -/
def ringOf (cls : Nat) (fwd : Nat := 0) : Regs :=
  at1 (at1 (at1 (at1 {} F.ERR_STATUS_ENTRIES 0 1) F.ERR_RING_PTR_HEAD 0 255) F.ERR_RING_REC 252 (5 + cls * 2 ^ 32)) F.ERR_CFG_FWD_MIN 0 fwd
def withPend (r : Regs) (p : PendRec) (ch : Channel) : Channel := { ch with regs := r, err := { pend := [p] } }
def pCe : PendRec := rec0 0x60 (unitWord 11 8 0 63 0) false
def pSlice : PendRec := rec0 0xA0 (unitWord 11 1 1535 63 15) true
def stTake0 : State := inErr id
def stTakeCe : State := inErr (withPend (ringOf 0) pCe)
def stTakeNo : State := inErr (withPend (ringOf 0 1) pCe)
def stTakeSlice : State := inErr (withPend (ringOf 0) pSlice)
def hpState (t : Nat) : State := inErr fun ch =>
  { ch with regs := at1 {} F.CH_TICK_TICK 0 t, err := { health := [(3, 9)] }, link := { ch.link with ports := [(2, { leaky := [(4, 7)] })] } }
def stWinTick : State := hpState 65536
def stWinNot : State := hpState 65537
def ret0 : Retire := { g := 1535, logical := 59, phys := 63, unit := unitWord 11 2 1535 63 0, limit := 100 }
def retCh (l : Lantern) (ch : Channel) : Channel :=
  { ch with regs := at1 (at1 {} F.CH_TICK_TICK 0 100) F.CH_SPARES_CO_FREE 0 4, err := { retiring := [ret0] }, lans := [(1535, l)] }
def retR : Regs := at1 bound63 F.LN_CORE_SPARE_MASK 0 (2 ^ 60 + 2 ^ 61)
def stRetireCo : State := inErr (retCh { regs := retR, tq := { barred := [63] } })
def stRetireTmo : State := inErr (retCh { regs := retR, cores := [(63, { tasks := [tk] })], tq := { barred := [63] } })
def imgAll : Image := { img11 with sects := img11.sects ++ [{ ty := 0x11, mask := 2 ^ 12 - 1, param := 0, data := [] }] }
def lossMod (img : Option Image) (b : Bridge) : Bridge := { b with lossDue := [(11, 0xC1)], boot := { b.boot with image := img } }
def stLoss : State := inErr id (lossMod (some imgAll))
def stLossNone : State := inErr id (lossMod none)
def moveCh (ch : Channel) : Channel := { ch with ctx := { ch.ctx with moving := 1 } }
def ordMod (got : List Nat) (b : Bridge) : Bridge := { b with boot := { b.boot with order := some (3, 0, got) } }
def stResume : State := inErr moveCh (ordMod [1])
def stResumeLast : State := inErr moveCh (ordMod [0, 1, 2, 3, 4, 5, 6, 7, 8, 9, 10])
def stFatalCh : State := inErr fun ch => { ch with regs := at1 {} F.ERR_STATUS_FATAL 0 1 }
def stDump : State := inErr fun ch => { ch with err := { dumping := some (7, 300, true) }, hbm := { mem := m252 } }
def modRing (n : Nat) (r : Regs) : Regs := at1 (at1 (at1 r F.ERR_MOD_STATUS_ENTRIES 0 n) F.ERR_MOD_RING_PTR_HEAD 0 255) F.ERR_MOD_RING_REC 252 9
def stModTake : State := inErr id id (modRing 1)
def stModFatal : State :=
  inErr (fun ch => { ch with regs := at1 {} F.LK_STAT_STATE 2 5 }) (fun b => { b with fatalDue := some 0xE0 }) (at1 · F.ERR_FOG_LAST_SENT_SEQ 0 255)
def stFogOut : State := inErr id fun b => { b with boot := { b.boot with fogOut := true } }
def stFogWait (act : Nat) : State := inErr id (fun b => { b with boot := { b.boot with fogWait := true } }) (at1 · F.ERR_MOD_CFG_FOG_ACT 0 act)
def stFogWait0 : State := stFogWait 0
def stFogWait1 : State := stFogWait 1
def stCopy : State :=
  inErr (fun ch => { ch with regs := at1 {} F.ERR_STATUS_DUMP_DONE 0 1 }) id fun r => at1 (at1 r F.ERR_DUMP_SIZE_MIB 0 16) F.ERR_DUMP_HOST_ADDR 0 1

def inPwr (f : Channel → Channel) (b : Bridge → Bridge := id) : State :=
  { pending := [], chans := [(11, f { Channel.init 11 with cyc := 100 })], mod := b { openMod with regs := at1 openMod.regs F.MOD_BOOT_CH_USABLE 0 (2 ^ 12 - 1) } }
def stSupply : State := inPwr id fun b => { b with boot := { b.boot with supply := [(728, 9), (1016, 10)] } }
def stHot : State := inPwr fun ch => { ch with pwr := { ch.pwr with hot := 10 } }
def stVolt : State :=
  { pending := [], chans := [(10, Channel.init 10), (11, { Channel.init 11 with regs := at1 {} F.CH_OP_THERM_CAP 0 3 })], mod := openMod }
def stDiff : State :=
  { pending := [], chans := [(10, Channel.init 10), (11, { Channel.init 11 with regs := at1 {} F.CH_TEMP_TJ_C 0 36 })], mod := openMod }
def stClk (k : Nat) : State := inPwr fun ch => { ch with pwr := { ch.pwr with stage := k } }
def stClk1 : State := stClk 1
def stClk2 : State := stClk 2
def stClk3 : State := stClk 3
def stThr (t cap : Nat) : State := inPwr fun ch => { ch with regs := at1 (at1 {} F.CH_TEMP_TJ_C 0 t) F.CH_OP_THERM_CAP 0 cap }
def stThrUp : State := stThr 127 2
def stThrTop : State := stThr 127 3
def stThrLow : State := stThr 0 1
def stCap (low cap : Nat) : State :=
  inPwr (fun ch => { ch with regs := at1 {} F.CH_OP_PWR_CAP 0 cap }) fun b => { b with boot := { b.boot with lowMs := low } }
def stCap9 : State := stCap 9 0
def stCap10 : State := stCap 10 3
def stOff : State := inPwr id fun b => { b with regs := at1 b.regs F.MOD_BOOT_CH_USABLE 0 0 }
def imgPl : Image := { img11 with sects := [{ ty := 0x11, mask := 2 ^ 12 - 1, param := 0, data := [] }] }
def stNamed : State := inPwr id fun b => { b with boot := { b.boot with image := some imgPl } }


/-- The last word of the last line of a core's empty task. -/
def stLast (w : Nat) : State :=
  inCore { tasks := [{ tk with empty := true }], ibuf := [{ task := 7, line := 8, words := [0, 0, 0, w], ready := some 100 }], ipos := 3,
           nextIssue := 100, seq := 4 }
def tkE : CTask := { tk with empty := true }
def unopen : CTask := { tk with opened := false, ctx := 0 }
def stTaskEmpty : State := inCore (issuing 17 unopen)
/-- Both attachments are up; attachment 1 fails. -/
def stAttBoth : State := inCh fun ch => { ch with regs := at1 (at1 {} F.CH_INFO_A0_UP 0 1) F.CH_INFO_A1_UP 0 1 }
def stAttMove1 : State := inCh fun ch => { ch with attDue := [(1, 0, true)] }
/-- All transpose buffers are taken. -/
def stTbufs : State :=
  inLan { tbufs := 4, pipeQ := [{ line := 16, wr := false, req := 1, ord := 1, dst := .none }],
          cores := [(63, { tasks := [tk], loadQ := [ol2], lastReq := some 99 })] }
/-- The vector engine has a store under way and no task to fetch for. -/
def stVask0 : State :=
  inLan { ve := { lastAcc := some 99,
                  mem := [{ seq := 1, task := 7, w := vw 9, issued := 99, vl := 64, todo := [(4095, List.replicate 64 1, List.replicate 64 true)] }] } }
def stVtaskEmpty : State := stV (1 + 2 ^ 44) unopened
def stRearmEnd : State := inTd moored { streams := [(15, { endAt := some (100, true) })] }
def stRestartA : State := inTd (at1 awake F.TD_S_DESC0_MOORED 15 1) { streams := [(15, { restart := some 100 })] }
def stStmEndA : State :=
  inTd (stmR 1 (at1 pairRegs F.LN_STATUS_PARKED 0 0)) { streams := [(15, { ending := true, dstOpen := true, shadow := some (5, 2 ^ 64 + 6) })] }
def tbLocked : State := inTb (at1 · F.TB_STAT_LOCKED 0 1) ticking
def tbAlarmed : State := inTb holdRegs { ticking with alarmed := true }
def stDueMsg : State := { stMsg with mod := { stMsg.mod with tb := { stMsg.mod.tb with due := [11] } } }
def stLateTick : State := inCh fun ch => { ch with regs := fwd, ctx := { ch.ctx with ticking := true, tickTm := 10 ^ 9 } }
/-- The ports send flit slots. -/
def onFlits (s : State) : State :=
  { s with chans := s.chans.map fun (n, ch) => (n, { ch with link := { ch.link with ports := ch.link.ports.map fun (p, q) => (p, { q with flits := true }) } }) }
/-- Port 2 of channel 11, whose peer is outside the module. -/
def inPort2 (st : Nat) (q : LPort) (r : Regs := {}) : State := inCh fun ch =>
  { ch with cyc := 100, regs := at1 r F.LK_STAT_STATE 2 st, link := { ch.link with ports := [(2, q)] } }
def mapR2 : Regs := at1 (at1 {} F.LK_LANEMAP_RX_MAP 2 1672) F.LK_LANEMAP_TX_MAP 2 1672
def stT1p2 : State := inPort2 1 { rxLock := [4], peerLock := [3] }
def stMarkRx2 : State := inPort2 5 { slot := 4095 } mapR2
def stRx2 : State := inPort2 5 { exp := 4095 } (at1 mapR2 F.LK_CFG_FEC_SEL 2 1)
def stNoSpare : State := p1 { leaky := [(3, 255)] } (at1 (mapR) F.LK_LANEMAP_RX_RETIRED 1 16)
def stInitAgain : State := inPort 4 { linkIn := [initOk], again := true, held := [({ seq := 9 }, 1)] }
def stResendF : State := onFlits stResend
def stNullF : State := onFlits stNull
def stDataF : State := onFlits stData
def stLinkQF : State := onFlits stLinkQ
def stMarkF : State := onFlits stMark
/-- A response that brings line 2 of a block list. -/
def trList : Tracked := { trRd with list := some 15, parts := [(0, 2)] }
def stRspList : State := inBox (ps1 rspP) fun ch =>
  { ch with link := { ch.link with tracked := [(9, trList)] }, lans := [(1535, { regs := stmR 1, td := { streams := [(15, { listReq := [2] })] } })] }
/-- Packets past their slot. -/
def landShort : Regs := at1 (landR 2) F.LN_BP_CFG_SLOT_LINES 31 3
def stLandPast : State := inBox (ps1 dataMid) (withLan { regs := landShort })
def stLandPastEnd : State := inBox (ps1 dataEnd) (withLan { regs := landShort })
def stTickLock : State := withTb (fun r => at1 (at1 r F.TB_STAT_EN 0 1) F.TB_STAT_LOCKED 0 1) ticking (inBox (ps1 tickP))
/-! Start-up, errors. -/
def stFreshHeard : State :=
  inBoot { bt with grant := some 0, image := some img0, half1 := { fresh := true, heard := some 92, start := 80, sentAt := 84 } }
def stGranted : State := inBoot { bt with grant := some 0, granted := true, half0 := { halfOk with last := some (99, 1) } }
def stGrantEnds : State :=
  inBoot { bt with grant := some 0, granted := true, half0 := { halfOk with last := some (92, 1) } } (at1 · F.HP_STATUS_LINK_UP 0 1)
def stMoveBusy : State :=
  { stMove9 with chans := [(11, { Channel.init 11 with hbm := { gate := [rd252] } })] }
/-- One resident block of lantern 1535: core 59, lines 16 and 17, from the start of the stack. -/
def blk : List (BitVec 8) := toBytes 2 1535 ++ toBytes 1 59 ++ toBytes 1 0 ++ toBytes 2 16 ++ toBytes 2 2 ++ toBytes 8 (11 * 2 ^ 36)
def withBlk (p : Nat) (ch : Channel) : Channel := ch.modCtx fun x => { x with tables := [(p * 65536 + 1025, blk)] }
def stGoLoads : State :=
  { stWaitGo with chans := [(11, withBlk 0 { Channel.init 11 with regs := at1 {} F.CH_INFO_USABLE 0 1 })] }
def stGoing : State := inBoot { bt with going := true } (at1 · F.MOD_BOOT_STAGE 0 4)
def stProgram : State :=
  inBoot { bt with fcmd := some (1, 1, 65536), fpage := List.replicate 256 7 } (at1 · F.SEC_FLASH_STAT_BUSY 0 1)
def stRetireBlk : State := inErr fun ch => withBlk 0 (retCh { regs := retR, tq := { barred := [63] } } ch)
def ret1 : Retire := { ret0 with spare := some 60 }
def stRetireLoading (l : List (Nat × Nat)) : State := inErr fun ch =>
  let ch := retCh { regs := retR, tq := { barred := [60] } } ch
  { ch with err := { ch.err with retiring := [ret1] }, ctx := { ch.ctx with loads := l } }
def stLossFailed : State := inErr id fun b => let b := lossMod (some imgAll) b; { b with boot := { b.boot with failedCh := [11] } }
def stMoveBlk : State := inErr (fun ch => withBlk 3 (moveCh ch)) (ordMod [1])
def stCopy1 : State :=
  inErr (fun ch => { ch with regs := at1 {} F.ERR_STATUS_DUMP_DONE 0 1, err := { ch.err with dumped := true } }) id
    fun r => at1 (at1 r F.ERR_DUMP_SIZE_MIB 0 16) F.ERR_DUMP_HOST_ADDR 0 1

def ob1 : Mem := (List.range 512).map fun i => (i, BitVec.ofNat 8 (i * 37 % 251 + 1))
def stExX (m : MulOp) : State := inLan { regs := fmtRegs, cores := [(63, { obuf := ob1, tasks := [tk], mulQ := [m], lastExam := some 99 })] }
def stStageX (m : MulOp) : State := inLan { cores := [(63, { obuf := ob1, tasks := [tk], mulQ := [m], lastPair := some 99, acc := [(527,{v:=77,fp:=false,tag:=1})], drainQ := [{seq:=9,task:=7,w:=4,issued:=3}] })] }

def bkLast (o : Out) (b : Nat) (dbgP : Bool) : Acc1 :=
  ((if dbgP then (((stateOf o).chan 11).lan 1535).bank b |>.dbg else ((((stateOf o).chan 11).lan 1535).bank b).fabric).getLast?).getD { line := 0 }

def wit1 : State :=
  (stateOf (exec (.nop 11 1535 63) (inCh fun ch => { ch with clkOn := false })))
def wit2 : DrainOp :=
  (((stFetch.chan 11).core 1535 63).drainQ.head?.get (by decide +kernel))
def wit3 : Operand :=
  ((Option.get (((stEx exMerge).chan 11).lan 1535 |>.tmOperands exMerge.w) (by decide +kernel))).1
def wit4 : Operand :=
  ((Option.get (((stEx exGather).chan 11).lan 1535 |>.tmOperands exGather.w) (by decide +kernel))).2
def wit5 : Operand :=
  ((Option.get (((stEx exMerge).chan 11).lan 1535 |>.tmOperands exMerge.w) (by decide +kernel))).2
def wit6 : Operand :=
  ((Option.get (((stEx exBitmap).chan 11).lan 1535 |>.tmOperands exBitmap.w) (by decide +kernel))).1
def wit7 : Operand :=
  ((Option.get (((stEx exBitmap).chan 11).lan 1535 |>.tmOperands exBitmap.w) (by decide +kernel))).2
def wit8 : Issue :=
  (Option.get (((inList entry0).chan 11).lan 1535 |>.listIssue 1535 15 (LEntry.parse entry0)) (by decide +kernel))
def wit9 : Issue :=
  (Option.get ((stXfer.chan 11).progIssue 1535 15 16384 false true true) (by decide +kernel))
def wit10 : Issue :=
  (Option.get ((stFill.chan 11).progIssue 1535 15 64 true true false) (by decide +kernel))
def wit11 : Issue :=
  (Option.get (((inList entry64).chan 11).lan 1535 |>.listIssue 1535 15 (LEntry.parse entry64)) (by decide +kernel))
def wit12 : TqEntry :=
  ({ num := 0, w := e3, claims := [(4095, 7), (1, 7)], open_ := 2 } : TqEntry)
def wit13 : Nat :=
  48 * ((stSteal.chan 11).lan 1535).r F.LN_STEAL_ROW 7 + ((stSteal.chan 11).lan 1535).r F.LN_STEAL_COL 7
def wit14 : Nat :=
  48 * ((stSteal8.chan 11).lan 1535).r F.LN_STEAL_ROW 7 + ((stSteal8.chan 11).lan 1535).r F.LN_STEAL_COL 7
def wit15 : Channel :=
  ((stMoveBlk.chan 11).applyPlacement 3).modCtx (fun x => { x with place := 3 })

/-! ### Witnesses of the statements' hypotheses, a line for each clause -/

theorem calLan_rep0 : 1408 ≤ (List.filter (calLanOk rep0) (upto 1536)).length := by
  have h : ∀ g, calLanOk rep0 g = !([1535].contains g) := by
    intro g
    have h0 : calBadCores rep0 g = 0 := by
      have hp : ¬ 1 < popcount 17 0 := by decide
      have hf : ∀ l : List Nat, l.foldl (fun m _ => m) 0 = 0 := fun l => by induction l <;> simp_all
      simp [calBadCores, rep0, hp, hf]
    have h1 : decide (popcount 64 0 ≤ 4) = true := by decide +kernel
    rw [calLanOk, h0, h1, Bool.and_true]
    rfl
  rw [List.filter_congr fun g _ => h g]
  decide +kernel

theorem stCycle_stalled : ∀ h m : Nat, m < 16 → (((stCycle.chan 11).lan h).stalled m = true ↔ h = 1535 ∧ m = 15) := by
  intro h m hm
  by_cases e : h = 1535
  · subst e
    revert m
    decide +kernel
  · have hl : (stCycle.chan 11).lan h = ({} : Lantern) := by
      show SMap.getD [(1535, _)] h ({} : Lantern) = {}
      unfold SMap.getD SMap.find
      rw [if_neg (Ne.symm e)]
      split <;> simp_all [SMap.find]
    rw [hl]
    revert m
    simp only [e, false_and, iff_false]
    decide +kernel

theorem witness_StepRunsTheFrontCommand :
    (({ State.reset with pending := [.nop 12 0 0, .fsyncEdge 1] } : State).pending = (Instr.nop 12 0 0 : Instr) :: ([Instr.fsyncEdge 1] : List Instr)) := by
  repeat' (first | with_reducible apply And.intro)
  all_goals
    first | decide +kernel | (refine next_stateOf ?_; decide +kernel) | exact ⟨_, rfl, by decide +kernel⟩ | (constructor <;> decide +kernel)

theorem witness_WellFormedCommandsComplete :
    ((Instr.nop 12 0 0 : Instr).wellFormed = false) ∧
    ((Instr.nop 11 1535 63 : Instr).wellFormed = true) := by
  repeat' (first | with_reducible apply And.intro)
  all_goals
    first | decide +kernel | (refine next_stateOf ?_; decide +kernel) | exact ⟨_, rfl, by decide +kernel⟩ | (constructor <;> decide +kernel)

theorem witness_EmptyQueueRunsOneCycle :
    ((inCh fun ch => { ch with clkOn := false }).pending = [] ∧ (inCh fun ch => { ch with clkOn := false }).Up ∧ (inCh fun ch => { ch with clkOn := false }).mod.boot.going = false ∧ (inCh fun ch => { ch with clkOn := false }).mod.hp.xltOut = [] ∧ (inCh fun ch => { ch with clkOn := false }).Runs 11 ∧ ((inCh fun ch => { ch with clkOn := false }).chan 11).hostNext = none ∧ ((inCh fun ch => { ch with clkOn := false }).chan 11).clkOn = false) ∧
    ((inCh fun ch => { ch with cyc := 100 }).pending = [] ∧ (inCh fun ch => { ch with cyc := 100 }).Up ∧ (inCh fun ch => { ch with cyc := 100 }).mod.boot.going = false ∧ (inCh fun ch => { ch with cyc := 100 }).mod.hp.xltOut = [] ∧ (inCh fun ch => { ch with cyc := 100 }).Runs 11 ∧ ((inCh fun ch => { ch with cyc := 100 }).chan 11).hostNext = none ∧ ((inCh fun ch => { ch with cyc := 100 }).chan 11).clkOn = true) := by
  repeat' (first | with_reducible apply And.intro | (delta State.Runs State.Up))
  all_goals
    first | decide +kernel | (refine next_stateOf ?_; decide +kernel) | exact ⟨_, rfl, by decide +kernel⟩ | (constructor <;> decide +kernel)

theorem witness_StepKeepsTheForm :
    (State.reset.Inv ∧ step State.reset = Host.Outcome.next ((stateOf (step State.reset)))) := by
  repeat' (first | with_reducible apply And.intro | (delta State.Inv))
  all_goals
    first | decide +kernel | (refine next_stateOf ?_; decide +kernel) | exact ⟨_, rfl, by decide +kernel⟩ | (constructor <;> decide +kernel)

theorem witness_StoppedClockHoldsTheArray :
    ((Instr.nop 11 1535 63 : Instr).lanternOf = some (11, 1535) ∧ exec (Instr.nop 11 1535 63 : Instr) (inCh fun ch => { ch with clkOn := false }) = Host.Outcome.next wit1 ∧ ((inCh fun ch => { ch with clkOn := false }).chan 11).clkOn = false ∧ ((inCh fun ch => { ch with clkOn := false }).chan 11).up = []) := by
  repeat' (first | with_reducible apply And.intro)
  all_goals
    first | decide +kernel | (refine next_stateOf ?_; decide +kernel) | exact ⟨_, rfl, by decide +kernel⟩ | (constructor <;> decide +kernel)

theorem witness_CommandsStayInTheirUnit :
    ((Instr.fsyncEdge 5 : Instr).inBridge = true ∧ exec (Instr.fsyncEdge 5 : Instr) State.reset = Host.Outcome.next ((stateOf (exec (.fsyncEdge 5) State.reset)))) ∧
    ((Instr.fsyncEdge 5 : Instr).inBridge = true ∧ exec (Instr.fsyncEdge 5 : Instr) stDark = Host.Outcome.next ((stateOf (exec (.fsyncEdge 5) stDark))) ∧ stDark.mod.boot.inReset = true) ∧
    ((Instr.nop 11 1535 63 : Instr).channelOf = some 11 ∧ exec (Instr.nop 11 1535 63 : Instr) stHeld = Host.Outcome.next ((stateOf (exec (.nop 11 1535 63) stHeld))) ∧ stHeld.mod.holds 11 = true) ∧
    ((Instr.nop 11 1535 63 : Instr).channelOf = some 11 ∧ exec (Instr.nop 11 1535 63 : Instr) (inCore (issuing 0)) = Host.Outcome.next ((stateOf (exec (.nop 11 1535 63) (inCore (issuing 0)))))) := by
  repeat' (first | with_reducible apply And.intro)
  all_goals
    first | decide +kernel | (refine next_stateOf ?_; decide +kernel) | exact ⟨_, rfl, by decide +kernel⟩ | (constructor <;> decide +kernel)

theorem witness_NopAndFencePass :
    (stFence.CoreRuns 11 1535 63 ∧ (stFence.chan 11).CoReady 1535 63 5 tk 117 ∧ (isSet 117 4 = true → ((stFence.chan 11).core 1535 63).places 0 (stFence.chan 11).cyc = 0) ∧ (isSet 117 5 = true → ((stFence.chan 11).core 1535 63).places 1 (stFence.chan 11).cyc = 0) ∧ (isSet 117 6 = true → ((stFence.chan 11).core 1535 63).places 2 (stFence.chan 11).cyc = 0)) ∧
    (stNop.CoreRuns 11 1535 63 ∧ (stNop.chan 11).CoReady 1535 63 0 tk 0) := by
  repeat' (first | with_reducible apply And.intro | (delta Channel.CoReady State.CoreRuns State.LanRuns State.Runs))
  all_goals
    first | decide +kernel | (refine next_stateOf ?_; decide +kernel) | exact ⟨_, rfl, by decide +kernel⟩ | (constructor <;> decide +kernel)

theorem witness_TileInstructionsJoinTheirQueues :
    (stDrain.CoreRuns 11 1535 63 ∧ (stDrain.chan 11).CoReady 1535 63 4 tk 4 ∧ ((stDrain.chan 11).core 1535 63).places 2 (stDrain.chan 11).cyc < 2) ∧
    (stOload.CoreRuns 11 1535 63 ∧ (stOload.chan 11).CoReady 1535 63 2 tk 262146 ∧ ((stOload.chan 11).lan 1535).OloadOk 262146 ((Option.get (FmtWord.parse 0) (by decide +kernel)) : FmtWord) ∧ ((stOload.chan 11).core 1535 63).places 0 (stOload.chan 11).cyc < 4) ∧
    (stTmul.CoreRuns 11 1535 63 ∧ (stTmul.chan 11).CoReady 1535 63 3 tk 4294903763 ∧ ((stTmul.chan 11).core 1535 63).places 1 (stTmul.chan 11).cyc < 2) ∧
    ((stLast 0x40002 : State).CoreRuns 11 1535 63 ∧ (((stLast 0x40002 : State).chan 11).core 1535 63).LastOfEmpty ((stLast 0x40002 : State).chan 11).cyc tkE 262146 ∧ (Instr.oload 11 1535 63, 2) ∈ [(Instr.oload 11 1535 63, 2), (Instr.tmul 11 1535 63, 3)] ∧ tOp 262146 = (Instr.oload 11 1535 63, 2).snd ∧ ((Instr.oload 11 1535 63, 2).snd = 2 → (((stLast 0x40002 : State).chan 11).lan 1535).oloadBad 262146 = false)) ∧
    ((stLast 4 : State).CoreRuns 11 1535 63 ∧ (((stLast 4 : State).chan 11).core 1535 63).LastOfEmpty ((stLast 4 : State).chan 11).cyc tkE 4 ∧ tOp 4 = 4 ∧ (((stLast 4 : State).chan 11).core 1535 63).places 2 ((stLast 4 : State).chan 11).cyc < 2) := by
  repeat' (first | with_reducible apply And.intro | (delta Channel.CoReady State.CoreRuns State.LanRuns State.Runs))
  all_goals
    first | decide +kernel | (refine next_stateOf ?_; decide +kernel) | exact ⟨_, rfl, by decide +kernel⟩ | (constructor <;> decide +kernel)

theorem witness_TaskOpensAndEndCloses :
    (stEnd.CoreRuns 11 1535 63 ∧ (stEnd.chan 11).CoReady 1535 63 6 tk 6) ∧
    (stTask.CoreRuns 11 1535 63 ∧ (stTask.chan 11).CoReady 1535 63 1 ({tk with opened := false, ctx := 0} : CTask) (1 + 3 * 2 ^ 20) ∧ (∀ (n : Nat), n < 16 → isSet (1 + 3 * 2 ^ 20) (4 + n) = true → ((stTask.chan 11).lan 1535).r F.LN_SHAPE_VALUE n ≠ 0)) ∧
    (stTaskEmpty.CoreRuns 11 1535 63 ∧ (stTaskEmpty.chan 11).CoReady 1535 63 1 unopen 17 ∧ (∃ n, n < 16 ∧ isSet 17 (4 + n) = true ∧ ((stTaskEmpty.chan 11).lan 1535).r F.LN_SHAPE_VALUE n = 0)) := by
  repeat' (first | with_reducible apply And.intro | (delta Channel.CoReady State.CoreRuns State.LanRuns State.Runs))
  all_goals
    first | decide +kernel | (refine next_stateOf ?_; decide +kernel) | exact ⟨_, rfl, by decide +kernel⟩ | (constructor <;> decide +kernel)

theorem witness_CoreAsksThePipe :
    (stFetch.CoreRuns 11 1535 63 ∧ (List.find? (fun d => !d.lines.isEmpty) ((stFetch.chan 11).core 1535 63).drainQ = some wit2) ∧ wit2.lines = ({ line := 4095, at_ := 100, bytes := [(63, 9)] } : DLine) :: ([] : List DLine) ∧ ({ line := 4095, at_ := 100, bytes := [(63, 9)] } : DLine).at_ ≤ (stFetch.chan 11).cyc ∧ before ((stFetch.chan 11).core 1535 63).lastLine (stFetch.chan 11).cyc ∧ ((stFetch.chan 11).lan 1535).pipeHolds (((stFetch.chan 11).lan 1535).logicalOf 63) = false) ∧
    (stFetch.CoreRuns 11 1535 63 ∧ (List.find? (fun t => !t.endReq && !t.stopped && !t.ended) ((stFetch.chan 11).core 1535 63).tasks = some ({tk with fetch := 4095} : CTask)) ∧ ((stFetch.chan 11).core 1535 63).nextFetch ≤ (stFetch.chan 11).cyc ∧ ({tk with fetch := 4095} : CTask).fetch ≤ 4095 ∧ ((stFetch.chan 11).lan 1535).pipeHolds (192 + ((stFetch.chan 11).lan 1535).logicalOf 63) = false ∧ ((List.filter (fun i => i.task == ({tk with fetch := 4095} : CTask).id) ((stFetch.chan 11).core 1535 63).ibuf).length < 2)) := by
  repeat' (first | with_reducible apply And.intro | (delta State.CoreRuns before State.LanRuns State.Runs))
  all_goals
    first | decide +kernel | (refine next_stateOf ?_; decide +kernel) | exact ⟨_, rfl, by decide +kernel⟩ | (constructor <;> decide +kernel)

theorem witness_OloadMovesLines :
    ((stOl ol2 : State).CoreRuns 11 1535 63 ∧ (((stOl ol2 : State).chan 11).core 1535 63).sending = some ol2 ∧ ((stOl ol2 : State).chan 11).olReady 1535 63 ol2 = true ∧ ol2.gatherDone = false ∧ olMode ol2.w = 2 ∧ (ol2.tbuf = true ∨ (((stOl ol2 : State).chan 11).lan 1535).tbufs < 4)) ∧
    ((stOl ol0 : State).CoreRuns 11 1535 63 ∧ (((stOl ol0 : State).chan 11).core 1535 63).sending = some ol0 ∧ ((stOl ol0 : State).chan 11).olReady 1535 63 ol0 = true ∧ ol0.gatherDone = true) ∧
    ((stOl ol3 : State).CoreRuns 11 1535 63 ∧ (List.find? (fun o => !o.landing.isEmpty) (((stOl ol3 : State).chan 11).core 1535 63).loadQ = some ol3) ∧ (List.find? (fun x => x.fst == olDst ol3.w + ol3.done) ol3.landing = some (olDst ol3.w + ol3.done, (some (List.replicate 64 7) : Option (List (BitVec 8))), 100)) ∧ 100 ≤ ((stOl ol3 : State).chan 11).cyc ∧ ((some (List.replicate 64 7) : Option (List (BitVec 8))) = none → ol3.toGather = [] ∧ ∀ (x : Nat), x ∈ olSources ol3.w ol3.copy → (ol3.gathered.find x).isSome = true)) := by
  repeat' (first | with_reducible apply And.intro | (delta State.CoreRuns State.LanRuns State.Runs))
  all_goals
    first | decide +kernel | (refine next_stateOf ?_; decide +kernel) | exact ⟨_, rfl, by decide +kernel⟩ | (constructor <;> decide +kernel)

theorem witness_TmulStarts :
    (stMulBad.CoreRuns 11 1535 63 ∧ (List.find? (fun m => m.start.isNone) ((stMulBad.chan 11).core 1535 63).mulQ = some ({ mul0 with w := 0xFFFF0013 + 2 ^ 32 } : MulOp)) ∧ ({ mul0 with w := 0xFFFF0013 + 2 ^ 32 } : MulOp).issued ≤ (stMulBad.chan 11).cyc ∧ before ((stMulBad.chan 11).core 1535 63).lastStart (stMulBad.chan 11).cyc ∧ (∀ (x : Nat), x ∈ ((stMulBad.chan 11).lan 1535).tmLines ((stMulBad.chan 11).core 1535 63).obuf ({ mul0 with w := 0xFFFF0013 + 2 ^ 32 } : MulOp).w → ((stMulBad.chan 11).core 1535 63).lineLate ({ mul0 with w := 0xFFFF0013 + 2 ^ 32 } : MulOp).seq (stMulBad.chan 11).cyc x = false) ∧ ((stMulBad.chan 11).lan 1535).tmCheck ((stMulBad.chan 11).core 1535 63) ({ mul0 with w := 0xFFFF0013 + 2 ^ 32 } : MulOp) (shapeOf ((stMulBad.chan 11).lan 1535) (isSet ({ mul0 with w := 0xFFFF0013 + 2 ^ 32 } : MulOp).w 92) (bits ({ mul0 with w := 0xFFFF0013 + 2 ^ 32 } : MulOp).w 87 84) (tRows ({ mul0 with w := 0xFFFF0013 + 2 ^ 32 } : MulOp).w)).fst = Sum.inl 2) ∧
    ((stMul mul0 : State).CoreRuns 11 1535 63 ∧ (List.find? (fun m => m.start.isNone) (((stMul mul0 : State).chan 11).core 1535 63).mulQ = some mul0) ∧ mul0.issued ≤ ((stMul mul0 : State).chan 11).cyc ∧ before (((stMul mul0 : State).chan 11).core 1535 63).lastStart ((stMul mul0 : State).chan 11).cyc ∧ (∀ (x : Nat), x ∈ (((stMul mul0 : State).chan 11).lan 1535).tmLines (((stMul mul0 : State).chan 11).core 1535 63).obuf mul0.w → (((stMul mul0 : State).chan 11).core 1535 63).lineLate mul0.seq ((stMul mul0 : State).chan 11).cyc x = false) ∧ 1 = (shapeOf (((stMul mul0 : State).chan 11).lan 1535) (isSet mul0.w 92) (bits mul0.w 87 84) (tRows mul0.w)).fst ∧ (1 = if IMode.bypass = IMode.merge then 1 else (shapeOf (((stMul mul0 : State).chan 11).lan 1535) (isSet mul0.w 93) (bits mul0.w 91 88) (tmKb mul0.w)).fst) ∧ (((stMul mul0 : State).chan 11).lan 1535).tmCheck (((stMul mul0 : State).chan 11).core 1535 63) mul0 1 = Sum.inr (IMode.bypass, 4) ∧ tmCols mul0.w ≠ [] ∧ 1 ≠ 0 ∧ (1 ≠ 0 ∨ tmBegin mul0.w = true)) := by
  repeat' (first | with_reducible apply And.intro | (delta State.CoreRuns before State.LanRuns State.Runs))
  all_goals
    first | decide +kernel | (refine next_stateOf ?_; decide +kernel) | exact ⟨_, rfl, by decide +kernel⟩ | (constructor <;> decide +kernel)

theorem witness_IntersectionFindsPairs :
    ((stEx exGather : State).CoreRuns 11 1535 63 ∧ (((stEx exGather : State).chan 11).lan 1535).tmOperands exGather.w = some (wit3, wit4) ∧ (((((stEx exGather : State).chan 11).core 1535 63).examining ((stEx exGather : State).chan 11).cyc fun x => x == IMode.gather) = some exGather) ∧ 0 ∈ tmCols exGather.w) ∧
    ((stEx exMerge : State).CoreRuns 11 1535 63 ∧ (((stEx exMerge : State).chan 11).lan 1535).tmOperands exMerge.w = some (wit3, wit5) ∧ (((((stEx exMerge : State).chan 11).core 1535 63).examining ((stEx exMerge : State).chan 11).cyc fun x => x == IMode.merge) = some exMerge) ∧ (∀ (x : Nat), x ∈ List.take 4 (List.drop exMerge.ec (tmCols exMerge.w)) → ((((stEx exMerge : State).chan 11).core 1535 63).queue x).length + 16 ≤ 64) ∧ 0 ∈ List.take 4 (List.drop exMerge.ec (tmCols exMerge.w))) ∧
    ((stEx exBitmap : State).CoreRuns 11 1535 63 ∧ (((stEx exBitmap : State).chan 11).lan 1535).tmOperands exBitmap.w = some (wit6, wit7) ∧ (((((stEx exBitmap : State).chan 11).core 1535 63).examining ((stEx exBitmap : State).chan 11).cyc fun m => m == IMode.bitmap || m == IMode.nmDecode) = some exBitmap) ∧ (∀ (x : Nat), x ∈ List.take 2 (List.drop exBitmap.ec (tmCols exBitmap.w)) → ((((stEx exBitmap : State).chan 11).core 1535 63).queue x).length + (matchPairs (((stEx exBitmap : State).chan 11).core 1535 63).obuf wit6 wit7 (wit6.piece (((stEx exBitmap : State).chan 11).core 1535 63).obuf exBitmap.er exBitmap.eb) (wit7.piece (((stEx exBitmap : State).chan 11).core 1535 63).obuf x exBitmap.eb) exBitmap.seq (tRow0 exBitmap.w + exBitmap.er) exBitmap.er x exBitmap.eb (((stEx exBitmap : State).chan 11).cyc + 1)).length ≤ 64) ∧ 0 ∈ List.take 2 (List.drop exBitmap.ec (tmCols exBitmap.w))) := by
  repeat' (first | with_reducible apply And.intro | (delta State.CoreRuns State.LanRuns State.Runs))
  all_goals
    first | decide +kernel | (refine next_stateOf ?_; decide +kernel) | exact ⟨_, rfl, by decide +kernel⟩ | (constructor <;> decide +kernel)

theorem witness_SlicesTakePairs :
    (stStage.CoreRuns 11 1535 63 ∧ 15 < 16 ∧ (List.find? (fun m => m.stage.isNone) ((stStage.chan 11).core 1535 63).mulQ = some stageBegins) ∧ stageBegins.start = some 96 ∧ 96 + 4 ≤ (stStage.chan 11).cyc ∧ stageBegins.nan = false ∧ (∀ (x : MulOp), x ∈ ((stStage.chan 11).core 1535 63).mulQ → x.seq < stageBegins.seq → x.lastPair.isSome = true) ∧ before ((stStage.chan 11).core 1535 63).lastPair (stStage.chan 11).cyc ∧ (tmBegin stageBegins.w = true → ∀ (r : Nat), r < stageBegins.rows → ((stStage.chan 11).core 1535 63).rowHeld stageBegins.seq (tSet stageBegins.w) (tRow0 stageBegins.w + r) = false)) ∧
    (stTake.CoreRuns 11 1535 63 ∧ 15 < 16 ∧ (List.find? (fun m => m.stage.isSome && m.lastPair.isNone) ((stTake.chan 11).core 1535 63).mulQ = some stageRuns) ∧ ((stageRuns.stage.getD 0 + if tmBegin stageRuns.w = true then 1 else 0) ≤ (stTake.chan 11).cyc) ∧ ((stTake.chan 11).core 1535 63).cool.getD 15 0 ≤ (stTake.chan 11).cyc ∧ ((stTake.chan 11).lan 1535).nextPairs ((stTake.chan 11).core 1535 63) stageRuns 15 (stTake.chan 11).cyc ≠ []) := by
  repeat' (first | with_reducible apply And.intro | (delta State.CoreRuns before State.LanRuns State.Runs))
  all_goals
    first | decide +kernel | (refine next_stateOf ?_; decide +kernel) | exact ⟨_, rfl, by decide +kernel⟩ | (constructor <;> decide +kernel)

theorem witness_AccumulatorWrites :
    (stAcc.CoreRuns 11 1535 63 ∧ 15 < 16 ∧ ((stAcc.chan 11).core 1535 63).accW.getD 15 [] = accA :: ([] : List AccWr) ∧ accA.due ≤ (stAcc.chan 11).cyc ∧ (∀ (r : Nat), r ∈ accA.clear ++ List.map (fun x => x.row) accA.pairs → r < 32 ∧ ((stAcc.chan 11).core 1535 63).rowHeld accA.op accA.set r = false)) := by
  repeat' (first | with_reducible apply And.intro | (delta State.CoreRuns State.LanRuns State.Runs))
  all_goals
    first | decide +kernel | (refine next_stateOf ?_; decide +kernel) | exact ⟨_, rfl, by decide +kernel⟩ | (constructor <;> decide +kernel)

theorem witness_DrainReadsRows :
    ((stDr dr0 : State).CoreRuns 11 1535 63 ∧ (List.find? (fun d => d.start.isNone) (((stDr dr0 : State).chan 11).core 1535 63).drainQ = some dr0) ∧ (∀ (x : DrainOp), x ∈ (((stDr dr0 : State).chan 11).core 1535 63).drainQ → x.start.isSome = true → x.rowsDone = true) ∧ before (((stDr dr0 : State).chan 11).core 1535 63).lastD0 ((stDr dr0 : State).chan 11).cyc ∧ dr0.issued < ((stDr dr0 : State).chan 11).cyc) ∧
    ((stDr { dr0 with start := some 99, rows := 1, nextCy := 100 } : State).CoreRuns 11 1535 63 ∧ (List.find? (fun d => d.start.isSome && !d.rowsDone) (((stDr { dr0 with start := some 99, rows := 1, nextCy := 100 } : State).chan 11).core 1535 63).drainQ = some ({ dr0 with start := some 99, rows := 1, nextCy := 100 } : DrainOp)) ∧ (((stDr { dr0 with start := some 99, rows := 1, nextCy := 100 } : State).chan 11).lan 1535).fmt (bits ({ dr0 with start := some 99, rows := 1, nextCy := 100 } : DrainOp).w 21 16) = some ((Option.get (FmtWord.parse 0) (by decide +kernel)) : FmtWord) ∧ ({ dr0 with start := some 99, rows := 1, nextCy := 100 } : DrainOp).nextCy ≤ ((stDr { dr0 with start := some 99, rows := 1, nextCy := 100 } : State).chan 11).cyc ∧ (({ dr0 with start := some 99, rows := 1, nextCy := 100 } : DrainOp).empty = false → ({ dr0 with start := some 99, rows := 1, nextCy := 100 } : DrainOp).next < ({ dr0 with start := some 99, rows := 1, nextCy := 100 } : DrainOp).rows → (((stDr { dr0 with start := some 99, rows := 1, nextCy := 100 } : State).chan 11).core 1535 63).rowReleased ({ dr0 with start := some 99, rows := 1, nextCy := 100 } : DrainOp).seq (tSet ({ dr0 with start := some 99, rows := 1, nextCy := 100 } : DrainOp).w) (tRow0 ({ dr0 with start := some 99, rows := 1, nextCy := 100 } : DrainOp).w + ({ dr0 with start := some 99, rows := 1, nextCy := 100 } : DrainOp).next) ((stDr { dr0 with start := some 99, rows := 1, nextCy := 100 } : State).chan 11).cyc = true)) := by
  repeat' (first | with_reducible apply And.intro | (delta State.CoreRuns before State.LanRuns State.Runs))
  all_goals
    first | decide +kernel | (refine next_stateOf ?_; decide +kernel) | exact ⟨_, rfl, by decide +kernel⟩ | (constructor <;> decide +kernel)

theorem witness_WrittenFieldsFollowTheirAccessCode :
    (stAwake.LanRuns 11 1535 ∧ stAwake.CanReach Requester.host 11 ∧ 4294967295 < 2 ^ 32 ∧ stAwake.Allows Requester.host F.LN_POISON_CTRL_EN ∧ ((stAwake.chan 11).lan 1535).r F.LN_STATUS_PARKED ≠ 1 ∧ Requester.host ≠ Requester.debug ∧ 4294967295 % 2 ≠ ((stAwake.chan 11).lan 1535).r F.LN_POISON_CTRL_EN) ∧
    (stLan0.LanRuns 11 1535 ∧ stLan0.CanReach Requester.host 11 ∧ 4294967295 < 2 ^ 32 ∧ ((stLan0.chan 11).lan 1535).regs.live.find (F.LN_BANK_PD_REQ.key 0) = none) ∧
    (stLan0.LanRuns 11 1535 ∧ stLan0.CanReach Requester.host 11 ∧ 4294967295 < 2 ^ 32 ∧ stLan0.Allows Requester.host F.LN_ARB_CFG_BURST) := by
  repeat' (first | with_reducible apply And.intro | (delta State.Allows State.CanReach State.LanRuns State.Runs))
  all_goals
    first | decide +kernel | (refine next_stateOf ?_; decide +kernel) | exact ⟨_, rfl, by decide +kernel⟩ | (constructor <;> decide +kernel)

theorem witness_ReadsAnswerTheRequester :
    (stAcc0.Runs 11 ∧ stAcc0.CanReach Requester.host 11 ∧ 1535 < 1536 ∧ 8 < 61440 ∧ 8 % 4 = 0 ∧ wideAt lanternFields 8 = some ((Option.get (wideAt lanternFields 8) (by decide +kernel)) : List (Fld × Nat))) ∧
    (stAcc0.Runs 11 ∧ stAcc0.CanReach Requester.host 11 ∧ 256 < 134217728 ∧ 256 % 4 = 0 ∧ wideAt channelFields 256 = some ((Option.get (wideAt channelFields 256) (by decide +kernel)) : List (Fld × Nat))) ∧
    (stAcc0.Runs 11 ∧ stAcc0.CanReach Requester.host 11 ∧ 32 < bridgeSize ∧ cxlRegs 32 = false ∧ 32 % 4 = 0 ∧ wideAt bridgeFields 32 = some ((Option.get (wideAt bridgeFields 32) (by decide +kernel)) : List (Fld × Nat))) ∧
    (stCh0.Runs 11 ∧ stCh0.CanReach Requester.host 11 ∧ 1535 < 1536 ∧ 63 < 64 ∧ ((stCh0.chan 11).lan 1535).r F.CO_DBG_DBG_EN 63 = 0 ∧ 2 < 3) ∧
    (stCh0.Runs 11 ∧ stCh0.CanReach Requester.host 11 ∧ 1535 < 1536 ∧ 63 < 64 ∧ 2 < 3) := by
  repeat' (first | with_reducible apply And.intro | (delta State.CanReach State.Runs))
  all_goals
    first | decide +kernel | (refine next_stateOf ?_; decide +kernel) | exact ⟨_, rfl, by decide +kernel⟩ | (constructor <;> decide +kernel)

theorem witness_I3cReachesTheBridgeBlock :
    (State.reset.Up ∧ 0 < bridgeSize ∧ 4294967295 < 2 ^ 32) ∧
    (State.reset.Up ∧ bridgeSize ≤ 4294967295 ∧ 4294967295 < 2 ^ 32 ∧ false = false) := by
  repeat' (first | with_reducible apply And.intro | (delta State.Up))
  all_goals
    first | decide +kernel | (refine next_stateOf ?_; decide +kernel) | exact ⟨_, rfl, by decide +kernel⟩ | (constructor <;> decide +kernel)

theorem witness_AttachmentsAndMisdirectedAccesses :
    (stAttBoth.Runs 11 ∧ 1 < 2 ∧ 1 ≠ stAttBoth.mod.r F.HP_LIGHT_LIT ∧ ((stAttBoth.chan 11).r (if 1 = 0 then F.CH_INFO_A1_UP else F.CH_INFO_A0_UP) = 1) ∧ (stAttBoth.chan 11).CanRecord ((stAttBoth.chan 11).attUnit 1)) ∧
    (stAttLost.Runs 11 ∧ 0 < 2 ∧ (List.find? (fun x => x.fst == 0) (stAttLost.chan 11).attDue = some (0, 0, false)) ∧ 0 + 8 ≤ stAttLost.mod.boot.ms) ∧
    (stAttMove1.Runs 11 ∧ 1 < 2 ∧ (List.find? (fun x => x.fst == 1) (stAttMove1.chan 11).attDue = some (1, 0, true)) ∧ (∀ (g : Nat), ((stAttMove1.chan 11).lan g).td.fq = []) ∧ (stAttMove1.chan 11).CanRecord ((stAttMove1.chan 11).attUnit 1)) ∧
    (stCh0.Runs 11 ∧ 0 < 2 ∧ 0 = stCh0.mod.r F.HP_LIGHT_LIT) ∧
    (stCh0.Runs 11 ∧ 0 < 2 ∧ 10 < 12 ∧ 0 < 268435456 ∧ 10 ≠ (stCh0.chan 11).no ∧ (stCh0.chan 11).CanRecord (unitWord (stCh0.chan 11).no 7 0 0 0)) := by
  repeat' (first | with_reducible apply And.intro | (delta State.Runs))
  all_goals
    first | with_reducible exact stCycle_stalled | with_reducible exact calLan_rep0 | decide +kernel | (refine next_stateOf ?_; decide +kernel) | exact List.getElem_mem _ | exact ⟨_, rfl, by decide +kernel⟩ | (intro _ _; simp; done) | (intro _; rfl) | (intro _ h; cases h; done) | (intro _ _ h; cases h; done) | exact ⟨by decide +kernel, by decide +kernel, by decide +kernel, ⟨99, by decide +kernel, by decide +kernel⟩⟩ | exact ⟨10, by decide +kernel, ⟨11, by decide +kernel, by decide +kernel⟩, by decide +kernel⟩ | rfl | exact ⟨99, by decide +kernel, by decide +kernel⟩ | (simp; done) | (intro d hd; obtain ⟨h1, h2⟩ := hd; revert d; decide +kernel) | (constructor <;> decide +kernel)

theorem witness_ClearingTheCounters :
    (stCounts.LanRuns 11 1535 ∧ stCounts.CanReach Requester.host 11 ∧ 63 < 64 ∧ ((Instr.coClrCnt Requester.host 11 1535 63, List.map (fun x => (x, 63)) coCounters) ∈ [(Instr.coClrCnt Requester.host 11 1535 63, List.map (fun x => (x, 63)) coCounters), (Instr.lnClrCnt Requester.host 11 1535, List.map (fun x => (x, 0)) (lnCounters ++ tqCounters)), (Instr.veClrCnt Requester.host 11 1535, List.map (fun x => (x, 0)) veCounters), (Instr.tdClrCnt Requester.host 11 1535, List.map (fun x => (x, 0)) tdCounters ++ List.map (fun x => (F.TD_S_LINES_COUNT, x)) (upto 16))])) ∧
    (stCounts.Runs 11 ∧ stCounts.CanReach Requester.host 11 ∧ 2 < 3 ∧ ((Instr.chCtxClrCnt Requester.host 11, List.map (fun x => (x, 0)) ctxCounters) ∈ [(Instr.chCtxClrCnt Requester.host 11, List.map (fun x => (x, 0)) ctxCounters), (Instr.hmClrCnt Requester.host 11, List.map (fun x => (x, 0)) hmCounters), (Instr.lkClrCnt Requester.host 11 2, List.map (fun x => (x, 2)) lkCounters), (Instr.lkRtClrCnt Requester.host 11, List.map (fun x => (x, 0)) rtCounters ++ List.flatMap (fun n => List.map (fun x => (x, n)) fifoCounters) (upto 32)), (Instr.chPwrClrCnt Requester.host 11, List.map (fun x => (x, 0)) pwrCounters), (Instr.errClrCnt Requester.host 11, List.map (fun x => (x, 0)) errCounters)])) ∧
    (stCounts.Up ∧ ((Instr.tbClrCnt Requester.host, List.map (fun x => (x, 0)) tbCounters) ∈ [(Instr.tbClrCnt Requester.host, List.map (fun x => (x, 0)) tbCounters), (Instr.hpClrCnt Requester.host, List.map (fun x => (x, 0)) hpCounters), (Instr.errModClrCnt Requester.host, List.map (fun x => (x, 0)) errModCounters), (Instr.modMapClrCnt Requester.host, [(F.MOD_DECODE_MISS_CNT_COUNT, 0)])])) := by
  repeat' (first | with_reducible apply And.intro | (delta State.CanReach State.LanRuns State.Runs State.Up))
  all_goals
    first | decide +kernel | (refine next_stateOf ?_; decide +kernel) | exact ⟨_, rfl, by decide +kernel⟩ | (constructor <;> decide +kernel)

theorem witness_ParkAndResume :
    (stAwake.LanRuns 11 1535 ∧ stAwake.CanReach Requester.host 11 ∧ stAwake.Allows Requester.host F.LN_CTRL_PARK) ∧
    (stParkPend.LanRuns 11 1535 ∧ ((stParkPend.chan 11).lan 1535).r F.LN_STATUS_PARK_PEND = 1 ∧ ((stParkPend.chan 11).lan 1535).parkReady = true ∧ ((stParkPend.chan 11).lan 1535).quiet = true) ∧
    (stParkPend.LanRuns 11 1535 ∧ stParkPend.CanReach Requester.host 11 ∧ stParkPend.Allows Requester.host F.LN_CTRL_RESUME ∧ ((stParkPend.chan 11).lan 1535).r F.LN_STATUS_PARKED = 1) ∧
    (stUnpark.LanRuns 11 1535 ∧ ((stUnpark.chan 11).lan 1535).resumeReq = some 6 ∧ ((stUnpark.chan 11).lan 1535).r F.LN_STATUS_PARKED = 1 ∧ 6 ≠ (stUnpark.chan 11).tick ∧ (((stUnpark.chan 11).lan 1535).r F.LN_STATUS_PARK_PEND = 1 ∨ ∀ (n : Nat), n < 16 → (((stUnpark.chan 11).lan 1535).stm n).byPark = false ∧ (((stUnpark.chan 11).lan 1535).stm n).shadow = none)) := by
  repeat' (first | with_reducible apply And.intro | (delta State.Allows State.CanReach State.LanRuns State.Runs))
  all_goals
    first | decide +kernel | (refine next_stateOf ?_; decide +kernel) | exact ⟨_, rfl, by decide +kernel⟩ | (constructor <;> decide +kernel)

theorem witness_BankPowerStates :
    (stDrainBank.LanRuns 11 1535 ∧ 15 < 16 ∧ (((stDrainBank.chan 11).lan 1535).bank 15).draining = some 99 ∧ 99 < (stDrainBank.chan 11).cyc ∧ (((stDrainBank.chan 11).lan 1535).bank 15).writes = 0 ∧ (((stDrainBank.chan 11).lan 1535).bank 15).granted = false ∧ 100 ≠ 15) ∧
    (stLan0.LanRuns 11 1535 ∧ 15 < 16 ∧ 100 ≠ 15) ∧
    (stLan0.LanRuns 11 1535 ∧ 15 < 16 ∧ isSet (((stLan0.chan 11).lan 1535).eff F.LN_BANK_PD_REQ) 15 = false ∧ 100 ≠ 15) ∧
    (stPd.LanRuns 11 1535 ∧ 15 < 16 ∧ isSet (((stPd.chan 11).lan 1535).eff F.LN_BANK_PD_REQ) 15 = true ∧ (((stPd.chan 11).lan 1535).bank 15).normal = true ∧ 100 ≠ 15) ∧
    (stRet.LanRuns 11 1535 ∧ 15 < 16 ∧ isSet (((stRet.chan 11).lan 1535).eff F.LN_BANK_PD_REQ) 15 = false ∧ (((stRet.chan 11).lan 1535).bank 15).draining = none ∧ (((stRet.chan 11).lan 1535).bank 15).retained = true) ∧
    (stTmoBank.LanRuns 11 1535 ∧ 15 < 16 ∧ (((stTmoBank.chan 11).lan 1535).bank 15).draining = some 50 ∧ 50 + ((stTmoBank.chan 11).lan 1535).eff F.LN_BANK_PD_TMO_CYCLES ≤ (stTmoBank.chan 11).cyc ∧ ((((stTmoBank.chan 11).lan 1535).bank 15).writes ≠ 0 ∨ (((stTmoBank.chan 11).lan 1535).bank 15).granted = true ∨ ((stTmoBank.chan 11).lan 1535).eff F.LN_BANK_PD_TMO_CYCLES = 0) ∧ 100 ≠ 15) ∧
    (stWaking.LanRuns 11 1535 ∧ 15 < 16 ∧ (((stWaking.chan 11).lan 1535).bank 15).waking = some 100 ∧ 100 ≤ (stWaking.chan 11).cyc ∧ 100 ≠ 15) := by
  repeat' (first | with_reducible apply And.intro | (delta State.LanRuns State.Runs))
  all_goals
    first | decide +kernel | (refine next_stateOf ?_; decide +kernel) | exact ⟨_, rfl, by decide +kernel⟩ | (constructor <;> decide +kernel)

theorem witness_ScratchpadGrants :
    (stGrantOff.LanRuns 11 1535 ∧ 15 < 16 ∧ (((stGrantOff.chan 11).lan 1535).bank 15).arb.owner = some 2 ∧ (((stGrantOff.chan 11).lan 1535).bank 15).arb.moved = false ∧ (((stGrantOff.chan 11).lan 1535).bank 15).arb.from_ ≤ (stGrantOff.chan 11).cyc ∧ (((stGrantOff.chan 11).lan 1535).bank 15).fabric = accWr :: ([] : List Acc1) ∧ bankOf accWr.line = 15 ∧ ((stGrantOff.chan 11).lan 1535).r F.LN_POISON_CTRL_EN = 0 ∧ (stGrantOff.chan 11).hostNext = none ∧ accWr.wr = true ∧ accWr.dst = AccDst.none ∧ Memory.wf ((stGrantOff.chan 11).lan 1535).sp = true ∧ accWr.data.length = 64 ∧ accWr.mask.length = 64 ∧ (((stGrantOff.chan 11).lan 1535).bank 15).off (stGrantOff.chan 11).cyc = true) ∧
    ((stGrant accWr : State).LanRuns 11 1535 ∧ 15 < 16 ∧ ((((stGrant accWr : State).chan 11).lan 1535).bank 15).arb.owner = some 2 ∧ ((((stGrant accWr : State).chan 11).lan 1535).bank 15).arb.moved = false ∧ ((((stGrant accWr : State).chan 11).lan 1535).bank 15).arb.from_ ≤ ((stGrant accWr : State).chan 11).cyc ∧ ((((stGrant accWr : State).chan 11).lan 1535).bank 15).fabric = accWr :: ([] : List Acc1) ∧ bankOf accWr.line = 15 ∧ (((stGrant accWr : State).chan 11).lan 1535).r F.LN_POISON_CTRL_EN = 0 ∧ ((stGrant accWr : State).chan 11).hostNext = none ∧ accWr.wr = true ∧ accWr.dst = AccDst.none ∧ Memory.wf (((stGrant accWr : State).chan 11).lan 1535).sp = true ∧ accWr.data.length = 64 ∧ accWr.mask.length = 64 ∧ ((((stGrant accWr : State).chan 11).lan 1535).bank 15).off ((stGrant accWr : State).chan 11).cyc = false) ∧
    ((stGrant accRd : State).LanRuns 11 1535 ∧ 15 < 16 ∧ ((((stGrant accRd : State).chan 11).lan 1535).bank 15).arb.owner = some 2 ∧ ((((stGrant accRd : State).chan 11).lan 1535).bank 15).arb.moved = false ∧ ((((stGrant accRd : State).chan 11).lan 1535).bank 15).arb.from_ ≤ ((stGrant accRd : State).chan 11).cyc ∧ ((((stGrant accRd : State).chan 11).lan 1535).bank 15).fabric = accRd :: ([] : List Acc1) ∧ bankOf accRd.line = 15 ∧ (((stGrant accRd : State).chan 11).lan 1535).r F.LN_POISON_CTRL_EN = 0 ∧ ((stGrant accRd : State).chan 11).hostNext = none ∧ accRd.wr = false ∧ accRd.dst = AccDst.window Requester.host 4 8 ∧ ((((stGrant accRd : State).chan 11).lan 1535).bank 15).off ((stGrant accRd : State).chan 11).cyc = false ∧ Check.ok = Check.ok ∧ (((stGrant accRd : State).chan 11).lan 1535).spBad = []) := by
  repeat' (first | with_reducible apply And.intro | (delta State.LanRuns State.Runs))
  all_goals
    first | decide +kernel | (refine next_stateOf ?_; decide +kernel) | exact ⟨_, rfl, by decide +kernel⟩ | (constructor <;> decide +kernel)

theorem witness_LanternPipePresents :
    (stPipe.LanRuns 11 1535 ∧ ((stPipe.chan 11).lan 1535).pipeAt ≠ some (stPipe.chan 11).cyc ∧ ((stPipe.chan 11).lan 1535).arbStall ≠ some (stPipe.chan 11).cyc ∧ (∀ (x : Nat × Bank), x ∈ ((stPipe.chan 11).lan 1535).banks → x.snd.pipe = []) ∧ (stPipe.chan 11).tbufStall 1535 = false ∧ ((stPipe.chan 11).lan 1535).pipeNow = []) ∧
    (stPipeLeft.LanRuns 11 1535 ∧ ((stPipeLeft.chan 11).lan 1535).pipeAt ≠ some (stPipeLeft.chan 11).cyc ∧ ((stPipeLeft.chan 11).lan 1535).arbStall ≠ some (stPipeLeft.chan 11).cyc ∧ (∀ (x : Nat × Bank), x ∈ ((stPipeLeft.chan 11).lan 1535).banks → x.snd.pipe = []) ∧ (stPipeLeft.chan 11).tbufStall 1535 = false ∧ ((stPipeLeft.chan 11).lan 1535).pipeNow ≠ []) := by
  repeat' (first | with_reducible apply And.intro | (delta State.LanRuns State.Runs))
  all_goals
    first | decide +kernel | (refine next_stateOf ?_; decide +kernel) | exact ⟨_, rfl, by decide +kernel⟩ | (constructor <;> decide +kernel)

theorem witness_WindowAndPoisonMode :
    (stLan0.LanRuns 11 1535 ∧ stLan0.CanReach Requester.host 11 ∧ 4092 < 4096 ∧ (2 = 2 ∨ 2 = 3) ∧ 4092 % 2 ^ 2 = 0 ∧ (true = true → (stLan0.chan 11).winVerdict (stLan0.mod.r F.MOD_LEVEL_LEVEL) Requester.host 1535 4092 = Verdict.take)) ∧
    (stLan0.LanRuns 11 1535 ∧ stLan0.CanReach Requester.host 11 ∧ stLan0.Allows Requester.host F.LN_POISON_CTRL_EN ∧ (((stLan0.chan 11).lan 1535).r F.LN_STATUS_PARKED = 1 ∨ Requester.host = Requester.debug) ∧ ((stLan0.chan 11).lan 1535).r F.LN_POISON_CTRL_EN = 0) := by
  repeat' (first | with_reducible apply And.intro | (delta State.Allows State.CanReach State.LanRuns State.Runs))
  all_goals
    first | decide +kernel | (refine next_stateOf ?_; decide +kernel) | exact ⟨_, rfl, by decide +kernel⟩ | (constructor <;> decide +kernel)

theorem witness_ArbitersServeRequesters :
    ((∀ (r : Nat), r < 3 → r ∈ ({} : ArbSt).ranks)) ∧
    (stLan0.LanRuns 11 1535 ∧ 15 < 16 ∧ (((stLan0.chan 11).lan 1535).bank 15).arb.from_ ≤ (stLan0.chan 11).cyc) := by
  repeat' (first | with_reducible apply And.intro | (delta State.LanRuns State.Runs))
  all_goals
    first | decide +kernel | (refine next_stateOf ?_; decide +kernel) | exact ⟨_, rfl, by decide +kernel⟩ | (constructor <;> decide +kernel)

theorem witness_VectorOperationsWriteTheirResults :
    (((vectorOps[1]'(by decide +kernel)) : (Nat → Nat → Instr) × Nat × (Lantern → Nat → VOut)) ∈ vectorOps ∧ (stV (vw 0x25) : State).LanRuns 11 1535 ∧ ((stV (vw 0x25) : State).chan 11).VeReady 1535 ((vectorOps[1]'(by decide +kernel)) : (Nat → Nat → Instr) × Nat × (Lantern → Nat → VOut)).snd.fst tk (vw 37) ∧ (((vectorOps[1]'(by decide +kernel)) : (Nat → Nat → Instr) × Nat × (Lantern → Nat → VOut)).snd.snd (((stV (vw 0x25) : State).chan 11).lan 1535) (vw 37)).bad = false) := by
  repeat' (first | with_reducible apply And.intro | (delta State.LanRuns Channel.VeReady State.Runs))
  all_goals
    first | with_reducible exact stCycle_stalled | with_reducible exact calLan_rep0 | decide +kernel | (refine next_stateOf ?_; decide +kernel) | exact List.getElem_mem _ | exact ⟨_, rfl, by decide +kernel⟩ | (intro _ _; simp; done) | (intro _; rfl) | (intro _ h; cases h; done) | (intro _ _ h; cases h; done) | exact ⟨by decide +kernel, by decide +kernel, by decide +kernel, ⟨99, by decide +kernel, by decide +kernel⟩⟩ | exact ⟨10, by decide +kernel, ⟨11, by decide +kernel, by decide +kernel⟩, by decide +kernel⟩ | rfl | exact ⟨99, by decide +kernel, by decide +kernel⟩ | (simp; done) | (intro d hd; obtain ⟨h1, h2⟩ := hd; revert d; decide +kernel) | (constructor <;> decide +kernel)

theorem witness_RefusedFormatWordsChangeNoRegister :
    (stVbad.LanRuns 11 1535 ∧ ((vectorOps[29]'(by decide +kernel)) : (Nat → Nat → Instr) × Nat × (Lantern → Nat → VOut)) ∈ vectorOps ∧ (stVbad.chan 11).VeReady 1535 ((vectorOps[29]'(by decide +kernel)) : (Nat → Nat → Instr) × Nat × (Lantern → Nat → VOut)).snd.fst tk (vw 73 + 2 ^ 38) ∧ (((vectorOps[29]'(by decide +kernel)) : (Nat → Nat → Instr) × Nat × (Lantern → Nat → VOut)).snd.snd ((stVbad.chan 11).lan 1535) (vw 73 + 2 ^ 38)).bad = true ∧ (stVbad.chan 11).CanRecord ((stVbad.chan 11).veUnit 1535)) ∧
    (stVmemBad.LanRuns 11 1535 ∧ ((Instr.vld, 8) : (Nat → Nat → Instr) × Nat) ∈ [(Instr.vld, 8), (Instr.vst, 9), (Instr.vldx, 10), (Instr.vstx, 11), (Instr.tld, 14), (Instr.tst, 15)] ∧ (stVmemBad.chan 11).VeReady 1535 ((Instr.vld, 8) : (Nat → Nat → Instr) × Nat).snd tk (vw 8 + 2 ^ 38) ∧ ((stVmemBad.chan 11).lan 1535).memFmt (vw 8 + 2 ^ 38) = none ∧ (stVmemBad.chan 11).CanRecord ((stVmemBad.chan 11).veUnit 1535)) := by
  repeat' (first | with_reducible apply And.intro | (delta State.LanRuns Channel.VeReady State.Runs))
  all_goals
    first | with_reducible exact stCycle_stalled | with_reducible exact calLan_rep0 | decide +kernel | (refine next_stateOf ?_; decide +kernel) | exact List.getElem_mem _ | exact ⟨_, rfl, by decide +kernel⟩ | (intro _ _; simp; done) | (intro _; rfl) | (intro _ h; cases h; done) | (intro _ _ h; cases h; done) | exact ⟨by decide +kernel, by decide +kernel, by decide +kernel, ⟨99, by decide +kernel, by decide +kernel⟩⟩ | exact ⟨10, by decide +kernel, ⟨11, by decide +kernel, by decide +kernel⟩, by decide +kernel⟩ | rfl | exact ⟨99, by decide +kernel, by decide +kernel⟩ | (simp; done) | (intro d hd; obtain ⟨h1, h2⟩ := hd; revert d; decide +kernel) | (constructor <;> decide +kernel)

theorem witness_LaneChecks :
    (((checkedOps[0]'(by decide +kernel)) : (Nat → Nat → Nat → Check → Instr) × Nat × (Lantern → Nat → VOut)) ∈ checkedOps ∧ (stV (vwi 0x20) : State).LanRuns 11 1535 ∧ ((stV (vwi 0x20) : State).chan 11).VeReady 1535 ((checkedOps[0]'(by decide +kernel)) : (Nat → Nat → Nat → Check → Instr) × Nat × (Lantern → Nat → VOut)).snd.fst tk (vwi 32) ∧ 63 < 64 ∧ (((checkedOps[0]'(by decide +kernel)) : (Nat → Nat → Nat → Check → Instr) × Nat × (Lantern → Nat → VOut)).snd.snd (((stV (vwi 0x20) : State).chan 11).lan 1535) (vwi 32)).cnt = [] ∧ ((stV (vwi 0x20) : State).chan 11).CanRecord (((stV (vwi 0x20) : State).chan 11).veUnit 1535) ∧ (((stV (vwi 0x20) : State).chan 11).lan 1535).active (vwi 32) 63 = true ∧ Check.corrected = Check.corrected) ∧
    (((checkedOps[0]'(by decide +kernel)) : (Nat → Nat → Nat → Check → Instr) × Nat × (Lantern → Nat → VOut)) ∈ checkedOps ∧ (stV (vwi 0x20) : State).LanRuns 11 1535 ∧ ((stV (vwi 0x20) : State).chan 11).VeReady 1535 ((checkedOps[0]'(by decide +kernel)) : (Nat → Nat → Nat → Check → Instr) × Nat × (Lantern → Nat → VOut)).snd.fst tk (vwi 32) ∧ 63 < 64 ∧ (((checkedOps[0]'(by decide +kernel)) : (Nat → Nat → Nat → Check → Instr) × Nat × (Lantern → Nat → VOut)).snd.snd (((stV (vwi 0x20) : State).chan 11).lan 1535) (vwi 32)).cnt = [] ∧ ((stV (vwi 0x20) : State).chan 11).CanRecord (((stV (vwi 0x20) : State).chan 11).veUnit 1535) ∧ (((stV (vwi 0x20) : State).chan 11).lan 1535).active (vwi 32) 63 = true ∧ Check.uncorrectable = Check.uncorrectable) := by
  repeat' (first | with_reducible apply And.intro | (delta State.LanRuns Channel.VeReady State.Runs))
  all_goals
    first | decide +kernel | (refine next_stateOf ?_; decide +kernel) | exact ⟨_, rfl, by decide +kernel⟩ | (constructor <;> decide +kernel)

theorem witness_VectorElementValues :
    (((elementOps[0]'(by decide +kernel)) : (Nat → Nat → Instr) × Nat × (Nat → Bool) × (Lantern → Nat → Nat → Nat)) ∈ elementOps ∧ (stV (vwi 0x20) : State).LanRuns 11 1535 ∧ ((stV (vwi 0x20) : State).chan 11).VeReady 1535 ((elementOps[0]'(by decide +kernel)) : (Nat → Nat → Instr) × Nat × (Nat → Bool) × (Lantern → Nat → Nat → Nat)).snd.fst tk (vwi 32) ∧ ((elementOps[0]'(by decide +kernel)) : (Nat → Nat → Instr) × Nat × (Nat → Bool) × (Lantern → Nat → Nat → Nat)).snd.snd.fst (vwi 32) = true) := by
  repeat' (first | with_reducible apply And.intro | (delta State.LanRuns Channel.VeReady State.Runs))
  all_goals
    first | decide +kernel | (refine next_stateOf ?_; decide +kernel) | exact ⟨_, rfl, by decide +kernel⟩ | (constructor <;> decide +kernel)

theorem witness_MasksSelectAndCount :
    ((stV (vw 0x42) : State).LanRuns 11 1535 ∧ ((stV (vw 0x42) : State).chan 11).VeReady 1535 66 tk (vw 66)) ∧
    ((stV (vw 0x40) : State).LanRuns 11 1535 ∧ ((stV (vw 0x40) : State).chan 11).VeReady 1535 64 tk (vw 64)) ∧
    ((stV (vw 0x32) : State).LanRuns 11 1535 ∧ ((stV (vw 0x32) : State).chan 11).VeReady 1535 50 tk (vw 50)) := by
  repeat' (first | with_reducible apply And.intro | (delta State.LanRuns Channel.VeReady State.Runs))
  all_goals
    first | decide +kernel | (refine next_stateOf ?_; decide +kernel) | exact ⟨_, rfl, by decide +kernel⟩ | (constructor <;> decide +kernel)

theorem witness_VectorTaskControl :
    (stVsetReg.LanRuns 11 1535 ∧ (stVsetReg.chan 11).VeReady 1535 3 tk (vw 3 + 2 ^ 35 + 15 * 2 ^ 44) ∧ vFn (vw 3 + 2 ^ 35 + 15 * 2 ^ 44) = 1 ∧ ((stVsetReg.chan 11).lan 1535).r F.LN_SHAPE_VALUE (vImm (vw 3 + 2 ^ 35 + 15 * 2 ^ 44) % 16) ≠ 0) ∧
    (stVtaskEmpty.LanRuns 11 1535 ∧ (stVtaskEmpty.chan 11).VeReady 1535 1 unopened (1 + 2 ^ 44) ∧ (∃ n, n < 16 ∧ isSet (vImm (1 + 2 ^ 44)) n = true ∧ ((stVtaskEmpty.chan 11).lan 1535).r F.LN_SHAPE_VALUE n = 0)) ∧
    ((stV (vw 3 + 127 * 2 ^ 44) : State).LanRuns 11 1535 ∧ ((stV (vw 3 + 127 * 2 ^ 44) : State).chan 11).VeReady 1535 3 tk (vw 3 + 127 * 2 ^ 44) ∧ vFn (vw 3 + 127 * 2 ^ 44) = 0 ∧ vImm (vw 3 + 127 * 2 ^ 44) % 128 ≠ 0) ∧
    ((stV 0 : State).LanRuns 11 1535 ∧ ((stV 0 : State).chan 11).VeReady 1535 0 tk 0) ∧
    ((stV (1 + 1023 * 2 ^ 8) unopened : State).LanRuns 11 1535 ∧ ((stV (1 + 1023 * 2 ^ 8) unopened : State).chan 11).VeReady 1535 1 unopened (1 + 1023 * 2 ^ 8) ∧ (∀ (n : Nat), n < 16 → isSet (vImm (1 + 1023 * 2 ^ 8)) n = true → (((stV (1 + 1023 * 2 ^ 8) unopened : State).chan 11).lan 1535).r F.LN_SHAPE_VALUE n ≠ 0)) ∧
    ((stV (vw 3 + 2 ^ 36) : State).LanRuns 11 1535 ∧ ((stV (vw 3 + 2 ^ 36) : State).chan 11).VeReady 1535 3 tk (vw 3 + 2 ^ 36) ∧ 2 ≤ vFn (vw 3 + 2 ^ 36) ∧ 0 < i32 ((((stV (vw 3 + 2 ^ 36) : State).chan 11).lan 1535).a (vw 3 + 2 ^ 36) 0)) ∧
    ((stV 2 : State).LanRuns 11 1535 ∧ ((stV 2 : State).chan 11).VeReady 1535 2 tk 2) := by
  repeat' (first | with_reducible apply And.intro | (delta State.LanRuns Channel.VeReady State.Runs))
  all_goals
    first | decide +kernel | (refine next_stateOf ?_; decide +kernel) | exact ⟨_, rfl, by decide +kernel⟩ | (constructor <;> decide +kernel)

theorem witness_InvalidInstructionsStopTheirTask :
    (stBad.CoreRuns 11 1535 63 ∧ ((stBad.chan 11).core 1535 63).nextWord (stBad.chan 11).cyc = some (tk, 7) ∧ (tileInvalid 7 !tk.opened) = true ∧ (Instr.nop 11 1535 63 : Instr) ∈ [Instr.nop 11 1535 63, Instr.task 11 1535 63, Instr.oload 11 1535 63, Instr.tmul 11 1535 63, Instr.drain 11 1535 63, Instr.fence 11 1535 63, Instr.taskEnd 11 1535 63]) ∧
    (((vectorOps[0]'(by decide +kernel)) : (Nat → Nat → Instr) × Nat × (Lantern → Nat → VOut)) ∈ vectorOps ∧ (stV 7 : State).LanRuns 11 1535 ∧ (((stV 7 : State).chan 11).lan 1535).ve.nextWord ((stV 7 : State).chan 11).cyc = some (tk, 7) ∧ vecInvalid 7 (!tk.opened) ((((stV 7 : State).chan 11).lan 1535).mxShort 7 && !tk.empty) = true) := by
  repeat' (first | with_reducible apply And.intro | (delta State.CoreRuns State.LanRuns State.Runs))
  all_goals
    first | decide +kernel | (refine next_stateOf ?_; decide +kernel) | exact ⟨_, rfl, by decide +kernel⟩ | (constructor <;> decide +kernel)

theorem witness_VectorMemoryInstructionsAskThePipe :
    (stVask0.LanRuns 11 1535 ∧ ((stVask0.chan 11).lan 1535).ve.lastAcc ≠ some (stVask0.chan 11).cyc ∧ ((stVask0.chan 11).lan 1535).pipeHolds 64 = false ∧ (List.find? (fun m => !m.todo.isEmpty) ((stVask0.chan 11).lan 1535).ve.mem = some (((((stVask0.chan 11).lan 1535).ve.mem.head?.get (by decide +kernel))) : VMem)) ∧ (((((stVask0.chan 11).lan 1535).ve.mem.head?.get (by decide +kernel))) : VMem).todo = (4095, (List.replicate 64 1 : List (BitVec 8)), (List.replicate 64 true : List Bool)) :: (([] : List (Nat × List (BitVec 8) × List Bool)) : List (Nat × List (BitVec 8) × List Bool)) ∧ (((((stVask0.chan 11).lan 1535).ve.mem.head?.get (by decide +kernel))) : VMem).issued < (stVask0.chan 11).cyc ∧ ((stVask0.chan 11).lan 1535).veDue (stVask0.chan 11).cyc = none) ∧
    ((stV (vw 9 - 2 ^ 28) : State).LanRuns 11 1535 ∧ ((Instr.vst, 9) : (Nat → Nat → Instr) × Nat) ∈ [(Instr.vld, 8), (Instr.vst, 9), (Instr.vldx, 10), (Instr.vstx, 11), (Instr.tld, 14), (Instr.tst, 15)] ∧ ((stV (vw 9 - 2 ^ 28) : State).chan 11).VeReady 1535 ((Instr.vst, 9) : (Nat → Nat → Instr) × Nat).snd tk (vw 9 - 2 ^ 28) ∧ (((stV (vw 9 - 2 ^ 28) : State).chan 11).lan 1535).memFmt (vw 9 - 2 ^ 28) = some ((Option.get (FmtWord.parse 0) (by decide +kernel)) : FmtWord) ∧ (((stV (vw 9 - 2 ^ 28) : State).chan 11).lan 1535).vLines (vw 9 - 2 ^ 28) ((Option.get (FmtWord.parse 0) (by decide +kernel)) : FmtWord) = []) ∧
    ((stV (vw 8) : State).LanRuns 11 1535 ∧ (((stV (vw 8) : State).chan 11).lan 1535).ve.lastAcc ≠ some ((stV (vw 8) : State).chan 11).cyc ∧ (((stV (vw 8) : State).chan 11).lan 1535).pipeHolds 64 = false ∧ (List.find? (fun t => !t.endReq && !t.stopped && !t.ended) (((stV (vw 8) : State).chan 11).lan 1535).ve.tasks = some tk) ∧ tk.fetch ≤ 4095 ∧ ((List.filter (fun i => i.task == tk.id) (((stV (vw 8) : State).chan 11).lan 1535).ve.ibuf).length < 2)) ∧
    ((stV (vw 8) : State).LanRuns 11 1535 ∧ ((Instr.vld, 8) : (Nat → Nat → Instr) × Nat) ∈ [(Instr.vld, 8), (Instr.vst, 9), (Instr.vldx, 10), (Instr.vstx, 11), (Instr.tld, 14), (Instr.tst, 15)] ∧ ((stV (vw 8) : State).chan 11).VeReady 1535 ((Instr.vld, 8) : (Nat → Nat → Instr) × Nat).snd tk (vw 8) ∧ (((stV (vw 8) : State).chan 11).lan 1535).memFmt (vw 8) = some ((Option.get (FmtWord.parse 0) (by decide +kernel)) : FmtWord) ∧ (((stV (vw 8) : State).chan 11).lan 1535).vLines (vw 8) ((Option.get (FmtWord.parse 0) (by decide +kernel)) : FmtWord) ≠ []) ∧
    ((stV (vw 0xD + 7 * 2 ^ 35) : State).LanRuns 11 1535 ∧ ((stV (vw 0xD + 7 * 2 ^ 35) : State).chan 11).VeReady 1535 13 tk (vw 13 + 7 * 2 ^ 35)) ∧
    ((stV (vw 0x10 - 3 * 2 ^ 8) : State).LanRuns 11 1535 ∧ ((Instr.wld, 0x10) : (Nat → Nat → Instr) × Nat) ∈ [(Instr.wld, 16), (Instr.wst, 17)] ∧ ((stV (vw 0x10 - 3 * 2 ^ 8) : State).chan 11).VeReady 1535 ((Instr.wld, 0x10) : (Nat → Nat → Instr) × Nat).snd tk (vw 16 - 3 * 2 ^ 8) ∧ (linesOf (List.map (fun i => (i, elemAddr (vLine (vw 16 - 3 * 2 ^ 8)) 128 i)) ((((stV (vw 0x10 - 3 * 2 ^ 8) : State).chan 11).lan 1535).actives (vw 16 - 3 * 2 ^ 8))) ≠ [])) ∧
    ((stV (vw 0xC) : State).LanRuns 11 1535 ∧ ((stV (vw 0xC) : State).chan 11).VeReady 1535 12 tk (vw 12) ∧ (((stV (vw 0xC) : State).chan 11).lan 1535).actives (vw 12) ≠ []) := by
  repeat' (first | with_reducible apply And.intro | (delta State.LanRuns Channel.VeReady State.Runs))
  all_goals
    first | with_reducible exact stCycle_stalled | with_reducible exact calLan_rep0 | decide +kernel | (refine next_stateOf ?_; decide +kernel) | exact List.getElem_mem _ | exact ⟨_, rfl, by decide +kernel⟩ | (intro _ _; simp; done) | (intro _; rfl) | (intro _ h; cases h; done) | (intro _ _ h; cases h; done) | exact ⟨by decide +kernel, by decide +kernel, by decide +kernel, ⟨99, by decide +kernel, by decide +kernel⟩⟩ | exact ⟨10, by decide +kernel, ⟨11, by decide +kernel, by decide +kernel⟩, by decide +kernel⟩ | rfl | exact ⟨99, by decide +kernel, by decide +kernel⟩ | (simp; done) | (intro d hd; obtain ⟨h1, h2⟩ := hd; revert d; decide +kernel) | (constructor <;> decide +kernel)

theorem witness_OnlyTheLastLatchedValueTakesEffect :
    (F.LN_ARB_CFG_BURST.acc = Acc.rwl ∧ ({ regs := at1 {} F.LN_ARB_CFG_BURST 0 3 } : WrOut).regs.shadow.sorted = true ∧ 1 < 2 ^ F.LN_ARB_CFG_BURST.wid ∧ 255 < 2 ^ F.LN_ARB_CFG_BURST.wid) ∧
    (stLan0.LanRuns 11 1535 ∧ stLan0.CanReach Requester.host 11 ∧ stLan0.Allows Requester.host F.LN_ARB_CFG_BURST ∧ 4294967295 < 2 ^ 32 ∧ 1 < 2 ^ 32) := by
  repeat' (first | with_reducible apply And.intro | (delta State.Allows State.CanReach State.LanRuns State.Runs))
  all_goals
    first | decide +kernel | (refine next_stateOf ?_; decide +kernel) | exact ⟨_, rfl, by decide +kernel⟩ | (constructor <;> decide +kernel)

theorem witness_ParkAndResumeTogetherAreDiscarded :
    (stAwake.LanRuns 11 1535 ∧ stAwake.CanReach Requester.host 11 ∧ 4294967295 < 2 ^ 32 ∧ 4294967295 % 4 = 3) ∧
    (stParkPend.LanRuns 11 1535 ∧ stParkPend.CanReach Requester.host 11 ∧ stParkPend.Allows Requester.host F.LN_CTRL_RESUME ∧ ((stParkPend.chan 11).lan 1535).r F.LN_STATUS_PARK_PEND = 1) := by
  repeat' (first | with_reducible apply And.intro | (delta State.Allows State.CanReach State.LanRuns State.Runs))
  all_goals
    first | decide +kernel | (refine next_stateOf ?_; decide +kernel) | exact ⟨_, rfl, by decide +kernel⟩ | (constructor <;> decide +kernel)

theorem witness_VcompPacksTheActiveElements :
    ((stV (vw 0x48) : State).LanRuns 11 1535 ∧ ((stV (vw 0x48) : State).chan 11).VeReady 1535 72 tk (vw 72)) := by
  repeat' (first | with_reducible apply And.intro | (delta State.LanRuns Channel.VeReady State.Runs))
  all_goals
    first | decide +kernel | (refine next_stateOf ?_; decide +kernel) | exact ⟨_, rfl, by decide +kernel⟩ | (constructor <;> decide +kernel)

theorem witness_StreamCommands_1 :
    (stMoored.LanRuns 11 1535 ∧ 15 < 16 ∧ stMoored.CanReach Requester.host 11 ∧ stMoored.Allows Requester.host F.TD_S_REARM_DST_DST ∧ ((stMoored.chan 11).lan 1535).r F.TD_S_DESC0_MOORED 15 = 1 ∧ ((stMoored.chan 11).lan 1535).stmState 15 = 0 ∧ (((stMoored.chan 11).lan 1535).stm 15).shadow = none ∧ (((stMoored.chan 11).lan 1535).stm 15).endAt ≠ some ((stMoored.chan 11).cyc, true)) ∧
    (stMooredRun.LanRuns 11 1535 ∧ 15 < 16 ∧ stMooredRun.CanReach Requester.host 11 ∧ stMooredRun.Allows Requester.host F.TD_S_REARM_DST_DST ∧ ((stMooredRun.chan 11).lan 1535).r F.TD_S_DESC0_MOORED 15 = 1 ∧ (((stMooredRun.chan 11).lan 1535).stmState 15 ≠ 0 ∨ (((stMooredRun.chan 11).lan 1535).stm 15).shadow ≠ none) ∧ ((stMooredRun.chan 11).lan 1535).r F.TD_S_STAT_REARM_PEND 15 = 1) ∧
    (stRearmEnd.LanRuns 11 1535 ∧ 15 < 16 ∧ stRearmEnd.CanReach Requester.host 11 ∧ stRearmEnd.Allows Requester.host F.TD_S_REARM_DST_DST ∧ ((stRearmEnd.chan 11).lan 1535).r F.TD_S_DESC0_MOORED 15 = 1 ∧ ((stRearmEnd.chan 11).lan 1535).stmState 15 = 0 ∧ (((stRearmEnd.chan 11).lan 1535).stm 15).shadow = none ∧ (((stRearmEnd.chan 11).lan 1535).stm 15).endAt = some ((stRearmEnd.chan 11).cyc, true)) ∧
    (stRestartA.LanRuns 11 1535 ∧ 15 < 16 ∧ (((stRestartA.chan 11).lan 1535).stm 15).restart = some 100 ∧ 100 ≤ (stRestartA.chan 11).cyc ∧ ((stRestartA.chan 11).lan 1535).stmState 15 = 0 ∧ ((stRestartA.chan 11).lan 1535).halted = false ∧ ((stRestartA.chan 11).lan 1535).checkOf 1535 15 = none ∧ F.TD_S_POS_PC ∈ tdPos) ∧
    (stRunS.LanRuns 11 1535 ∧ 15 < 16 ∧ stRunS.CanReach Requester.host 11 ∧ stRunS.Allows Requester.host F.TD_S_CMD_START ∧ (((stRunS.chan 11).lan 1535).stmState 15 = 1 ∨ ((stRunS.chan 11).lan 1535).stmState 15 = 2) ∧ (((stRunS.chan 11).lan 1535).stm 15).aborting = false ∧ (((stRunS.chan 11).lan 1535).stm 15).ending = false) ∧
    (stRunS.LanRuns 11 1535 ∧ 15 < 16 ∧ stRunS.CanReach Requester.host 11 ∧ stRunS.Allows Requester.host F.TD_S_CMD_START ∧ ((stRunS.chan 11).lan 1535).issuedOf 15 ≠ []) ∧
    (stStart.LanRuns 11 1535 ∧ 15 < 16 ∧ stStart.CanReach Requester.host 11 ∧ stStart.Allows Requester.host F.TD_S_CMD_START ∧ ((stStart.chan 11).lan 1535).issuedOf 15 = []) ∧
    (stStart.LanRuns 11 1535 ∧ 15 < 16 ∧ stStart.CanReach Requester.host 11 ∧ stStart.Allows Requester.host F.TD_S_CMD_START ∧ ((stStart.chan 11).lan 1535).stmState 15 < 3) := by
  repeat' (first | with_reducible apply And.intro | (delta State.Allows State.CanReach State.LanRuns State.Runs))
  all_goals
    first | decide +kernel | (refine next_stateOf ?_; decide +kernel) | exact ⟨_, rfl, by decide +kernel⟩ | (constructor <;> decide +kernel)

theorem witness_StreamCommands_2 :
    (stStart.LanRuns 11 1535 ∧ 15 < 16 ∧ stStart.CanReach Requester.host 11 ∧ stStart.Allows Requester.host F.TD_S_CMD_START ∧ ((stStart.chan 11).lan 1535).stmState 15 = 0 ∧ ((stStart.chan 11).lan 1535).checkOf 1535 15 = none ∧ F.TD_S_POS_PC ∈ tdPos) ∧
    (stStart.LanRuns 11 1535 ∧ 15 < 16 ∧ stStart.CanReach Requester.host 11 ∧ stStart.Allows Requester.host F.TD_S_REARM_DST_DST ∧ ((stStart.chan 11).lan 1535).r F.TD_S_DESC0_MOORED 15 = 0) ∧
    (stStartBad.LanRuns 11 1535 ∧ 15 < 16 ∧ stStartBad.CanReach Requester.host 11 ∧ stStartBad.Allows Requester.host F.TD_S_CMD_START ∧ ((stStartBad.chan 11).lan 1535).stmState 15 = 0 ∧ ((stStartBad.chan 11).lan 1535).checkOf 1535 15 = some 32 ∧ (stStartBad.chan 11).CanRecord ((stStartBad.chan 11).stmUnit 1535 15)) ∧
    (stStoppedS.LanRuns 11 1535 ∧ 15 < 16 ∧ stStoppedS.CanReach Requester.host 11 ∧ stStoppedS.Allows Requester.host F.TD_S_CMD_START ∧ (((stStoppedS.chan 11).lan 1535).stmState 15 = 3 ∨ ((stStoppedS.chan 11).lan 1535).stmState 15 = 4)) := by
  repeat' (first | with_reducible apply And.intro | (delta State.Allows State.CanReach State.LanRuns State.Runs))
  all_goals
    first | decide +kernel | (refine next_stateOf ?_; decide +kernel) | exact ⟨_, rfl, by decide +kernel⟩ | (constructor <;> decide +kernel)

theorem witness_StreamProgramSteps :
    (stAdd.LanRuns 11 1535 ∧ (stAdd.chan 11).StandsAt 1535 15 (SInsn.add false (some 3 : Option Nat) true (sext 23 0))) ∧
    (stEndS.LanRuns 11 1535 ∧ (stEndS.chan 11).StandsAt 1535 15 SInsn.end_) ∧
    (stLoop.LanRuns 11 1535 ∧ (stLoop.chan 11).StandsAt 1535 15 (SInsn.loop 5 none 2 1) ∧ ((match none with | some x => ((stLoop.chan 11).lan 1535).r F.LN_SHAPE_VALUE x | none => 2) ≠ 0)) ∧
    (stLoop.LanRuns 11 1535 ∧ 15 < 16 ∧ ((stLoop.chan 11).lan 1535).td.nextStep ≤ (stLoop.chan 11).cyc ∧ List.filter ((stLoop.chan 11).stepping 1535) ((stLoop.chan 11).lan 1535).td.order = [15] ∧ ((stLoop.chan 11).lan 1535).r F.TD_S_DESC0_MODE 15 ≠ 1 ∧ ((stLoop.chan 11).lan 1535).r F.TD_S_DESC0_PRIO 15 < 4 ∧ (stLoop.chan 11).stepWait 1535 15 = none) ∧
    (stLoop0.LanRuns 11 1535 ∧ (stLoop0.chan 11).StandsAt 1535 15 (SInsn.loop 5 (some 15 : Option Nat) 0 31) ∧ ((match (some 15 : Option Nat) with | some x => ((stLoop0.chan 11).lan 1535).r F.LN_SHAPE_VALUE x | none => 0) = 0)) ∧
    (stSet.LanRuns 11 1535 ∧ (stSet.chan 11).StandsAt 1535 15 (SInsn.set true (-1))) ∧
    (stSkip.LanRuns 11 1535 ∧ (stSkip.chan 11).StandsAt 1535 15 (SInsn.skip 5 15 2 7 15)) ∧
    (stStepWait.LanRuns 11 1535 ∧ 15 < 16 ∧ ((stStepWait.chan 11).lan 1535).td.nextStep ≤ (stStepWait.chan 11).cyc ∧ List.filter ((stStepWait.chan 11).stepping 1535) ((stStepWait.chan 11).lan 1535).td.order = [15] ∧ ((stStepWait.chan 11).lan 1535).r F.TD_S_DESC0_MODE 15 ≠ 1 ∧ ((stStepWait.chan 11).lan 1535).r F.TD_S_DESC0_PRIO 15 < 4 ∧ (stStepWait.chan 11).stepWait 1535 15 = some 4) := by
  repeat' (first | with_reducible apply And.intro | (delta State.LanRuns State.Runs))
  all_goals
    first | decide +kernel | (refine next_stateOf ?_; decide +kernel) | exact ⟨_, rfl, by decide +kernel⟩ | (constructor <;> decide +kernel)

theorem witness_TransfersIssue :
    (stFill.LanRuns 11 1535 ∧ (stFill.chan 11).StandsAt 1535 15 (SInsn.fill 64 true false) ∧ (stFill.chan 11).progIssue 1535 15 64 true true false = some wit10 ∧ (stFill.chan 11).MayIssue 1535 15 wit10 ∧ ((stFill.chan 11).lan 1535).r F.TD_S_DESC0_DST_BP_EN 15 = 1 ∧ (((stFill.chan 11).lan 1535).stm 15).dstOpen = false ∧ (stFill.chan 11).toReserve 1535 15 wit10 = false) ∧
    (stHold.LanRuns 11 1535 ∧ 15 < 16 ∧ ((stHold.chan 11).lan 1535).td.hold.find 15 = some ({ xids := [0], bytes := 64, until_ := 100 } : Hold) ∧ ({ xids := [0], bytes := 64, until_ := 100 } : Hold).until_ ≤ (stHold.chan 11).cyc ∧ ((List.map (fun x => x.xid) ((stHold.chan 11).lan 1535).td.fq).Nodup)) ∧
    (stXfer.LanRuns 11 1535 ∧ (stXfer.chan 11).StandsAt 1535 15 (SInsn.xfer 16384 true true true true) ∧ (stXfer.chan 11).progIssue 1535 15 16384 false true true = some wit9 ∧ (stXfer.chan 11).MayIssue 1535 15 wit9 ∧ ((stXfer.chan 11).lan 1535).r F.TD_S_DESC0_DST_BP_EN 15 = 1 ∧ (((stXfer.chan 11).lan 1535).stm 15).dstOpen = false ∧ (stXfer.chan 11).toReserve 1535 15 wit9 = false) ∧
    (stXfer.LanRuns 11 1535 ∧ (stXfer.chan 11).StandsAt 1535 15 (SInsn.xfer 16384 true true true true) ∧ (stXfer.chan 11).progIssue 1535 15 16384 false true true = some wit9 ∧ (stXfer.chan 11).MayIssue 1535 15 wit9 ∧ ((stXfer.chan 11).lan 1535).r F.TD_S_DESC0_SRC_BP_EN 15 = 1 ∧ wit9.reads = true ∧ (((stXfer.chan 11).lan 1535).stm 15).srcOpen = false) ∧
    ((inList entry0).LanRuns 11 1535 ∧ 15 < 16 ∧ (((inList entry0).chan 11).lan 1535).td.granted = some (15, ((inList entry0).chan 11).cyc) ∧ (((inList entry0).chan 11).lan 1535).r F.TD_S_DESC0_MODE 15 ≠ 0 ∧ (((inList entry0).chan 11).lan 1535).listEntry 15 = some (LEntry.parse entry0 : LEntry) ∧ (((inList entry0).chan 11).lan 1535).listIssue 1535 15 (LEntry.parse entry0 : LEntry) = some wit8 ∧ (LEntry.parse entry0 : LEntry).invalid wit8 = false ∧ (LEntry.parse entry0 : LEntry).len = 0 ∧ (LEntry.parse entry0 : LEntry).slotEnd = false) ∧
    ((inList entry64).LanRuns 11 1535 ∧ 15 < 16 ∧ (((inList entry64).chan 11).lan 1535).td.granted = some (15, ((inList entry64).chan 11).cyc) ∧ (((inList entry64).chan 11).lan 1535).r F.TD_S_DESC0_MODE 15 ≠ 0 ∧ (((inList entry64).chan 11).lan 1535).listEntry 15 = some (LEntry.parse entry64 : LEntry) ∧ (((inList entry64).chan 11).lan 1535).listIssue 1535 15 (LEntry.parse entry64 : LEntry) = some wit11 ∧ (LEntry.parse entry64 : LEntry).invalid wit11 = false ∧ (LEntry.parse entry64 : LEntry).len ≠ 0 ∧ ((inList entry64).chan 11).MayIssue 1535 15 wit11 ∧ (((inList entry64).chan 11).lan 1535).r F.TD_S_DESC0_DST_BP_EN 15 = 1 ∧ ((((inList entry64).chan 11).lan 1535).stm 15).dstOpen = false ∧ ((inList entry64).chan 11).toReserve 1535 15 wit11 = false) ∧
    ((inList entry64).LanRuns 11 1535 ∧ 15 < 16 ∧ (((inList entry64).chan 11).lan 1535).td.granted = some (15, ((inList entry64).chan 11).cyc) ∧ (((inList entry64).chan 11).lan 1535).r F.TD_S_DESC0_MODE 15 ≠ 0 ∧ (((inList entry64).chan 11).lan 1535).listEntry 15 = some (LEntry.parse entry64 : LEntry) ∧ (((inList entry64).chan 11).lan 1535).listIssue 1535 15 (LEntry.parse entry64 : LEntry) = some wit11 ∧ (LEntry.parse entry64 : LEntry).invalid wit11 = false ∧ (LEntry.parse entry64 : LEntry).len ≠ 0 ∧ ((inList entry64).chan 11).MayIssue 1535 15 wit11 ∧ (((inList entry64).chan 11).lan 1535).r F.TD_S_DESC0_SRC_BP_EN 15 = 1 ∧ wit11.reads = true ∧ ((((inList entry64).chan 11).lan 1535).stm 15).srcOpen = false) ∧
    ((inList entryBad).LanRuns 11 1535 ∧ 15 < 16 ∧ (((inList entryBad).chan 11).lan 1535).td.granted = some (15, ((inList entryBad).chan 11).cyc) ∧ (((inList entryBad).chan 11).lan 1535).r F.TD_S_DESC0_MODE 15 ≠ 0 ∧ (((inList entryBad).chan 11).lan 1535).listEntry 15 = some (LEntry.parse entryBad : LEntry) ∧ (((inList entryBad).chan 11).lan 1535).listIssue 1535 15 (LEntry.parse entryBad : LEntry) = some wit8 ∧ (LEntry.parse entryBad : LEntry).invalid wit8 = true ∧ (LEntry.parse entryBad : LEntry).slotEnd = false ∧ ((((inList entryBad).chan 11).lan 1535).stm 15).listErr = false ∧ ((inList entryBad).chan 11).CanRecord (((inList entryBad).chan 11).stmUnit 1535 15)) := by
  repeat' (first | with_reducible apply And.intro | (delta State.LanRuns Channel.MayIssue State.Runs))
  all_goals
    first | decide +kernel | (refine next_stateOf ?_; decide +kernel) | exact ⟨_, rfl, by decide +kernel⟩ | (constructor <;> decide +kernel)

theorem witness_StreamsRetireAndRefill :
    (stRetire.LanRuns 11 1535 ∧ 15 < 16 ∧ ((stRetire.chan 11).lan 1535).td.nextRefill ≤ (stRetire.chan 11).cyc) ∧
    (stRetire.LanRuns 11 1535 ∧ 15 < 16 ∧ (List.find? (fun x => x.st == 15) ((stRetire.chan 11).lan 1535).td.fq = some xfDone) ∧ xfDone.landed = true ∧ xfDone.copyBack = false ∧ xfDone.dstEnd = true ∧ ((stRetire.chan 11).lan 1535).r F.TD_S_DESC0_DST_BP_EN 15 = 1) ∧
    (stRetire.LanRuns 11 1535 ∧ 15 < 16 ∧ (List.find? (fun x => x.st == 15) ((stRetire.chan 11).lan 1535).td.fq = some xfDone) ∧ xfDone.landed = true ∧ xfDone.copyBack = false ∧ xfDone.srcEnd = true) ∧
    (stSpill.LanRuns 11 1535 ∧ 15 < 16 ∧ ((stSpill.chan 11).lan 1535).spillsOf 15 = spill0 :: ([] : List SpillSlot) ∧ spill0.closed = true ∧ (spill0.parts = List.take (32 - ((stSpill.chan 11).lan 1535).td.fq.length) (List.filter (fun p => !p.sent) spill0.parts)) ∧ spill0.parts ≠ [] ∧ (spill0.copying = true ∨ (stSpill.chan 11).bpSeen 1535 spill0.bp false ≠ 0) ∧ (∀ (p : SpillPart), p ∈ spill0.parts → ∀ (y : Xfer), y ∈ ((stSpill.chan 11).lan 1535).td.fq → y.xid ≠ p.xid)) ∧
    (stStmEnd.LanRuns 11 1535 ∧ 15 < 16 ∧ (((stStmEnd.chan 11).lan 1535).stm 15).ending = true ∧ (((stStmEnd.chan 11).lan 1535).stm 15).aborting = false ∧ ((stStmEnd.chan 11).lan 1535).issuedOf 15 = [] ∧ (((stStmEnd.chan 11).lan 1535).stm 15).dstOpen = true ∧ (((stStmEnd.chan 11).lan 1535).stm 15).dstSpill = false) ∧
    (stStmEndA.LanRuns 11 1535 ∧ 15 < 16 ∧ (((stStmEndA.chan 11).lan 1535).stm 15).ending = true ∧ (((stStmEndA.chan 11).lan 1535).stm 15).aborting = false ∧ ((stStmEndA.chan 11).lan 1535).issuedOf 15 = [] ∧ ((stStmEndA.chan 11).lan 1535).halted = false ∧ (((stStmEndA.chan 11).lan 1535).stm 15).shadow = some (5, 2 ^ 64 + 6)) := by
  repeat' (first | with_reducible apply And.intro | (delta State.LanRuns State.Runs))
  all_goals
    first | decide +kernel | (refine next_stateOf ?_; decide +kernel) | exact ⟨_, rfl, by decide +kernel⟩ | (constructor <;> decide +kernel)

theorem witness_StallsAndBuoyPairs :
    (stCycle.LanRuns 11 1535 ∧ ((List.map (fun x => x.fst) (stCycle.chan 11).lans).Nodup) ∧ (∀ (h m : Nat), m < 16 → (((stCycle.chan 11).lan h).stalled m = true ↔ h = 1535 ∧ m = 15)) ∧ 15 < 16 ∧ (stCycle.chan 11).waitsOn (1535, 15) = some (1535, 15) ∧ (((stCycle.chan 11).lan 1535).stm 15).victim = false) ∧
    (stPair.LanRuns 11 1535 ∧ 31 < 32 ∧ 65535 < 2 ^ 16 ∧ 65535 ≠ 0 ∧ stPair.CanReach Requester.host 11 ∧ stPair.Allows Requester.host F.LN_BP_INC_READY_INC ∧ (stPair.chan 11).CanRecord (unitWord (stPair.chan 11).no 6 1535 0 31) ∧ 65535 < (stPair.chan 11).bpCount 1535 31 true + 65535) ∧
    (stPairRun.LanRuns 11 1535 ∧ 15 < 32 ∧ stPairRun.CanReach Requester.host 11 ∧ stPairRun.Allows Requester.host F.LN_BP_CTRL_INIT ∧ ((stPairRun.chan 11).lan 1535).r F.LN_STATUS_PARKED = 0) ∧
    (stStall.LanRuns 11 1535 ∧ ((stStall.chan 11).lan 1535).td.stallTick < (stStall.chan 11).tick) ∧
    (stStall.LanRuns 11 1535 ∧ 15 < 16 ∧ ((stStall.chan 11).lan 1535).r F.TD_S_STAT_STALL 15 ≠ 0 ∧ ((stStall.chan 11).lan 1535).eff F.TD_CFG_STALL_LIM ≤ ((stStall.chan 11).lan 1535).r F.TD_S_STAT_STALL 15 ∧ (((stStall.chan 11).lan 1535).stm 15).notified = false) ∧
    (stStall.LanRuns 11 1535 ∧ 15 < 32 ∧ 65535 < 2 ^ 16 ∧ 65535 ≠ 0 ∧ stStall.CanReach Requester.host 11 ∧ stStall.Allows Requester.host F.LN_BP_INC_READY_INC ∧ (stStall.chan 11).CanRecord (unitWord (stStall.chan 11).no 6 1535 0 15) ∧ ((stStall.chan 11).lan 1535).r F.LN_BP_CFG_LINK 15 ≠ 1) ∧
    (stStall.LanRuns 11 1535 ∧ 15 < 32 ∧ stStall.CanReach Requester.host 11 ∧ stStall.Allows Requester.host F.LN_BP_CTRL_INIT ∧ ((stStall.chan 11).lan 1535).r F.LN_STATUS_PARKED = 1) ∧
    (stStallErr.LanRuns 11 1535 ∧ 15 < 16 ∧ ((stStallErr.chan 11).lan 1535).r F.TD_S_STAT_STALL 15 ≠ 0 ∧ ((stStallErr.chan 11).lan 1535).eff F.TD_CFG_STALL_ERR ≤ ((stStallErr.chan 11).lan 1535).r F.TD_S_STAT_STALL 15 ∧ (((stStallErr.chan 11).lan 1535).stm 15).inCycle = false ∧ (((stStallErr.chan 11).lan 1535).stm 15).stallErr = false ∧ (stStallErr.chan 11).CanRecord ((stStallErr.chan 11).stmUnit 1535 15)) := by
  repeat' (first | with_reducible apply And.intro | (delta State.Allows State.CanReach State.LanRuns State.Runs))
  all_goals
    first | with_reducible exact stCycle_stalled | with_reducible exact calLan_rep0 | decide +kernel | (refine next_stateOf ?_; decide +kernel) | exact List.getElem_mem _ | exact ⟨_, rfl, by decide +kernel⟩ | (intro _ _; simp; done) | (intro _; rfl) | (intro _ h; cases h; done) | (intro _ _ h; cases h; done) | exact ⟨by decide +kernel, by decide +kernel, by decide +kernel, ⟨99, by decide +kernel, by decide +kernel⟩⟩ | exact ⟨10, by decide +kernel, ⟨11, by decide +kernel, by decide +kernel⟩, by decide +kernel⟩ | rfl | exact ⟨99, by decide +kernel, by decide +kernel⟩ | (simp; done) | (intro d hd; obtain ⟨h1, h2⟩ := hd; revert d; decide +kernel) | (constructor <;> decide +kernel)

theorem witness_TasksRunThroughTheQueue_1 :
    (stAdmit.LanRuns 11 1535 ∧ (stAdmit.chan 11).r F.CH_INFO_FWD_ONLY ≠ 1 ∧ (stAdmit.chan 11).lv.testBit 4 = false ∧ (stAdmit.chan 11).ctx.held = [] ∧ ((stAdmit.chan 11).lan 1535).halted = false ∧ (stAdmit.chan 11).queued = [(0, 511)] ∧ (List.find? (fun k => ((stAdmit.chan 11).ctx.seqs.find k).isNone) (upto 8) = some 0) ∧ (stAdmit.chan 11).ctx.tables.getD ((stAdmit.chan 11).ctx.tableOf ((stAdmit.chan 11).r F.CTX_CHAR_PLAN 511) ((stAdmit.chan 11).ctx.alt.contains 511)) [] = admitTab ∧ admitTab.length = 16 ∧ num admitTab 0 4 = lanBase 1535 + F.LN_TQ_PUSH_HI_ENTRY.base ∧ num admitTab 4 4 = 0 ∧ teInvalid (((stAdmit.chan 11).lan 1535).pushed (putBits (num admitTab 8 8) 2 3 0)) = false ∧ ((stAdmit.chan 11).lan 1535).tq.entries.length < 64) ∧
    (stBind.LanRuns 11 1535 ∧ (List.filter (fun t => t.on.isNone) ((stBind.chan 11).lan 1535).tq.tasks = [(lt e1 none false : LTask)]) ∧ (stBind.chan 11).unitFor 1535 (lt e1 none false : LTask).w = some 63 ∧ 63 ≠ 64) ∧
    (stBindV.LanRuns 11 1535 ∧ (List.filter (fun t => t.on.isNone) ((stBindV.chan 11).lan 1535).tq.tasks = [(lt e4 none false : LTask)]) ∧ (stBindV.chan 11).unitFor 1535 (lt e4 none false : LTask).w = some 64 ∧ 64 = 64) ∧
    (stDone.LanRuns 11 1535 ∧ 64 < 65 ∧ (List.find? (fun t => t.on == some 64 && t.done) ((stDone.chan 11).lan 1535).tq.tasks = some (lt e2 (some 64) true : LTask)) ∧ (lt e2 (some 64) true : LTask).index = none ∧ ((List.map (fun x => x.id) ((stDone.chan 11).lan 1535).tq.tasks).Nodup) ∧ (stDone.chan 11).SeqsElsewhere 1535 ∧ teOutEn (lt e2 (some 64) true : LTask).w = true ∧ ((stDone.chan 11).lan 1535).tq.acqs.getD (teOutBp (lt e2 (some 64) true : LTask).w) [] = [({ task := 0, cons := false, ctx := 3 } : Acq)] ∧ ({ task := 0, cons := false, ctx := 3 } : Acq).task = (lt e2 (some 64) true : LTask).id ∧ ({ task := 0, cons := false, ctx := 3 } : Acq).cons = false) ∧
    (stDone.LanRuns 11 1535 ∧ 64 < 65 ∧ (List.find? (fun t => t.on == some 64 && t.done) ((stDone.chan 11).lan 1535).tq.tasks = some (lt e2 (some 64) true : LTask)) ∧ (lt e2 (some 64) true : LTask).index = none ∧ ((List.map (fun x => x.id) ((stDone.chan 11).lan 1535).tq.tasks).Nodup) ∧ (stDone.chan 11).SeqsElsewhere 1535 ∧ teWaitEn (lt e2 (some 64) true : LTask).w = true ∧ ((stDone.chan 11).lan 1535).tq.acqs.getD (teWaitBp (lt e2 (some 64) true : LTask).w) [] = [({ task := 0, cons := true, ctx := 3 } : Acq)] ∧ ({ task := 0, cons := true, ctx := 3 } : Acq).task = (lt e2 (some 64) true : LTask).id ∧ ({ task := 0, cons := true, ctx := 3 } : Acq).cons = true) ∧
    (stProm.LanRuns 11 1535 ∧ ((stProm.chan 11).lan 1535).halted = false ∧ ((stProm.chan 11).lan 1535).tq.nextPromote ≤ (stProm.chan 11).cyc ∧ (stProm.chan 11).promotion 1535 = some (({ num := 0, w := e2 } : TqEntry), false) ∧ teOutEn ({ num := 0, w := e2 } : TqEntry).w = true) ∧
    (stProm.LanRuns 11 1535 ∧ ((stProm.chan 11).lan 1535).halted = false ∧ ((stProm.chan 11).lan 1535).tq.nextPromote ≤ (stProm.chan 11).cyc ∧ (stProm.chan 11).promotion 1535 = some (({ num := 0, w := e2 } : TqEntry), false) ∧ teWaitEn ({ num := 0, w := e2 } : TqEntry).w = true) ∧
    (stPromPool.LanRuns 11 1535 ∧ ((stPromPool.chan 11).lan 1535).halted = false ∧ ((stPromPool.chan 11).lan 1535).tq.nextPromote ≤ (stPromPool.chan 11).cyc ∧ (stPromPool.chan 11).promotion 1535 = some (wit12, false) ∧ teWaitEn wit12.w = false ∧ tePool wit12.w = true ∧ wit12.claims.head? = some (4095, 7)) := by
  repeat' (first | with_reducible apply And.intro | (delta State.LanRuns Channel.SeqsElsewhere Lantern.claims State.Runs))
  all_goals
    first | with_reducible exact stCycle_stalled | with_reducible exact calLan_rep0 | decide +kernel | (refine next_stateOf ?_; decide +kernel) | exact List.getElem_mem _ | exact ⟨_, rfl, by decide +kernel⟩ | (intro _ _; simp; done) | (intro _; rfl) | (intro _ h; cases h; done) | (intro _ _ h; cases h; done) | exact ⟨by decide +kernel, by decide +kernel, by decide +kernel, ⟨99, by decide +kernel, by decide +kernel⟩⟩ | exact ⟨10, by decide +kernel, ⟨11, by decide +kernel, by decide +kernel⟩, by decide +kernel⟩ | rfl | exact ⟨99, by decide +kernel, by decide +kernel⟩ | (simp; done) | (intro d hd; obtain ⟨h1, h2⟩ := hd; revert d; decide +kernel) | (constructor <;> decide +kernel)

theorem witness_TasksRunThroughTheQueue_2 :
    (stPush.LanRuns 11 1535 ∧ stPush.CanReach Requester.host 11 ∧ stPush.Allows Requester.host F.LN_TQ_CTRL_SQUASH) ∧
    (stPush.LanRuns 11 1535 ∧ stPush.CanReach Requester.host 11 ∧ stPush.Allows Requester.host F.LN_TQ_PUSH_HI_ENTRY ∧ (stPush.chan 11).CanRecord ((stPush.chan 11).lanUnit 1535) ∧ teInvalid (((stPush.chan 11).lan 1535).pushed 0) = false ∧ ((stPush.chan 11).lan 1535).tq.entries.length < 64) ∧
    (stPush.LanRuns 11 1535 ∧ stPush.CanReach Requester.host 11 ∧ stPush.Allows Requester.host F.LN_TQ_PUSH_HI_ENTRY ∧ (stPush.chan 11).CanRecord ((stPush.chan 11).lanUnit 1535) ∧ teInvalid (((stPush.chan 11).lan 1535).pushed 32) = true) ∧
    (stPushFull.LanRuns 11 1535 ∧ stPushFull.CanReach Requester.host 11 ∧ stPushFull.Allows Requester.host F.LN_TQ_PUSH_HI_ENTRY ∧ (stPushFull.chan 11).CanRecord ((stPushFull.chan 11).lanUnit 1535) ∧ teInvalid (((stPushFull.chan 11).lan 1535).pushed 0) = false ∧ 64 ≤ ((stPushFull.chan 11).lan 1535).tq.entries.length) ∧
    (stSquash.LanRuns 11 1535 ∧ ((stSquash.chan 11).lan 1535).halted = false ∧ ((stSquash.chan 11).lan 1535).tq.nextPromote ≤ (stSquash.chan 11).cyc ∧ (stSquash.chan 11).promotion 1535 = some (({ num := 1, w := e1 } : TqEntry), true) ∧ teWaitEn ({ num := 1, w := e1 } : TqEntry).w = false ∧ tePool ({ num := 1, w := e1 } : TqEntry).w = false) ∧
    (stSquash.LanRuns 11 1535 ∧ ((stSquash.chan 11).lan 1535).halted = false ∧ ((stSquash.chan 11).lan 1535).tq.nextPromote ≤ (stSquash.chan 11).cyc ∧ (stSquash.chan 11).promotion 1535 = some (({ num := 1, w := e1 } : TqEntry), true) ∧ true = true) := by
  repeat' (first | with_reducible apply And.intro | (delta State.Allows State.CanReach State.LanRuns State.Runs))
  all_goals
    first | decide +kernel | (refine next_stateOf ?_; decide +kernel) | exact ⟨_, rfl, by decide +kernel⟩ | (constructor <;> decide +kernel)

theorem witness_WorkCountersAndStealing_1 :
    (stAnswer0.LanRuns 11 1535 ∧ 15 < 16 ∧ (((stAnswer0.chan 11).lan 1535).wc 15).thief.answer = some (none, 1534) ∧ (((stAnswer0.chan 11).lan 1535).victims 15).length ≤ (((stAnswer0.chan 11).lan 1535).wc 15).thief.asked + 1) ∧
    (stAnswer1.LanRuns 11 1535 ∧ 15 < 16 ∧ (((stAnswer1.chan 11).lan 1535).wc 15).thief.answer = some ((some 9 : Option Nat), 1534) ∧ (some 9 : Option Nat) = some 9 ∧ (((stAnswer1.chan 11).lan 1535).poolEntry 15).isSome = true ∧ ((stAnswer1.chan 11).lan 1535).r F.LN_WC_CFG_FEED_EN 15 = 1) ∧
    (stAnswer1.LanRuns 11 1535 ∧ 15 < 16 ∧ (((stAnswer1.chan 11).lan 1535).wc 15).thief.answer = some ((some 9 : Option Nat), 1534) ∧ (some 9 : Option Nat) = some 9 ∧ (((stAnswer1.chan 11).lan 1535).poolEntry 15).isSome = true ∧ ((stAnswer1.chan 11).lan 1535).r F.LN_WC_CFG_OUT_EN 15 = 1) ∧
    (stAnswer1.LanRuns 11 1535 ∧ 15 < 16 ∧ (((stAnswer1.chan 11).lan 1535).wc 15).thief.answer = some ((some 9 : Option Nat), 1534) ∧ (some 9 : Option Nat) = some 9 ∧ ((stAnswer1.chan 11).lan 1535).poolEntry 15 = some pool0) ∧
    (stArm.LanRuns 11 1535 ∧ 15 < 16 ∧ 0 < 2 ^ 13 ∧ 4096 < 2 ^ 13 ∧ stArm.CanReach Requester.host 11 ∧ stArm.Allows Requester.host F.LN_WC_ARM_HEAD ∧ ((stArm.chan 11).lan 1535).r F.LN_WC_STAT_FIN 15 = 1 ∧ ((stArm.chan 11).lan 1535).poolEntry 15 = none ∧ 0 ≤ 4096 ∧ 4096 - 0 ≤ 4096) ∧
    (stArm.LanRuns 11 1535 ∧ 15 < 16 ∧ 0 < 2 ^ 13 ∧ 8191 < 2 ^ 13 ∧ stArm.CanReach Requester.host 11 ∧ stArm.Allows Requester.host F.LN_WC_ARM_HEAD ∧ (((stArm.chan 11).lan 1535).r F.LN_WC_STAT_FIN 15 ≠ 1 ∨ 8191 < 0 ∨ 4096 < 8191 - 0)) ∧
    (stBackoff.LanRuns 11 1535 ∧ 15 < 16 ∧ (((stBackoff.chan 11).lan 1535).wc 15).thief.backoff = some 100 ∧ 100 ≤ (stBackoff.chan 11).cyc) ∧
    (stClaim.LanRuns 11 1535 ∧ 15 < 16 ∧ (stClaim.chan 11).mayClaim 1535 15 = true ∧ (((stClaim.chan 11).lan 1535).wc 15).replays = [] ∧ (((stClaim.chan 11).lan 1535).poolEntry 15).isSome = true ∧ ((stClaim.chan 11).lan 1535).r F.LN_WC_CFG_FEED_EN 15 = 1) := by
  repeat' (first | with_reducible apply And.intro | (delta State.Allows State.CanReach State.LanRuns State.Runs))
  all_goals
    first | decide +kernel | (refine next_stateOf ?_; decide +kernel) | exact ⟨_, rfl, by decide +kernel⟩ | (constructor <;> decide +kernel)

theorem witness_WorkCountersAndStealing_2 :
    (stClaim.LanRuns 11 1535 ∧ 15 < 16 ∧ (stClaim.chan 11).mayClaim 1535 15 = true ∧ (((stClaim.chan 11).lan 1535).wc 15).replays = [] ∧ (((stClaim.chan 11).lan 1535).poolEntry 15).isSome = true ∧ ((stClaim.chan 11).lan 1535).r F.LN_WC_CFG_OUT_EN 15 = 1) ∧
    (stClaim.LanRuns 11 1535 ∧ 15 < 16 ∧ (stClaim.chan 11).mayClaim 1535 15 = true ∧ (((stClaim.chan 11).lan 1535).wc 15).replays = [] ∧ ((stClaim.chan 11).lan 1535).poolEntry 15 = some pool0) ∧
    (stClaim.LanRuns 11 1535 ∧ 15 < 16 ∧ 9 < 2 ^ 13 ∧ stClaim.CanReach Requester.host 11 ∧ stClaim.Allows Requester.host F.LN_WC_REPLAY_INDEX ∧ ((stClaim.chan 11).lan 1535).r F.LN_WC_BASE_BASE 15 ≤ 9 ∧ 9 < ((stClaim.chan 11).lan 1535).r F.LN_WC_BASE_BASE 15 + ((stClaim.chan 11).lan 1535).r F.LN_WC_BASE_COUNT 15 ∧ isSet (((stClaim.chan 11).lan 1535).wc 15).bitmap (9 - ((stClaim.chan 11).lan 1535).r F.LN_WC_BASE_BASE 15) = false ∧ (((stClaim.chan 11).lan 1535).wc 15).replays.length < 4) ∧
    (stClaimRep.LanRuns 11 1535 ∧ 15 < 16 ∧ (stClaimRep.chan 11).mayClaim 1535 15 = true ∧ (((stClaimRep.chan 11).lan 1535).wc 15).replays = 9 :: ([10] : List Nat) ∧ (((stClaimRep.chan 11).lan 1535).poolEntry 15).isSome = true ∧ ((stClaimRep.chan 11).lan 1535).r F.LN_WC_CFG_FEED_EN 15 = 1) ∧
    (stClaimRep.LanRuns 11 1535 ∧ 15 < 16 ∧ (stClaimRep.chan 11).mayClaim 1535 15 = true ∧ (((stClaimRep.chan 11).lan 1535).wc 15).replays = 9 :: ([10] : List Nat) ∧ (((stClaimRep.chan 11).lan 1535).poolEntry 15).isSome = true ∧ ((stClaimRep.chan 11).lan 1535).r F.LN_WC_CFG_OUT_EN 15 = 1) ∧
    (stClaimRep.LanRuns 11 1535 ∧ 15 < 16 ∧ (stClaimRep.chan 11).mayClaim 1535 15 = true ∧ (((stClaimRep.chan 11).lan 1535).wc 15).replays = 9 :: ([10] : List Nat) ∧ ((stClaimRep.chan 11).lan 1535).poolEntry 15 = some pool0) ∧
    (stIdxDup.LanRuns 11 1535 ∧ 15 < 16 ∧ ((stIdxDup.chan 11).lan 1535).tq.sent = (1535, 15, 11) :: (([] : List (Nat × Nat × Nat)) : List (Nat × Nat × Nat)) ∧ (stIdxDup.chan 11).SeqsElsewhere 1535 ∧ ((stIdxDup.chan 11).lan 1535).r F.LN_WC_BASE_BASE 15 ≤ 11 ∧ isSet (((stIdxDup.chan 11).lan 1535).wc 15).bitmap (11 - ((stIdxDup.chan 11).lan 1535).r F.LN_WC_BASE_BASE 15) = true) ∧
    (stIdxOwn.LanRuns 11 1535 ∧ 15 < 16 ∧ ((stIdxOwn.chan 11).lan 1535).tq.sent = (1535, 15, 11) :: (([] : List (Nat × Nat × Nat)) : List (Nat × Nat × Nat)) ∧ (stIdxOwn.chan 11).SeqsElsewhere 1535 ∧ ((stIdxOwn.chan 11).lan 1535).r F.LN_WC_BASE_BASE 15 ≤ 11 ∧ 11 < ((stIdxOwn.chan 11).lan 1535).r F.LN_WC_BASE_BASE 15 + ((stIdxOwn.chan 11).lan 1535).r F.LN_WC_BASE_COUNT 15 ∧ isSet (((stIdxOwn.chan 11).lan 1535).wc 15).bitmap (11 - ((stIdxOwn.chan 11).lan 1535).r F.LN_WC_BASE_BASE 15) = false ∧ ((stIdxOwn.chan 11).lan 1535).r F.LN_WC_STAT_DONE 15 + 1 = ((stIdxOwn.chan 11).lan 1535).r F.LN_WC_BASE_COUNT 15) := by
  repeat' (first | with_reducible apply And.intro | (delta State.Allows State.CanReach State.LanRuns Channel.SeqsElsewhere State.Runs))
  all_goals
    first | with_reducible exact stCycle_stalled | with_reducible exact calLan_rep0 | decide +kernel | (refine next_stateOf ?_; decide +kernel) | exact List.getElem_mem _ | exact ⟨_, rfl, by decide +kernel⟩ | (intro _ _; simp; done) | (intro _; rfl) | (intro _ h; cases h; done) | (intro _ _ h; cases h; done) | exact ⟨by decide +kernel, by decide +kernel, by decide +kernel, ⟨99, by decide +kernel, by decide +kernel⟩⟩ | exact ⟨10, by decide +kernel, ⟨11, by decide +kernel, by decide +kernel⟩, by decide +kernel⟩ | rfl | exact ⟨99, by decide +kernel, by decide +kernel⟩ | (simp; done) | (intro d hd; obtain ⟨h1, h2⟩ := hd; revert d; decide +kernel) | (constructor <;> decide +kernel)

theorem witness_WorkCountersAndStealing_3 :
    (stIdxOwn.LanRuns 11 1535 ∧ 15 < 16 ∧ ((stIdxOwn.chan 11).lan 1535).tq.sent = (1535, 15, 11) :: (([] : List (Nat × Nat × Nat)) : List (Nat × Nat × Nat)) ∧ (stIdxOwn.chan 11).SeqsElsewhere 1535 ∧ 1535 = 1535) ∧
    (stReplay4.LanRuns 11 1535 ∧ 15 < 16 ∧ 9 < 2 ^ 13 ∧ stReplay4.CanReach Requester.host 11 ∧ stReplay4.Allows Requester.host F.LN_WC_REPLAY_INDEX ∧ ((stReplay4.chan 11).lan 1535).r F.LN_WC_BASE_BASE 15 ≤ 9 ∧ 9 < ((stReplay4.chan 11).lan 1535).r F.LN_WC_BASE_BASE 15 + ((stReplay4.chan 11).lan 1535).r F.LN_WC_BASE_COUNT 15 ∧ isSet (((stReplay4.chan 11).lan 1535).wc 15).bitmap (9 - ((stReplay4.chan 11).lan 1535).r F.LN_WC_BASE_BASE 15) = false ∧ 4 ≤ (((stReplay4.chan 11).lan 1535).wc 15).replays.length) ∧
    (stServe.LanRuns 11 1535 ∧ 15 < 16 ∧ ((stServe.chan 11).lan 1535).tq.steals = stl :: ([] : List Steal) ∧ ((stServe.chan 11).lan 1535).tq.nextSteal ≤ (stServe.chan 11).cyc ∧ (∀ (m : Nat), m < 16 → (stServe.chan 11).mayClaim 1535 m = false) ∧ ((stServe.chan 11).lan 1535).r F.LN_WC_RANGE_HEAD stl.w ≠ ((stServe.chan 11).lan 1535).r F.LN_WC_RANGE_TAIL stl.w) ∧
    (stServe0.LanRuns 11 1535 ∧ 15 < 16 ∧ ((stServe0.chan 11).lan 1535).tq.steals = stl :: ([] : List Steal) ∧ ((stServe0.chan 11).lan 1535).tq.nextSteal ≤ (stServe0.chan 11).cyc ∧ (∀ (m : Nat), m < 16 → (stServe0.chan 11).mayClaim 1535 m = false) ∧ ((stServe0.chan 11).lan 1535).r F.LN_WC_RANGE_HEAD stl.w = ((stServe0.chan 11).lan 1535).r F.LN_WC_RANGE_TAIL stl.w) ∧
    (stSteal.LanRuns 11 1535 ∧ 15 < 16 ∧ (stSteal.chan 11).maySteal 1535 15 = true ∧ ((stSteal.chan 11).lan 1535).victims 15 = 7 :: ([] : List Nat) ∧ (((stSteal.chan 11).lan 1535).wc 15).thief.since = some 84 ∧ 84 + ((stSteal.chan 11).lan 1535).eff F.LN_STEAL_CFG_WAIT ≤ (stSteal.chan 11).cyc ∧ (((stSteal.chan 11).lan 1535).wc 15).thief.waiting = false ∧ (((stSteal.chan 11).lan 1535).wc 15).thief.backoff = none ∧ ((stSteal.chan 11).lan wit13).tq.steals.length < 8) ∧
    (stSteal8.LanRuns 11 1535 ∧ 15 < 16 ∧ (stSteal8.chan 11).maySteal 1535 15 = true ∧ ((stSteal8.chan 11).lan 1535).victims 15 = 7 :: ([] : List Nat) ∧ (((stSteal8.chan 11).lan 1535).wc 15).thief.since = some 84 ∧ 84 + ((stSteal8.chan 11).lan 1535).eff F.LN_STEAL_CFG_WAIT ≤ (stSteal8.chan 11).cyc ∧ (((stSteal8.chan 11).lan 1535).wc 15).thief.waiting = false ∧ (((stSteal8.chan 11).lan 1535).wc 15).thief.backoff = none ∧ 8 ≤ ((stSteal8.chan 11).lan wit14).tq.steals.length) := by
  repeat' (first | with_reducible apply And.intro | (delta State.Allows State.CanReach State.LanRuns Channel.SeqsElsewhere State.Runs))
  all_goals
    first | with_reducible exact stCycle_stalled | with_reducible exact calLan_rep0 | decide +kernel | (refine next_stateOf ?_; decide +kernel) | exact List.getElem_mem _ | exact ⟨_, rfl, by decide +kernel⟩ | (intro _ _; simp; done) | (intro _; rfl) | (intro _ h; cases h; done) | (intro _ _ h; cases h; done) | exact ⟨by decide +kernel, by decide +kernel, by decide +kernel, ⟨99, by decide +kernel, by decide +kernel⟩⟩ | exact ⟨10, by decide +kernel, ⟨11, by decide +kernel, by decide +kernel⟩, by decide +kernel⟩ | rfl | exact ⟨99, by decide +kernel, by decide +kernel⟩ | (simp; done) | (intro d hd; obtain ⟨h1, h2⟩ := hd; revert d; decide +kernel) | (constructor <;> decide +kernel)

theorem witness_TheTimebaseTicks_1 :
    (tbAlarmed.Up ∧ tbAlarmed.mod.r F.TB_STAT_HOLDOVER = 1 ∧ tbAlarmed.mod.tb.rang = false ∧ tbAlarmed.mod.r F.TB_CFG_MISS_ALARM ≤ tbAlarmed.mod.r F.TB_STAT_MISS_RUN ∧ tbAlarmed.mod.tb.alarmed = true) ∧
    (tbFree.Up ∧ tbFree.mod.r F.TB_STAT_EN = 1 ∧ tbFree.mod.r F.TB_CFG_FREERUN = 1 ∧ tbFree.mod.tb.tickAt = none ∧ tbFree.mod.tb.now ≤ 500000000 ∧ tbFree.mod.tb.enAt + 1000 * tbFree.mod.r F.TB_PERIOD_P ≤ 500000000) ∧
    (tbGood.Up ∧ tbGood.mod.r F.TB_STAT_HOLDOVER = 1 ∧ tbGood.mod.r F.TB_CFG_RELOCK ≤ tbGood.mod.tb.good) ∧
    (tbHold.Up ∧ tbHold.mod.r F.TB_STAT_HOLDOVER = 1 ∧ tbHold.mod.tb.rang = false ∧ tbHold.mod.r F.TB_CFG_MISS_ALARM ≤ tbHold.mod.r F.TB_STAT_MISS_RUN ∧ tbHold.mod.tb.alarmed = false ∧ tbHold.mod.r F.ERR_MOD_STATUS_ENTRIES < 64 ∧ (∀ (p : PendRec), p ∈ tbHold.mod.pend → p.unit ≠ tbUnit)) ∧
    (tbLocked.Up ∧ tbLocked.mod.r F.TB_CFG_SRC ≠ 1 ∧ tbLocked.mod.tb.now ≤ 100000 ∧ tbLocked.mod.r F.TB_STAT_EN = 1 ∧ tbLocked.mod.tb.tickAt = some 1600000 ∧ tbLocked.mod.r F.TB_STAT_LOCKED ≠ 0 ∧ tbLocked.mod.phaseOf 1600000 100000 + tbLocked.mod.r F.TB_CFG_WIN < 1024) ∧
    (tbLocking.Up ∧ tbLocking.mod.r F.TB_CFG_SRC ≠ 1 ∧ tbLocking.mod.tb.now ≤ 131250 ∧ tbLocking.mod.r F.TB_STAT_EN = 1 ∧ tbLocking.mod.tb.tickAt = none) ∧
    (tbLocking.Up ∧ tbLocking.mod.tb.tickAt = none ∧ tbLocking.mod.tb.last = some 131250 ∧ tbLocking.mod.r F.TB_STAT_EN = 1 ∧ tbLocking.mod.r F.TB_CFG_RELOCK ≤ tbLocking.mod.tb.good) ∧
    (tbOff.Up ∧ tbOff.mod.r F.TB_CFG_SRC ≠ 1 ∧ tbOff.mod.tb.now ≤ 100000 ∧ tbOff.mod.r F.TB_STAT_EN = 0) := by
  repeat' (first | with_reducible apply And.intro | (delta State.Up))
  all_goals
    first | decide +kernel | (refine next_stateOf ?_; decide +kernel) | exact ⟨_, rfl, by decide +kernel⟩ | (constructor <;> decide +kernel)

theorem witness_TheTimebaseTicks_2 :
    (tbTick.Up ∧ tbTick.mod.r F.TB_CFG_SRC ≠ 1 ∧ tbTick.mod.tb.now ≤ 100000 ∧ tbTick.mod.r F.TB_STAT_EN = 1 ∧ tbTick.mod.tb.tickAt = some 1600000 ∧ tbTick.mod.r F.TB_STAT_LOCKED = 0 ∧ tbTick.mod.intervalOk 100000 = false ∧ tbTick.mod.phaseOf 1600000 100000 < 1024 + tbTick.mod.r F.TB_CFG_WIN) ∧
    (tbTick.Up ∧ tbTick.mod.r F.TB_CFG_SRC ≠ 1 ∧ tbTick.mod.tb.now ≤ 131250 ∧ tbTick.mod.r F.TB_STAT_EN = 1 ∧ tbTick.mod.tb.tickAt = some 1600000 ∧ (if tbTick.mod.r F.TB_STAT_LOCKED = 0 then tbTick.mod.intervalOk 131250 = true else 1024 ≤ tbTick.mod.phaseOf 1600000 131250 + tbTick.mod.r F.TB_CFG_WIN) ∧ tbTick.mod.phaseOf 1600000 131250 < 1024 + tbTick.mod.r F.TB_CFG_WIN) ∧
    (tbTick.Up ∧ tbTick.mod.tb.tickAt = some 1600000) := by
  repeat' (first | with_reducible apply And.intro | (delta State.Up))
  all_goals
    first | decide +kernel | (refine next_stateOf ?_; decide +kernel) | exact ⟨_, rfl, by decide +kernel⟩ | (constructor <;> decide +kernel)

theorem witness_ChannelTicksAndContexts :
    (ctxAt3.Runs 11 ∧ 1023 < 1024 ∧ (ctxAt3.chan 11).r F.CTX_LOCK_OWNER 1023 ≠ 0 ∧ (ctxAt3.chan 11).r F.CTX_LOCK_LEASE_END 1023 = (ctxAt3.chan 11).tick ∧ (ctxAt3.chan 11).eff F.CH_CTX_CFG_AUTO_REVAL = 0 ∧ (ctxAt3.chan 11).CanRecord (unitWord (ctxAt3.chan 11).no 7 0 0 0)) ∧
    (stDueMsg.Runs 11 ∧ ((stDueMsg.chan 11).r F.CH_INFO_A0_UP = 1 ∨ (stDueMsg.chan 11).r F.CH_INFO_A1_UP = 1) ∧ 11 ∈ stDueMsg.mod.tb.due) ∧
    (stLateTick.Runs 11 ∧ (stLateTick.chan 11).ctx.ticking = true ∧ (stLateTick.chan 11).ctx.msg = none ∧ 1024 + stLateTick.mod.r F.TB_CFG_WIN ≤ (stLateTick.chan 11).tickPhase ∧ ((stLateTick.chan 11).tick + 1) % 2 ^ 48 % (stLateTick.chan 11).r F.CH_CHAR_PERIOD ≠ (stLateTick.chan 11).r F.CH_CHAR_PHASE ∧ (stLateTick.chan 11).r F.CH_INFO_FWD_ONLY = 1) ∧
    (stMsg.Runs 11) ∧
    (stTick.Runs 11 ∧ (stTick.chan 11).ctx.msg = some (159, 0) ∧ 159 < 2 ^ 48 ∧ (stTick.chan 11).ctx.held = [] ∧ 159 % (stTick.chan 11).r F.CH_CHAR_PERIOD ≠ (stTick.chan 11).r F.CH_CHAR_PHASE ∧ (stTick.chan 11).r F.CH_INFO_FWD_ONLY = 1 ∧ (stTick.chan 11).ctx.known = [1023] ∧ 1023 < 1024 ∧ (stTick.chan 11).r F.CTX_STATE_STATE 1023 = 1 ∧ 159 % ((stTick.chan 11).r F.CTX_CHAR_PERIOD 1023 + 1) = (stTick.chan 11).r F.CTX_CHAR_PHASE 1023 ∧ (stTick.chan 11).r F.CTX_LOCK_OWNER 1023 = 0 ∧ (stTick.chan 11).r F.CTX_STATE_BROKEN 1023 = 0 ∧ (stTick.chan 11).r F.CTX_STATE_HOLD_PEND 1023 = 0 ∧ (stTick.chan 11).r F.CTX_STATE_FREE_PEND 1023 = 0 ∧ (stTick.chan 11).r F.CTX_STATE_EARLY 1023 = 0 ∧ (stTick.chan 11).r F.CTX_CHAR_INMODE 1023 = 0 ∧ (stTick.chan 11).r F.CTX_STATE_PEND_B 1023 = 0 ∧ (∀ (f : Fld), f ∈ ctxLatched → (stTick.chan 11).regs.shadow.find (f.key 1023) = none)) ∧
    (stTick.Runs 11 ∧ 1023 < 1024 ∧ (stTick.chan 11).r F.CTX_STATE_DEBT 1023 ≠ 0 ∧ (stTick.chan 11).eff F.CH_CTX_CFG_DEBT_ALARM ≤ (stTick.chan 11).r F.CTX_STATE_DEBT 1023 ∧ (stTick.chan 11).ctx.alarmed.contains 1023 = false ∧ (stTick.chan 11).CanRecord (unitWord (stTick.chan 11).no 7 0 0 0)) := by
  repeat' (first | with_reducible apply And.intro | (delta State.Runs))
  all_goals
    first | decide +kernel | (refine next_stateOf ?_; decide +kernel) | exact ⟨_, rfl, by decide +kernel⟩ | (constructor <;> decide +kernel)

theorem witness_ContextCommands_1 :
    (ctxAt0.Runs 11 ∧ ctxAt0.CanReach Requester.host 11 ∧ 1023 < 1024 ∧ 0 < 2 ^ 16 ∧ 65535 < 2 ^ 16 ∧ 254 < 256 ∧ Instr.ctxArm Requester.host 11 1023 0 254 ∈ [Instr.ctxArm Requester.host 11 1023 0 254, Instr.ctxHold Requester.host 11 1023 0, Instr.ctxUnhold Requester.host 11 1023 0, Instr.ctxFree Requester.host 11 1023 0, Instr.ctxClearDebt Requester.host 11 1023 0, Instr.ctxRenew Requester.host 11 1023 0 65535, Instr.ctxRelease Requester.host 11 1023 0, Instr.ctxRevalidate Requester.host 11 1023 0] ∧ (0 = 0 ∨ (ctxAt0.chan 11).r F.CTX_LOCK_OWNER 1023 ≠ 0)) ∧
    (ctxAt0.Runs 11 ∧ ctxAt0.CanReach Requester.host 11 ∧ 1023 < 1024 ∧ 7 < 2 ^ 16 ∧ 65535 < 2 ^ 16 ∧ 254 < 256 ∧ 7 ≠ 0 ∧ (ctxAt0.chan 11).r F.CTX_LOCK_OWNER 1023 = 7 ∧ (ctxAt0.chan 11).r F.CTX_STATE_BROKEN 1023 = 1) ∧
    (ctxAt0.Runs 11 ∧ ctxAt0.CanReach Requester.host 11 ∧ 1023 < 1024 ∧ 7 < 2 ^ 16 ∧ 65535 < 2 ^ 16 ∧ 254 < 256 ∧ 7 ≠ 0 ∧ (ctxAt0.chan 11).r F.CTX_LOCK_OWNER 1023 = 7 ∧ (ctxAt0.chan 11).r F.CTX_STATE_STATE 1023 = 0 ∧ 254 ≠ 255 ∧ (ctxAt0.chan 11).ctx.templates.find 254 = some ((79 + 79 * 2 ^ 24 + 4 * 2 ^ 36, 11 * 2 ^ 36 + 2 ^ 36 - 64) : Nat × Nat) ∧ (ctxAt0.chan 11).ctx.run = true ∧ ((((ctxAt0.chan 11).ctxWords 1023 ((79 + 79 * 2 ^ 24 + 4 * 2 ^ 36, 11 * 2 ^ 36 + 2 ^ 36 - 64) : Nat × Nat).fst ((79 + 79 * 2 ^ 24 + 4 * 2 ^ 36, 11 * 2 ^ 36 + 2 ^ 36 - 64) : Nat × Nat).snd).recordValid fun x => ((ctxAt0.chan 11).ctxWords 1023 ((79 + 79 * 2 ^ 24 + 4 * 2 ^ 36, 11 * 2 ^ 36 + 2 ^ 36 - 64) : Nat × Nat).fst ((79 + 79 * 2 ^ 24 + 4 * 2 ^ 36, 11 * 2 ^ 36 + 2 ^ 36 - 64) : Nat × Nat).snd).r x 1023) = true)) ∧
    (ctxAt0.Runs 11 ∧ ctxAt0.CanReach Requester.host 11 ∧ 1023 < 1024 ∧ 7 < 2 ^ 16 ∧ 65535 < 2 ^ 16 ∧ 254 < 256 ∧ 7 ≠ 0 ∧ (ctxAt0.chan 11).r F.CTX_LOCK_OWNER 1023 = 7 ∧ 65535 ≠ 0) ∧
    (ctxAt1.Runs 11 ∧ ctxAt1.CanReach Requester.host 11 ∧ 1023 < 1024 ∧ 7 < 2 ^ 16 ∧ 65535 < 2 ^ 16 ∧ 254 < 256 ∧ (ctxAt1.chan 11).r F.CTX_STATE_STATE 1023 ≠ 0 ∧ (ctxAt1.chan 11).r F.CTX_STATE_STATE 1023 ≠ 5 ∧ (ctxAt1.chan 11).r F.CTX_STATE_IN_CNT 1023 + 254 < 256) ∧
    (ctxAt1.Runs 11 ∧ ctxAt1.CanReach Requester.host 11 ∧ 1023 < 1024 ∧ 7 < 2 ^ 16 ∧ 65535 < 2 ^ 16 ∧ 254 < 256 ∧ 7 ≠ 0 ∧ (ctxAt1.chan 11).r F.CTX_LOCK_OWNER 1023 = 7 ∧ ((ctxAt1.chan 11).r F.CTX_STATE_STATE 1023 = 1 ∨ (ctxAt1.chan 11).r F.CTX_STATE_STATE 1023 = 2 ∨ (ctxAt1.chan 11).r F.CTX_STATE_STATE 1023 = 5)) ∧
    (ctxAt1.Runs 11 ∧ ctxAt1.CanReach Requester.host 11 ∧ 1023 < 1024 ∧ 7 < 2 ^ 16 ∧ 65535 < 2 ^ 16 ∧ 254 < 256 ∧ 7 ≠ 0 ∧ (ctxAt1.chan 11).r F.CTX_LOCK_OWNER 1023 = 7 ∧ ((ctxAt1.chan 11).r F.CTX_STATE_STATE 1023 = 1 ∨ (ctxAt1.chan 11).r F.CTX_STATE_STATE 1023 = 2)) ∧
    (ctxAt3.Runs 11 ∧ ctxAt3.CanReach Requester.host 11 ∧ 1023 < 1024 ∧ 7 < 2 ^ 16 ∧ 65535 < 2 ^ 16 ∧ 254 < 256 ∧ 7 ≠ 0 ∧ (ctxAt3.chan 11).r F.CTX_LOCK_OWNER 1023 = 7 ∧ ((ctxAt3.chan 11).r F.CTX_STATE_STATE 1023 = 3 ∨ (ctxAt3.chan 11).r F.CTX_STATE_STATE 1023 = 4)) := by
  repeat' (first | with_reducible apply And.intro | (delta State.CanReach State.Runs))
  all_goals
    first | decide +kernel | (refine next_stateOf ?_; decide +kernel) | exact ⟨_, rfl, by decide +kernel⟩ | (constructor <;> decide +kernel)

theorem witness_ContextCommands_2 :
    (ctxAt5.Runs 11 ∧ ctxAt5.CanReach Requester.host 11 ∧ 1023 < 1024 ∧ 7 < 2 ^ 16 ∧ 65535 < 2 ^ 16 ∧ 254 < 256 ∧ 7 ≠ 0 ∧ (ctxAt5.chan 11).r F.CTX_LOCK_OWNER 1023 = 7 ∧ (ctxAt5.chan 11).r F.CTX_STATE_STATE 1023 = 5) ∧
    (ctxOpen.Runs 11 ∧ ctxOpen.CanReach Requester.host 11 ∧ 1023 < 1024 ∧ 7 < 2 ^ 16 ∧ 65535 < 2 ^ 16 ∧ 254 < 256 ∧ (ctxOpen.chan 11).r F.CTX_LOCK_OWNER 1023 = 0 ∧ 7 ≠ 0 ∧ 65535 ≠ 0) := by
  repeat' (first | with_reducible apply And.intro | (delta State.CanReach State.Runs))
  all_goals
    first | decide +kernel | (refine next_stateOf ?_; decide +kernel) | exact ⟨_, rfl, by decide +kernel⟩ | (constructor <;> decide +kernel)

theorem witness_MemoryControllerServes_1 :
    (stEarly.Runs 11 ∧ 63 < 64 ∧ 35 < 36 ∧ pinEarly = (stEarly.chan 11).hbm.pins.getD (36 * 63 + 35) { } ∧ (stEarly.chan 11).eff F.HM_RETRAIN_CFG_EN = 1 ∧ pinEarly.since + 2 ^ (stEarly.chan 11).eff F.HM_RETRAIN_CFG_WIN_LOG2 ≤ ((stEarly.chan 11).hbm.port 63).used ∧ pinEarly.late + (stEarly.chan 11).eff F.HM_RETRAIN_CFG_THRESH ≤ pinEarly.early ∧ pinEarly.late < pinEarly.early) ∧
    (stGateRd.Runs 11 ∧ 63 < 64 ∧ 1 < 3 ∧ gateSplit 1 (stGateRd.chan 11).hbm.gate = some (([] : List HReq), wr252, ([rd252] : List HReq)) ∧ (∀ (q : HReq), q ∈ ([] : List HReq) → ¬(q.src = wr252.src ∧ q.line = wr252.line)) ∧ (((stGateRd.chan 11).hbm.port (hbmPc wr252.line)).queue 1).length < 16 ∧ ((stGateRd.chan 11).hbm.inBudget 1 = true ∨ (stGateRd.chan 11).mayBorrow = true) ∧ (∀ (sid i : Nat), wr252.dst ≠ HDst.remote sid i) ∧ wr252.refusedIn = false) ∧
    (stGateWr.Runs 11 ∧ 63 < 64 ∧ 1 < 3 ∧ gateSplit 1 (stGateWr.chan 11).hbm.gate = some (([] : List HReq), wrProt, ([] : List HReq)) ∧ (∀ (q : HReq), q ∈ ([] : List HReq) → ¬(q.src = wrProt.src ∧ q.line = wrProt.line)) ∧ (((stGateWr.chan 11).hbm.port (hbmPc wrProt.line)).queue 1).length < 16 ∧ ((stGateWr.chan 11).hbm.inBudget 1 = true ∨ (stGateWr.chan 11).mayBorrow = true) ∧ (∀ (sid i : Nat), wrProt.dst ≠ HDst.remote sid i) ∧ wrProt.refusedIn = true) ∧
    (stHRead.Runs 11 ∧ 63 < 64 ∧ (stHRead.chan 11).hbm.FirstOf 63 0 rd252 ∧ rd252.wr = false ∧ rd252.dst = HDst.host 9 ∧ ((stHRead.chan 11).hbm.decode rd252.line []).fixed = some []) ∧
    (stHRead.Runs 11 ∧ 63 < 64 ∧ (stHRead.chan 11).hbm.FirstOf 63 0 rd252 ∧ rd252.wr = false ∧ rd252.dst = HDst.host 9 ∧ ((stHRead.chan 11).hbm.decode rd252.line ueErr).fixed = none ∧ (stHRead.chan 11).CanRecord ((stHRead.chan 11).pcUnit rd252.line)) ∧
    (stHRead.Runs 11 ∧ 63 < 64 ∧ 0 < ((stHRead.chan 11).hbm.port 63).owed ∧ (stHRead.chan 11).eff F.HM_REF_CFG_POSTPONE ≤ ((stHRead.chan 11).hbm.port 63).owed) ∧
    (stHWrite.Runs 11 ∧ 63 < 64 ∧ (stHWrite.chan 11).hbm.FirstOf 63 0 wr252 ∧ wr252.wr = true ∧ wr252.full = false ∧ Memory.wf (stHWrite.chan 11).hbm.mem = true ∧ wr252.mask.length = 64 ∧ wr252.data.length = 64 ∧ (∀ (x : HReq), x ∈ dropAt ((stHWrite.chan 11).hbm.port 63).cmd 0 → x.line ≠ wr252.line) ∧ ((stHWrite.chan 11).hbm.decode wr252.line []).fixed = some []) ∧
    (stLate.Runs 11 ∧ 63 < 64 ∧ 35 < 36 ∧ pinLate = (stLate.chan 11).hbm.pins.getD (36 * 63 + 35) { } ∧ (stLate.chan 11).eff F.HM_RETRAIN_CFG_EN = 1 ∧ pinLate.since + 2 ^ (stLate.chan 11).eff F.HM_RETRAIN_CFG_WIN_LOG2 ≤ ((stLate.chan 11).hbm.port 63).used ∧ pinLate.early + (stLate.chan 11).eff F.HM_RETRAIN_CFG_THRESH ≤ pinLate.late ∧ pinLate.early < pinLate.late) := by
  repeat' (first | with_reducible apply And.intro | (delta Hbm.FirstOf State.Runs))
  all_goals
    first | with_reducible exact stCycle_stalled | with_reducible exact calLan_rep0 | decide +kernel | (refine next_stateOf ?_; decide +kernel) | exact List.getElem_mem _ | exact ⟨_, rfl, by decide +kernel⟩ | (intro _ _; simp; done) | (intro _; rfl) | (intro _ h; cases h; done) | (intro _ _ h; cases h; done) | exact ⟨by decide +kernel, by decide +kernel, by decide +kernel, ⟨99, by decide +kernel, by decide +kernel⟩⟩ | exact ⟨10, by decide +kernel, ⟨11, by decide +kernel, by decide +kernel⟩, by decide +kernel⟩ | rfl | exact ⟨99, by decide +kernel, by decide +kernel⟩ | (simp; done) | (intro d hd; obtain ⟨h1, h2⟩ := hd; revert d; decide +kernel) | (constructor <;> decide +kernel)

theorem witness_MemoryControllerServes_2 :
    (stQuiet.Runs 11 ∧ 63 < 64 ∧ 252 < 2 ^ 30 ∧ (stQuiet.chan 11).eff F.HM_SCRUB_CFG_EN = 1 ∧ (∀ (k : Nat), k < 3 → ((stQuiet.chan 11).hbm.port (hbmPc 252)).queue k = []) ∧ ((stQuiet.chan 11).hbm.port (hbmPc 252)).owed = 0 ∧ (∀ (r : HReq), r ∈ ((stQuiet.chan 11).hbm.port (hbmPc 252)).cmd → r.line ≠ 252) ∧ (∀ (e : Nat × Bool), e ∈ (stQuiet.chan 11).hbm.dir → e.fst ≠ 252) ∧ ((stQuiet.chan 11).hbm.decode 252 ceErr).fixed = some (((71, 5) : Nat × Nat) :: (([] : List (Nat × Nat)) : List (Nat × Nat)))) ∧
    (stQuiet.Runs 11 ∧ 63 < 64 ∧ 252 < 2 ^ 30 ∧ (stQuiet.chan 11).eff F.HM_SCRUB_CFG_EN = 1 ∧ (∀ (k : Nat), k < 3 → ((stQuiet.chan 11).hbm.port (hbmPc 252)).queue k = []) ∧ ((stQuiet.chan 11).hbm.port (hbmPc 252)).owed = 0 ∧ (∀ (r : HReq), r ∈ ((stQuiet.chan 11).hbm.port (hbmPc 252)).cmd → r.line ≠ 252) ∧ (∀ (e : Nat × Bool), e ∈ (stQuiet.chan 11).hbm.dir → e.fst ≠ 252) ∧ ((stQuiet.chan 11).hbm.decode 252 ueErr).fixed = none ∧ (stQuiet.chan 11).CanRecord ((stQuiet.chan 11).pcUnit 252) ∧ (stQuiet.chan 11).hbm.poison.contains 252 = false) ∧
    (stQuiet.Runs 11 ∧ 63 < 64 ∧ 252 < 2 ^ 30 ∧ (stQuiet.chan 11).eff F.HM_SCRUB_CFG_EN = 1 ∧ (∀ (k : Nat), k < 3 → ((stQuiet.chan 11).hbm.port (hbmPc 252)).queue k = []) ∧ ((stQuiet.chan 11).hbm.port (hbmPc 252)).owed = 0 ∧ (∀ (r : HReq), r ∈ ((stQuiet.chan 11).hbm.port (hbmPc 252)).cmd → r.line ≠ 252) ∧ (∀ (e : Nat × Bool), e ∈ (stQuiet.chan 11).hbm.dir → e.fst ≠ 252) ∧ ((stQuiet.chan 11).hbm.decode 252 (([] : List (Nat × Nat)) : List (Nat × Nat))).fixed = some []) ∧
    (stWin.Runs 11 ∧ 63 < 64) := by
  repeat' (first | with_reducible apply And.intro | (delta State.Runs))
  all_goals
    first | decide +kernel | (refine next_stateOf ?_; decide +kernel) | exact ⟨_, rfl, by decide +kernel⟩ | (constructor <;> decide +kernel)

theorem witness_TranslationAndPageFaults :
    (stInv1.Runs 11 ∧ (stInv1.chan 11).hbm.invs = (some 98303 : Option Nat) :: (([] : List (Option Nat)) : List (Option Nat)) ∧ (∀ (x : Nat × Nat), x ∈ (stInv1.chan 11).hbm.invWait → ¬x.snd ∈ ((stInv1.chan 11).lan x.fst).td.unmade) ∧ (([] : List (Option Nat)) : List (Option Nat)) = []) ∧
    (stTmo.Runs 11 ∧ 98303 < 98304 ∧ (List.find? (fun f => f.page == 98303) (stTmo.chan 11).hbm.faults = some flt) ∧ flt.tick + (stTmo.chan 11).r F.HM_XLT_CFG_FAULT_TMO ≤ (stTmo.chan 11).tick ∧ ((stTmo.chan 11).haltedOn 98303 = [] ∨ (stTmo.chan 11).keepsStreams = false)) ∧
    (stTmoHalted.Runs 11 ∧ 98303 < 98304 ∧ (List.find? (fun f => f.page == 98303) (stTmoHalted.chan 11).hbm.faults = some flt) ∧ flt.tick + (stTmoHalted.chan 11).r F.HM_XLT_CFG_FAULT_TMO ≤ (stTmoHalted.chan 11).tick ∧ (stTmoHalted.chan 11).keepsStreams = true ∧ (stTmoHalted.chan 11).haltedOn 98303 = [(1535, 15)] ∧ 15 < 16 ∧ ((stTmoHalted.chan 11).lan 1535).issuedOf 15 = [] ∧ (stTmoHalted.chan 11).CanRecord ((stTmoHalted.chan 11).stmUnit 1535 15)) ∧
    (stWalk0.Runs 11 ∧ 98303 < 98304 ∧ (stWalk0.chan 11).hbm.walks.find 98303 = some { entry := some 4096, who := ([] : List Nat) } ∧ isSet 4096 0 = false) ∧
    (stWalkV.Runs 11 ∧ 98303 < 98304 ∧ (stWalkV.chan 11).hbm.walks.find 98303 = some { entry := some 4097, who := ([] : List Nat) } ∧ isSet 4097 0 = true) ∧
    (stWalkV.Runs 11 ∧ stWalkV.CanReach Requester.host 11 ∧ (stWalkV.chan 11).hbm.invs = [] ∧ 98303 < 2 ^ 17) := by
  repeat' (first | with_reducible apply And.intro | (delta State.CanReach State.Runs))
  all_goals
    first | decide +kernel | (refine next_stateOf ?_; decide +kernel) | exact ⟨_, rfl, by decide +kernel⟩ | (constructor <;> decide +kernel)

theorem witness_LinkTrainsAndKeepsItsLanes_1 :
    (stDue.Runs 11 ∧ 1 < 3 ∧ (stDue.chan 11).CanRecord ((stDue.chan 11).portUnit 1) ∧ (stDue.chan 11).lkState 1 = 5 ∧ ((stDue.chan 11).lport 1).due = true) ∧
    (stDue.Runs 11 ∧ 1 < 3 ∧ (stDue.chan 11).CanRecord ((stDue.chan 11).portUnit 1) ∧ (stDue.chan 11).lkState 1 = 5 ∧ stDue.CanReach Requester.host 11 ∧ stDue.Allows Requester.host F.LK_CTRL_RETRAIN) ∧
    (stLost.Runs 11 ∧ 1 < 3 ∧ (stLost.chan 11).CanRecord ((stLost.chan 11).portUnit 1) ∧ (stLost.chan 11).lkState 1 = 5 ∧ (∃ x, x ∈ ((stLost.chan 11).lport 1).missed ∧ 3 ≤ x.snd)) ∧
    (stMark.Runs 11 ∧ 1 < 3 ∧ 3 < 5 ∧ (stMark.chan 11).lkState 1 = 5 ∧ isSet ((stMark.chan 11).r F.LK_LANEMAP_RX_RETIRED 1) 3 = false ∧ (stMark.chan 11).rxSpare 1 = some 4) ∧
    (stMarkF.Runs 11 ∧ 1 < 3 ∧ 3 ≤ (stMarkF.chan 11).lkState 1 ∧ ((stMarkF.chan 11).lport 1).flits = true ∧ 4095 ≤ ((stMarkF.chan 11).lport 1).slot) ∧
    (stMarkRx2.Runs 11 ∧ 2 < 3 ∧ 3 ≤ (stMarkRx2.chan 11).lkState 2 ∧ ((stMarkRx2.chan 11).lport 2).rxInv = [] ∧ 12 < 2 ^ 32 ∧ stMarkRx2.arriving 11 2 5 marks = some (marks, stMarkRx2) ∧ (∀ (n : Nat), n < 5 → lgs n < 256 ∧ marks.getD n [] = markerBlock (lgs n) n 12 0) ∧ 3 < 5) ∧
    (stNoSpare.Runs 11 ∧ 1 < 3 ∧ 3 < 5 ∧ (stNoSpare.chan 11).lkState 1 = 5 ∧ isSet ((stNoSpare.chan 11).r F.LK_LANEMAP_RX_RETIRED 1) 3 = false ∧ (stNoSpare.chan 11).rxSpare 1 = none ∧ (stNoSpare.chan 11).eff F.LK_CFG_RETIRE_TH 1 ≤ ((stNoSpare.chan 11).lport 1).leaky.getD 3 0) ∧
    (stRecal.Runs 11 ∧ 1 < 3 ∧ 3 < 5 ∧ (stRecal.chan 11).lkState 1 = 5 ∧ isSet ((stRecal.chan 11).r F.LK_LANEMAP_RX_RETIRED 1) 3 = false ∧ (stRecal.chan 11).rxSpare 1 = some 4 ∧ (stRecal.chan 11).eff F.LK_CFG_RECAL_TH 1 ≤ ((stRecal.chan 11).lport 1).leaky.getD 3 0 ∧ ((stRecal.chan 11).lport 1).leaky.getD 3 0 < (stRecal.chan 11).eff F.LK_CFG_RETIRE_TH 1) := by
  repeat' (first | with_reducible apply And.intro | (delta State.Allows State.CanReach State.Runs))
  all_goals
    first | decide +kernel | (refine next_stateOf ?_; decide +kernel) | exact ⟨_, rfl, by decide +kernel⟩ | (constructor <;> decide +kernel)

theorem witness_LinkTrainsAndKeepsItsLanes_2 :
    (stRetLane.Runs 11 ∧ 1 < 3 ∧ 3 < 5 ∧ (stRetLane.chan 11).lkState 1 = 5 ∧ isSet ((stRetLane.chan 11).r F.LK_LANEMAP_RX_RETIRED 1) 3 = false ∧ (stRetLane.chan 11).rxSpare 1 = some 4 ∧ (stRetLane.chan 11).eff F.LK_CFG_RETIRE_TH 1 ≤ ((stRetLane.chan 11).lport 1).leaky.getD 3 0 ∧ ((stRetLane.chan 11).lport 1).recal.contains 3 = true ∧ (stRetLane.chan 11).CanRecord ((stRetLane.chan 11).laneUnit 1 3)) ∧
    (stRetr.Runs 11 ∧ 1 < 3 ∧ (stRetr.chan 11).CanRecord ((stRetr.chan 11).portUnit 1) ∧ (stRetr.chan 11).lkState 1 = 5 ∧ (stRetr.chan 11).LinkNext 1 8 retrB) ∧
    (stRot1.Runs 11 ∧ 1 < 3 ∧ ((stRot1.chan 11).lport 1).txPlan = [] ∧ ((stRot1.chan 11).lport 1).rxPlan = (rs 3 1 7 true : RotStep) :: ([rs 3 2 8 true] : List RotStep) ∧ (rs 3 1 7 true : RotStep).at_ ≤ ((stRot1.chan 11).lport 1).rxMark ∧ (rs 3 1 7 true : RotStep).acked = true ∧ (rs 3 1 7 true : RotStep).phase = 1 ∧ (rs 3 1 7 true : RotStep).lane < 5) ∧
    (stRot4.Runs 11 ∧ 1 < 3 ∧ ((stRot4.chan 11).lport 1).txPlan = [] ∧ ((stRot4.chan 11).lport 1).rxPlan = (rs 3 4 7 true : RotStep) :: ([] : List RotStep) ∧ (rs 3 4 7 true : RotStep).at_ ≤ ((stRot4.chan 11).lport 1).rxMark ∧ (rs 3 4 7 true : RotStep).acked = true ∧ (rs 3 4 7 true : RotStep).phase = 4) ∧
    (stRotNo.Runs 11 ∧ 1 < 3 ∧ ((stRotNo.chan 11).lport 1).txPlan = [] ∧ ((stRotNo.chan 11).lport 1).rxPlan = (rs 3 1 7 false : RotStep) :: ([rs 3 2 8 true] : List RotStep) ∧ (rs 3 1 7 false : RotStep).at_ ≤ ((stRotNo.chan 11).lport 1).rxMark ∧ (rs 3 1 7 false : RotStep).acked = false) ∧
    (stT1.Runs 11 ∧ 1 < 3 ∧ ((stT1.chan 11).lport 1).stepEnds ((stT1.chan 11).lkState 1) = true ∧ (stT1.chan 11).lkState 1 = 1) ∧
    (stT1b.Runs 11 ∧ 1 < 3 ∧ (stT1b.chan 11).lkState 1 = 1 ∧ 2 ≤ ((stT1b.chan 11).lport 1).rxLock.length ∧ 2 ≤ ((stT1b.chan 11).lport 1).peerLock.length) ∧
    (stT1p2.Runs 11 ∧ 2 < 3 ∧ 1 ≤ (stT1p2.chan 11).lkState 2 ∧ (stT1p2.chan 11).lkState 2 ≤ 3 ∧ ((stT1p2.chan 11).lport 2).flits = false ∧ ((stT1p2.chan 11).lport 2).piece = 0) := by
  repeat' (first | with_reducible apply And.intro | (delta Channel.LinkNext State.Runs))
  all_goals
    first | decide +kernel | (refine next_stateOf ?_; decide +kernel) | exact ⟨_, rfl, by decide +kernel⟩ | (constructor <;> decide +kernel)

theorem witness_LinkTrainsAndKeepsItsLanes_3 :
    (stT1p2.Runs 11 ∧ 2 < 3 ∧ 1 ≤ (stT1p2.chan 11).lkState 2 ∧ (stT1p2.chan 11).lkState 2 ≤ 3 ∧ 4 < 5 ∧ ((stT1p2.chan 11).lport 2).rxLost.contains 4 = false ∧ stT1p2.arriving 11 2 4 [hdr4] = some (([hdr4] : List (List (BitVec 8))), stT1p2) ∧ TrainHdr.parse (([hdr4] : List (List (BitVec 8))).headD []) = some ((((Option.get (TrainHdr.parse hdr4) (by decide +kernel))).1 : TrainHdr), false) ∧ (((Option.get (TrainHdr.parse hdr4) (by decide +kernel))).1 : TrainHdr).locked = true) ∧
    (stT1p2.Runs 11 ∧ 2 < 3 ∧ 1 ≤ (stT1p2.chan 11).lkState 2 ∧ (stT1p2.chan 11).lkState 2 ≤ 3 ∧ 4 < 5 ∧ ((stT1p2.chan 11).lport 2).rxLost.contains 4 = false ∧ stT1p2.arriving 11 2 4 [hdrInv] = some (([hdrInv] : List (List (BitVec 8))), stT1p2) ∧ TrainHdr.parse (([hdrInv] : List (List (BitVec 8))).headD []) = some ((((Option.get (TrainHdr.parse hdr4) (by decide +kernel))).1 : TrainHdr), true) ∧ true = true) ∧
    (stT2.Runs 11 ∧ 1 < 3 ∧ ((stT2.chan 11).lport 1).stepEnds ((stT2.chan 11).lkState 1) = true ∧ (stT2.chan 11).lkState 1 = 2 ∧ ((stT2.chan 11).buildMaps 1).isSome = true) ∧
    (stT3.Runs 11 ∧ 1 < 3 ∧ ((stT3.chan 11).lkState 1 = 3 ∨ (stT3.chan 11).lkState 1 = 4) ∧ ((stT3.chan 11).lport 1).tries < 2) ∧
    (stT3.Runs 11 ∧ 1 < 3 ∧ ((stT3.chan 11).lport 1).stepEnds ((stT3.chan 11).lkState 1) = true ∧ (stT3.chan 11).lkState 1 = 3) ∧
    (stT3again.Runs 11 ∧ 1 < 3 ∧ ((stT3again.chan 11).lkState 1 = 3 ∨ (stT3again.chan 11).lkState 1 = 4) ∧ ((stT3again.chan 11).lport 1).tries = 2 ∧ (stT3again.chan 11).link.egress = [] ∧ ((stT3again.chan 11).lport 1).leaving = [] ∧ ((stT3again.chan 11).lport 1).asm = [] ∧ (stT3again.chan 11).CanRecord ((stT3again.chan 11).portUnit 1)) ∧
    (stT4.Runs 11 ∧ 1 < 3 ∧ ((stT4.chan 11).lport 1).stepEnds ((stT4.chan 11).lkState 1) = true ∧ (stT4.chan 11).lkState 1 = 4) ∧
    (stWaits.Runs 11 ∧ 1 < 3 ∧ ((stWaits.chan 11).lport 1).wait = true) := by
  repeat' (first | with_reducible apply And.intro | (delta State.Runs))
  all_goals
    first | decide +kernel | (refine next_stateOf ?_; decide +kernel) | exact ⟨_, rfl, by decide +kernel⟩ | (constructor <;> decide +kernel)

theorem witness_LinkTrainsAndKeepsItsLanes_4 :
    ((inPort2 1 { piece := 4 }).Runs 11 ∧ 2 < 3 ∧ 1 ≤ ((inPort2 1 { piece := 4 }).chan 11).lkState 2 ∧ ((inPort2 1 { piece := 4 }).chan 11).lkState 2 ≤ 3 ∧ (((inPort2 1 { piece := 4 }).chan 11).lport 2).flits = false ∧ (((inPort2 1 { piece := 4 }).chan 11).lport 2).piece = 3 + 1) := by
  repeat' (first | with_reducible apply And.intro | (delta State.Runs))
  all_goals
    first | decide +kernel | (refine next_stateOf ?_; decide +kernel) | exact ⟨_, rfl, by decide +kernel⟩ | (constructor <;> decide +kernel)

theorem witness_FlitsAndLinkControl_1 :
    (stAckB.Runs 11 ∧ 1 < 3 ∧ (stAckB.chan 11).LinkNext 1 6 ackB ∧ bodyNat ackB 8 1 = 0) ∧
    (stCredit.Runs 11 ∧ 1 < 3 ∧ (stCredit.chan 11).lkState 1 = 5 ∧ (16 ≤ List.foldl (fun n e => n + e.snd) 0 ((stCredit.chan 11).lport 1).owed)) ∧
    (stCreditB.Runs 11 ∧ 1 < 3 ∧ (stCreditB.chan 11).LinkNext 1 4 creditB) ∧
    (stDataF.Runs 11 ∧ 1 < 3 ∧ (stDataF.chan 11).lkState 1 = 5 ∧ ((stDataF.chan 11).lport 1).flits = true ∧ ((stDataF.chan 11).lport 1).slot < 4095 ∧ ((stDataF.chan 11).lport 1).replay = [] ∧ ((stDataF.chan 11).lport 1).linkQ = [] ∧ ((stDataF.chan 11).lport 1).arb.owner = some 3 ∧ ((stDataF.chan 11).lport 1).held.length < 512 ∧ (stDataF.chan 11).vcAsks 1 3 = true ∧ (stDataF.chan 11).canSend 1 3 0 = true ∧ ((stDataF.chan 11).lport 1).leaving.find (2 * 3) = some lvg ∧ lvg.next = ((lvg.rest.take 224 : List (BitVec 8)), false, lvg.next.2.2) ∧ lvg.o.pid = none) ∧
    (stInitAgain.Runs 11 ∧ 1 < 3 ∧ (stInitAgain.chan 11).LinkNext 1 1 initOk ∧ (stInitAgain.chan 11).lkState 1 = 4 ∧ ((stInitAgain.chan 11).lport 1).initIn = false ∧ bodyNat initOk 1 1 = 1 ∧ (1 ≠ 2 → (bodyNat initOk 2 3 % 2 ^ 20 = (stInitAgain.chan 11).module * 16 + if 1 = 0 then ((stInitAgain.chan 11).no + 11) % 12 else ((stInitAgain.chan 11).no + 1) % 12) ∧ bodyNat initOk 5 1 % 4 = 1 - 1) ∧ bit (bodyNat initOk 5 1) 2 = b2n ((stInitAgain.chan 11).lightFec 1) ∧ bit (bodyNat initOk 5 1) 3 = (stInitAgain.chan 11).r F.LK_STAT_WIDTH 1 ∧ ((stInitAgain.chan 11).lport 1).again = true ∧ isSet (bodyNat initOk 40 2) 15 = false) ∧
    (stInitBad.Runs 11 ∧ 1 < 3 ∧ (stInitBad.chan 11).LinkNext 1 1 initBad ∧ (stInitBad.chan 11).lkState 1 = 4 ∧ ((stInitBad.chan 11).lport 1).initIn = false ∧ bodyNat initBad 1 1 ≠ 1 ∧ ((stInitBad.chan 11).lport 1).tries < 2 ∧ (stInitBad.chan 11).CanRecord ((stInitBad.chan 11).portUnit 1)) ∧
    (stInitOk.Runs 11 ∧ 1 < 3 ∧ (stInitOk.chan 11).LinkNext 1 1 initOk ∧ (stInitOk.chan 11).lkState 1 = 4 ∧ ((stInitOk.chan 11).lport 1).initIn = false ∧ bodyNat initOk 1 1 = 1 ∧ (1 ≠ 2 → (bodyNat initOk 2 3 % 2 ^ 20 = (stInitOk.chan 11).module * 16 + if 1 = 0 then ((stInitOk.chan 11).no + 11) % 12 else ((stInitOk.chan 11).no + 1) % 12) ∧ bodyNat initOk 5 1 % 4 = 1 - 1) ∧ bit (bodyNat initOk 5 1) 2 = b2n ((stInitOk.chan 11).lightFec 1) ∧ bit (bodyNat initOk 5 1) 3 = (stInitOk.chan 11).r F.LK_STAT_WIDTH 1) ∧
    (stLinkQF.Runs 11 ∧ 1 < 3 ∧ ((stLinkQF.chan 11).lkState 1 = 4 ∨ (stLinkQF.chan 11).lkState 1 = 5) ∧ ((stLinkQF.chan 11).lport 1).flits = true ∧ ((stLinkQF.chan 11).lport 1).slot < 4095 ∧ ((stLinkQF.chan 11).lport 1).replay = [] ∧ ((stLinkQF.chan 11).lport 1).linkQ = ((toBytes 8 2 : List (BitVec 8)), 0, 0) :: ([(toBytes 8 8, 0, 0)] : List (List (BitVec 8) × Nat × Nat)) ∧ ((stLinkQF.chan 11).lkState 1 = 5 → ((stLinkQF.chan 11).lport 1).arb.owner = none) ∧ ((stLinkQF.chan 11).lport 1).held.length < 512) := by
  repeat' (first | with_reducible apply And.intro | (delta Channel.LinkNext State.Runs))
  all_goals
    first | decide +kernel | (refine next_stateOf ?_; decide +kernel) | exact ⟨_, rfl, by decide +kernel⟩ | (constructor <;> decide +kernel)

theorem witness_FlitsAndLinkControl_2 :
    (stNackB.Runs 11 ∧ 1 < 3 ∧ (stNackB.chan 11).LinkNext 1 6 nackB ∧ bodyNat nackB 8 1 ≠ 0 ∧ rs 3 2 8 false ∈ ((((stateOf (exec (Instr.rotAck 11 1) stNackB))).chan 11).lport 1).rxPlan) ∧
    (stNakTmo.Runs 11 ∧ 1 < 3 ∧ ((stNakTmo.chan 11).lport 1).nak = true ∧ (stNakTmo.chan 11).eff F.LK_REPLAY_CFG_NAK_TMO 1 ≤ ((stNakTmo.chan 11).lport 1).nakFor) ∧
    (stNullF.Runs 11 ∧ 1 < 3 ∧ (stNullF.chan 11).lkState 1 = 5 ∧ ((stNullF.chan 11).lport 1).flits = true ∧ ((stNullF.chan 11).lport 1).slot < 4095 ∧ ((stNullF.chan 11).lport 1).replay = [] ∧ ((stNullF.chan 11).lport 1).linkQ = [] ∧ ((stNullF.chan 11).lport 1).arb.owner = none) ∧
    (stPing.Runs 11 ∧ 1 < 3 ∧ (stPing.chan 11).LinkNext 1 2 pingB) ∧
    (stPong.Runs 11 ∧ 1 < 3 ∧ (stPong.chan 11).LinkNext 1 3 pongB) ∧
    (stResend.Runs 11 ∧ 1 < 3) ∧
    (stResendF.Runs 11 ∧ 1 < 3 ∧ (stResendF.chan 11).lkState 1 = 5 ∧ ((stResendF.chan 11).lport 1).flits = true ∧ ((stResendF.chan 11).lport 1).slot < 4095 ∧ ((stResendF.chan 11).lport 1).replay = [9] ∧ ((stResendF.chan 11).lport 1).held = [(flit9, 1)] ∧ flit9.seq = 9) ∧
    (stRotB.Runs 11 ∧ 1 < 3 ∧ (stRotB.chan 11).LinkNext 1 5 rotB ∧ (stRotB.chan 11).lkState 1 = 5 ∧ (rotOf rotB).lane < 5 ∧ (rotOf rotB).phase < 5 ∧ ((stRotB.chan 11).lport 1).mcount ≤ (rotOf rotB).at_ ∧ (spareOf ((stRotB.chan 11).r F.LK_LANEMAP_TX_MAP 1) ((stRotB.chan 11).r F.LK_LANEMAP_TX_RETIRED 1) ((stRotB.chan 11).width 1)).isSome = true) := by
  repeat' (first | with_reducible apply And.intro | (delta Channel.LinkNext State.Runs))
  all_goals
    first | decide +kernel | (refine next_stateOf ?_; decide +kernel) | exact ⟨_, rfl, by decide +kernel⟩ | (constructor <;> decide +kernel)

set_option maxRecDepth 20000 in
theorem witness_FlitsAndLinkControl_3 :
    (stRx2.Runs 11 ∧ 2 < 3 ∧ 3 ≤ (stRx2.chan 11).lkState 2 ∧ (stRx2.chan 11).lightFec 2 = true ∧ stRx2.arriving 11 2 6 laidBad = some (laidBad, stRx2) ∧ (lightDecode ((stRx2.chan 11).slotIn 2 laidBad)).flits = [badFlit] ∧ crcGood badFlit = false) ∧
    (stRx2.Runs 11 ∧ 2 < 3 ∧ 3 ≤ (stRx2.chan 11).lkState 2 ∧ (stRx2.chan 11).lightFec 2 = true ∧ stRx2.arriving 11 2 6 laidGood = some (laidGood, stRx2) ∧ (lightDecode ((stRx2.chan 11).slotIn 2 laidGood)).flits = [linkFlit] ∧ crcGood linkFlit = true ∧ (Flit.parse linkFlit).ackv = false ∧ (Flit.parse linkFlit).nak = false ∧ (Flit.parse linkFlit).ftype = 2 ∧ (Flit.parse linkFlit).seq = ((stRx2.chan 11).lport 2).exp ∧ ((stRx2.chan 11).lkState 2 = 5 ∨ linkSub (Flit.parse linkFlit).body ≠ 1)) ∧
    (stTxeqB.Runs 11 ∧ 1 < 3 ∧ (stTxeqB.chan 11).LinkNext 1 7 txeqB ∧ bodyNat txeqB 2 1 ≠ 0) := by
  repeat' (first | with_reducible apply And.intro | (delta Channel.LinkNext State.Runs))
  all_goals
    first | decide +kernel | (refine next_stateOf ?_; decide +kernel) | exact ⟨_, rfl, by decide +kernel⟩ | (constructor <;> decide +kernel)

theorem witness_PacketsActByTheirType_1 :
    (stAck.Runs 11 ∧ (stAck.chan 11).up = [] ∧ 31 < 32 ∧ (stAck.chan 11).Takes 4 ackP ([wait5] : List Packet) ∧ (stAck.chan 11).link.tracked.find ackP.tag = some trWr ∧ trWr.wr = true ∧ trWr.list = none ∧ trWr.parts = [(0, 0)] ∧ (stAck.chan 11).link.waiting = [] ∧ ackP.status = 0) ∧
    (stAck.Runs 11 ∧ (stAck.chan 11).up = [] ∧ 31 < 32 ∧ 9 < 1024 ∧ (stAck.chan 11).link.tracked.find 9 = some trWr ∧ trWr.wr = true ∧ trWr.list = none ∧ trWr.parts = [(0, 0)] ∧ (stAck.chan 11).link.waiting = [] ∧ (stAck.chan 11).CanRecord (stAck.chan 11).wholeUnit ∧ ¬onceKey 134 0 ∈ (stAck.chan 11).err.once) ∧
    (stAckLate.Runs 11 ∧ (stAckLate.chan 11).up = [] ∧ 31 < 32 ∧ (stAckLate.chan 11).Takes 4 ackP ([wait5] : List Packet) ∧ (stAckLate.chan 11).Late ackP true) ∧
    (stBp.Runs 11 ∧ (stBp.chan 11).up = [] ∧ 31 < 32 ∧ (stBp.chan 11).Takes 5 bpP ([wait5] : List Packet) ∧ (bpP.onGrid && (stBp.chan 11).lanActive bpP.grid) = true) ∧
    (stBpOff.Runs 11 ∧ (stBpOff.chan 11).up = [] ∧ 31 < 32 ∧ (stBpOff.chan 11).Takes 5 bpOff ([wait5] : List Packet) ∧ (bpOff.onGrid && (stBpOff.chan 11).lanActive bpOff.grid) = false) ∧
    (stCutA.Runs 11 ∧ (stCutA.chan 11).up = [] ∧ 31 < 32 ∧ stCutA.CanReach Requester.host 11 ∧ ((stCutA.chan 11).fifo 31).pkts = (fp 3 false : FifoPkt) :: ([] : List FifoPkt) ∧ (∀ (y : FifoPkt), y ∈ ([] : List FifoPkt) → y.pid ≠ (fp 3 false : FifoPkt).pid) ∧ (fp 3 false : FifoPkt).whole = false) ∧
    (stCutW.Runs 11 ∧ (stCutW.chan 11).up = [] ∧ 31 < 32 ∧ stCutW.CanReach Requester.host 11 ∧ ((stCutW.chan 11).fifo 31).pkts = (fp 1 true : FifoPkt) :: ([fp 2 true] : List FifoPkt) ∧ (∀ (y : FifoPkt), y ∈ ([fp 2 true] : List FifoPkt) → y.pid ≠ (fp 1 true : FifoPkt).pid)) ∧
    (stFifo.Runs 11 ∧ (stFifo.chan 11).up = [] ∧ 31 < 32 ∧ (stFifo.chan 11).Takes 16 fifoP ([wait5] : List Packet) ∧ fifoP.resv = none ∧ fifoP.arg0 % 256 = 31 ∧ ((stFifo.chan 11).fifo 31).reserved + fifoP.len ≤ 65536 ∧ ((stFifo.chan 11).fifo 31).pkts.length < 256 ∧ 1 = (stFifo.chan 11).link.nextPid + 1 ∧ ¬1 ∈ ((stFifo.chan 11).fifo 31).cuts ∧ (∀ (q : FifoPkt), q ∈ ((stFifo.chan 11).fifo 31).pkts → q.pid ≠ 1)) := by
  repeat' (first | with_reducible apply And.intro | (delta State.CanReach Channel.Late State.Runs Channel.Takes))
  all_goals
    first | decide +kernel | (refine next_stateOf ?_; decide +kernel) | exact ⟨_, rfl, by decide +kernel⟩ | (constructor <;> decide +kernel)

theorem witness_PacketsActByTheirType_2 :
    (stFifoFull.Runs 11 ∧ (stFifoFull.chan 11).up = [] ∧ 31 < 32 ∧ (stFifoFull.chan 11).Takes 16 fifoP ([wait5] : List Packet) ∧ fifoP.resv = none ∧ fifoP.arg0 % 256 = 31 ∧ (65536 < ((stFifoFull.chan 11).fifo 31).reserved + fifoP.len ∨ 256 ≤ ((stFifoFull.chan 11).fifo 31).pkts.length)) ∧
    (stFifoRes.Runs 11 ∧ (stFifoRes.chan 11).up = [] ∧ 31 < 32 ∧ (stFifoRes.chan 11).Takes 16 fifoRes ([wait5] : List Packet) ∧ fifoRes.resv = some (31, 5) ∧ ¬5 ∈ ((stFifoRes.chan 11).fifo 31).cuts) ∧
    (stFog.Runs 11 ∧ (stFog.chan 11).up = [] ∧ 31 < 32 ∧ (stFog.chan 11).Takes 33 fogP ([wait5] : List Packet) ∧ ((3, 255) : Nat × Nat) = (fogP.src, fogP.arg0 % 256) ∧ stFog.fogKnown ((3, 255) : Nat × Nat) = false ∧ stFog.mod.eff F.ERR_MOD_CFG_FOG_ACT ≠ 1 ∧ 0 < 3 ∧ (fogP.hops = 0 ∨ (stFog.chan 11).portUp 0 = false ∨ fogP.port = some 0)) ∧
    (stFog.Runs 11 ∧ (stFog.chan 11).up = [] ∧ 31 < 32 ∧ (stFog.chan 11).Takes 33 fogP ([wait5] : List Packet) ∧ ((3, 255) : Nat × Nat) = (fogP.src, fogP.arg0 % 256) ∧ stFog.fogKnown ((3, 255) : Nat × Nat) = false ∧ stFog.mod.eff F.ERR_MOD_CFG_FOG_ACT ≠ 1 ∧ 2 < 3 ∧ 0 < fogP.hops ∧ (stFog.chan 11).portUp 2 = true ∧ fogP.port ≠ some 2) ∧
    (stFogOld.Runs 11 ∧ (stFogOld.chan 11).up = [] ∧ 31 < 32 ∧ (stFogOld.chan 11).Takes 33 fogP ([wait5] : List Packet) ∧ ((3, 255) : Nat × Nat) = (fogP.src, fogP.arg0 % 256) ∧ ((3, 255) : Nat × Nat) ∈ (stFogOld.chan 11).link.fogs) ∧
    (stLand0.Runs 11 ∧ (stLand0.chan 11).up = [] ∧ 31 < 32 ∧ (stLand0.chan 11).Takes 17 dataMid ([wait5] : List Packet) ∧ 1535 = dataMid.grid ∧ 31 = bits dataMid.arg0 4 0 ∧ 2 = bits dataMid.arg0 27 16 ∧ false = (dataMid.flags % 2 == 1) ∧ ((dataMid.onGrid && (stLand0.chan 11).lanActive 1535) = false ∨ ((stLand0.chan 11).lan 1535).r F.LN_BP_CFG_LINK 31 = 0) ∧ (stLand0.chan 11).CanRecord (stLand0.chan 11).wholeUnit) ∧
    (stLandFull.Runs 11 ∧ (stLandFull.chan 11).up = [] ∧ 31 < 32 ∧ (stLandFull.chan 11).Takes 17 dataEnd ([wait5] : List Packet) ∧ 1535 = dataEnd.grid ∧ 31 = bits dataEnd.arg0 4 0 ∧ 2 = bits dataEnd.arg0 27 16 ∧ true = (dataEnd.flags % 2 == 1) ∧ (dataEnd.onGrid && (stLandFull.chan 11).lanActive 1535) = true ∧ ((stLandFull.chan 11).lan 1535).r F.LN_BP_CFG_LINK 31 ≠ 0 ∧ ((stLandFull.chan 11).landing 1535 31).dropping = false ∧ ((stLandFull.chan 11).landing 1535 31).open_ = false ∧ (stLandFull.chan 11).bpSeen 1535 31 false = 0 ∧ (stLandFull.chan 11).CanRecord (unitWord (stLandFull.chan 11).no 6 1535 0 31)) ∧
    (stLandMid.Runs 11 ∧ (stLandMid.chan 11).up = [] ∧ 31 < 32 ∧ (stLandMid.chan 11).Takes 17 dataMid ([wait5] : List Packet) ∧ 1535 = dataMid.grid ∧ 31 = bits dataMid.arg0 4 0 ∧ 2 = bits dataMid.arg0 27 16 ∧ false = (dataMid.flags % 2 == 1) ∧ (dataMid.onGrid && (stLandMid.chan 11).lanActive 1535) = true ∧ ((stLandMid.chan 11).lan 1535).r F.LN_BP_CFG_LINK 31 ≠ 0 ∧ ((stLandMid.chan 11).landing 1535 31).dropping = false ∧ ((stLandMid.chan 11).landing 1535 31).open_ = false ∧ 0 < (stLandMid.chan 11).bpSeen 1535 31 false ∧ 2 + ceilDiv dataMid.len 64 ≤ ((stLandMid.chan 11).lan 1535).r F.LN_BP_CFG_SLOT_LINES 31 ∧ ((stLandMid.chan 11).lan 1535).r F.LN_BP_CFG_RING_BASE 31 + ((stLandMid.chan 11).lan 1535).r F.LN_BP_STAT_WIDX 31 * ((stLandMid.chan 11).lan 1535).r F.LN_BP_CFG_SLOT_LINES 31 + 2 + ceilDiv dataMid.len 64 ≤ 4096) := by
  repeat' (first | with_reducible apply And.intro | (delta State.Runs Channel.Takes))
  all_goals
    first | decide +kernel | (refine next_stateOf ?_; decide +kernel) | exact ⟨_, rfl, by decide +kernel⟩ | (constructor <;> decide +kernel)

theorem witness_PacketsActByTheirType_3 :
    (stLandPast.Runs 11 ∧ (stLandPast.chan 11).up = [] ∧ 31 < 32 ∧ (stLandPast.chan 11).Takes 17 dataMid ([wait5] : List Packet) ∧ 1535 = dataMid.grid ∧ 31 = bits dataMid.arg0 4 0 ∧ 2 = bits dataMid.arg0 27 16 ∧ false = (dataMid.flags % 2 == 1) ∧ (dataMid.onGrid && (stLandPast.chan 11).lanActive 1535) = true ∧ ((stLandPast.chan 11).lan 1535).r F.LN_BP_CFG_LINK 31 ≠ 0 ∧ ((stLandPast.chan 11).landing 1535 31).dropping = false ∧ ((stLandPast.chan 11).landing 1535 31).open_ = false ∧ 0 < (stLandPast.chan 11).bpSeen 1535 31 false ∧ ((stLandPast.chan 11).lan 1535).r F.LN_BP_CFG_SLOT_LINES 31 < 2 + ceilDiv dataMid.len 64 ∧ false = false ∧ (stLandPast.chan 11).CanRecord (unitWord (stLandPast.chan 11).no 6 1535 0 31)) ∧
    (stLvBp.Runs 11 ∧ (stLvBp.chan 11).up = [] ∧ 31 < 32 ∧ 64 = 64 * (stLvBp.chan 11).eff F.LK_FIFO_CFG_LEVEL 31 ∧ 0 < 64 ∧ ((stLvBp.chan 11).fifo 31).prev < 64 ∧ 64 ≤ ((stLvBp.chan 11).fifo 31).fill ∧ 1535 = 48 * (stLvBp.chan 11).eff F.LK_FIFO_CFG_ROW 31 + (stLvBp.chan 11).eff F.LK_FIFO_CFG_COL 31 ∧ (stLvBp.chan 11).eff F.LK_FIFO_CFG_TGT_BP 31 = 1 ∧ 1535 < 1536) ∧
    (stLvNo.Runs 11 ∧ (stLvNo.chan 11).up = [] ∧ 31 < 32 ∧ 64 = 64 * (stLvNo.chan 11).eff F.LK_FIFO_CFG_LEVEL 31 ∧ 0 < 64 ∧ ((stLvNo.chan 11).fifo 31).prev < 64 ∧ 64 ≤ ((stLvNo.chan 11).fifo 31).fill ∧ 1535 = 48 * (stLvNo.chan 11).eff F.LK_FIFO_CFG_ROW 31 + (stLvNo.chan 11).eff F.LK_FIFO_CFG_COL 31 ∧ (stLvNo.chan 11).eff F.LK_FIFO_CFG_TGT_BP 31 ≠ 1) ∧
    (stMarkIn.Runs 11 ∧ (stMarkIn.chan 11).up = [] ∧ 31 < 32 ∧ (stMarkIn.chan 11).Takes 18 markP ([wait5] : List Packet) ∧ (stMarkIn.chan 11).link.landOut.getD markP.src 0 = 0 ∧ 1023 = bits markP.arg0 9 0 ∧ (stMarkIn.chan 11).r F.CTX_STATE_STATE 1023 ≠ 0 ∧ (stMarkIn.chan 11).r F.CTX_STATE_STATE 1023 ≠ 5) ∧
    (stMarkWait.Runs 11 ∧ (stMarkWait.chan 11).up = [] ∧ 31 < 32 ∧ (stMarkWait.chan 11).Takes 18 markP ([wait5] : List Packet) ∧ 0 < (stMarkWait.chan 11).link.landOut.getD markP.src 0) ∧
    (stNack.Runs 11 ∧ (stNack.chan 11).up = [] ∧ 31 < 32 ∧ (stNack.chan 11).Takes 4 nackP ([wait5] : List Packet) ∧ (stNack.chan 11).link.tracked.find nackP.tag = some trWr ∧ trWr.wr = true ∧ trWr.list = none ∧ trWr.parts = [(0, 0)] ∧ (stNack.chan 11).link.waiting = [] ∧ nackP.status ≠ 0 ∧ nackP.status ≠ 5 ∧ nackP.data = [] ∧ (stNack.chan 11).CanRecord (stNack.chan 11).wholeUnit ∧ ¬onceKey 133 0 ∈ (stNack.chan 11).err.once) ∧
    (stRdFar.Runs 11 ∧ (stRdFar.chan 11).up = [] ∧ 31 < 32 ∧ (stRdFar.chan 11).Takes 1 rdFar ([wait5] : List Packet) ∧ (stRdFar.chan 11).NotMine rdFar) ∧
    (stRdReq.Runs 11 ∧ (stRdReq.chan 11).up = [] ∧ 31 < 32 ∧ (stRdReq.chan 11).Takes 1 rdP ([wait5] : List Packet) ∧ ¬(stRdReq.chan 11).NotMine rdP ∧ 0 < ceilDiv rdP.len 64) := by
  repeat' (first | with_reducible apply And.intro | (delta Channel.NotMine State.Runs Channel.Takes))
  all_goals
    first | decide +kernel | (refine next_stateOf ?_; decide +kernel) | exact ⟨_, rfl, by decide +kernel⟩ | (constructor <;> decide +kernel)

theorem witness_PacketsActByTheirType_4 :
    (stRdReq.Runs 11 ∧ (stRdReq.chan 11).up = [] ∧ 31 < 32 ∧ 0 = 64 * (stRdReq.chan 11).eff F.LK_FIFO_CFG_LEVEL 31 ∧ (0 = 0 ∨ 0 ≤ ((stRdReq.chan 11).fifo 31).prev ∨ ((stRdReq.chan 11).fifo 31).fill < 0)) ∧
    (stRdReq.Runs 11 ∧ (stRdReq.chan 11).up = [] ∧ 31 < 32 ∧ stRdReq.CanReach Requester.host 11 ∧ ((stRdReq.chan 11).fifo 31).pkts = []) ∧
    (stRsp.Runs 11 ∧ (stRsp.chan 11).up = [] ∧ 31 < 32 ∧ (stRsp.chan 11).Takes 3 rspP ([wait5] : List Packet) ∧ (stRsp.chan 11).link.tracked.find rspP.tag = some trRd ∧ trRd.wr = false ∧ trRd.list = none ∧ rspP.status = 0 ∧ (stRsp.chan 11).link.waiting = [] ∧ trRd.parts = [(0, 0)] ∧ (stRsp.chan 11).xfer? trRd.g 0 = some xfTr ∧ xfTr.queued.contains 0 = false ∧ xfTr.dst.getD 0 Place.none = Place.dev (11 * 2 ^ 36 + 64) ∧ devChan (11 * 2 ^ 36 + 64) = (stRsp.chan 11).no) ∧
    (stRspLate.Runs 11 ∧ (stRspLate.chan 11).up = [] ∧ 31 < 32 ∧ (stRspLate.chan 11).Takes 3 rspP ([wait5] : List Packet) ∧ (stRspLate.chan 11).Late rspP false) ∧
    (stRspList.Runs 11 ∧ (stRspList.chan 11).up = [] ∧ 31 < 32 ∧ (stRspList.chan 11).Takes 3 rspP ([wait5] : List Packet) ∧ (stRspList.chan 11).link.tracked.find rspP.tag = some trList ∧ trList.wr = false ∧ trList.list = some 15 ∧ rspP.status = 0 ∧ (stRspList.chan 11).link.waiting = [] ∧ trList.parts = [((((stRspList.chan 11).lan trList.g).stm 15).run, 2)] ∧ (((stRspList.chan 11).lan trList.g).stm 15).listReq.contains 2 = true) ∧
    (stSettle.Runs 11 ∧ (stSettle.chan 11).up = [] ∧ 31 < 32 ∧ (stSettle.chan 11).link.held = [settleO] ∧ settleO.p.dst = 3 ∧ (stSettle.chan 11).route 3 = Way.port 0 ∧ 2 ≤ settleO.p.hops) ∧
    (stTickLock.Runs 11 ∧ (stTickLock.chan 11).up = [] ∧ 31 < 32 ∧ (stTickLock.chan 11).Takes 32 tickP ([wait5] : List Packet) ∧ stTickLock.mod.r F.TB_CFG_SRC_CH = 11 ∧ tickP.port = some 2 ∧ stTickLock.mod.r F.TB_CFG_SRC ≠ 0 ∧ 100010 = 100010 - (stTickLock.chan 11).r F.LK_LAT_LAT 2 / 16 - bits tickP.arg0 57 48 * stTickLock.mod.tbP / 16384 ∧ stTickLock.mod.tb.now ≤ 100010 ∧ stTickLock.mod.r F.TB_STAT_EN = 1 ∧ stTickLock.mod.tb.tickAt = some 1600000 ∧ stTickLock.mod.r F.TB_STAT_LOCKED ≠ 0 ∧ stTickLock.mod.phaseOf 1600000 100010 + stTickLock.mod.r F.TB_CFG_WIN < 1024) ∧
    (stTickNot.Runs 11 ∧ (stTickNot.chan 11).up = [] ∧ 31 < 32 ∧ (stTickNot.chan 11).Takes 32 tickP1 ([wait5] : List Packet) ∧ (stTickNot.mod.r F.TB_CFG_SRC_CH ≠ 11 ∨ tickP1.port ≠ some 2)) := by
  repeat' (first | with_reducible apply And.intro | (delta State.CanReach Channel.Late State.Runs Channel.Takes))
  all_goals
    first | decide +kernel | (refine next_stateOf ?_; decide +kernel) | exact ⟨_, rfl, by decide +kernel⟩ | (constructor <;> decide +kernel)

theorem witness_PacketsActByTheirType_5 :
    (stTickOff.Runs 11 ∧ (stTickOff.chan 11).up = [] ∧ 31 < 32 ∧ (stTickOff.chan 11).Takes 32 tickP ([wait5] : List Packet) ∧ stTickOff.mod.r F.TB_CFG_SRC_CH = 11 ∧ tickP.port = some 2 ∧ stTickOff.mod.r F.TB_CFG_SRC ≠ 0 ∧ 131250 = 131250 - (stTickOff.chan 11).r F.LK_LAT_LAT 2 / 16 - bits tickP.arg0 57 48 * stTickOff.mod.tbP / 16384 ∧ stTickOff.mod.tb.now ≤ 131250 ∧ stTickOff.mod.r F.TB_STAT_EN = 0) ∧
    (stTickOn.Runs 11 ∧ (stTickOn.chan 11).up = [] ∧ 31 < 32 ∧ (stTickOn.chan 11).Takes 32 tickP ([wait5] : List Packet) ∧ stTickOn.mod.r F.TB_CFG_SRC_CH = 11 ∧ tickP.port = some 2 ∧ stTickOn.mod.r F.TB_CFG_SRC ≠ 0 ∧ 131250 = 131250 - (stTickOn.chan 11).r F.LK_LAT_LAT 2 / 16 - bits tickP.arg0 57 48 * stTickOn.mod.tbP / 16384 ∧ stTickOn.mod.tb.now ≤ 131250 ∧ stTickOn.mod.r F.TB_STAT_EN = 1 ∧ stTickOn.mod.tb.tickAt = some 1600000 ∧ (if stTickOn.mod.r F.TB_STAT_LOCKED = 0 then stTickOn.mod.intervalOk 131250 = true else 1024 ≤ stTickOn.mod.phaseOf 1600000 131250 + stTickOn.mod.r F.TB_CFG_WIN) ∧ stTickOn.mod.phaseOf 1600000 131250 < 1024 + stTickOn.mod.r F.TB_CFG_WIN) ∧
    (stWrFar.Runs 11 ∧ (stWrFar.chan 11).up = [] ∧ 31 < 32 ∧ (stWrFar.chan 11).Takes 2 wrFar ([wait5] : List Packet) ∧ (stWrFar.chan 11).NotMine wrFar) ∧
    (stWrReq.Runs 11 ∧ (stWrReq.chan 11).up = [] ∧ 31 < 32 ∧ (stWrReq.chan 11).Takes 2 wrP ([wait5] : List Packet) ∧ ¬(stWrReq.chan 11).NotMine wrP ∧ 0 < ceilDiv wrP.len 64) := by
  repeat' (first | with_reducible apply And.intro | (delta Channel.NotMine State.Runs Channel.Takes))
  all_goals
    first | decide +kernel | (refine next_stateOf ?_; decide +kernel) | exact ⟨_, rfl, by decide +kernel⟩ | (constructor <;> decide +kernel)

theorem witness_HostPortServes_1 :
    (stAper.Up ∧ stAper.Inv ∧ 11 = stAper.mod.eff F.HP_APER_CHAN ∧ 63 = stAper.mod.eff F.HP_APER_BLOCK) ∧
    (stAperHeld.Up ∧ stAperHeld.Inv ∧ 11 = stAperHeld.mod.eff F.HP_APER_CHAN ∧ 63 = stAperHeld.mod.eff F.HP_APER_BLOCK ∧ 11 < 12 ∧ 63 < 64 ∧ stAperHeld.mod.holds 11 = true) ∧
    (stAperHeld.Up ∧ stAperHeld.Inv ∧ dLine < 824633720832 ∧ 11 = dLine / 2 ^ 36 ∧ stAperHeld.mod.hp.perst = false ∧ stAperHeld.cutOff 11 = false ∧ stAperHeld.mod.hostBlocked 11 = true) ∧
    (stBi.Up ∧ stBi.Inv ∧ stBi.Runs 11 ∧ (stBi.chan 11).hbm.dir.contains (252, true) = true ∧ (253, false) ∈ (((stateOf (exec (Instr.biRspI 11 252 none) stBi))).chan 11).hbm.dir) ∧
    (stBi.Up ∧ stBi.Inv ∧ stBi.Runs 11 ∧ (stBi.chan 11).hbm.dir.contains (252, true) = true ∧ (stBi.chan 11).CanRecord ((stBi.chan 11).pcUnit 252) ∧ (253, false) ∈ (((stateOf (exec (Instr.biTimeout 11 252) stBi))).chan 11).hbm.dir) ∧
    (stBi.Up ∧ stBi.Inv ∧ stBi.Runs 11 ∧ (stBi.chan 11).hbm.dir.contains (252, true) = true ∧ Memory.wf (stBi.chan 11).hbm.mem = true ∧ entry64.length = 64 ∧ (253, false) ∈ (((stateOf (exec (Instr.biRspI 11 252 (some entry64)) stBi))).chan 11).hbm.dir) ∧
    (stHost.Up ∧ stHost.Inv ∧ F.HP_CR_BASE_ADDR ∈ bridgeFields ∧ ringKey (F.HP_CR_BASE_ADDR.key 15) = true) ∧
    (stHost.Up ∧ stHost.Inv ∧ dLine < 824633720832 ∧ 11 = dLine / 2 ^ 36 ∧ stHost.mod.hp.perst = false ∧ stHost.cutOff 11 = false ∧ stHost.mod.hostBlocked 11 = false) := by
  repeat' (first | with_reducible apply And.intro | (delta State.Inv State.Runs State.Up))
  all_goals
    first | decide +kernel | (refine next_stateOf ?_; decide +kernel) | exact ⟨_, rfl, by decide +kernel⟩ | (constructor <;> decide +kernel)

theorem witness_HostPortServes_2 :
    (stHost.Up ∧ stHost.Inv ∧ stHost.Runs 11) ∧
    (stHost.Up ∧ stHost.Inv ∧ stHost.mod.boot.cfgOk = true ∧ 0 = 0) ∧
    (stHost.Up ∧ stHost.Inv ∧ stHost.mod.boot.cfgOk = true ∧ 16 = 16) ∧
    (stHost.Up ∧ stHost.Inv ∧ stHost.mod.boot.cfgOk = true ∧ 24 = 24) ∧
    (stHost.Up ∧ stHost.Inv ∧ stHost.mod.boot.cfgOk = true ∧ 8 = 8) ∧
    (stHost.Up ∧ stHost.Inv ∧ stHost.mod.hp.cache.sorted = true) ∧
    (stHost.Up ∧ stHost.Inv ∧ stHost.mod.r F.HP_STATUS_LINK_UP = 1) ∧
    (stHostDown.Up ∧ stHostDown.Inv ∧ stHostDown.mod.hp.training = true ∧ 1 < 4 ∧ 0 < 3 ∧ Nat.testBit 15 1 = true ∧ Nat.testBit 7 0 = true ∧ (true = true → 1 ≤ 1) ∧ (∀ (j : Nat), j < 1 → Nat.testBit 15 j = true → true = true ∧ j = 0) ∧ (∀ (j : Nat), j < 0 → Nat.testBit 7 j = false)) := by
  repeat' (first | with_reducible apply And.intro | (delta State.Inv State.Runs State.Up))
  all_goals
    first | decide +kernel | (refine next_stateOf ?_; decide +kernel) | exact ⟨_, rfl, by decide +kernel⟩ | (constructor <;> decide +kernel)

theorem witness_HostPortServes_3 :
    (stHostDown.Up ∧ stHostDown.Inv ∧ stHostDown.mod.r F.HP_STATUS_LINK_UP ≠ 1) ∧
    (stMsix.Up ∧ stMsix.Inv ∧ 2047 < 2048 ∧ 64 < 2 ^ 64 ∧ stMsix.mod.hp.pba = [2047] ∧ stMsix.mod.hp.fmask = false ∧ stMsix.mod.msixWord 2047 3 % 2 = 1 ∧ stMsix.mod.hp.perst = false) ∧
    (stMsixOn.Up ∧ stMsixOn.Inv ∧ stMsixOn.mod.hp.pba = [2047] ∧ stMsixOn.mod.msixWord 2047 3 % 2 = 0 ∧ stMsixOn.mod.hp.perst = false) := by
  repeat' (first | with_reducible apply And.intro | (delta State.Inv State.Up))
  all_goals
    first | decide +kernel | (refine next_stateOf ?_; decide +kernel) | exact ⟨_, rfl, by decide +kernel⟩ | (constructor <;> decide +kernel)

theorem witness_RingsAndHostCommands_1 :
    (stBad0.Up ∧ stBad0.Inv ∧ 15 < 16 ∧ stBad0.mod.nextCmd 15 = some xBad0 ∧ xBad0.formed = false ∧ xBad0.op = 0) ∧
    (stBad3.Up ∧ stBad3.Inv ∧ 15 < 16 ∧ stBad3.mod.nextCmd 15 = some xBad3 ∧ xBad3.formed = false ∧ xBad3.op = 3) ∧
    (stBad5.Up ∧ stBad5.Inv ∧ 15 < 16 ∧ stBad5.mod.nextCmd 15 = some xBad5 ∧ xBad5.formed = false ∧ xBad5.op = 5) ∧
    (stCpl.Up ∧ stCpl.Inv ∧ 15 < 16 ∧ stCpl.mod.eff F.HP_RING_CFG_EN 15 ≠ 0 ∧ stCpl.mod.hp.perst = false ∧ ((stCpl.mod.ring 15).done = cpl :: ([cpl] : List HEntry) ∨ (stCpl.mod.ring 15).done = [] ∧ stCpl.mod.eff F.HP_EVT_RING = 15 ∧ stCpl.mod.events = cpl :: ([cpl] : List HEntry)) ∧ 0 = (stCpl.mod.cpTail 15 + 1) % 2 ^ (stCpl.mod.ring 15).cpLog % 2 ^ 16 ∧ stCpl.mod.cpRoom 15 = true ∧ (stCpl.mod.ring 15).cpLog ≤ 16 ∧ (stCpl.mod.ring 15).done = cpl :: ([cpl] : List HEntry)) ∧
    (stCpl.Up ∧ stCpl.Inv ∧ 15 < 16 ∧ stCpl.mod.eff F.HP_RING_CFG_EN 15 ≠ 0 ∧ stCpl.mod.hp.perst = false ∧ ((stCpl.mod.ring 15).done = cpl :: ([cpl] : List HEntry) ∨ (stCpl.mod.ring 15).done = [] ∧ stCpl.mod.eff F.HP_EVT_RING = 15 ∧ stCpl.mod.events = cpl :: ([cpl] : List HEntry)) ∧ 0 = (stCpl.mod.cpTail 15 + 1) % 2 ^ (stCpl.mod.ring 15).cpLog % 2 ^ 16 ∧ stCpl.mod.cpRoom 15 = true ∧ (stCpl.mod.ring 15).cpLog ≤ 16 ∧ stCpl.mod.eff F.HP_RING_CFG_COAL 15 ≤ (stCpl.mod.ring 15).unsig ∧ stCpl.mod.unmasked (stCpl.mod.r F.HP_RING_CFG_VEC 15) = false) ∧
    (stCplCoal.Up ∧ stCplCoal.Inv ∧ 15 < 16 ∧ stCplCoal.mod.eff F.HP_RING_CFG_EN 15 ≠ 0 ∧ stCplCoal.mod.hp.perst = false ∧ ((stCplCoal.mod.ring 15).done = cpl :: ([] : List HEntry) ∨ (stCplCoal.mod.ring 15).done = [] ∧ stCplCoal.mod.eff F.HP_EVT_RING = 15 ∧ stCplCoal.mod.events = cpl :: ([] : List HEntry)) ∧ 0 = (stCplCoal.mod.cpTail 15 + 1) % 2 ^ (stCplCoal.mod.ring 15).cpLog % 2 ^ 16 ∧ stCplCoal.mod.cpRoom 15 = true ∧ (stCplCoal.mod.ring 15).cpLog ≤ 16 ∧ (stCplCoal.mod.ring 15).unsig < stCplCoal.mod.eff F.HP_RING_CFG_COAL 15) ∧
    (stCplFull.Up ∧ stCplFull.Inv ∧ 15 < 16 ∧ stCplFull.mod.eff F.HP_RING_CFG_EN 15 ≠ 0 ∧ stCplFull.mod.hp.perst = false ∧ ((stCplFull.mod.ring 15).done = cpl :: ([] : List HEntry) ∨ (stCplFull.mod.ring 15).done = [] ∧ stCplFull.mod.eff F.HP_EVT_RING = 15 ∧ stCplFull.mod.events = cpl :: ([] : List HEntry)) ∧ 0 = (stCplFull.mod.cpTail 15 + 1) % 2 ^ (stCplFull.mod.ring 15).cpLog % 2 ^ 16 ∧ stCplFull.mod.cpRoom 15 = false ∧ (stCplFull.mod.ring 15).done = cpl :: ([] : List HEntry)) ∧
    (stCplOn.Up ∧ stCplOn.Inv ∧ 15 < 16 ∧ 0 < (stCplOn.mod.ring 15).unsig ∧ stCplOn.mod.hp.perst = false ∧ stCplOn.mod.unmasked (stCplOn.mod.r F.HP_RING_CFG_VEC 15) = true) := by
  repeat' (first | with_reducible apply And.intro | (delta State.Inv State.Up))
  all_goals
    first | decide +kernel | (refine next_stateOf ?_; decide +kernel) | exact ⟨_, rfl, by decide +kernel⟩ | (constructor <;> decide +kernel)

theorem witness_RingsAndHostCommands_2 :
    (stCplOn.Up ∧ stCplOn.Inv ∧ 15 < 16 ∧ stCplOn.mod.eff F.HP_RING_CFG_EN 15 ≠ 0 ∧ stCplOn.mod.hp.perst = false ∧ ((stCplOn.mod.ring 15).done = cpl :: ([] : List HEntry) ∨ (stCplOn.mod.ring 15).done = [] ∧ stCplOn.mod.eff F.HP_EVT_RING = 15 ∧ stCplOn.mod.events = cpl :: ([] : List HEntry)) ∧ 0 = (stCplOn.mod.cpTail 15 + 1) % 2 ^ (stCplOn.mod.ring 15).cpLog % 2 ^ 16 ∧ stCplOn.mod.cpRoom 15 = true ∧ (stCplOn.mod.ring 15).cpLog ≤ 16 ∧ stCplOn.mod.eff F.HP_RING_CFG_COAL 15 ≤ (stCplOn.mod.ring 15).unsig ∧ stCplOn.mod.unmasked (stCplOn.mod.r F.HP_RING_CFG_VEC 15) = true ∧ stCplOn.mod.unmasked (stCplOn.mod.r F.HP_RING_CFG_VEC 15) = true) ∧
    (stCtxC.Up ∧ stCtxC.Inv ∧ 15 < 16 ∧ stCtxC.mod.nextCmd 15 = some xCtx ∧ xCtx.op = 1 ∧ xCtx.formed = true ∧ (stCtxC.mod.ring 15).cmds = [xCtx] ∧ xCtx.arg 8 8 = xCtx.arg 8 8 ∧ ctxFormed (xCtx.arg 8 8) = true ∧ stCtxC.mod.hostBlocked xCtx.chan = false ∧ stCtxC.cutOff xCtx.chan = false) ∧
    (stCtxD.Up ∧ stCtxD.Inv ∧ 15 < 16 ∧ (List.find? (fun x => x.op == 1 && x.started && (stCtxD.chan x.chan).tick != x.tick) (stCtxD.mod.ring 15).cmds = some xCtx2)) ∧
    (stEvtFull.Up ∧ stEvtFull.Inv ∧ 15 < 16 ∧ stEvtFull.mod.eff F.HP_RING_CFG_EN 15 ≠ 0 ∧ stEvtFull.mod.hp.perst = false ∧ ((stEvtFull.mod.ring 15).done = evt :: ([] : List HEntry) ∨ (stEvtFull.mod.ring 15).done = [] ∧ stEvtFull.mod.eff F.HP_EVT_RING = 15 ∧ stEvtFull.mod.events = evt :: ([] : List HEntry)) ∧ 0 = (stEvtFull.mod.cpTail 15 + 1) % 2 ^ (stEvtFull.mod.ring 15).cpLog % 2 ^ 16 ∧ stEvtFull.mod.cpRoom 15 = false ∧ (stEvtFull.mod.ring 15).done = [] ∧ evt.type = 1) ∧
    (stEvtW.Up ∧ stEvtW.Inv ∧ 15 < 16 ∧ stEvtW.mod.eff F.HP_RING_CFG_EN 15 ≠ 0 ∧ stEvtW.mod.hp.perst = false ∧ ((stEvtW.mod.ring 15).done = evt :: ([] : List HEntry) ∨ (stEvtW.mod.ring 15).done = [] ∧ stEvtW.mod.eff F.HP_EVT_RING = 15 ∧ stEvtW.mod.events = evt :: ([] : List HEntry)) ∧ 0 = (stEvtW.mod.cpTail 15 + 1) % 2 ^ (stEvtW.mod.ring 15).cpLog % 2 ^ 16 ∧ stEvtW.mod.cpRoom 15 = true ∧ (stEvtW.mod.ring 15).cpLog ≤ 16 ∧ (stEvtW.mod.ring 15).done = []) ∧
    (stFetchR.Up ∧ stFetchR.Inv ∧ 15 < 16 ∧ stFetchR.mod.eff F.HP_RING_CFG_EN 15 ≠ 0 ∧ (stFetchR.mod.ring 15).stopped = false ∧ stFetchR.mod.crHead 15 ≠ (stFetchR.mod.ring 15).tail ∧ stFetchR.mod.hp.perst = false ∧ 63 * 64 = stFetchR.mod.crAddr 15 (stFetchR.mod.crHead 15)) ∧
    (stFlush.Up ∧ stFlush.Inv ∧ 15 < 16 ∧ 0 < (stFlush.mod.ring 15).unsig ∧ stFlush.mod.hp.perst = false ∧ stFlush.mod.unmasked (stFlush.mod.r F.HP_RING_CFG_VEC 15) = false) ∧
    (stIn.Up ∧ stIn.Inv ∧ 15 < 16 ∧ stIn.mod.nextCmd 15 = some xIn ∧ xIn.op = 3 ∧ xIn.formed = true ∧ 128 = xIn.arg 24 4 ∧ 11 * 2 ^ 36 + 64 = xIn.arg 16 8 ∧ 11 = (11 * 2 ^ 36 + 64) / 2 ^ 36 ∧ 2 = 128 / 64 ∧ xIn.arg 8 8 % 64 = 0 ∧ (11 * 2 ^ 36 + 64) % 64 = 0 ∧ 128 % 64 = 0 ∧ 64 ≤ 128 ∧ 128 ≤ 16777216 ∧ xIn.arg 28 1 < 2 ∧ 11 < 12 ∧ (11 * 2 ^ 36 + 64 + 128 - 1) / 2 ^ 36 = 11 ∧ protectedLine ((11 * 2 ^ 36 + 64) % 2 ^ 36 / 64 + 2 - 1) = false ∧ stIn.mod.hostBlocked 11 = false ∧ stIn.cutOff 11 = false ∧ (∀ (i : Nat), i < 2 → ([0, 1] : List Nat).contains i = true)) := by
  repeat' (first | with_reducible apply And.intro | (delta State.Inv State.Up))
  all_goals
    first | decide +kernel | (refine next_stateOf ?_; decide +kernel) | exact ⟨_, rfl, by decide +kernel⟩ | (constructor <;> decide +kernel)

theorem witness_RingsAndHostCommands_3 :
    (stIn.Up ∧ stIn.Inv ∧ 15 < 16 ∧ stIn.mod.nextCmd 15 = some xIn ∧ xIn.op = 3 ∧ xIn.formed = true ∧ 128 = xIn.arg 24 4 ∧ 11 * 2 ^ 36 + 64 = xIn.arg 16 8 ∧ 11 = (11 * 2 ^ 36 + 64) / 2 ^ 36 ∧ 2 = 128 / 64 ∧ xIn.arg 8 8 % 64 = 0 ∧ (11 * 2 ^ 36 + 64) % 64 = 0 ∧ 128 % 64 = 0 ∧ 64 ≤ 128 ∧ 128 ≤ 16777216 ∧ xIn.arg 28 1 < 2 ∧ 11 < 12 ∧ (11 * 2 ^ 36 + 64 + 128 - 1) / 2 ^ 36 = 11 ∧ protectedLine ((11 * 2 ^ 36 + 64) % 2 ^ 36 / 64 + 2 - 1) = false ∧ stIn.mod.hostBlocked 11 = false ∧ stIn.cutOff 11 = false ∧ ([] : List Nat) = [] ∧ 1 < 2 ∧ xIn.arg 28 1 = 0) ∧
    (stInHeld.Up ∧ stInHeld.Inv ∧ 15 < 16 ∧ stInHeld.mod.nextCmd 15 = some xIn ∧ xIn.op = 3 ∧ xIn.formed = true ∧ 128 = xIn.arg 24 4 ∧ 11 * 2 ^ 36 + 64 = xIn.arg 16 8 ∧ 11 = (11 * 2 ^ 36 + 64) / 2 ^ 36 ∧ 2 = 128 / 64 ∧ xIn.arg 8 8 % 64 = 0 ∧ (11 * 2 ^ 36 + 64) % 64 = 0 ∧ 128 % 64 = 0 ∧ 64 ≤ 128 ∧ 128 ≤ 16777216 ∧ xIn.arg 28 1 < 2 ∧ 11 < 12 ∧ (11 * 2 ^ 36 + 64 + 128 - 1) / 2 ^ 36 = 11 ∧ protectedLine ((11 * 2 ^ 36 + 64) % 2 ^ 36 / 64 + 2 - 1) = false ∧ stInHeld.mod.hostBlocked 11 = true) ∧
    (stMoveFar.Up ∧ stMoveFar.Inv ∧ 15 < 16 ∧ stMoveFar.mod.nextCmd 15 = some xMoveFar ∧ xMoveFar.op = 3 ∧ xMoveFar.formed = true ∧ 128 = xMoveFar.arg 24 4 ∧ 12 * 2 ^ 36 = xMoveFar.arg 16 8 ∧ 12 = 12 * 2 ^ 36 / 2 ^ 36 ∧ 2 = 128 / 64 ∧ xMoveFar.arg 8 8 % 64 = 0 ∧ 12 * 2 ^ 36 % 64 = 0 ∧ 128 % 64 = 0 ∧ 64 ≤ 128 ∧ 128 ≤ 16777216 ∧ xMoveFar.arg 28 1 < 2 ∧ (12 ≤ 12 ∨ (12 * 2 ^ 36 + 128 - 1) / 2 ^ 36 ≠ 12 ∨ protectedLine (12 * 2 ^ 36 % 2 ^ 36 / 64 + 2 - 1) = true)) ∧
    (stMoveOdd.Up ∧ stMoveOdd.Inv ∧ 15 < 16 ∧ stMoveOdd.mod.nextCmd 15 = some xMoveOdd ∧ xMoveOdd.op = 3 ∧ xMoveOdd.formed = true ∧ 128 = xMoveOdd.arg 24 4 ∧ 32 = xMoveOdd.arg 16 8 ∧ 0 = 32 / 2 ^ 36 ∧ 2 = 128 / 64 ∧ (xMoveOdd.arg 8 8 % 64 ≠ 0 ∨ 32 % 64 ≠ 0 ∨ 128 % 64 ≠ 0 ∨ 128 < 64 ∨ 16777216 < 128 ∨ 1 < xMoveOdd.arg 28 1)) ∧
    (stNopC.Up ∧ stNopC.Inv ∧ 15 < 16 ∧ stNopC.mod.nextCmd 15 = some xNop ∧ xNop.op = 0 ∧ xNop.formed = true) ∧
    (stRdy.Up ∧ stRdy.Inv ∧ 15 < 16 ∧ stRdy.mod.nextCmd 15 = some xRdy ∧ xRdy.op = 2 ∧ xRdy.formed = true ∧ 98303 = xRdy.arg 8 4 ∧ 98303 ≤ 98303 ∧ stRdy.mod.hostBlocked xRdy.chan = false ∧ stRdy.cutOff xRdy.chan = false ∧ (stRdy.chan xRdy.chan).keepsStreams = true ∧ (stRdy.chan xRdy.chan).haltedOn 98303 = [(1535, 15)] ∧ 15 < 16 ∧ ((stRdy.chan xRdy.chan).lan 1535).stmState 15 = 3) ∧
    (stRdyFar.Up ∧ stRdyFar.Inv ∧ 15 < 16 ∧ stRdyFar.mod.nextCmd 15 = some xRdyFar ∧ xRdyFar.op = 2 ∧ xRdyFar.formed = true ∧ 98304 = xRdyFar.arg 8 4 ∧ 98303 < 98304) ∧
    (stRdyNone.Up ∧ stRdyNone.Inv ∧ 15 < 16 ∧ stRdyNone.mod.nextCmd 15 = some xRdy ∧ xRdy.op = 2 ∧ xRdy.formed = true ∧ 98303 = xRdy.arg 8 4 ∧ 98303 ≤ 98303 ∧ stRdyNone.mod.hostBlocked xRdy.chan = false ∧ stRdyNone.cutOff xRdy.chan = false ∧ (stRdyNone.chan xRdy.chan).haltedOn 98303 = []) := by
  repeat' (first | with_reducible apply And.intro | (delta State.Inv State.Up))
  all_goals
    first | decide +kernel | (refine next_stateOf ?_; decide +kernel) | exact ⟨_, rfl, by decide +kernel⟩ | (constructor <;> decide +kernel)

theorem witness_RingsAndHostCommands_4 :
    (stRegW.Up ∧ stRegW.Inv ∧ 15 < 16 ∧ stRegW.mod.nextCmd 15 = some xReg ∧ xReg.op = 5 ∧ xReg.formed = true ∧ xReg.slot 0 = (2 ^ 63 + wAddr, 9) ∧ isSet (2 ^ 63 + wAddr) 63 = true ∧ isSet (xReg.slot 1).fst 63 = false ∧ isSet (xReg.slot 2).fst 63 = false ∧ winBase 0 ≤ (2 ^ 63 + wAddr) % 2 ^ 48 ∧ stRegW.cutOffAt ((2 ^ 63 + wAddr) % 2 ^ 48) = false) ∧
    (stRingIdle.Up ∧ stRingIdle.Inv ∧ 15 < 16 ∧ 5 = 5 % 2 ^ 16 ∧ stRingIdle.mod.eff F.HP_RING_CFG_EN 15 ≠ 0 ∧ (stRingIdle.mod.ring 15).stopped = false ∧ 5 < 2 ^ (stRingIdle.mod.ring 15).cpLog) ∧
    (stRingIdle.Up ∧ stRingIdle.Inv ∧ 15 < 16 ∧ 5 = 5 % 2 ^ 16 ∧ stRingIdle.mod.eff F.HP_RING_CFG_EN 15 ≠ 0 ∧ (stRingIdle.mod.ring 15).stopped = false ∧ 64 = 2 ^ (stRingIdle.mod.ring 15).crLog ∧ 5 < 64 ∧ ((stRingIdle.mod.ring 15).tail + 64 - stRingIdle.mod.crHead 15) % 64 + (5 + 64 - (stRingIdle.mod.ring 15).tail) % 64 < 64) ∧
    (stRingIdle.Up ∧ stRingIdle.Inv ∧ 15 < 16 ∧ 64 = 64 % 2 ^ 16 ∧ stRingIdle.mod.eff F.HP_RING_CFG_EN 15 ≠ 0 ∧ (stRingIdle.mod.ring 15).stopped = false ∧ 2 ^ (stRingIdle.mod.ring 15).cpLog ≤ 64 ∧ stRingIdle.mod.hp.perst = false ∧ stRingIdle.mod.eff F.HP_EVT_EN ≠ 0) ∧
    (stRingIdle.Up ∧ stRingIdle.Inv ∧ 15 < 16 ∧ 64 = 64 % 2 ^ 16 ∧ stRingIdle.mod.eff F.HP_RING_CFG_EN 15 ≠ 0 ∧ (stRingIdle.mod.ring 15).stopped = false ∧ 64 = 2 ^ (stRingIdle.mod.ring 15).crLog ∧ (64 ≤ 64 ∨ 64 ≤ ((stRingIdle.mod.ring 15).tail + 64 - stRingIdle.mod.crHead 15) % 64 + (64 + 64 - (stRingIdle.mod.ring 15).tail) % 64) ∧ stRingIdle.mod.hp.perst = false ∧ stRingIdle.mod.eff F.HP_EVT_EN ≠ 0) ∧
    (stRingOff.Up ∧ stRingOff.Inv ∧ 15 < 16 ∧ (2 ≠ 4 ∨ 0 ≠ 0 ∧ 0 ≠ 8)) ∧
    (stRingOff.Up ∧ stRingOff.Inv ∧ 15 < 16 ∧ (stRingOff.mod.eff F.HP_RING_CFG_EN 15 = 0 ∨ (stRingOff.mod.ring 15).stopped = true)) ∧
    (stRingOff.Up ∧ stRingOff.Inv ∧ 15 < 16 ∧ stRingOff.mod.r F.HP_RING_CFG_EN 15 = 0 ∧ stRingOff.mod.eff F.HP_RING_CFG_EN 15 = 0 ∧ stRingOff.mod.r F.HP_RING_CFG_CP_LOG2 15 < 32) := by
  repeat' (first | with_reducible apply And.intro | (delta State.Inv State.Up))
  all_goals
    first | decide +kernel | (refine next_stateOf ?_; decide +kernel) | exact ⟨_, rfl, by decide +kernel⟩ | (constructor <;> decide +kernel)

theorem witness_RingsAndHostCommands_5 :
    (stRingOff.Up ∧ stRingOff.Inv ∧ 15 < 16 ∧ stRingOff.mod.r F.HP_RING_CFG_EN 15 = 0 ∧ stRingOff.mod.eff F.HP_RING_CFG_EN 15 = 0 ∧ stRingOff.mod.r F.HP_RING_CFG_CR_LOG2 15 < 32) ∧
    (stSix.Up ∧ stSix.Inv ∧ 15 < 16 ∧ stSix.mod.nextCmd 15 = some xSix ∧ 5 < xSix.op) ∧
    (stSnap.Up ∧ stSnap.Inv ∧ 15 < 16 ∧ stSnap.mod.nextCmd 15 = some xSnapOk ∧ xSnapOk.op = 4 ∧ xSnapOk.formed = true ∧ winBase 11 + 264 = xSnapOk.arg 8 8 ∧ 64 = xSnapOk.arg 16 8 ∧ 8 = xSnapOk.arg 24 4 ∧ (winBase 11 + 264) % 8 = 0 ∧ 64 % 64 = 0 ∧ 8 % 8 = 0 ∧ 8 ≤ 8 ∧ 8 ≤ 4096 ∧ snapRange (winBase 11 + 264) 8 = true ∧ stSnap.cutOffAt (winBase 11 + 264) = false ∧ 8 = 8) ∧
    (stSnapOdd.Up ∧ stSnapOdd.Inv ∧ 15 < 16 ∧ stSnapOdd.mod.nextCmd 15 = some xSnapOdd ∧ xSnapOdd.op = 4 ∧ xSnapOdd.formed = true ∧ winBase 11 = xSnapOdd.arg 8 8 ∧ 64 = xSnapOdd.arg 16 8 ∧ 12 = xSnapOdd.arg 24 4 ∧ (winBase 11 % 8 ≠ 0 ∨ 64 % 64 ≠ 0 ∨ 12 % 8 ≠ 0 ∨ 12 < 8 ∨ 4096 < 12)) ∧
    (stSnapSp.Up ∧ stSnapSp.Inv ∧ 15 < 16 ∧ stSnapSp.mod.nextCmd 15 = some xSnapSp ∧ xSnapSp.op = 4 ∧ xSnapSp.formed = true ∧ winBase 11 + lanBase 3 + 61440 = xSnapSp.arg 8 8 ∧ 64 = xSnapSp.arg 16 8 ∧ 8 = xSnapSp.arg 24 4 ∧ (winBase 11 + lanBase 3 + 61440) % 8 = 0 ∧ 64 % 64 = 0 ∧ 8 % 8 = 0 ∧ 8 ≤ 8 ∧ 8 ≤ 4096 ∧ snapRange (winBase 11 + lanBase 3 + 61440) 8 = false) := by
  repeat' (first | with_reducible apply And.intro | (delta State.Inv State.Up))
  all_goals
    first | decide +kernel | (refine next_stateOf ?_; decide +kernel) | exact ⟨_, rfl, by decide +kernel⟩ | (constructor <;> decide +kernel)

theorem witness_ResetAndTheLight_1 :
    (stBoot.Inv ∧ stBoot.Up ∧ 0 < 2 ∧ ((stBoot.mod.half 0).fresh = false ∨ (stBoot.mod.half 0).heard = none) ∧ false = false) ∧
    (stBoot.Inv ∧ stBoot.Up ∧ 0 < 2 ∧ ((stBoot.mod.half 0).fresh = false ∨ (stBoot.mod.half 0).heard = none) ∧ true = true) ∧
    (stBoot.Inv ∧ stBoot.Up ∧ 0 < 2 ∧ stBoot.mod.GrantStands ∧ ¬0 ∈ ([1] : List Nat) ∧ (stBoot.mod.half 0).role < 4 ∧ stBoot.mod.r F.HP_LIGHT_DARK_OK < 2) ∧
    (stBoot.Inv ∧ stBoot.Up ∧ 0 < 2 ∧ stBoot.mod.boot.grant = none ∧ stBoot.mod.boot.granted = false ∧ (stBoot.mod.half (1 - 0)).run < 3 ∧ tokenValid 7 = false) ∧
    (stBoot.Inv ∧ stBoot.Up ∧ 0 < 2 ∧ stBoot.mod.boot.ms < (stBoot.mod.half 0).sentAt + 16) ∧
    (stBoot.Inv ∧ stBoot.Up ∧ 1 < 2 ∧ stBoot.mod.GrantStands ∧ 1 ∈ ([1] : List Nat)) ∧
    (stBoot.Inv ∧ stBoot.Up ∧ 1 < 2 ∧ stBoot.mod.boot.pref ≠ 1 ∧ (stBoot.mod.half 1).test = some true ∧ (stBoot.mod.half 1).role = 0 ∧ (stBoot.mod.half 1).heard = none ∧ (stBoot.mod.half 1).start + 20 ≤ stBoot.mod.boot.ms) ∧
    (stClaimed.Inv ∧ stClaimed.Up ∧ 0 < 2 ∧ stClaimed.mod.boot.grant = none ∧ stClaimed.mod.boot.granted = false ∧ (stClaimed.mod.half (1 - 0)).run < 3 ∧ stClaimed.mod.ThirdLit 0 litW) := by
  repeat' (first | with_reducible apply And.intro | (delta Bridge.GrantStands State.Inv State.Up))
  all_goals
    first | with_reducible exact stCycle_stalled | with_reducible exact calLan_rep0 | decide +kernel | (refine next_stateOf ?_; decide +kernel) | exact List.getElem_mem _ | exact ⟨_, rfl, by decide +kernel⟩ | (intro _ _; simp; done) | (intro _; rfl) | (intro _ h; cases h; done) | (intro _ _ h; cases h; done) | exact ⟨by decide +kernel, by decide +kernel, by decide +kernel, ⟨99, by decide +kernel, by decide +kernel⟩⟩ | exact ⟨10, by decide +kernel, ⟨11, by decide +kernel, by decide +kernel⟩, by decide +kernel⟩ | rfl | exact ⟨99, by decide +kernel, by decide +kernel⟩ | (simp; done) | (intro d hd; obtain ⟨h1, h2⟩ := hd; revert d; decide +kernel) | (constructor <;> decide +kernel)

theorem witness_ResetAndTheLight_2 :
    (stElectNot.Inv ∧ stElectNot.Up ∧ 1 < 2 ∧ stElectNot.mod.boot.pref ≠ 1 ∧ (stElectNot.mod.half 1).test = some true ∧ (stElectNot.mod.half 1).role = 0 ∧ (stElectNot.mod.half 1).heard = none ∧ stElectNot.mod.boot.ms < (stElectNot.mod.half 1).start + 20) ∧
    (stFresh.Inv ∧ stFresh.Up ∧ 1 < 2 ∧ (stFresh.mod.half 1).sentAt + 16 ≤ stFresh.mod.boot.ms) ∧
    (stFreshHeard.Inv ∧ stFreshHeard.Up ∧ 1 < 2 ∧ (stFreshHeard.mod.half 1).fresh = true ∧ (stFreshHeard.mod.half 1).heard ≠ none ∧ stFreshHeard.mod.boot.grant = some (1 - 1) ∧ stFreshHeard.mod.boot.image = some img0) ∧
    (stHeard.Inv ∧ stHeard.Up ∧ 0 < 2 ∧ (stHeard.mod.half 0).heard = some 92 ∧ (stHeard.mod.half 0).test = some true ∧ (stHeard.mod.half 0).role = 0 ∧ stHeard.mod.boot.grant ≠ some 0 ∧ 92 + 8 ≤ stHeard.mod.boot.ms) ∧
    (stHeard.Inv ∧ stHeard.Up ∧ 1 < 2 ∧ (stHeard.mod.half 1).heard = some 93 ∧ (stHeard.mod.half 1).test = some true ∧ (stHeard.mod.half 1).role = 0 ∧ stHeard.mod.boot.grant ≠ some 1 ∧ stHeard.mod.boot.ms < 93 + 8) ∧
    (stInReset.Inv ∧ stInReset.mod.boot.inReset = true) ∧
    (stMove0.Inv ∧ stMove0.Up ∧ 0 < 2 ∧ stMove0.mod.boot.grant = some 0 ∧ (stMove0.mod.half 0).last = some (91, 1) ∧ 91 + 8 ≤ stMove0.mod.boot.ms ∧ (stMove0.mod.half (1 - 0)).run < 3) ∧
    (stMove0.Inv ∧ stMove0.Up ∧ 1 < 2 ∧ stMove0.mod.boot.grant = some (1 - 1) ∧ stMove0.mod.boot.granted = true ∧ stMove0.mod.r F.HP_LIGHT_LIT = 1 - 1 ∧ (stMove0.mod.half (1 - 1)).last = some (91, 1) ∧ 91 + 8 < stMove0.mod.boot.ms ∧ stMove0.mod.ThirdLit 1 litW ∧ stMove0.mod.r F.ERR_MOD_STATUS_ENTRIES < 64 ∧ (∀ (q : PendRec), q ∈ stMove0.mod.pend → q.unit ≠ unitWord 0 13 0 1 0) ∧ (stMove0.mod.half 1).held = 0) := by
  repeat' (first | with_reducible apply And.intro | (delta State.Inv State.Up))
  all_goals
    first | with_reducible exact stCycle_stalled | with_reducible exact calLan_rep0 | decide +kernel | (refine next_stateOf ?_; decide +kernel) | exact List.getElem_mem _ | exact ⟨_, rfl, by decide +kernel⟩ | (intro _ _; simp; done) | (intro _; rfl) | (intro _ h; cases h; done) | (intro _ _ h; cases h; done) | exact ⟨by decide +kernel, by decide +kernel, by decide +kernel, ⟨99, by decide +kernel, by decide +kernel⟩⟩ | exact ⟨10, by decide +kernel, ⟨11, by decide +kernel, by decide +kernel⟩, by decide +kernel⟩ | rfl | exact ⟨99, by decide +kernel, by decide +kernel⟩ | (simp; done) | (intro d hd; obtain ⟨h1, h2⟩ := hd; revert d; decide +kernel) | (constructor <;> decide +kernel)

theorem witness_ResetAndTheLight_3 :
    (stMove9.Inv ∧ stMove9.Up ∧ 1 < 2 ∧ stMove9.mod.boot.grant = some (1 - 1) ∧ stMove9.mod.boot.granted = true ∧ stMove9.mod.r F.HP_LIGHT_LIT = 1 - 1 ∧ (stMove9.mod.half (1 - 1)).last = some (91, 1) ∧ 91 + 8 < stMove9.mod.boot.ms ∧ stMove9.mod.ThirdLit 1 litW ∧ stMove9.mod.r F.ERR_MOD_STATUS_ENTRIES < 64 ∧ (∀ (q : PendRec), q ∈ stMove9.mod.pend → q.unit ≠ unitWord 0 13 0 1 0) ∧ (stMove9.mod.half 1).held ≠ 0 ∧ stMove9.Runs 11 ∧ (stMove9.chan 11).hostBusy = false) ∧
    (stMoveBusy.Inv ∧ stMoveBusy.Up ∧ 1 < 2 ∧ stMoveBusy.mod.boot.grant = some (1 - 1) ∧ stMoveBusy.mod.boot.granted = true ∧ stMoveBusy.mod.r F.HP_LIGHT_LIT = 1 - 1 ∧ (stMoveBusy.mod.half (1 - 1)).last = some (91, 1) ∧ 91 + 8 < stMoveBusy.mod.boot.ms ∧ stMoveBusy.mod.ThirdLit 1 litW ∧ stMoveBusy.mod.r F.ERR_MOD_STATUS_ENTRIES < 64 ∧ (∀ (q : PendRec), q ∈ stMoveBusy.mod.pend → q.unit ≠ unitWord 0 13 0 1 0) ∧ (stMoveBusy.mod.half 1).held ≠ 0 ∧ stMoveBusy.Runs 11 ∧ (stMoveBusy.chan 11).hostBusy = true ∧ (stMoveBusy.chan 11).r F.CH_INFO_HOST_VIA ≠ 1) := by
  repeat' (first | with_reducible apply And.intro | (delta State.Inv State.Runs State.Up))
  all_goals
    first | with_reducible exact stCycle_stalled | with_reducible exact calLan_rep0 | decide +kernel | (refine next_stateOf ?_; decide +kernel) | exact List.getElem_mem _ | exact ⟨_, rfl, by decide +kernel⟩ | (intro _ _; simp; done) | (intro _; rfl) | (intro _ h; cases h; done) | (intro _ _ h; cases h; done) | exact ⟨by decide +kernel, by decide +kernel, by decide +kernel, ⟨99, by decide +kernel, by decide +kernel⟩⟩ | exact ⟨10, by decide +kernel, ⟨11, by decide +kernel, by decide +kernel⟩, by decide +kernel⟩ | rfl | exact ⟨99, by decide +kernel, by decide +kernel⟩ | (simp; done) | (intro d hd; obtain ⟨h1, h2⟩ := hd; revert d; decide +kernel) | (constructor <;> decide +kernel)

theorem witness_StartUpAndIdentity_1 :
    (stBusy.Up ∧ stBusy.Inv ∧ 0 < 2 ^ 26 ∧ stBusy.mod.r F.SEC_FLASH_STAT_BUSY = 1) ∧
    (stBusy.Up ∧ stBusy.Inv ∧ stBusy.mod.boot.fcmd = some (2, 1, 65536)) ∧
    (stBusy0.Up ∧ stBusy0.Inv ∧ stBusy0.mod.boot.fcmd = some (0, 1, 65536) ∧ 0 = 0) ∧
    (stCal0.Up ∧ stCal0.Inv ∧ 11 < 12 ∧ stCal0.mod.r F.MOD_BOOT_STAGE = 3 ∧ ¬11 ∈ stCal0.mod.boot.reported ∧ ¬11 ∈ stCal0.mod.boot.failedCh ∧ 0 = stCal0.mod.boot.reported.length + stCal0.mod.boot.failedCh.length ∧ 0 < 11) ∧
    (stCal0.Up ∧ stCal0.Inv ∧ 11 < 12 ∧ stCal0.mod.r F.MOD_BOOT_STAGE = 3 ∧ ¬11 ∈ stCal0.mod.boot.reported ∧ ¬11 ∈ stCal0.mod.boot.failedCh ∧ 0 = stCal0.mod.boot.reported.length + stCal0.mod.boot.failedCh.length ∧ rep0.rate = some 0 ∧ 1408 ≤ (List.filter (calLanOk rep0) (upto 1536)).length ∧ 0 < 11) ∧
    (stCal0.Up ∧ stCal0.Inv ∧ 11 < 12 ∧ stCal0.mod.r F.MOD_BOOT_STAGE = 3 ∧ ¬11 ∈ stCal0.mod.boot.reported ∧ ¬11 ∈ stCal0.mod.boot.failedCh ∧ 0 = stCal0.mod.boot.reported.length + stCal0.mod.boot.failedCh.length ∧ repNo.rate = none ∧ 0 < 11 ∧ (stCal0.chan 11).r F.ERR_STATUS_FATAL = 0) ∧
    (stCal11.Up ∧ stCal11.Inv ∧ 11 < 12 ∧ stCal11.mod.r F.MOD_BOOT_STAGE = 3 ∧ ¬11 ∈ stCal11.mod.boot.reported ∧ ¬11 ∈ stCal11.mod.boot.failedCh ∧ 11 = stCal11.mod.boot.reported.length + stCal11.mod.boot.failedCh.length ∧ 11 = 11 ∧ stCal11.mod.boot.failedCh = [] ∧ stCal11.mod.boot.image = some img11 ∧ img11.without 11 = some 3) ∧
    (stCal11.Up ∧ stCal11.Inv ∧ 11 < 12 ∧ stCal11.mod.r F.MOD_BOOT_STAGE = 3 ∧ ¬11 ∈ stCal11.mod.boot.reported ∧ ¬11 ∈ stCal11.mod.boot.failedCh ∧ 11 = stCal11.mod.boot.reported.length + stCal11.mod.boot.failedCh.length ∧ rep0.rate = some 0 ∧ 1408 ≤ (List.filter (calLanOk rep0) (upto 1536)).length ∧ 11 = 11 ∧ stCal11.mod.boot.failedCh = []) := by
  repeat' (first | with_reducible apply And.intro | (delta State.Inv State.Up))
  all_goals
    first | with_reducible exact stCycle_stalled | with_reducible exact calLan_rep0 | decide +kernel | (refine next_stateOf ?_; decide +kernel) | exact List.getElem_mem _ | exact ⟨_, rfl, by decide +kernel⟩ | (intro _ _; simp; done) | (intro _; rfl) | (intro _ h; cases h; done) | (intro _ _ h; cases h; done) | exact ⟨by decide +kernel, by decide +kernel, by decide +kernel, ⟨99, by decide +kernel, by decide +kernel⟩⟩ | exact ⟨10, by decide +kernel, ⟨11, by decide +kernel, by decide +kernel⟩, by decide +kernel⟩ | rfl | exact ⟨99, by decide +kernel, by decide +kernel⟩ | (simp; done) | (intro d hd; obtain ⟨h1, h2⟩ := hd; revert d; decide +kernel) | (constructor <;> decide +kernel)

theorem witness_StartUpAndIdentity_2 :
    (stCal11f.Up ∧ stCal11f.Inv ∧ 11 < 12 ∧ stCal11f.mod.r F.MOD_BOOT_STAGE = 3 ∧ ¬11 ∈ stCal11f.mod.boot.reported ∧ ¬11 ∈ stCal11f.mod.boot.failedCh ∧ 11 = stCal11f.mod.boot.reported.length + stCal11f.mod.boot.failedCh.length ∧ 11 = 11 ∧ stCal11f.mod.boot.failedCh ≠ []) ∧
    (stDist0.Up ∧ stDist0.Inv ∧ 11 < 12 ∧ stDist0.mod.boot.image = some img0 ∧ stDist0.mod.r F.MOD_BOOT_STAGE = 2 ∧ ¬11 ∈ stDist0.mod.boot.landed ∧ (stDist0.bootChannel img0 11).imageOk (stDist0.mod.r F.MOD_LEVEL_LEVEL) = true ∧ isSet stDist0.mod.boot.p2 11 = true) ∧
    (stDist0.Up ∧ stDist0.Inv ∧ 11 < 12 ∧ stDist0.mod.boot.image = some img0 ∧ stDist0.mod.r F.MOD_BOOT_STAGE = 2 ∧ ¬11 ∈ stDist0.mod.boot.landed ∧ stDist0.mod.r F.MOD_BOOT_SOURCE = 0) ∧
    (stDistBad.Up ∧ stDistBad.Inv ∧ 11 < 12 ∧ stDistBad.mod.boot.image = some imgBad ∧ stDistBad.mod.r F.MOD_BOOT_STAGE = 2 ∧ ¬11 ∈ stDistBad.mod.boot.landed ∧ (stDistBad.bootChannel imgBad 11).imageOk (stDistBad.mod.r F.MOD_LEVEL_LEVEL) = false ∧ stDistBad.mod.r F.MOD_BOOT_SOURCE = 0) ∧
    (stDistR.Up ∧ stDistR.Inv ∧ 0 < 12 ∧ stDistR.mod.boot.image = some imgBad ∧ stDistR.mod.r F.MOD_BOOT_STAGE = 2 ∧ ¬0 ∈ stDistR.mod.boot.landed ∧ (stDistR.bootChannel imgBad 0).imageOk (stDistR.mod.r F.MOD_LEVEL_LEVEL) = false ∧ stDistR.mod.r F.MOD_BOOT_SOURCE ≠ 0) ∧
    (stDistR.Up ∧ stDistR.Inv ∧ 0 < 12 ∧ stDistR.mod.boot.image = some imgBad ∧ stDistR.mod.r F.MOD_BOOT_STAGE = 2 ∧ ¬0 ∈ stDistR.mod.boot.landed ∧ stDistR.mod.r F.MOD_BOOT_SOURCE ≠ 0) ∧
    (stGoLoads.Up ∧ stGoLoads.Inv ∧ stGoLoads.mod.r F.MOD_BOOT_STAGE = 4 ∧ stGoLoads.mod.boot.going = false ∧ stGoLoads.Runs 11 ∧ (stGoLoads.chan 11).r F.CH_INFO_USABLE = 1 ∧ (∃ b, b ∈ (stGoLoads.chan 11).blocks ∧ 0 < b.lines)) ∧
    (stGoing.Up ∧ stGoing.Inv ∧ stGoing.mod.r F.MOD_BOOT_STAGE = 4 ∧ stGoing.mod.boot.going = true) := by
  repeat' (first | with_reducible apply And.intro | (delta State.Inv State.Runs State.Up))
  all_goals
    first | decide +kernel | (refine next_stateOf ?_; decide +kernel) | exact ⟨_, rfl, by decide +kernel⟩ | (constructor <;> decide +kernel)

theorem witness_StartUpAndIdentity_3 :
    (stIdOk.Up ∧ stIdOk.Inv ∧ stIdOk.mod.r F.MOD_BOOT_ID_OK ≠ 0) ∧
    (stProgram.Up ∧ stProgram.Inv ∧ stProgram.mod.boot.fcmd = some (1, 1, 65536) ∧ Memory.wf (stProgram.mod.boot.flash.getD 1 []) = true ∧ 1 = 1 ∧ stProgram.mod.boot.fpage.length = 256) ∧
    (stVerifyP.Up ∧ stVerifyP.Inv ∧ 0 < 2 ^ 26 ∧ stVerifyP.mod.r F.SEC_FLASH_STAT_BUSY = 0 ∧ 0 % 256 = 0 ∧ 0 < 65536) ∧
    (stVerifyP.Up ∧ stVerifyP.Inv ∧ 0 < 2 ^ 26 ∧ stVerifyP.mod.r F.SEC_FLASH_STAT_BUSY = 0 ∧ 0 = 0) ∧
    (stVerifyP.Up ∧ stVerifyP.Inv ∧ 2 ^ 26 - 256 < 2 ^ 26 ∧ stVerifyP.mod.r F.SEC_FLASH_STAT_BUSY = 0 ∧ (2 ^ 26 - 256) % 256 = 0 ∧ 65536 ≤ 2 ^ 26 - 256) ∧
    (stVerifyP.Up ∧ stVerifyP.Inv ∧ 2 ^ 26 - 256 < 2 ^ 26 ∧ stVerifyP.mod.r F.SEC_FLASH_STAT_BUSY = 0 ∧ (2 ^ 26 - 256) % 65536 ≠ 0) ∧
    (stVerifyP.Up ∧ stVerifyP.Inv ∧ 65536 < 2 ^ 26 ∧ stVerifyP.mod.r F.SEC_FLASH_STAT_BUSY = 0 ∧ 65536 % 65536 = 0 ∧ 65536 ≤ 65536) ∧
    (stVerifyP.Up ∧ stVerifyP.Inv ∧ stVerifyP.mod.boot.grant ≠ none ∧ stVerifyP.mod.r F.MOD_BOOT_STAGE = 1 ∧ stVerifyP.mod.r F.MOD_BOOT_SOURCE = 0) := by
  repeat' (first | with_reducible apply And.intro | (delta State.Inv State.Up))
  all_goals
    first | decide +kernel | (refine next_stateOf ?_; decide +kernel) | exact ⟨_, rfl, by decide +kernel⟩ | (constructor <;> decide +kernel)

theorem witness_StartUpAndIdentity_4 :
    (stVerifyP.Up ∧ stVerifyP.Inv ∧ stVerifyP.mod.r F.MOD_BOOT_ID_OK = 0) ∧
    (stVerifyP.Up ∧ stVerifyP.Inv ∧ stVerifyP.mod.r F.MOD_BOOT_STAGE ≠ 4) ∧
    (stVerifyR.Up ∧ stVerifyR.Inv ∧ stVerifyR.mod.boot.grant ≠ none ∧ stVerifyR.mod.r F.MOD_BOOT_STAGE = 1 ∧ stVerifyR.mod.r F.MOD_BOOT_SOURCE ≠ 0) ∧
    (stWaitGo.Up ∧ stWaitGo.Inv ∧ stWaitGo.mod.r F.MOD_BOOT_STAGE = 4 ∧ stWaitGo.mod.boot.going = false ∧ (∀ (x : Nat × Channel), x ∈ stWaitGo.chans → x.snd.ctx.loads = [] ∧ x.snd.blocks = []) ∧ stWaitGo.Runs 11) := by
  repeat' (first | with_reducible apply And.intro | (delta State.Inv State.Runs State.Up))
  all_goals
    first | decide +kernel | (refine next_stateOf ?_; decide +kernel) | exact ⟨_, rfl, by decide +kernel⟩ | (constructor <;> decide +kernel)

theorem witness_ErrorsSparesAndDumps_1 :
    (stCopy1.Inv ∧ stCopy1.Up ∧ stCopy1.mod.boot.copyAt < stCopy1.mod.eff F.ERR_DUMP_SIZE_MIB * 2 ^ 20 ∧ (stCopy1.chan 11).dumpFlying = false ∧ (List.find? (fun e => (stCopy1.chan e).dumps && !stCopy1.mod.boot.copied.contains e) (upto 12) = some 11) ∧ (stCopy1.chan 11).r F.ERR_STATUS_DUMP_DONE = 1 ∧ 4096 = stCopy1.mod.eff F.ERR_DUMP_HOST_ADDR * 4096 ∧ 0 = stCopy1.mod.boot.copied.length ∧ 0 < 12 ∧ (∀ (e : Nat), e < 12 → (stCopy1.chan e).dumps = true → e = 11 ∨ e ∈ stCopy1.mod.boot.copied)) ∧
    (stDump.Inv ∧ stDump.Up ∧ stDump.Runs 11 ∧ (stDump.chan 11).err.dumping = some (7, 300, true)) ∧
    (stFatalCh.Inv ∧ stFatalCh.Up ∧ stFatalCh.Runs 11 ∧ (stFatalCh.chan 11).r F.ERR_STATUS_FATAL = 1) ∧
    (stFogOut.Inv ∧ stFogOut.Up ∧ (stFogOut.mod.boot.fogOut = true ∨ stFogOut.mod.eff F.ERR_MOD_CFG_FOG_IN_EN = 0)) ∧
    (stFogWait0.Inv ∧ stFogWait0.Up ∧ stFogWait0.mod.boot.fogWait = true ∧ stFogWait0.mod.eff F.ERR_MOD_CFG_FOG_ACT ≠ 1) ∧
    (stFogWait1.Inv ∧ stFogWait1.Up ∧ stFogWait1.mod.boot.fogWait = true ∧ stFogWait1.mod.eff F.ERR_MOD_CFG_FOG_ACT = 1) ∧
    (stLoss.Inv ∧ stLoss.Up ∧ stLoss.Runs 11 ∧ (List.find? (fun x => x.fst == 11) stLoss.mod.lossDue = some (11, 193)) ∧ stLoss.mod.r F.ERR_MOD_STATUS_ENTRIES < 63 ∧ (∃ img, stLoss.mod.boot.image = some img ∧ img.placeMask (stLoss.mod.r F.MOD_BOOT_PLACE) = 4095 ∧ img.without 11 = some 3) ∧ stLoss.mod.boot.order = none ∧ ¬11 ∈ stLoss.mod.boot.failedCh ∧ (stLoss.chan 11).err.dumping = none ∧ (stLoss.chan 11).err.dumped = false) ∧
    (stLoss.Inv ∧ stLoss.Up ∧ stLoss.Runs 11 ∧ (List.find? (fun x => x.fst == 11) stLoss.mod.lossDue = some (11, 193)) ∧ stLoss.mod.r F.ERR_MOD_STATUS_ENTRIES < 63 ∧ (∃ img, stLoss.mod.boot.image = some img ∧ img.placeMask (stLoss.mod.r F.MOD_BOOT_PLACE) = 4095 ∧ img.without 11 = some 3) ∧ stLoss.mod.boot.order = none ∧ ¬11 ∈ stLoss.mod.boot.failedCh ∧ 0 ≠ 11) := by
  repeat' (first | with_reducible apply And.intro | (delta State.Inv State.Runs State.Up))
  all_goals
    first | decide +kernel | (refine next_stateOf ?_; decide +kernel) | exact ⟨_, rfl, by decide +kernel⟩ | (constructor <;> decide +kernel)

theorem witness_ErrorsSparesAndDumps_2 :
    (stLossFailed.Inv ∧ stLossFailed.Up ∧ stLossFailed.Runs 11 ∧ (List.find? (fun x => x.fst == 11) stLossFailed.mod.lossDue = some (11, 193)) ∧ stLossFailed.mod.r F.ERR_MOD_STATUS_ENTRIES < 64 ∧ 11 ∈ stLossFailed.mod.boot.failedCh) ∧
    (stLossNone.Inv ∧ stLossNone.Up ∧ stLossNone.Runs 11 ∧ (List.find? (fun x => x.fst == 11) stLossNone.mod.lossDue = some (11, 193)) ∧ stLossNone.mod.r F.ERR_MOD_STATUS_ENTRIES < 63 ∧ stLossNone.mod.boot.image = none ∧ stLossNone.mod.r F.ERR_MOD_STATUS_MOD_FATAL ≠ 1 ∧ stLossNone.mod.fatalDue = none ∧ ¬11 ∈ stLossNone.mod.boot.failedCh) ∧
    (stModFatal.Inv ∧ stModFatal.Up ∧ stModFatal.mod.fatalDue = some 224 ∧ stModFatal.Runs 11 ∧ (stModFatal.mod.r F.MOD_BOOT_CH_USABLE).testBit 11 = true ∧ (stModFatal.chan 11).portUp 2 = true) ∧
    (stModTake.Inv ∧ stModTake.Up ∧ 0 < stModTake.mod.r F.ERR_MOD_STATUS_ENTRIES ∧ stModTake.mod.r F.ERR_MOD_STATUS_ENTRIES ≤ 64 ∧ stModTake.mod.Events) ∧
    (stMoveBlk.Inv ∧ stMoveBlk.Up ∧ stMoveBlk.Runs 11 ∧ stMoveBlk.mod.boot.order = some (3, 0, ([1] : List Nat)) ∧ (stMoveBlk.chan 11).ctx.moving = 1 ∧ (stMoveBlk.chan 11).working = [] ∧ (stMoveBlk.chan 11).ctx.loads = [] ∧ (wit15 = ((stMoveBlk.chan 11).applyPlacement 3).modCtx fun x => { known := x.known, seqs := x.seqs, alarmed := x.alarmed, taint := x.taint, alt := x.alt, tables := x.tables, templates := x.templates, cal := x.cal, held := x.held, loads := x.loads, sects := x.sects, place := 3, run := x.run, moving := x.moving, ticking := x.ticking, msg := x.msg, tickTm := x.tickTm, perP := x.perP }) ∧ (∃ b, b ∈ wit15.blocks ∧ 0 < b.lines)) ∧
    (stResume.Inv ∧ stResume.Up ∧ stResume.Runs 11 ∧ stResume.mod.boot.order = some (3, 0, ([1] : List Nat)) ∧ (stResume.chan 11).ctx.loads = [] ∧ ((stResume.chan 11).ctx.moving = 2 → (stResume.chan 11).ctx.place = 3) ∧ ((stResume.chan 11).ctx.moving = 1 → (stResume.chan 11).working = [] ∧ ∀ (b : Resident), b ∈ (((stResume.chan 11).applyPlacement 3).modCtx fun x => { known := x.known, seqs := x.seqs, alarmed := x.alarmed, taint := x.taint, alt := x.alt, tables := x.tables, templates := x.templates, cal := x.cal, held := x.held, loads := x.loads, sects := x.sects, place := 3, run := x.run, moving := x.moving, ticking := x.ticking, msg := x.msg, tickTm := x.tickTm, perP := x.perP }).blocks → b.lines = 0) ∧ ((stResume.chan 11).ctx.moving = 1 ∨ (stResume.chan 11).ctx.moving = 2) ∧ ¬11 ∈ ([1] : List Nat) ∧ (∃ k, k < 12 ∧ (stResume.mod.r F.MOD_BOOT_CH_USABLE).testBit k = true ∧ k ≠ 11 ∧ ¬k ∈ ([1] : List Nat)) ∧ 0 ≠ 11) ∧
    (stResumeLast.Inv ∧ stResumeLast.Up ∧ stResumeLast.Runs 11 ∧ stResumeLast.mod.boot.order = some (3, 0, ([0, 1, 2, 3, 4, 5, 6, 7, 8, 9, 10] : List Nat)) ∧ (stResumeLast.chan 11).ctx.loads = [] ∧ ((stResumeLast.chan 11).ctx.moving = 2 → (stResumeLast.chan 11).ctx.place = 3) ∧ ((stResumeLast.chan 11).ctx.moving = 1 → (stResumeLast.chan 11).working = [] ∧ ∀ (b : Resident), b ∈ (((stResumeLast.chan 11).applyPlacement 3).modCtx fun x => { known := x.known, seqs := x.seqs, alarmed := x.alarmed, taint := x.taint, alt := x.alt, tables := x.tables, templates := x.templates, cal := x.cal, held := x.held, loads := x.loads, sects := x.sects, place := 3, run := x.run, moving := x.moving, ticking := x.ticking, msg := x.msg, tickTm := x.tickTm, perP := x.perP }).blocks → b.lines = 0) ∧ ((stResumeLast.chan 11).ctx.moving = 1 ∨ (stResumeLast.chan 11).ctx.moving = 2) ∧ ¬11 ∈ ([0, 1, 2, 3, 4, 5, 6, 7, 8, 9, 10] : List Nat) ∧ (∀ (k : Nat), k < 12 → (stResumeLast.mod.r F.MOD_BOOT_CH_USABLE).testBit k = true → k = 11 ∨ k ∈ ([0, 1, 2, 3, 4, 5, 6, 7, 8, 9, 10] : List Nat)) ∧ stResumeLast.mod.r F.ERR_MOD_STATUS_ENTRIES < 64) ∧
    (stRetireBlk.Inv ∧ stRetireBlk.Up ∧ stRetireBlk.Runs 11 ∧ 1535 < 1536 ∧ 59 < 60 ∧ (stRetireBlk.chan 11).retireOf 1535 59 = some ret0 ∧ ((stRetireBlk.chan 11).lan 1535).coreOpen ret0.phys = false ∧ lowestSet 64 0 (((stRetireBlk.chan 11).lan 1535).r F.LN_CORE_SPARE_MASK) = some 60 ∧ ret0.spare = none ∧ (∃ b, b ∈ (stRetireBlk.chan 11).coreBlocks 1535 59 ∧ 0 < b.lines)) := by
  repeat' (first | with_reducible apply And.intro | (delta Bridge.Events State.Inv State.Runs State.Up))
  all_goals
    first | decide +kernel | (refine next_stateOf ?_; decide +kernel) | exact ⟨_, rfl, by decide +kernel⟩ | (constructor <;> decide +kernel)

theorem witness_ErrorsSparesAndDumps_3 :
    (stRetireCo.Inv ∧ stRetireCo.Up ∧ stRetireCo.Runs 11 ∧ 1535 < 1536 ∧ 59 < 60 ∧ (stRetireCo.chan 11).retireOf 1535 59 = some ret0 ∧ ((stRetireCo.chan 11).lan 1535).coreOpen ret0.phys = false ∧ lowestSet 64 0 (((stRetireCo.chan 11).lan 1535).r F.LN_CORE_SPARE_MASK) = some 60 ∧ ret0.spare = none ∧ (stRetireCo.chan 11).loading 1535 = false ∧ (∀ (b : Resident), b ∈ (stRetireCo.chan 11).coreBlocks 1535 59 → b.lines = 0) ∧ (stRetireCo.chan 11).CanRecord (unitWord (stRetireCo.chan 11).no 2 1535 ret0.phys 0) ∧ ret0.phys < 64) ∧
    (stRetireTmo.Inv ∧ stRetireTmo.Up ∧ stRetireTmo.Runs 11 ∧ 1535 < 1536 ∧ 59 < 60 ∧ (stRetireTmo.chan 11).retireOf 1535 59 = some ret0 ∧ ((stRetireTmo.chan 11).lan 1535).coreOpen ret0.phys = true ∧ ret0.limit ≤ (stRetireTmo.chan 11).tick ∧ ((stRetireTmo.chan 11).lan 1535).tq.tasks = [] ∧ (stRetireTmo.chan 11).ctx.seqs = []) ∧
    (stTake0.Inv ∧ stTake0.Up ∧ stTake0.Runs 11 ∧ (stTake0.chan 11).entries = 0) ∧
    (stTake0.Inv ∧ stTake0.Up ∧ stTake0.Runs 11 ∧ (stTake0.chan 11).r F.ERR_STATUS_FATAL = 0) ∧
    (stTake0.Inv ∧ stTake0.Up ∧ stTake0.Runs 11 ∧ (stTake0.chan 11).tick % 2 ^ (stTake0.chan 11).r F.ERR_CFG_WIN_LOG2 = 0 ∧ (stTake0.chan 11).err.halved ≠ some (stTake0.chan 11).tick ∧ 2 < 3) ∧
    (stTake0.Inv ∧ stTake0.Up ∧ stTake0.mod.boot.fogOut = false ∧ stTake0.mod.eff F.ERR_MOD_CFG_FOG_IN_EN ≠ 0) ∧
    (stTake0.Inv ∧ stTake0.Up ∧ stTake0.mod.boot.fogWait = false) ∧
    (stTake0.Inv ∧ stTake0.Up ∧ stTake0.mod.eff F.ERR_DUMP_SIZE_MIB * 2 ^ 20 ≤ stTake0.mod.boot.copyAt) := by
  repeat' (first | with_reducible apply And.intro | (delta State.Inv State.Runs State.Up))
  all_goals
    first | decide +kernel | (refine next_stateOf ?_; decide +kernel) | exact ⟨_, rfl, by decide +kernel⟩ | (constructor <;> decide +kernel)

theorem witness_ErrorsSparesAndDumps_4 :
    (stTake0.Inv ∧ stTake0.Up ∧ stTake0.mod.r F.ERR_MOD_STATUS_ENTRIES = 0) ∧
    (stTakeCe.Inv ∧ stTakeCe.Up ∧ stTakeCe.Runs 11 ∧ 0 < (stTakeCe.chan 11).entries ∧ (stTakeCe.chan 11).entries ≤ 64 ∧ (stTakeCe.chan 11).HeadIs pCe ∧ pCe.cls < 2 ∧ pCe.lasting = false ∧ stTakeCe.mod.Events ∧ (stTakeCe.chan 11).fwdMin ≤ bits ((stTakeCe.chan 11).headWords.getD 0 0) 33 32) ∧
    (stTakeNo.Inv ∧ stTakeNo.Up ∧ stTakeNo.Runs 11 ∧ 0 < (stTakeNo.chan 11).entries ∧ (stTakeNo.chan 11).entries ≤ 64 ∧ (stTakeNo.chan 11).HeadIs pCe ∧ pCe.cls < 2 ∧ pCe.lasting = false ∧ bits ((stTakeNo.chan 11).headWords.getD 0 0) 33 32 < (stTakeNo.chan 11).fwdMin) ∧
    (stTakeSlice.Inv ∧ stTakeSlice.Up ∧ stTakeSlice.Runs 11 ∧ 0 < (stTakeSlice.chan 11).entries ∧ (stTakeSlice.chan 11).entries ≤ 64 ∧ (stTakeSlice.chan 11).HeadIs pSlice ∧ pSlice.cls < 2 ∧ pSlice.lasting = true ∧ pSlice.cause = 160 ∧ 1535 = unitGrid pSlice.unit ∧ 63 = bits pSlice.unit 20 15 ∧ 15 = bits pSlice.unit 25 21 ∧ 15 < 16 ∧ ((stTakeSlice.chan 11).lan 1535).r F.CO_SLICEMAP_SPARE_FOR 63 = 31 ∧ ((stTakeSlice.chan 11).lan 1535).r F.CO_SLICEMAP_SLICE_BAD 63 = 0) ∧
    (stWinNot.Inv ∧ stWinNot.Up ∧ stWinNot.Runs 11 ∧ ((stWinNot.chan 11).tick % 2 ^ (stWinNot.chan 11).r F.ERR_CFG_WIN_LOG2 ≠ 0 ∨ (stWinNot.chan 11).err.halved = some (stWinNot.chan 11).tick)) ∧
    ((stRetireLoading [] : State).Inv ∧ (stRetireLoading [] : State).Up ∧ (stRetireLoading [] : State).Runs 11 ∧ 1535 < 1536 ∧ 59 < 60 ∧ ((stRetireLoading [] : State).chan 11).retireOf 1535 59 = some ret1 ∧ ret1.spare = some 60 ∧ ((stRetireLoading [] : State).chan 11).loading 1535 = false ∧ ((stRetireLoading [] : State).chan 11).CanRecord (unitWord ((stRetireLoading [] : State).chan 11).no 2 1535 ret1.phys 0)) ∧
    ((stRetireLoading [(1535, 16)] : State).Inv ∧ (stRetireLoading [(1535, 16)] : State).Up ∧ (stRetireLoading [(1535, 16)] : State).Runs 11 ∧ 1535 < 1536 ∧ 59 < 60 ∧ ((stRetireLoading [(1535, 16)] : State).chan 11).retireOf 1535 59 = some ret1 ∧ ret1.spare = some 60 ∧ ((stRetireLoading [(1535, 16)] : State).chan 11).loading 1535 = true) := by
  repeat' (first | with_reducible apply And.intro | (delta Bridge.Events Channel.HeadIs State.Inv State.Runs State.Up))
  all_goals
    first | decide +kernel | (refine next_stateOf ?_; decide +kernel) | exact ⟨_, rfl, by decide +kernel⟩ | (constructor <;> decide +kernel)

theorem witness_PowerClocksAndTemperature_1 :
    (State.reset.Inv ∧ State.reset.Up ∧ (State.reset.mod.eff F.MOD_PWR_CFG_ILIM * 1000 < 170001 ∨ State.reset.mod.eff F.MOD_PWR_CFG_PLIM * 10 < 7501) ∧ State.reset.Hungriest ([0,0,0,0,0,0,0,0,0,0,0,9] : List Nat) 11) ∧
    (State.reset.Inv ∧ State.reset.Up ∧ (∀ (kv : Nat × Nat), kv ∈ State.reset.mod.boot.supply → kv.snd < 10)) ∧
    (State.reset.Inv ∧ State.reset.Up ∧ 0 ≤ State.reset.mod.eff F.MOD_PWR_CFG_ILIM * 1000 ∧ 0 ≤ State.reset.mod.eff F.MOD_PWR_CFG_PLIM * 10) ∧
    (State.reset.Inv ∧ State.reset.Up ∧ 11 < 12 ∧ (false = true ↔ ∃ img, State.reset.mod.boot.image = some img ∧ isSet (img.placeMask (State.reset.mod.r F.MOD_BOOT_PLACE)) 11 = true) ∧ (isSet (State.reset.mod.r F.MOD_BOOT_CH_USABLE) 11 = false ∨ false = false) ∧ State.reset.mod.r F.MOD_CH_OFF_OFF < 2 ^ 12) ∧
    (State.reset.Inv ∧ State.reset.Up ∧ State.reset.Runs 11 ∧ ((State.reset.chan 11).tj < ↑((State.reset.chan 11).eff F.CH_THERM_CFG_THR_HI) ∨ 3 ≤ (State.reset.chan 11).r F.CH_OP_THERM_CAP)) ∧
    (State.reset.Inv ∧ State.reset.Up ∧ State.reset.Runs 11 ∧ (State.reset.chan 11).pwr.hot < 10) ∧
    (State.reset.Inv ∧ State.reset.Up ∧ State.reset.Runs 11 ∧ (State.reset.chan 11).pwr.stage < 2) ∧
    (State.reset.Inv ∧ State.reset.Up ∧ State.reset.Runs 11 ∧ 127 ∈ ([-128, 127] : List Int) ∧ (∀ (x : Int), x ∈ ([-128, 127] : List Int) → x ≤ 127) ∧ -128 ∈ ([-128] : List Int) ∧ (∀ (x : Int), x ∈ ([-128] : List Int) → x ≤ -128) ∧ -128 ≤ 127 ∧ 127 < 128 ∧ -128 ≤ -128 ∧ -128 < 128 ∧ -128 ≤ 127 ∧ 127 < 128) := by
  repeat' (first | with_reducible apply And.intro | (delta State.Hungriest State.Inv State.Runs State.Up))
  all_goals
    first | with_reducible exact stCycle_stalled | with_reducible exact calLan_rep0 | decide +kernel | (refine next_stateOf ?_; decide +kernel) | exact List.getElem_mem _ | exact ⟨_, rfl, by decide +kernel⟩ | (intro _ _; simp; done) | (intro _; rfl) | (intro _ h; cases h; done) | (intro _ _ h; cases h; done) | exact ⟨by decide +kernel, by decide +kernel, by decide +kernel, ⟨99, by decide +kernel, by decide +kernel⟩⟩ | exact ⟨10, by decide +kernel, ⟨11, by decide +kernel, by decide +kernel⟩, by decide +kernel⟩ | rfl | exact ⟨99, by decide +kernel, by decide +kernel⟩ | (simp; done) | (intro d hd; obtain ⟨h1, h2⟩ := hd; revert d; decide +kernel) | (constructor <;> decide +kernel)

theorem witness_PowerClocksAndTemperature_2 :
    (State.reset.Inv ∧ State.reset.Up ∧ State.reset.Runs 11 ∧ 1535 < 1536 ∧ 15 < 16 ∧ (State.reset.chan 11).clkOn = true) ∧
    (State.reset.Inv ∧ State.reset.Up ∧ State.reset.Runs 11 ∧ 63 < 64) ∧
    (State.reset.Inv ∧ State.reset.Up ∧ State.reset.mod.boot.lowMs < 10) ∧
    (State.reset.Inv ∧ State.reset.Up ∧ State.reset.mod.fatalDue = none ∧ State.reset.mod.r F.ERR_MOD_STATUS_MOD_FATAL ≠ 1) ∧
    (stCap10.Inv ∧ stCap10.Up ∧ 10 ≤ stCap10.mod.boot.lowMs ∧ stCap10.Runs 11 ∧ 0 < (stCap10.chan 11).r F.CH_OP_PWR_CAP ∧ (stCap10.chan 11).r F.CH_OP_PWR_CAP < 4 ∧ (∀ (d : Nat), d < 11 → stCap10.Runs d → (stCap10.chan d).r F.CH_OP_PWR_CAP = 0)) ∧
    (stClk1.Inv ∧ stClk1.Up ∧ stClk1.Runs 11 ∧ (stClk1.chan 11).pwr.stage = 1) ∧
    (stClk2.Inv ∧ stClk2.Up ∧ stClk2.Runs 11 ∧ (stClk2.chan 11).pwr.stage = 2) ∧
    (stClk2.Inv ∧ stClk2.Up ∧ stClk2.Runs 11 ∧ 2 ≤ (stClk2.chan 11).pwr.stage) := by
  repeat' (first | with_reducible apply And.intro | (delta State.Inv State.Runs State.Up))
  all_goals
    first | decide +kernel | (refine next_stateOf ?_; decide +kernel) | exact ⟨_, rfl, by decide +kernel⟩ | (constructor <;> decide +kernel)

theorem witness_PowerClocksAndTemperature_3 :
    (stHot.Inv ∧ stHot.Up ∧ stHot.mod.fatalDue = none ∧ stHot.mod.r F.ERR_MOD_STATUS_MOD_FATAL ≠ 1 ∧ stHot.Runs 11 ∧ 10 ≤ (stHot.chan 11).pwr.hot) ∧
    (stNamed.Inv ∧ stNamed.Up ∧ 11 < 12 ∧ (true = true ↔ ∃ img, stNamed.mod.boot.image = some img ∧ isSet (img.placeMask (stNamed.mod.r F.MOD_BOOT_PLACE)) 11 = true) ∧ isSet (stNamed.mod.r F.MOD_BOOT_CH_USABLE) 11 = true ∧ true = true) ∧
    (stSupply.Inv ∧ stSupply.Up ∧ stSupply.mod.fatalDue = none ∧ stSupply.mod.r F.ERR_MOD_STATUS_MOD_FATAL ≠ 1 ∧ (List.find? (fun kv => decide (10 ≤ kv.snd)) stSupply.mod.boot.supply = some (((1016, 10) : Nat × Nat) : Nat × Nat))) ∧
    (stThrUp.Inv ∧ stThrUp.Up ∧ stThrUp.Runs 11 ∧ (↑((stThrUp.chan 11).eff F.CH_THERM_CFG_THR_LO) ≤ (stThrUp.chan 11).tj ∨ (stThrUp.chan 11).pwr.diff = true)) ∧
    (stThrUp.Inv ∧ stThrUp.Up ∧ stThrUp.Runs 11 ∧ ↑((stThrUp.chan 11).eff F.CH_THERM_CFG_THR_HI) ≤ (stThrUp.chan 11).tj ∧ (stThrUp.chan 11).r F.CH_OP_THERM_CAP < 3) ∧
    (stVolt.Inv ∧ stVolt.Up ∧ (∃ d, stVolt.Runs d ∧ stVolt.TooHigh d ∧ (stVolt.chan d).opAlone = 0)) ∧
    (stVolt.Inv ∧ stVolt.Up ∧ stVolt.Runs 11 ∧ (stVolt.chan 11).tj < ↑((stVolt.chan 11).eff F.CH_THERM_CFG_THR_LO) ∧ (stVolt.chan 11).pwr.diff = false ∧ 0 < (stVolt.chan 11).r F.CH_OP_THERM_CAP ∧ (stVolt.chan 11).r F.CH_OP_THERM_CAP < 4) := by
  repeat' (first | with_reducible apply And.intro | (delta State.Inv State.Runs State.TooHigh State.Up State.RunsBeside))
  all_goals
    first | with_reducible exact stCycle_stalled | with_reducible exact calLan_rep0 | decide +kernel | (refine next_stateOf ?_; decide +kernel) | exact List.getElem_mem _ | exact ⟨_, rfl, by decide +kernel⟩ | (intro _ _; simp; done) | (intro _; rfl) | (intro _ h; cases h; done) | (intro _ _ h; cases h; done) | exact ⟨by decide +kernel, by decide +kernel, by decide +kernel, ⟨99, by decide +kernel, by decide +kernel⟩⟩ | exact ⟨10, by decide +kernel, ⟨11, by decide +kernel, by decide +kernel⟩, by decide +kernel⟩ | rfl | exact ⟨99, by decide +kernel, by decide +kernel⟩ | (simp; done) | (intro d hd; obtain ⟨h1, h2⟩ := hd; revert d; decide +kernel) | (constructor <;> decide +kernel)

/-! ### The check of unit numbers: for each shape of check the last unit there is, and one past it in each place -/

theorem test_wellFormed_coAccDataRead :
    (Instr.coAccDataRead .host 11 1535 63 2).wellFormed = true ∧
    (Instr.coAccDataRead .host 12 1535 63 2).wellFormed = false ∧
    (Instr.coAccDataRead .host 11 1536 63 2).wellFormed = false ∧
    (Instr.coAccDataRead .host 11 1535 64 2).wellFormed = false ∧
    (Instr.coAccDataRead .host 11 1535 63 3).wellFormed = false := by decide

theorem test_wellFormed_attachmentFailed :
    (Instr.attachmentFailed 11 1).wellFormed = true ∧
    (Instr.attachmentFailed 12 1).wellFormed = false ∧
    (Instr.attachmentFailed 11 2).wellFormed = false := by decide

theorem test_wellFormed_misdirectedAccess :
    (Instr.misdirectedAccess 11 0).wellFormed = true ∧
    (Instr.misdirectedAccess 12 0).wellFormed = false := by decide

theorem test_wellFormed_insnLineFetch :
    (Instr.insnLineFetch 11 1535 63).wellFormed = true ∧
    (Instr.insnLineFetch 12 1535 63).wellFormed = false ∧
    (Instr.insnLineFetch 11 1536 63).wellFormed = false ∧
    (Instr.insnLineFetch 11 1535 64).wellFormed = false := by decide

theorem test_wellFormed_park :
    (Instr.park .host 11 1535).wellFormed = true ∧
    (Instr.park .host 12 1535).wellFormed = false ∧
    (Instr.park .host 11 1536).wellFormed = false := by decide

theorem test_wellFormed_scratchpadAccessGrant :
    (Instr.scratchpadAccessGrant 11 1535 15 0 .ok).wellFormed = true ∧
    (Instr.scratchpadAccessGrant 12 1535 15 0 .ok).wellFormed = false ∧
    (Instr.scratchpadAccessGrant 11 1536 15 0 .ok).wellFormed = false ∧
    (Instr.scratchpadAccessGrant 11 1535 16 0 .ok).wellFormed = false := by decide

theorem test_wellFormed_start :
    (Instr.start .host 11 1535 15).wellFormed = true ∧
    (Instr.start .host 12 1535 15).wellFormed = false ∧
    (Instr.start .host 11 1536 15).wellFormed = false ∧
    (Instr.start .host 11 1535 16).wellFormed = false := by decide

theorem test_wellFormed_bpReadyInc :
    (Instr.bpReadyInc .host 11 1535 31 0).wellFormed = true ∧
    (Instr.bpReadyInc .host 12 1535 31 0).wellFormed = false ∧
    (Instr.bpReadyInc .host 11 1536 31 0).wellFormed = false ∧
    (Instr.bpReadyInc .host 11 1535 32 0).wellFormed = false := by decide

theorem test_wellFormed_taskComplete :
    (Instr.taskComplete 11 1535 64).wellFormed = true ∧
    (Instr.taskComplete 12 1535 64).wellFormed = false ∧
    (Instr.taskComplete 11 1536 64).wellFormed = false ∧
    (Instr.taskComplete 11 1535 65).wellFormed = false := by decide

theorem test_wellFormed_wcArm :
    (Instr.wcArm .host 11 1535 15 0 0).wellFormed = true ∧
    (Instr.wcArm .host 12 1535 15 0 0).wellFormed = false ∧
    (Instr.wcArm .host 11 1536 15 0 0).wellFormed = false ∧
    (Instr.wcArm .host 11 1535 16 0 0).wellFormed = false := by decide

theorem test_wellFormed_deadlineDebt :
    (Instr.deadlineDebt 11 1023).wellFormed = true ∧
    (Instr.deadlineDebt 12 1023).wellFormed = false ∧
    (Instr.deadlineDebt 11 1024).wellFormed = false := by decide

theorem test_wellFormed_shareGateAdmit :
    (Instr.shareGateAdmit 11 2).wellFormed = true ∧
    (Instr.shareGateAdmit 12 2).wellFormed = false ∧
    (Instr.shareGateAdmit 11 3).wellFormed = false := by decide

theorem test_wellFormed_hbmReadComplete :
    (Instr.hbmReadComplete 11 63 0 [] false []).wellFormed = true ∧
    (Instr.hbmReadComplete 12 63 0 [] false []).wellFormed = false ∧
    (Instr.hbmReadComplete 11 64 0 [] false []).wellFormed = false := by decide

theorem test_wellFormed_scrubRead :
    (Instr.scrubRead 11 1073741823 [] false []).wellFormed = true ∧
    (Instr.scrubRead 12 1073741823 [] false []).wellFormed = false ∧
    (Instr.scrubRead 11 1073741824 [] false []).wellFormed = false := by decide

theorem test_wellFormed_retrainExamine :
    (Instr.retrainExamine 11 63 35).wellFormed = true ∧
    (Instr.retrainExamine 12 63 35).wellFormed = false ∧
    (Instr.retrainExamine 11 64 35).wellFormed = false ∧
    (Instr.retrainExamine 11 63 36).wellFormed = false := by decide

theorem test_wellFormed_xltWalk :
    (Instr.xltWalk 11 98303).wellFormed = true ∧
    (Instr.xltWalk 12 98303).wellFormed = false ∧
    (Instr.xltWalk 11 98304).wellFormed = false := by decide

theorem test_wellFormed_trainingFrame :
    (Instr.trainingFrame 11 2 0 [] false false).wellFormed = true ∧
    (Instr.trainingFrame 12 2 0 [] false false).wellFormed = false ∧
    (Instr.trainingFrame 11 3 0 [] false false).wellFormed = false := by decide

theorem test_wellFormed_laneRecalThreshold :
    (Instr.laneRecalThreshold 11 2 4).wellFormed = true ∧
    (Instr.laneRecalThreshold 12 2 4).wellFormed = false ∧
    (Instr.laneRecalThreshold 11 3 4).wellFormed = false ∧
    (Instr.laneRecalThreshold 11 2 5).wellFormed = false := by decide

theorem test_wellFormed_requestTimeout :
    (Instr.requestTimeout 11 1023).wellFormed = true ∧
    (Instr.requestTimeout 12 1023).wellFormed = false ∧
    (Instr.requestTimeout 11 1024).wellFormed = false := by decide

theorem test_wellFormed_cut :
    (Instr.cut .host 11 31).wellFormed = true ∧
    (Instr.cut .host 12 31).wellFormed = false ∧
    (Instr.cut .host 11 32).wellFormed = false := by decide

theorem test_wellFormed_hdmRead :
    (Instr.hdmRead 824633720831 0 false).wellFormed = true ∧
    (Instr.hdmRead 824633720832 0 false).wellFormed = false := by decide

theorem test_wellFormed_crTailDoorbell :
    (Instr.crTailDoorbell 15 4095 4 0).wellFormed = true ∧
    (Instr.crTailDoorbell 16 0 4 0).wellFormed = false ∧
    (Instr.crTailDoorbell 15 4096 4 0).wellFormed = false := by decide

theorem test_wellFormed_romSelfTestDone :
    (Instr.romSelfTestDone 1 false false).wellFormed = true ∧
    (Instr.romSelfTestDone 2 false false).wellFormed = false := by decide

theorem test_wellFormed_coreRetireComplete :
    (Instr.coreRetireComplete 11 1535 59).wellFormed = true ∧
    (Instr.coreRetireComplete 12 1535 59).wellFormed = false ∧
    (Instr.coreRetireComplete 11 1536 59).wellFormed = false ∧
    (Instr.coreRetireComplete 11 1535 60).wellFormed = false := by decide

theorem test_wellFormed_arbiterPlace :
    (Instr.arbiterDecision 11 (.bank 1535 15)).wellFormed = true ∧ (Instr.arbiterDecision 11 (.bank 1536 15)).wellFormed = false ∧
    (Instr.arbiterDecision 11 (.bank 1535 16)).wellFormed = false ∧ (Instr.arbiterDecision 11 (.hbm 64)).wellFormed = false ∧
    (Instr.arbiterDecision 11 (.port 3)).wellFormed = false ∧ (Instr.arbiterDecision 12 (.port 2)).wellFormed = false := by decide

theorem test_wellFormed_keeper :
    (Instr.keeperTakeRecord none).wellFormed = true ∧ (Instr.keeperTakeRecord (some 11)).wellFormed = true ∧
    (Instr.keeperTakeRecord (some 12)).wellFormed = false := by decide

/-! ### Worked examples of the spec -/

/-- 02_formats_and_encodings.md, after R46: the weights (+1, 0, −1, −1, +1) are the byte 0xA7, and five zeros are 0x79. -/
theorem test_ternary_byte : ternDigits 0xA7 = ([1, 0, -1, -1, 1], false) ∧ ternDigits 0x79 = ([0, 0, 0, 0, 0], false) := by decide

/-- 02_formats_and_encodings.md, "a 2:4-pruned weight chunk": the kept indices of groups 0 to 3 of the metadata word. -/
theorem test_nm_groups :
    (upto 4).map (nmGroup 0 0x4444444444444E4D) = [some [1, 3], some [0, 1], some [2, 3], some [0, 1]] := by decide

/-- 02_formats_and_encodings.md, "a BB64 activation block": E4M3 encodings of 1.0, −0.5, 2.25, 0.0625, 448 and −3.0. -/
theorem test_e4m3_codes :
    [Num.fin false 1 0, .fin true 1 (-1), .fin false 9 (-2), .fin false 1 (-4), .fin false 448 0, .fin true 3 0].map
      (fun x => (VFmt.e4m3.encode false x).code) = [0x38, 0xB0, 0x41, 0x18, 0x7E, 0xC4] := by decide +kernel

/-- 03_sparse_core.md, worked example: the fields of the OLOAD of B. -/
theorem test_oload_fields :
    let w := 0x200840010292
    (tOp w, olMode w, olDst w, olLines w, olSrc w, olStride w, olFmt w) = (2, 1, 10, 16, 2048, 16, 4) := by decide +kernel

/-- 03_sparse_core.md, worked example: the fields of the TMUL of step 0. -/
theorem test_tmul_fields :
    let w := 0x0A002103FFFF7813
    (tOp w, tmBegin w, tSet w, tRow0 w, tRows w, (tmCols w).length, tmKb w) = (3, true, 0, 0, 16, 16, 1) := by decide +kernel

/-- 04_accumulation.md, worked example: the low word of DPARAM 9. -/
theorem test_drain_parameters :
    (fun d : DParam => (d.aFmt, d.aEn, d.bFmt, d.bEn))
      (({ regs := Regs.image {} lanternFields (F.LN_DPARAM_LO_A_SLFMT.base + 16 * 9) 0x0100000100284645 } : Lantern).dparam 9) =
      (5, true, 6, true) ∧
    (fun d : DParam => (d.aIdx, d.aStep, d.bIdx, d.bStep))
      (({ regs := Regs.image {} lanternFields (F.LN_DPARAM_LO_A_SLFMT.base + 16 * 9) 0x0100000100284645 } : Lantern).dparam 9) =
      (40, 1, 0, 1) := by decide +kernel

/-- 04_accumulation.md, worked example: cells 1,024, −512, 256, 1,536, 2,560 and −768 with E = −10 in FP16. -/
theorem test_fp16_outputs :
    [(1024 : Int), -512, 256, 1536, 2560, -768].map
      (fun i => (VFmt.fp16.encode false (Num.scale (Num.int i) (-10))).code) =
        [0x3C00, 0xB800, 0x3400, 0x3E00, 0x4100, 0xBA00] := by decide +kernel

/-- 04_accumulation.md, worked example: SUM, SUMSQ, MAX, COUNT and FLAGS of the row. -/
theorem test_statistics_record :
    let r := (statRecord ([(1024 : Int), -512, 2048, 0, 256, 768, -1024, 1536, 512, -256, 0, 1280, 2560, -768, 1024, 768].map
      fun i => Num.scale (Num.int i) (-10))).1
    (ofBytes (r.take 12), ofBytes ((r.drop 12).take 12), ofBytes ((r.drop 24).take 4), ofBytes (r.drop 28)) =
      (0x90000000000, 0x136000000000, 0x40200000, 0x10) := by decide +kernel

/-- 06_vector_engine.md, worked example: the fields of the SMX instruction. -/
theorem test_smx_fields :
    let w := 0x900C2458
    (vOp w, vVd w, vVa w, vVb w, vMr w, vMe w) = (0x58, 4, 1, 3, 1, true) := by decide +kernel

/-- 17_address_map.md, worked example: BAR0 0x3DE_0010 with HP_APER 0x293 is LN_CORE_BAD of lantern 606 of CH3. -/
theorem test_aperture_address :
    let b : Bridge := { regs := (({} : Regs).put F.HP_APER_CHAN 0 3).put F.HP_APER_BLOCK 0 41 }
    b.bar0 0x3DE0010 = 0xF03A5E0010 ∧ (chanWindow 0xF03A5E0010).map (fun x => (x.1, lanOffset x.2)) = some (3, some (606, 0x10)) := by
  decide +kernel

/-! ### Single commands -/

/-- Four consecutive lines share a pseudo-channel and the next four lie in the next one (R300). -/
theorem test_pseudo_channel : (upto 8).map hbmPc = [0, 0, 0, 0, 1, 1, 1, 1] ∧ hbmPc 256 = 1 ∧ hbmPc 260 = 0 := by decide

/-- A register write of one field by the host in the bridge block, seen by a read (R4, R12). -/
theorem test_register_write_then_read :
    let s := stateOf (exec (.registerWrite .host (0xFF00000000 + F.ERR_MOD_CFG_FOG_ACT.base) 2 1) (inMod id))
    s.mod.r F.ERR_MOD_CFG_FOG_ACT = 1 := by decide +kernel

/-- A command that names channel 12 stops (R22). -/
theorem test_no_such_channel : exec (.nop 12 0 0) State.reset = .fault .noSuchUnit := by rfl

/-- No word spells a command, since the table gives no bits. -/
theorem test_no_word : Sys2Proof.decodeTableWord 32 0 = none := by rfl

/-- The reset state has the form that every step keeps. -/
theorem test_reset_form : State.reset.Inv := ⟨by decide +kernel, by decide +kernel, by decide +kernel⟩

end Sys2Proof.Tests
end

section
/-! The drain path (R121 to R133): what a start and a row of a DRAIN change, and what they leave alone. -/

namespace Sys2Proof.Machine

/-! ### Changes inside one core -/

theorem Lantern.OnlyCore.refl (l : Lantern) (k : Nat) : l.OnlyCore l k := ⟨rfl, rfl, rfl, rfl, fun _ _ => rfl⟩

theorem Lantern.OnlyCore.trans {a b c : Lantern} {k : Nat} (h : a.OnlyCore b k) (h' : b.OnlyCore c k) : a.OnlyCore c k :=
  ⟨h'.sp.trans h.sp, h'.banks.trans h.banks, h'.ve.trans h.ve, h'.td.trans h.td, fun j hj => (h'.cores j hj).trans (h.cores j hj)⟩

/-- In a channel, core `k` of lantern `g` is all that changes of the lanterns, the registers and the task queue aside. -/
structure Channel.CoreOnly (a b : Channel) (g k : Nat) : Prop where
  cyc : b.cyc = a.cyc
  lans : ∀ h, h ≠ g → b.lan h = a.lan h
  rest : (a.lan g).OnlyCore (b.lan g) k

theorem Channel.CoreOnly.trans {a b c : Channel} {g k : Nat} (h : a.CoreOnly b g k) (h' : b.CoreOnly c g k) : a.CoreOnly c g k :=
  ⟨h'.cyc.trans h.cyc, fun x hx => (h'.lans x hx).trans (h.lans x hx), h.rest.trans h'.rest⟩

theorem Channel.CoreOnly.modLan {a : Channel} {g k : Nat} {u : Lantern → Lantern} (h : (a.lan g).OnlyCore (u (a.lan g)) k) :
    a.CoreOnly (a.modLan g u) g k :=
  ⟨rfl, fun _ hx => Channel.lan_modLan_ne a u hx, by rwa [Channel.lan_modLan_self]⟩

theorem Channel.CoreOnly.modCore (a : Channel) (g k : Nat) (f : SparseCore → SparseCore) : a.CoreOnly (a.modCore g k f) g k :=
  .modLan ⟨rfl, rfl, rfl, rfl, fun _ hj => Lantern.core_modCore_ne _ f hj⟩

/-- As `CoreOnly`, where the core itself changes in its task list at most: the bookkeeping of counters, records and tasks. -/
structure Channel.KeepsCore (a b : Channel) (g k : Nat) : Prop extends a.CoreOnly b g k where
  core : ∃ ts, b.core g k = { a.core g k with tasks := ts }

/-- What does not touch the lanterns. -/
theorem Channel.KeepsCore.of_lans {a b : Channel} (hc : b.cyc = a.cyc) (hl : b.lans = a.lans) (g k : Nat) : a.KeepsCore b g k := by
  have h (x : Nat) : b.lan x = a.lan x := by simp only [Channel.lan, hl]
  exact ⟨⟨hc, fun x _ => h x, h g ▸ .refl _ k⟩, _, by rw [Channel.core, h g]; rfl⟩

theorem Channel.KeepsCore.refl (a : Channel) (g k : Nat) : a.KeepsCore a g k := .of_lans rfl rfl g k

theorem Channel.KeepsCore.trans {a b c : Channel} {g k : Nat} (h : a.KeepsCore b g k) (h' : b.KeepsCore c g k) : a.KeepsCore c g k := by
  obtain ⟨ts, e⟩ := h.core
  obtain ⟨ts', e'⟩ := h'.core
  exact ⟨h.toCoreOnly.trans h'.toCoreOnly, ts', by rw [e', e]⟩

theorem Channel.KeepsCore.of_errOnly {a b : Channel} (h : b.ErrOnly a) (g k : Nat) : a.KeepsCore b g k := .of_lans h.cyc h.lans g k

/-- What changes the registers of the lantern alone. -/
theorem Channel.KeepsCore.modRegs (a : Channel) (g k : Nat) (r : Lantern → Regs) :
    a.KeepsCore (a.modLan g fun l => { l with regs := r l }) g k :=
  ⟨.modLan ⟨rfl, rfl, rfl, rfl, fun _ _ => rfl⟩, _, by rw [Channel.core, Channel.lan_modLan_self]; rfl⟩

theorem Channel.KeepsCore.lw (a : Channel) (g k : Nat) (f : Fld) (n v : Nat) : a.KeepsCore (a.lw g f n v) g k := .modRegs ..

theorem Channel.KeepsCore.linc (a : Channel) (g k : Nat) (f : Fld) (n v : Nat) : a.KeepsCore (a.linc g f n v) g k := .modRegs ..

theorem Channel.KeepsCore.overCtx (a : Channel) (g k : Nat) (cs : List Nat) : a.KeepsCore { a with overCtx := cs } g k :=
  .of_lans (a := a) (b := { a with overCtx := cs }) rfl rfl g k

theorem Channel.KeepsCore.ovfCtx (a : Channel) (g k : Nat) (cs : List Nat) : a.KeepsCore { a with ovfCtx := cs } g k :=
  .of_lans (a := a) (b := { a with ovfCtx := cs }) rfl rfl g k

theorem Channel.KeepsCore.raise (a : Channel) (g k cause unit : Nat) (ctx : Option Nat) (detail : Nat) :
    a.KeepsCore (a.raise cause unit ctx detail) g k := .of_errOnly (.raise ..) g k

/-- A counter of the core and its sticky bit. -/
theorem Channel.KeepsCore.linc_lw (a : Channel) (g k : Nat) (f f' : Fld) (n v n' v' : Nat) :
    a.KeepsCore ((a.linc g f n v).lw g f' n' v') g k := .trans (.linc ..) (.lw ..)

theorem Channel.KeepsCore.modTask (a : Channel) (g k id : Nat) (f : CTask → CTask) :
    a.KeepsCore (a.modCore g k fun co => co.modTask id f) g k :=
  ⟨.modCore .., _, by rw [Channel.core_modCore_self]; rfl⟩

theorem Channel.KeepsCore.coSettle (a : Channel) (g k : Nat) : a.KeepsCore (a.coSettle g k) g k := by
  obtain ⟨q, e⟩ := a.coSettle_lan g k
  refine ⟨⟨rfl, fun x hx => a.coSettle_lan_ne g k hx, ?_⟩, _, a.coSettle_core g k⟩
  rw [e]
  exact ⟨rfl, rfl, rfl, rfl, fun j hj => by simp [Lantern.core, SMap.getD_put_ne _ _ _ hj]⟩

theorem Channel.KeepsCore.fmtErr (a : Channel) (g k n : Nat) : a.KeepsCore (a.fmtErr g k n) g k := by
  unfold Channel.fmtErr
  split
  · exact .refl ..
  · exact .linc_lw ..

theorem Channel.KeepsCore.coreErr (a : Channel) (g k cause ctx : Nat) : a.KeepsCore (a.coreErr g k cause ctx) g k := by
  unfold Channel.coreErr
  split
  · exact .raise ..
  · exact .trans (.lw ..) (.raise ..)

theorem Channel.KeepsCore.shapeMeet (a : Channel) (g k ctx : Nat) (rs : List (Bool × Nat)) : a.KeepsCore (a.shapeMeet g ctx rs) g k := by
  unfold Channel.shapeMeet
  split
  · exact .overCtx ..
  · exact .refl ..

theorem Channel.KeepsCore.shapeOvf (a : Channel) (g k task : Nat) : a.KeepsCore (a.shapeOvf g k task) g k := by
  have h0 : a.KeepsCore ((a.lw g F.CO_STATUS_SHAPE_OVF k 1).linc g F.CO_SHAPE_OVF_CNT_COUNT k 1) g k := .trans (.lw ..) (.linc ..)
  simp only [Channel.shapeOvf]
  split
  · split
    · exact h0
    · exact h0.trans (.trans (.modTask ..) (.trans (.coreErr ..) (.ovfCtx ..)))
  · exact h0

/-! ### The drain queue -/

/-- Everything of a DRAIN has been read, packed and written in cycle `cyc` (R133). -/
def DrainOp.finished (d : DrainOp) (cyc : Nat) : Bool :=
  d.rowsDone && d.lines.isEmpty && d.asked == 0 && decide (d.lastD4 ≤ cyc)

/-- `leave` for every entry of a list changes nothing but the instructions that have gone. -/
theorem SparseCore.foldl_leave (x : Gone) (ds : List DrainOp) (co : SparseCore) :
    ∃ gs, ds.foldl (fun co _ => co.leave x) co = { co with gone := gs } := by
  induction ds generalizing co with
  | nil => exact ⟨_, rfl⟩
  | cons d ds ih => exact ih (co.leave x)

/-- The finished DRAINs leave the queue together, and the core settles. -/
theorem Channel.drainSettle_eq (a : Channel) (g k : Nat) : a.drainSettle g k =
    if (a.core g k).drainQ.any (·.finished a.cyc) then
      (a.modCore g k fun co =>
        ((co.drainQ.filter (·.finished a.cyc)).foldl (fun co _ => co.leave { kind := 2, cyc := a.cyc }) co).keepDrains
          fun d => !d.finished a.cyc).coSettle g k
    else a := rfl

theorem Channel.CoreOnly.drainSettle (a : Channel) (g k : Nat) : a.CoreOnly (a.drainSettle g k) g k := by
  rw [Channel.drainSettle_eq]
  split
  · exact .trans (.modCore ..) (Channel.KeepsCore.coSettle ..).toCoreOnly
  · exact (Channel.KeepsCore.refl a g k).toCoreOnly

/-- Settling the drain path takes the finished DRAINs out of the queue, and changes nothing else of the core but its task list and the
instructions that have gone. -/
theorem Channel.drainSettle_core (a : Channel) (g k : Nat) :
    ∃ ts gs, (a.drainSettle g k).core g k =
      { a.core g k with tasks := ts, gone := gs, drainQ := (a.core g k).drainQ.filter fun d => !d.finished a.cyc } := by
  rw [Channel.drainSettle_eq]
  split
  case isTrue hf =>
    obtain ⟨gs, hg⟩ := SparseCore.foldl_leave { kind := 2, cyc := a.cyc } ((a.core g k).drainQ.filter (·.finished a.cyc)) (a.core g k)
    simp only [Channel.coSettle_core, Channel.core_modCore_self, hg, SparseCore.keepDrains]
    exact ⟨_, gs, rfl⟩
  case isFalse hf =>
    have hq : ((a.core g k).drainQ.filter fun d => !d.finished a.cyc) = (a.core g k).drainQ := by
      simpa [List.filter_eq_self] using hf
    exact ⟨(a.core g k).tasks, (a.core g k).gone, by rw [hq]⟩

/-- The DRAIN after an update of the DRAIN of its number. -/
theorem SparseCore.mem_modDrain {co : SparseCore} {seq : Nat} {f : DrainOp → DrainOp} {x : DrainOp}
    (h : x ∈ (co.modDrain seq f).drainQ) : ∃ d ∈ co.drainQ, x = if d.seq = seq then f d else d := by
  obtain ⟨d, hd, e⟩ := List.mem_map.1 h
  exact ⟨d, hd, e.symm⟩

/-! ### A DRAIN starts -/

/-- A contained error sets OP_ERR unless it is a shape overflow (R110). -/
theorem Channel.coreErr_opErr (a : Channel) (g k ctx : Nat) {cause : Nat} (h : cause ≠ 8) :
    ((a.coreErr g k cause ctx).lan g).r F.CO_STATUS_OP_ERR k = 1 := by
  simp [Channel.coreErr, h, F.CO_STATUS_OP_ERR]

/-- Settling a core writes BUSY and no other field of its lantern. -/
theorem Channel.coSettle_r (a : Channel) {g k n : Nat} {f : Fld} (h : f.key n ≠ F.CO_STATUS_BUSY.key k) :
    ((a.coSettle g k).lan g).r f n = (a.lan g).r f n := by
  obtain ⟨q, e⟩ := a.coSettle_lan g k
  rw [e, Lantern.r_w_ne _ _ h]
  rfl

/-- A DRAIN with a contained error leaves its queue, and the start takes the cycle all the same (R110, R132, R133). -/
def Channel.drainFail (ch : Channel) (g k seq cause ctx : Nat) : Channel :=
  ((ch.coreErr g k cause ctx).modCore g k fun co =>
    { (co.leave { kind := 2, cyc := ch.cyc }).keepDrains (fun x => x.seq != seq) with lastD0 := some ch.cyc }).coSettle g k

theorem Channel.CoreOnly.drainFail (a : Channel) (g k seq cause ctx : Nat) : a.CoreOnly (a.drainFail g k seq cause ctx) g k :=
  (Channel.KeepsCore.coreErr ..).toCoreOnly.trans (.trans (.modCore ..) (Channel.KeepsCore.coSettle ..).toCoreOnly)

theorem Channel.drainFail_acc (a : Channel) (g k seq cause ctx : Nat) :
    ((a.drainFail g k seq cause ctx).core g k).acc = (a.core g k).acc := by
  obtain ⟨ts, e⟩ := (Channel.KeepsCore.coreErr a g k cause ctx).core
  simp only [Channel.drainFail, Channel.coSettle_core, Channel.core_modCore_self, SparseCore.keepDrains, SparseCore.leave, e]

theorem Channel.drainFail_opErr (a : Channel) (g k seq ctx : Nat) {cause : Nat} (h : cause ≠ 8) :
    ((a.drainFail g k seq cause ctx).lan g).r F.CO_STATUS_OP_ERR k = 1 := by
  have hk : F.CO_STATUS_OP_ERR.key k ≠ F.CO_STATUS_BUSY.key k := by simp [Fld.key, F.CO_STATUS_OP_ERR, F.CO_STATUS_BUSY]
  rw [Channel.drainFail, Channel.coSettle_r _ hk, Channel.modCore, Channel.lan_modLan_self]
  exact a.coreErr_opErr g k ctx h

theorem Channel.drainFail_gone (a : Channel) (g k seq cause ctx : Nat) :
    ∀ x ∈ ((a.drainFail g k seq cause ctx).core g k).drainQ, x.seq ≠ seq := by
  simp [Channel.drainFail, Channel.coSettle_core, SparseCore.keepDrains]

/-- A DRAIN that fails a check of R77 or R132 sets OP_ERR and leaves the queue. -/
theorem Channel.drainFail_outcome (a : Channel) (g k seq ctx : Nat) {cause : Nat} (h : cause ≠ 8) :
    ((a.drainFail g k seq cause ctx).lan g).r F.CO_STATUS_OP_ERR k = 1 ∧
      ∀ x ∈ ((a.drainFail g k seq cause ctx).core g k).drainQ, x.seq ≠ seq :=
  ⟨a.drainFail_opErr g k seq ctx h, a.drainFail_gone g k seq cause ctx⟩

/-- What a DRAIN at its start cycle has met before its format word is looked at: its run-time shapes, which may be counted as above the
plan (R107, R262). -/
def Channel.drainShapes (ch : Channel) (g k : Nat) (d : DrainOp) : Channel :=
  let l := ch.lan g
  let p := l.dparam (bits d.w 65 60)
  let above := (shapeOf l (isSet d.w 70) (bits d.w 69 66) (tRows d.w)).2 || (shapeOf l p.colEn p.colShape 16).2
  (if above then ch.shapeOvf g k d.task else ch).shapeMeet g ((l.core k).ctxOf d.task)
    [(isSet d.w 70, bits d.w 69 66), (p.colEn, p.colShape)]

theorem Channel.KeepsCore.drainShapes (a : Channel) (g k : Nat) (d : DrainOp) : a.KeepsCore (a.drainShapes g k d) g k := by
  unfold Channel.drainShapes
  refine .trans ?_ (.shapeMeet ..)
  split
  · exact .shapeOvf ..
  · exact .refl ..

/-- A DRAIN takes its start cycle and its run-time shape (R107, R121). -/
def DrainOp.begin (d d0 : DrainOp) (l : Lantern) (cyc : Nat) : DrainOp :=
  let p := l.dparam (bits d0.w 65 60)
  let rows := (shapeOf l (isSet d0.w 70) (bits d0.w 69 66) (tRows d0.w)).1
  { d with start := some cyc, rows := rows, cols := (shapeOf l p.colEn p.colShape 16).1, empty := d.empty || rows == 0, nextCy := cyc }

/-- The first DRAIN that has not started may start in this cycle (R133). -/
structure Channel.DrainMayStart (ch : Channel) (g k : Nat) (d : DrainOp) : Prop where
  first : (ch.core g k).drainQ.find? (fun d => d.start.isNone) = some d
  prev : ∀ x ∈ (ch.core g k).drainQ, x.start.isSome = true → x.rowsDone = true
  after : before (ch.core g k).lastD0 ch.cyc
  issued : d.issued < ch.cyc

/-- The three outcomes of a start: no valid format word (R77), an invalid DRAIN (R132), and the run-time shape. -/
theorem Channel.drainStart_eq {ch : Channel} {g k : Nat} {d : DrainOp} (h : ch.DrainMayStart g k d) :
    ch.drainStart g k = match (ch.lan g).fmt (bits d.w 21 16) with
      | none => (ch.drainShapes g k d).drainFail g k d.seq 2 ((ch.core g k).ctxOf d.task)
      | some f =>
        if drainInvalid d.w ((ch.lan g).dparam (bits d.w 65 60)) f = true then
          (ch.drainShapes g k d).drainFail g k d.seq 0x0A ((ch.core g k).ctxOf d.task)
        else (ch.drainShapes g k d).modCore g k (·.modDrain d.seq fun x => x.begin d (ch.lan g) (ch.drainShapes g k d).cyc) := by
  obtain ⟨hfirst, hprev, hafter, hissued⟩ := h
  simp only [Channel.core] at hfirst hprev hafter ⊢
  have hp : (((ch.lan g).core k).drainQ.all fun x => x.start.isNone || x.rowsDone) = true := by
    simp only [List.all_eq_true, Bool.or_eq_true]
    intro x hx
    cases hs : x.start with
    | none => exact .inl rfl
    | some _ => exact .inr (hprev x hx (by simp [hs]))
  simp only [Channel.drainStart, hfirst, hp]
  rw [if_neg]
  · cases (ch.lan g).fmt (bits d.w 21 16) with
    | none => rfl
    | some f => rfl
  · cases hc : ((ch.lan g).core k).lastD0 with
    | none => simpa using hissued
    | some c => simpa using ⟨hafter c hc, hissued⟩

/-- An update of the DRAIN of a number keeps the cells. -/
theorem Channel.modDrain_acc (a : Channel) (g k seq : Nat) (f : DrainOp → DrainOp) :
    ((a.modCore g k (·.modDrain seq f)).core g k).acc = (a.core g k).acc := by
  rw [Channel.core_modCore_self]; rfl

/-- A start changes no cell, and nothing outside its core but registers, records and tasks. -/
theorem Channel.drainStart_frame {ch : Channel} {g k : Nat} {d : DrainOp} (h : ch.DrainMayStart g k d) :
    ch.CoreOnly (ch.drainStart g k) g k ∧ ((ch.drainStart g k).core g k).acc = (ch.core g k).acc := by
  have hs := Channel.KeepsCore.drainShapes ch g k d
  obtain ⟨ts, e⟩ := hs.core
  have hfail (cause ctx : Nat) : ch.CoreOnly ((ch.drainShapes g k d).drainFail g k d.seq cause ctx) g k ∧
      (((ch.drainShapes g k d).drainFail g k d.seq cause ctx).core g k).acc = (ch.core g k).acc :=
    ⟨hs.toCoreOnly.trans (.drainFail ..), by rw [Channel.drainFail_acc, e]⟩
  rw [Channel.drainStart_eq h]
  split
  · exact hfail ..
  · split
    · exact hfail ..
    · exact ⟨hs.toCoreOnly.trans (.modCore ..), by rw [Channel.modDrain_acc, e]⟩

/-- A DRAIN that is valid takes its start cycle and its run-time rows. -/
theorem Channel.drainStart_valid {ch : Channel} {g k : Nat} {d : DrainOp} (h : ch.DrainMayStart g k d) {f : FmtWord}
    (hf : (ch.lan g).fmt (bits d.w 21 16) = some f) (hv : ¬ drainInvalid d.w ((ch.lan g).dparam (bits d.w 65 60)) f = true) :
    ∀ x ∈ ((ch.drainStart g k).core g k).drainQ, x.seq = d.seq → x.start = some ch.cyc ∧
      x.rows = (shapeOf (ch.lan g) (isSet d.w 70) (bits d.w 69 66) (tRows d.w)).1 := by
  intro x hx hseq
  simp only [Channel.drainStart_eq h, hf, if_neg hv, Channel.core_modCore_self, (Channel.KeepsCore.drainShapes ch g k d).cyc] at hx
  obtain ⟨y, -, rfl⟩ := SparseCore.mem_modDrain hx
  split at hseq
  · rw [if_pos ‹_›]
    exact ⟨rfl, rfl⟩
  · exact absurd hseq ‹_›

/-! ### A row passes the drain path -/

/-- What is formed of a row changes neither the DRAIN's number and word, nor its place in the rows, nor the cycle of its last D4. -/
structure DrainOp.SameRow (a b : DrainOp) : Prop where
  seq : b.seq = a.seq
  w : b.w = a.w
  next : b.next = a.next
  lastD4 : b.lastD4 = a.lastD4

theorem DrainOp.SameRow.refl (d : DrainOp) : d.SameRow d := ⟨rfl, rfl, rfl, rfl⟩

theorem DrainOp.SameRow.trans {a b c : DrainOp} (h : a.SameRow b) (h' : b.SameRow c) : a.SameRow c :=
  ⟨h'.seq.trans h.seq, h'.w.trans h.w, h'.next.trans h.next, h'.lastD4.trans h.lastD4⟩

theorem DrainOp.SameRow.statN (d : DrainOp) (n : Nat) : d.SameRow { d with statN := n } := ⟨rfl, rfl, rfl, rfl⟩

theorem DrainOp.SameRow.vals (d : DrainOp) (v : List (List Num)) : d.SameRow { d with vals := v } := ⟨rfl, rfl, rfl, rfl⟩

theorem DrainOp.SameRow.out (d : DrainOp) (m : SMap Nat) : d.SameRow { d with out := m } := ⟨rfl, rfl, rfl, rfl⟩

/-- One stage of the conversion of a row, from a channel and its DRAIN to the two after it. -/
structure Channel.RowStage (a : Channel) (d : DrainOp) (x : Channel × DrainOp) (g k : Nat) : Prop where
  chan : a.KeepsCore x.1 g k
  drain : d.SameRow x.2

theorem Channel.RowStage.skip (a : Channel) (d : DrainOp) (g k : Nat) : a.RowStage d (a, d) g k := ⟨.refl .., .refl _⟩

theorem Channel.RowStage.trans {a : Channel} {d : DrainOp} {x y : Channel × DrainOp} {g k : Nat} (h : a.RowStage d x g k)
    (h' : x.1.RowStage x.2 y g k) : a.RowStage d y g k := ⟨h.chan.trans h'.chan, h.drain.trans h'.drain⟩

/-- A stage that the DRAIN enters with its collected values changed. -/
theorem Channel.RowStage.after {a : Channel} {d e : DrainOp} {x : Channel × DrainOp} {g k : Nat} (h : d.SameRow e)
    (h' : a.RowStage e x g k) : a.RowStage d x g k := ⟨h'.chan, h.trans h'.drain⟩

theorem Channel.KeepsCore.drainCounts (a : Channel) (g k sat nanz : Nat) : a.KeepsCore (a.drainCounts g k sat nanz) g k := by
  have h0 : a.KeepsCore (if sat = 0 then a else (a.linc g F.CO_DRN_SAT_CNT_COUNT k sat).lw g F.CO_DRN_STATUS_SAT k 1) g k := by
    split
    · exact .refl ..
    · exact .linc_lw ..
  simp only [Channel.drainCounts]
  split
  · exact h0
  · exact h0.trans (.linc_lw ..)

theorem Channel.RowStage.statRow (a : Channel) (g k : Nat) (d : DrainOp) (i : Nat) (xs : List Num) :
    a.RowStage d (a.statRow g k d i xs) g k := by
  simp only [Channel.statRow]
  split
  · exact .skip ..
  · refine ⟨?_, rfl, rfl, rfl, rfl⟩
    dsimp only
    split
    · exact .refl ..
    · exact .linc_lw ..

theorem Channel.RowStage.mxStats (a : Channel) (g k : Nat) (d : DrainOp) (f : FmtWord) (i : Nat) (sO : Nat → Int)
    (more : Option (List (List Num))) : a.RowStage d (a.mxStats g k d f i sO more) g k := by
  simp only [Channel.mxStats]
  split
  · exact .skip ..
  · refine List.foldlRecOn _ _ (motive := fun x => a.RowStage d x g k) (.skip ..) fun x hx j _ => hx.trans ?_
    exact .after (.statN x.2 (j + 1)) (.statRow ..)

theorem Channel.RowStage.drainRow (a : Channel) (g k : Nat) (d : DrainOp) (p : DParam) (f : FmtWord) (cells : List Cell)
    (xs : List Num) (sO : Nat → Int) (more : Option (List (List Num))) :
    a.RowStage d (a.drainRow g k d p f cells xs sO more) g k := by
  simp only [Channel.drainRow]
  split
  · exact .after (.out ..) (.skip ..)
  · split
    · exact .after (.vals ..) (.mxStats ..)
    · have hc (e : DrainOp) (h : d.SameRow e) (ys : List Num) (sat nanz : Nat) :
          a.RowStage d ((a.drainCounts g k sat nanz).statRow g k e d.next ys) g k :=
        .trans (x := (a.drainCounts g k sat nanz, e)) ⟨.drainCounts .., h⟩ (.statRow ..)
      split
      · exact hc _ (.vals ..) ..
      · exact hc _ (.out ..) ..

theorem Channel.RowStage.drainLast (a : Channel) (g k : Nat) (d : DrainOp) (p : DParam) (f : FmtWord) (sO : List Int) :
    a.RowStage d ((a.drainLast g k d p f sO).1, (a.drainLast g k d p f sO).2.1) g k := by
  simp only [Channel.drainLast]
  split
  · exact .skip ..
  · split
    · exact .skip ..
    · split
      · refine ⟨?_, .refl _⟩
        dsimp only
        split
        · exact .refl ..
        · exact .drainCounts ..
      · exact .skip ..

/-- The next planned row of a started DRAIN may pass in this cycle: it is due, and released where it is read (R121, R133). -/
structure Channel.RowMayPass (ch : Channel) (g k : Nat) (d : DrainOp) (f : FmtWord) : Prop where
  first : (ch.core g k).drainQ.find? (fun d => d.start.isSome && !d.rowsDone) = some d
  fmt : (ch.lan g).fmt (bits d.w 21 16) = some f
  due : d.nextCy ≤ ch.cyc
  released : d.empty = false → d.next < d.rows →
    (ch.core g k).rowReleased d.seq (tSet d.w) (tRow0 d.w + d.next) ch.cyc = true

/-- A row below the run-time rows is read, and a later one passes over. -/
theorem Channel.RowStage.read (a : Channel) (g k : Nat) (d : DrainOp) (p : DParam) (f : FmtWord) (cells : List Cell)
    (xs : List Num) (sO : Nat → Int) (more : Option (List (List Num))) (reads : Bool) :
    a.RowStage d (if reads then a.drainRow g k d p f cells xs sO more else (a, d)) g k := by
  split
  · exact .drainRow ..
  · exact .skip ..

/-- A row that is not read has an empty statistics record (R129). -/
theorem Channel.RowStage.unread (a : Channel) (g k : Nat) (d : DrainOp) (i : Nat) (reads : Bool) :
    a.RowStage d (if reads then (a, d) else a.statRow g k d i []) g k := by
  split
  · exact .skip ..
  · exact .statRow ..

/-- What waits for the last planned row is formed at the last planned row. -/
theorem Channel.RowStage.last (a : Channel) (g k : Nat) (d : DrainOp) (p : DParam) (f : FmtWord) (sO : List Int) (last : Bool) :
    a.RowStage d ((if last then a.drainLast g k d p f sO else (a, d, [], [])).1,
      (if last then a.drainLast g k d p f sO else (a, d, [], [])).2.1) g k := by
  cases last
  · exact .skip ..
  · exact .drainLast ..

/-- A row that passes updates its DRAIN to one a row further, whose last D4 lies ahead; beside it the core does bookkeeping, and then
the drain path settles. -/
theorem Channel.drainRowRead_eq {ch : Channel} {g k : Nat} {d : DrainOp} {f : FmtWord} (h : ch.RowMayPass g k d f) (col : Nat)
    (chk : Check) : ∃ (a : Channel) (e : DrainOp), ch.drainRowRead g k col chk =
        (a.modCore g k fun co => { co.modDrain e.seq (fun _ => e) with lastD0 := some a.cyc }).drainSettle g k ∧
      ch.KeepsCore a g k ∧ e.seq = d.seq ∧ e.next = d.next + 1 ∧ e.lastD4 = ch.cyc + 4 ∧
      e.rowsDone = (d.next + 1 == tRows d.w) := by
  obtain ⟨hfirst, hfmt, hdue, hrel⟩ := h
  simp only [Channel.core] at hfirst hrel
  unfold Channel.drainRowRead
  extract_lets l co unit
  rw [hfirst]
  dsimp -zeta only
  extract_lets i row reads p ctx detail chR
  rw [hfmt]
  dsimp -zeta only
  rw [if_neg]
  · extract_lets chF dF cells scaled xs later more d0 d1 last at_ size e
    have hR : ch.KeepsCore chR g k := by
      subst chR
      split
      · exact .refl ..
      · cases chk
        · exact .refl ..
        · exact .raise ..
        · exact .raise ..
    have hF : ch.KeepsCore chF g k := hR.trans (.fmtErr ..)
    have hread (sO : Nat → Int) := Channel.RowStage.read chF g k d0 p f cells xs sO more reads
    have hrest (a : Channel) (sO : List Int) :=
      (Channel.RowStage.unread a g k d1 i reads).trans (.last _ g k _ p f sO last)
    exact ⟨_, e, rfl, hF.trans ((hread _).chan.trans (hrest _ _).chan), (hrest _ _).drain.seq.trans (hread _).drain.seq,
      (hrest _ _).drain.next, (hrest _ _).drain.lastD4.trans ((hread _).drain.lastD4.trans (congrArg (· + 4) hF.cyc)),
      congrArg (d.next + 1 == tRows ·) ((Channel.RowStage.unread _ g k d1 i reads).drain.w.trans (hread _).drain.w)⟩
  · rintro (hlt | ⟨hreads, hno⟩)
    · omega
    · simp only [reads, Bool.and_eq_true, Bool.not_eq_true', decide_eq_true_eq] at hreads
      simp [co, l, row, i, hrel hreads.1 hreads.2] at hno

/-- A row that passes leaves its DRAIN in the queue, one row further: its D4 is still to come. -/
theorem Channel.drainRowRead_core {ch : Channel} {g k : Nat} {d : DrainOp} {f : FmtWord} (h : ch.RowMayPass g k d f) (col : Nat)
    (chk : Check) : ((ch.drainRowRead g k col chk).core g k).lastD0 = some ch.cyc ∧
      (∃ x ∈ ((ch.drainRowRead g k col chk).core g k).drainQ,
        x.seq = d.seq ∧ x.next = d.next + 1 ∧ x.rowsDone = (d.next + 1 == tRows d.w)) ∧
      ((ch.drainRowRead g k col chk).core g k).acc = (ch.core g k).acc ∧
      ((ch.drainRowRead g k col chk).core g k).obuf = (ch.core g k).obuf := by
  obtain ⟨a, e, heq, ha, hseq, hnext, hlast, hdone⟩ := Channel.drainRowRead_eq h col chk
  obtain ⟨ts, ha'⟩ := ha.core
  obtain ⟨ts', gs, hs⟩ := Channel.drainSettle_core
    (a.modCore g k fun co => { co.modDrain e.seq (fun _ => e) with lastD0 := some a.cyc }) g k
  rw [Channel.core_modCore_self, ha'] at hs
  rw [heq, hs]
  refine ⟨congrArg some ha.cyc, ⟨e, List.mem_filter.2 ⟨?_, ?_⟩, hseq, hnext, hdone⟩, rfl, rfl⟩
  · exact List.mem_map.2 ⟨d, List.mem_of_find?_eq_some h.first, if_pos hseq.symm⟩
  · simp [DrainOp.finished, hlast, ha.cyc]

theorem Channel.CoreOnly.drainRowRead {ch : Channel} {g k : Nat} {d : DrainOp} {f : FmtWord} (h : ch.RowMayPass g k d f) (col : Nat)
    (chk : Check) : ch.CoreOnly (ch.drainRowRead g k col chk) g k := by
  obtain ⟨a, e, heq, ha, -⟩ := Channel.drainRowRead_eq h col chk
  rw [heq]
  exact ha.toCoreOnly.trans (.trans (.modCore ..) (.drainSettle ..))

/-! ### The commands -/

theorem exec_drainStart (c g k : Nat) (s : State) : exec (.drainStart c g k) s = s.onCore c g k fun ch => ch.drainStart g k := rfl

theorem exec_drainRowRead (c g k col : Nat) (chk : Check) (s : State) :
    exec (.drainRowRead c g k col chk) s = s.onCore c g k fun ch => ch.drainRowRead g k col chk := rfl

/-- A core that runs takes its command. -/
theorem State.CoreRuns.onCore {s : State} {c g k : Nat} (h : s.CoreRuns c g k) (u : Channel → Channel) :
    s.onCore c g k u = .next (s.setChan c (u (s.chan c))) := by
  obtain ⟨⟨⟨hc, hh⟩, hg, hr⟩, hk⟩ := h
  exact State.onCore_run hc hg hk hh hr u

theorem State.lan_chan_setChan (s : State) (c g : Nat) (ch : Channel) : ((s.setChan c ch).chan c).lan g = ch.lan g := by
  rw [State.chan_setChan_self]; rfl

theorem State.core_chan_setChan (s : State) (c g k : Nat) (ch : Channel) :
    ((s.setChan c ch).chan c).core g k = ch.core g k := by
  rw [State.chan_setChan_self]; rfl

theorem State.CoreOnly.setChan {s : State} {c g k : Nat} {ch : Channel} (h : (s.chan c).CoreOnly ch g k) :
    s.CoreOnly (s.setChan c ch) c g k :=
  ⟨fun x hx => by rw [State.lan_chan_setChan]; exact h.lans x hx, by rw [State.lan_chan_setChan]; exact h.rest⟩

/-- Settles O17: a start has one of three outcomes (`drainStart_eq`), and a row that passes leaves its DRAIN one row further
(`drainRowRead_eq`). -/
theorem drainReadsRows : Obligations.DrainReadsRows := by
  unfold Obligations.DrainReadsRows
  intro s c g k col chk d hrun
  refine ⟨fun hfirst hprev hafter hissued => ?_, fun f hfirst hfmt hdue hrel => ?_⟩
  · have h : (s.chan c).DrainMayStart g k d := ⟨hfirst, hprev, hafter, hissued⟩
    obtain ⟨hframe, hacc⟩ := Channel.drainStart_frame h
    refine ⟨_, (exec_drainStart ..).trans (hrun.onCore _), ?_, .setChan hframe, ?_⟩
    · rw [State.core_chan_setChan, hacc]
    · simp only [State.lan_chan_setChan, State.core_chan_setChan]
      cases hf : ((s.chan c).lan g).fmt (bits d.w 21 16) with
      | none =>
        rw [Channel.drainStart_eq h, hf]
        exact Channel.drainFail_outcome _ g k d.seq _ (by decide)
      | some f =>
        by_cases hv : drainInvalid d.w (((s.chan c).lan g).dparam (bits d.w 65 60)) f = true
        · simp only [Channel.drainStart_eq h, hf, if_pos hv]
          exact Channel.drainFail_outcome _ g k d.seq _ (by decide)
        · simp only [if_neg hv]
          exact Channel.drainStart_valid h hf hv
  · have h : (s.chan c).RowMayPass g k d f := ⟨hfirst, hfmt, hdue, hrel⟩
    obtain ⟨hlast, hrow, hacc, hobuf⟩ := Channel.drainRowRead_core h col chk
    refine ⟨_, (exec_drainRowRead ..).trans (hrun.onCore _), ?_⟩
    rw [State.core_chan_setChan]
    exact ⟨hlast, hrow, hacc, hobuf, .setChan (.drainRowRead h col chk)⟩

end Sys2Proof.Machine
end
